-- ==== Sys2Proof/Word.lean ====
section
/-!
DEFINITION. The word types of the Carow: bytes, 32-bit instruction words' 96-bit whole, 64-bit registers and
1024-bit vector registers (R2, R50, R60, R194).
-/
namespace Sys2Proof

/-- A byte of memory (R2). -/
abbrev Byte := BitVec 8

/-- A 64-bit g, f or control register (R60). -/
abbrev Word := BitVec 64

/-- A 1024-bit vector register (R194). -/
abbrev VWord := BitVec 1024

/-- A whole instruction word, bits [95:0] (R50). -/
abbrev InsnWord := BitVec 96

end Sys2Proof
end

