-- ==== Sys2Proof/Config.lean ====
section
/-!
DEFINITION. What an implementation of the Carow fixes and the spec leaves open: uninterpreted constants, with no body.
Each is a FREE VALUE: nothing in Lean can evaluate it, and a statement holds whatever it is (logs 3 and 4).
-/
namespace Sys2Proof.Config

/-- The n-th free choice between two allowed outcomes: whether a stale copy answers (R52, R259). -/
opaque freeBool : Nat → Bool

/-- The n-th sample of a level that nothing in the spec determines (R410), a slice's queue or a temperature; and the n-th choice
of a line that a full cache gives up (R260). -/
opaque freeLevel : Nat → Nat

/-- Whether a page of another module lacks a translation at an instant, for an access that runs ahead (R431). -/
opaque pageMissing : Nat → Nat → Bool

/-- The set of an L2 slice that a line belongs to, one of 128 (R10 gives the ways, not the index). -/
opaque l2Set : Nat → Nat

/-- The choice among the allowed results of a special function (R220), a fixed function of the function's number,
the type's width and the lane's input bits, the same in every lane, slot and core. -/
opaque specialChoice : Nat → Nat → Nat → Nat

/-- The byte of kamrun-ld's program header at an offset: where each field of the header stands is not in the
source (R48), so reading a header is an uninterpreted function of the 4,096 bytes from IMAGE, given as one
little-endian number; the answer is a list of numbers that Ops reads as fields, or none (R102 code 6). -/
opaque headerFields : Nat → Option (List Nat)

/-- The opaque parts of a context image (R439): the n-th byte of an opaque region. -/
opaque imageByte : Nat → Nat → BitVec 8

/-- The bytes of an attestation signature over a report (R415): report, offset. -/
opaque signatureByte : Nat → Nat → BitVec 8

/-- SHA-384 of configured data (R415): a number standing for the data, the byte's offset. -/
opaque digestByte : Nat → Nat → BitVec 8

/-- The length of an LMS signature in a report (R415). -/
opaque lmsLength : Nat

/-- The 32-byte nonce of a debug challenge (R417), for the n-th request. -/
opaque debugNonce : Nat → BitVec 256

/-- Whether the ECDSA and the LMS signature of a response written to DBGRESP verify (R417): challenge, response. -/
opaque responseOk : Nat → Nat → Bool × Bool

/-- The one-way latency of the route to a chip in ns (R397), while there is one. -/
opaque routeLatency : Nat → Nat

end Sys2Proof.Config
end

