-- ==== Sys2Proof/Syntax.lean ====
section
/-!
DEFINITION. The instructions and events of the Carow as data: one constructor of Instr per row of the opcode table.
An encoded instruction carries its common fields (Hdr, R53) and its operands by kind (R60); an event carries who it
concerns and the data the outside world brings with it.
-/
namespace Sys2Proof

/-! ## Common fields and operand kinds -/

/-- The cache hint, bits [76:75] (R53, R260). -/
inductive CacheHint where
  | none | keep | stream | noAlloc
  deriving DecidableEq, Repr

/-- The scheduling hint, bits [74:73] (R53, R84); 0b11 is malformed. -/
inductive SchedHint where
  | none | yield | heavy
  deriving DecidableEq, Repr

/-- The common fields of every instruction word (R53): guard sense, guard predicate, switch marker and the hints. -/
structure Hdr where
  gs : Bool
  gp : BitVec 4
  sw : Bool
  cache : CacheHint
  sched : SchedHint
  deriving DecidableEq, Repr

/-- Guard p0, no marker, no hints: the fields of a word with nothing written (R29, R30). -/
def Hdr.plain : Hdr := ⟨false, 0, false, .none, .none⟩

/-- Register numbers by kind (R60). -/
abbrev G := BitVec 5
abbrev F := BitVec 5
abbrev V := BitVec 5
abbrev P := BitVec 4
abbrev K := BitVec 3
abbrev YZ := BitVec 2

/-- An operand that may be a g or an f register (the rows marked g/f). -/
inductive GF where
  | g (n : G)
  | f (n : F)
  deriving DecidableEq, Repr

/-- The count operand of the vector shifts: a v or a g register (R70). -/
inductive VG where
  | v (n : V)
  | g (n : G)
  deriving DecidableEq, Repr

/-- The rounding field RM of form X (R57). -/
inductive Rm where
  | dyn | rne | rtz | rup | rdn
  deriving DecidableEq, Repr

/-- The scalar floating-point types (R69). -/
inductive FTy where
  | f64 | f32 | f16 | bf16
  deriving DecidableEq, Repr

/-- The type codes of R58. -/
inductive Ty where
  | none | s8 | s16 | s32 | s64 | s128 | z8 | z16 | z32 | z64 | z128
  | f64 | f32 | f16 | bf16 | e4m3 | e5m2 | e3m2 | e2m3 | e2m1 | rns10
  deriving DecidableEq, Repr

/-- The conditions CND of form X (R57). -/
inductive Cnd where
  | eq | ne | lt | le | gt | ge | un | ord
  deriving DecidableEq, Repr

/-- The mask sub-fields ME, KM and MZ of class 0x07 (R57). -/
structure VMask where
  me : Bool
  km : K
  mz : Bool
  deriving DecidableEq, Repr

/-- Access sizes of SZ (R74). -/
inductive Size where
  | b8 | b16 | b32 | b64
  deriving DecidableEq, Repr

/-- The scopes (R74, R300). -/
inductive Scope where
  | slot | core | tile | die | pkg | sys
  deriving DecidableEq, Repr

/-- A memory reference of form M: base, index, scale code and displacement (R33, R56). -/
structure MemRef where
  base : G
  index : G
  sc : BitVec 2
  disp : BitVec 48
  deriving DecidableEq, Repr

/-- The four kinds of the matrix array (R222). -/
inductive MKind where
  | fp64 | fp32 | wide | rns
  deriving DecidableEq, Repr

/-- The sub-fields of mmac (R244): types, sources (true: L2), B layout, four-bit inputs, row and column predicates. -/
structure MmacSub where
  ta : Ty
  tb : Ty
  sa : Bool
  sb : Bool
  bt : Bool
  a4 : Bool
  b4 : Bool
  ye : Bool
  ys : YZ
  ze : Bool
  zs : YZ
  zk : Bool
  deriving DecidableEq, Repr

/-- Widths of the integer atomics (R76). -/
inductive AmoW where
  | b32 | b64 | b128
  deriving DecidableEq, Repr

/-- Types of the floating-point atomics (R77). -/
inductive AmoF where
  | bf16 | bf16x2 | f32 | f32x2 | f64
  deriving DecidableEq, Repr

/-! ## Who an event concerns -/

/-- A physical tile: die × 128 + index on the die (R8). -/
abbrev TileId := Fin 512
/-- A slot of a tile, 0 to 31 (R39). -/
abbrev SlotId := Fin 32
/-- A PCIe function: 0 the physical function, v + 1 virtual function v (R8). -/
abbrev FnId := Fin 257
/-- A partition tag; 0 is no partition (R394). -/
abbrev Tag := BitVec 8
/-- A chip on Damfold Link (R17). -/
abbrev Chip := BitVec 12

/-- The two BARs of a function (R384). -/
inductive Bar where
  | bar0 | bar2
  deriving DecidableEq, Repr

/-- The kinds of access another module or a slot may ask for: of memory (R257), or of a post (R278, R281). -/
inductive AccKind where
  | load | store | amo | install | sample
  deriving DecidableEq, Repr

/-- An access from another module (R270): the address inside the target partition, its size in bytes, the data of a
store, or the operation, operand and compared value of an atomic. For a post the address is the post number, the size the
value's, and the data the value installed; a read names its part by the first byte in `op` and the number of bytes in `cmp`. -/
structure RemoteReq where
  kind : AccKind
  addr : Nat
  size : Nat
  data : Nat
  op : Nat
  cmp : Nat
  deriving DecidableEq, Repr

/-- An invocation on its way to a dispatcher (R377): its waybill, service, target waybill if any, arguments, which of
them are waybills, a result post bound with it, the sender, and the operations of the sender counted before it (R374). -/
structure Inv where
  wb : Word
  svc : BitVec 12
  target : Option Word
  args : List Word
  warg : BitVec 8
  post : Option (BitVec 32)
  sndChip : Chip
  sndTile : BitVec 16
  sndSlot : BitVec 5
  sndTag : Tag
  after : List Nat
  tags : List (Chip × Tag) := []
  deriving DecidableEq, Repr

/-- What a waybill came to (R358): its value and payload, or the root and cause of its break. -/
inductive WbOutcome where
  | resolved (value : Word) (len : Nat) (addr : Nat)
  | broken (root : Word) (code : Byte) (svcst : Byte) (depth : Nat)
  | dropped
  | stale
  deriving DecidableEq, Repr

/-- A message over Damfold Link (R459): what is done on delivery. `ttag` is the partition it reaches, and `back` the sender's where
something is to come back to it later. -/
inductive Msg where
  | access (ttag : Tag) (req : RemoteReq)
  | reply (t : TileId) (k : SlotId) (op : Nat) (ext : Nat)
  | invocation (ttag : Tag) (inv : Inv)
  | value (ttag : Tag) (wb : Word) (o : WbOutcome)
  | result (ttag : Tag) (post : BitVec 32) (wb : Word) (value : Word) (code svcst : Byte) (bytes : Nat) (root : Word)
  | payload (ttag : Tag) (addr size data : Nat)
  | bind (ttag back : Tag) (wb : Word) (post : BitVec 32) (limit buf : Nat)
  | drop (ttag : Tag) (wb : Word)
  /-- to an invocation's sender: a waybill that it names does not match at its home (R376) -/
  | stale (ttag : Tag) (inv wb : Word)
  /-- the value of a waybill that a dispatcher's invocation names (R369), and what `wbstate` or `wbcause` asks for (R378) -/
  | ask (ttag back : Tag) (wb : Word)
  | query (ttag : Tag) (wb : Word) (cause : Bool) (item : BitVec 2)
  /-- the kill of a train's job (R423) -/
  | jobKill (ttag : Tag) (train : Nat)
  deriving DecidableEq, Repr

/-- What a translation of a host page permits (R269). -/
structure PagePerm where
  rd : Bool
  w : Bool
  deriving DecidableEq, Repr

/-- The answer for one page of a batch (R433, R434), under the tag of its request: a translation of 64 KiB or 2 MiB with its
permissions, or a failure with its INFO. -/
structure PageAnswer where
  page : Nat
  ok : Bool
  large : Bool
  perm : PagePerm
  info : Byte
  group : BitVec 9
  deriving DecidableEq, Repr

/-- What a soft error hits (R427, R428): HBM, a tile store, a register, a post line, a line of the pin buffer, a view line in a
slice, or a line in a die's remote-data cache, the last two by partition and address. -/
inductive SoftTarget where
  | hbm (group : Fin 512) (off : Nat)
  | store (t : TileId) (off : Nat)
  | reg (t : TileId) (k : SlotId) (code : BitVec 7)
  | post (num : BitVec 32) (off : Nat)
  | pin (t : TileId) (line : Nat)
  | view (tag : Tag) (addr : Nat)
  | rdc (tag : Tag) (die : Fin 4) (addr : Nat)
  deriving DecidableEq, Repr

/-- An image or record offered at boot (R413): whether each signature verifies, its security version, whether it
raises the anti-rollback counter, and its bytes as a number. -/
structure BootObj where
  ecdsa : Bool
  lms : Bool
  version : Nat
  marked : Bool
  content : Nat
  deriving DecidableEq, Repr

/-- What a debugger may do (R418): an invasive one the first eight; `read` and `readCsr` at either level. Registers go by operand
code (R60). -/
inductive DbgAct where
  | halt (t : TileId)
  | step (t : TileId) (k : SlotId)
  | writeG (t : TileId) (k : SlotId) (n : G) (v : Word)
  | writePc (t : TileId) (k : SlotId) (v : Word)
  | arm (on : Bool)
  | release (t : TileId)
  | write (t : TileId) (k : SlotId) (code : BitVec 7) (v : Nat)
  | writeCsr (t : TileId) (k : SlotId) (csr : BitVec 12) (v : Word)
  | read (t : TileId) (k : SlotId) (code : BitVec 7)
  | readCsr (t : TileId) (k : SlotId) (csr : BitVec 12)
  deriving DecidableEq, Repr

/-- Which monitor a CFG write reaches (R412): a hub monitor, or the slice monitor that MONSEL selects. -/
inductive MonSel where
  | hub (h : Fin 16)
  | slice
  deriving DecidableEq, Repr

/-! ## The instructions and events -/

/-- One constructor per row of spec/opcode_table.json. `h` is the common fields, `w` is W of class 0x03 (true: `.b32`),
`n` of an atomic is the no-return form. -/
inductive Instr where
  -- class 0x00
  | nop (h : Hdr)
  | trap (h : Hdr) (imm : BitVec 12)
  | eret (h : Hdr)
  | csrr (h : Hdr) (d : G) (csr : BitVec 12)
  | csrw (h : Hdr) (d : G) (csr : BitVec 12) (a : G)
  | csrs (h : Hdr) (d : G) (csr : BitVec 12) (a : G)
  | csrc (h : Hdr) (d : G) (csr : BitVec 12) (a : G)
  | brk (h : Hdr) (imm : BitVec 16)
  | ifence (h : Hdr)
  -- class 0x01
  | bra (h : Hdr) (off : BitVec 52)
  | call (h : Hdr) (d : G) (off : BitVec 52)
  | ret (h : Hdr) (a : G)
  | jmpi (h : Hdr) (d : G) (a : G)
  | loop (h : Hdr) (d : G) (off : BitVec 52)
  | rdone (h : Hdr)
  -- class 0x02
  | sstart (h : Hdr) (a b : G)
  | sstop (h : Hdr) (a : G)
  | sbar (h : Hdr) (a : G)
  | launch (h : Hdr) (d a : G) (c : P)
  | lfin (h : Hdr) (a : G)
  | cancel (h : Hdr) (a b : G)
  | ccount (h : Hdr) (d a b : G)
  -- class 0x03
  | add (h : Hdr) (w : Bool) (d a b : G)
  | sub (h : Hdr) (w : Bool) (d a b : G)
  | mul (h : Hdr) (w : Bool) (d a b : G)
  | mulh (h : Hdr) (w : Bool) (d a b : G)
  | mulhz (h : Hdr) (w : Bool) (d a b : G)
  | div (h : Hdr) (w : Bool) (d a b : G)
  | divz (h : Hdr) (w : Bool) (d a b : G)
  | rem (h : Hdr) (w : Bool) (d a b : G)
  | remz (h : Hdr) (w : Bool) (d a b : G)
  | and (h : Hdr) (w : Bool) (d a b : G)
  | or (h : Hdr) (w : Bool) (d a b : G)
  | xor (h : Hdr) (w : Bool) (d a b : G)
  | andn (h : Hdr) (w : Bool) (d a b : G)
  | orn (h : Hdr) (w : Bool) (d a b : G)
  | shl (h : Hdr) (w : Bool) (d a b : G)
  | shr (h : Hdr) (w : Bool) (d a b : G)
  | sha (h : Hdr) (w : Bool) (d a b : G)
  | rot (h : Hdr) (w : Bool) (d a b : G)
  | min (h : Hdr) (w : Bool) (d a b : G)
  | max (h : Hdr) (w : Bool) (d a b : G)
  | minz (h : Hdr) (w : Bool) (d a b : G)
  | maxz (h : Hdr) (w : Bool) (d a b : G)
  | clz (h : Hdr) (w : Bool) (d a : G)
  | ctz (h : Hdr) (w : Bool) (d a : G)
  | popc (h : Hdr) (w : Bool) (d a : G)
  | bfx (h : Hdr) (w : Bool) (d a b c : G)
  | bfxs (h : Hdr) (w : Bool) (d a b c : G)
  | bfi (h : Hdr) (w : Bool) (d a b c e : G)
  | sel (h : Hdr) (w : Bool) (d a b : G) (c : P)
  | mad (h : Hdr) (w : Bool) (d a b c : G)
  | bswap (h : Hdr) (w : Bool) (d a : G)
  | cmpEq (h : Hdr) (w : Bool) (d : P) (a b : G)
  | cmpNe (h : Hdr) (w : Bool) (d : P) (a b : G)
  | cmpLt (h : Hdr) (w : Bool) (d : P) (a b : G)
  | cmpGe (h : Hdr) (w : Bool) (d : P) (a b : G)
  | cmpLtz (h : Hdr) (w : Bool) (d : P) (a b : G)
  | cmpGez (h : Hdr) (w : Bool) (d : P) (a b : G)
  -- class 0x04
  | addi (h : Hdr) (w : Bool) (d a : G) (imm : BitVec 52)
  | shli (h : Hdr) (w : Bool) (d a : G) (n : BitVec 6)
  | shri (h : Hdr) (w : Bool) (d a : G) (n : BitVec 6)
  | shai (h : Hdr) (w : Bool) (d a : G) (n : BitVec 6)
  | movi (h : Hdr) (d : G) (imm : BitVec 52)
  | movhi (h : Hdr) (d a : G) (imm : BitVec 12)
  | cmpiEq (h : Hdr) (d : P) (a : G) (imm : BitVec 52)
  | cmpiNe (h : Hdr) (d : P) (a : G) (imm : BitVec 52)
  | cmpiLt (h : Hdr) (d : P) (a : G) (imm : BitVec 52)
  | cmpiGe (h : Hdr) (d : P) (a : G) (imm : BitVec 52)
  | cmpiLtz (h : Hdr) (d : P) (a : G) (imm : BitVec 52)
  | cmpiGez (h : Hdr) (d : P) (a : G) (imm : BitVec 52)
  | lea (h : Hdr) (d : G) (m : MemRef)
  -- class 0x05
  | pand (h : Hdr) (d a b : P)
  | por (h : Hdr) (d a b : P)
  | pxor (h : Hdr) (d a b : P)
  | pnot (h : Hdr) (d a : P)
  | pmov (h : Hdr) (d a : P)
  -- class 0x06
  | fadd (h : Hdr) (t : FTy) (rm : Rm) (d a b : F)
  | fsub (h : Hdr) (t : FTy) (rm : Rm) (d a b : F)
  | fmul (h : Hdr) (t : FTy) (rm : Rm) (d a b : F)
  | ffma (h : Hdr) (t : FTy) (rm : Rm) (d a b c : F)
  | ffms (h : Hdr) (t : FTy) (rm : Rm) (d a b c : F)
  | fnma (h : Hdr) (t : FTy) (rm : Rm) (d a b c : F)
  | fdiv (h : Hdr) (t : FTy) (rm : Rm) (d a b : F)
  | fsqrt (h : Hdr) (t : FTy) (rm : Rm) (d a : F)
  | fmin (h : Hdr) (t : FTy) (d a b : F)
  | fmax (h : Hdr) (t : FTy) (d a b : F)
  | fabs (h : Hdr) (t : FTy) (d a : F)
  | fneg (h : Hdr) (t : FTy) (d a : F)
  | fsgn (h : Hdr) (t : FTy) (d a b : F)
  | fcmp (h : Hdr) (t : FTy) (cnd : Cnd) (d : P) (a b : F)
  | fclass (h : Hdr) (t : FTy) (d : G) (a : F)
  | fcvt (h : Hdr) (td ts : FTy) (rm : Rm) (d a : F)
  | fcvti (h : Hdr) (td : Ty) (ts : FTy) (rm : Rm) (d : G) (a : F)
  | icvtf (h : Hdr) (td : FTy) (ts : Ty) (rm : Rm) (d : F) (a : G)
  | fmov (h : Hdr) (d a : GF)
  -- class 0x07
  | vadd (h : Hdr) (t : Ty) (rm : Rm) (m : VMask) (d a b : V)
  | vsub (h : Hdr) (t : Ty) (rm : Rm) (m : VMask) (d a b : V)
  | vmul (h : Hdr) (t : Ty) (rm : Rm) (m : VMask) (d a b : V)
  | vfma (h : Hdr) (t : Ty) (rm : Rm) (m : VMask) (d a b c : V)
  | vfms (h : Hdr) (t : Ty) (rm : Rm) (m : VMask) (d a b c : V)
  | vmin (h : Hdr) (t : Ty) (m : VMask) (d a b : V)
  | vmax (h : Hdr) (t : Ty) (m : VMask) (d a b : V)
  | vabs (h : Hdr) (t : Ty) (m : VMask) (d a : V)
  | vneg (h : Hdr) (t : Ty) (m : VMask) (d a : V)
  | vand (h : Hdr) (t : Ty) (m : VMask) (d a b : V)
  | vor (h : Hdr) (t : Ty) (m : VMask) (d a b : V)
  | vxor (h : Hdr) (t : Ty) (m : VMask) (d a b : V)
  | vshl (h : Hdr) (t : Ty) (m : VMask) (d a : V) (b : VG)
  | vshr (h : Hdr) (t : Ty) (m : VMask) (d a : V) (b : VG)
  | vsha (h : Hdr) (t : Ty) (m : VMask) (d a : V) (b : VG)
  | vcmp (h : Hdr) (t : Ty) (cnd : Cnd) (m : VMask) (d : K) (a b : V)
  | vsel (h : Hdr) (t : Ty) (d a b : V) (c : K)
  | vcvt (h : Hdr) (td ts : Ty) (rm : Rm) (m : VMask) (d a : V)
  | vbcast (h : Hdr) (t : Ty) (m : VMask) (d : V) (a : GF)
  | vmovg (h : Hdr) (t : Ty) (d : V) (a b : G)
  | vext (h : Hdr) (t : Ty) (d : GF) (a : V) (b : G)
  | vperm (h : Hdr) (t : Ty) (m : VMask) (d a b : V)
  | vredadd (h : Hdr) (t : Ty) (rm : Rm) (m : VMask) (d : GF) (a : V)
  | vredmax (h : Hdr) (t : Ty) (m : VMask) (d : GF) (a : V)
  | vredmin (h : Hdr) (t : Ty) (m : VMask) (d : GF) (a : V)
  | vrcp (h : Hdr) (t : FTy) (m : VMask) (d a : V)
  | vrsq (h : Hdr) (t : FTy) (m : VMask) (d a : V)
  | vexp2 (h : Hdr) (t : FTy) (m : VMask) (d a : V)
  | vlog2 (h : Hdr) (t : FTy) (m : VMask) (d a : V)
  | vsin (h : Hdr) (t : FTy) (m : VMask) (d a : V)
  | vcos (h : Hdr) (t : FTy) (m : VMask) (d a : V)
  | vtanh (h : Hdr) (t : FTy) (m : VMask) (d a : V)
  -- class 0x08
  | kand (h : Hdr) (d a b : K)
  | kor (h : Hdr) (d a b : K)
  | knot (h : Hdr) (d a : K)
  | kpop (h : Hdr) (d : G) (a : K)
  -- class 0x09
  | sbind (h : Hdr) (d : BitVec 3) (a : G)
  | sfree (h : Hdr) (d : BitVec 3)
  | srep (h : Hdr)
  | sstat (h : Hdr) (d : G) (a : BitVec 3)
  -- class 0x0A
  | mzero (h : Hdr) (c : YZ) (kind : MKind)
  | mmac (h : Hdr) (c : YZ) (a b : G) (sub : MmacSub)
  | mdrain (h : Hdr) (c : YZ) (d : G) (p : P) (td : Ty) (zr : Bool)
  | mldt (h : Hdr) (c : YZ) (a : G) (kind : MKind) (ts : Ty)
  | mfetch (h : Hdr) (a b : G)
  | msety (h : Hdr) (d : YZ) (a : G) (ad : Bool)
  | msetz (h : Hdr) (d : YZ) (a : G) (ad : Bool)
  | mbound (h : Hdr) (c : YZ) (d a : G)
  | mcfg (h : Hdr) (a : G)
  | dbar (h : Hdr)
  -- matrix events
  | gangForm (t : TileId)
  | gangStart (t : TileId)
  | gangComplete (t : TileId)
  | quarterOpPerform (t : TileId) (q : Fin 4) (n : Nat)
  | pinLineFetch (t : TileId)
  -- class 0x0B
  | ld (h : Hdr) (sz : Size) (d : GF) (m : MemRef)
  | ldSigned (h : Hdr) (sz : Size) (d : G) (m : MemRef)
  | ldB128 (h : Hdr) (d : G) (m : MemRef)
  | st (h : Hdr) (sz : Size) (m : MemRef) (d : GF)
  | stB128 (h : Hdr) (m : MemRef) (d : G)
  | pref (h : Hdr) (m : MemRef)
  | flush (h : Hdr) (m : MemRef)
  | vld (h : Hdr) (d : V) (m : MemRef)
  | vst (h : Hdr) (m : MemRef) (d : V)
  | vgather (h : Hdr) (d : V) (a : G) (b : V) (sc : BitVec 2) (disp : BitVec 48)
  | vscatter (h : Hdr) (d : V) (a : G) (b : V) (sc : BitVec 2) (disp : BitVec 48)
  | ldacq (h : Hdr) (sz : Size) (sco : Scope) (d : G) (m : MemRef)
  | strel (h : Hdr) (sz : Size) (sco : Scope) (m : MemRef) (d : G)
  -- class 0x0C
  | waitcL (h : Hdr) (n : BitVec 16)
  | waitcS (h : Hdr) (n : BitVec 16)
  | mwait (h : Hdr) (d : P) (a b c : G)
  | mwaitPoll (t : TileId) (k : SlotId) (ext : Word)
  | mwaitLimitExpiry (t : TileId) (k : SlotId)
  -- class 0x0D
  | amoadd (h : Hdr) (w : AmoW) (n : Bool) (a d b : G)
  | amoand (h : Hdr) (w : AmoW) (n : Bool) (a d b : G)
  | amoor (h : Hdr) (w : AmoW) (n : Bool) (a d b : G)
  | amoxor (h : Hdr) (w : AmoW) (n : Bool) (a d b : G)
  | amomin (h : Hdr) (w : AmoW) (n : Bool) (a d b : G)
  | amomax (h : Hdr) (w : AmoW) (n : Bool) (a d b : G)
  | amominz (h : Hdr) (w : AmoW) (n : Bool) (a d b : G)
  | amomaxz (h : Hdr) (w : AmoW) (n : Bool) (a d b : G)
  | amoswp (h : Hdr) (w : AmoW) (n : Bool) (a d b : G)
  | amocas (h : Hdr) (w : AmoW) (n : Bool) (a d b c : G)
  -- class 0x0E
  | amofadd (h : Hdr) (t : AmoF) (n : Bool) (a : G) (d b : GF)
  | amofmin (h : Hdr) (t : AmoF) (n : Bool) (a : G) (d b : GF)
  | amofmax (h : Hdr) (t : AmoF) (n : Bool) (a : G) (d b : GF)
  | atomicPerform (t : TileId) (k : SlotId) (op : Nat) (ext : Nat)
  | replayHoldRelease (t : TileId) (k : SlotId) (op : Nat)
  | replayTimeout (t : TileId) (k : SlotId) (op : Nat)
  -- class 0x0F
  | cpy (h : Hdr) (ch : YZ) (st : Bool) (sco : Scope) (sstr dstr : BitVec 16) (d a b c : G)
  | cpybt (h : Hdr) (ch : YZ) (st : Bool) (sco : Scope) (nblk : BitVec 8) (d a b c e : G)
  | cpchain (h : Hdr) (a b : G)
  | cpwp (h : Hdr) (d a : G)
  | cpstat (h : Hdr) (d a : G)
  | copyCommandStart (t : TileId) (ch : Fin 4)
  | copyPieceWrite (t : TileId) (ch : Fin 4) (ext : Nat)
  | copyStampWrite (t : TileId) (ch : Fin 4)
  | chainRecordRead (t : TileId) (ch : Fin 4) (ext : Nat)
  | copyChannelHalt (t : TileId) (ch : Fin 4) (code : Byte)
  -- class 0x10
  | pput (h : Hdr) (a b : G)
  | pputv (h : Hdr) (a : G) (b : V)
  | pputg (h : Hdr) (a b : G)
  | pget (h : Hdr) (d a b : G)
  | pgetv (h : Hdr) (d : V) (a c : G) (line : BitVec 6)
  | pgetg (h : Hdr) (d a c : G) (quad : BitVec 11)
  | pfresh (h : Hdr) (d a : G)
  | pwatch (h : Hdr) (a b : G)
  | postCommit (t : TileId) (k : SlotId) (op : Nat) (ext : Nat)
  | postSample (t : TileId) (k : SlotId) (op : Nat) (extF : Word) (extV : Nat) (refused : Bool)
  -- class 0x11
  | invoke (h : Hdr) (d a b c : G) (svc : BitVec 12) (narg : BitVec 4) (warg : BitVec 8) (tw rp : Bool)
  | wbstate (h : Hdr) (d a : G) (item : BitVec 2)
  | wbbind (h : Hdr) (a b : G)
  | wbdrop (h : Hdr) (a : G)
  | wbcause (h : Hdr) (d a : G) (item : BitVec 2)
  -- class 0x12
  | time (h : Hdr) (d : G)
  | ttab (h : Hdr) (a b : G)
  | tstat (h : Hdr) (d a : G)
  -- slots, rounds and launches
  | longResultReturn (t : TileId) (k : SlotId) (op : Nat) (part : Nat) (ext : Nat)
  | storePerformed (t : TileId) (k : SlotId) (op : Nat) (part : Nat) (ext : Nat)
  | slotResume (t : TileId) (k : SlotId)
  | deferredTrap (t : TileId) (k : SlotId)
  | roundTimerExpiry (t : TileId)
  | launchProcessorTurn
  | launchComplete (tag : Tag) (e : Byte)
  | phaseStartInstant (tag : Tag) (n : BitVec 10)
  | phaseEnd (tag : Tag) (n : BitVec 10)
  -- page faults and remote accesses
  | runAheadStart (t : TileId) (k : SlotId) (small : Bool)
  | pageRequestTimeout (t : TileId) (k : SlotId)
  -- the host
  | teardownComplete (tag : Tag)
  | attestationReportDone (fn : FnId)
  | timeSliceEnd (tag : Tag)
  | preemptStop (tag : Tag)
  | contextSaveComplete (tag : Tag)
  | contextRestore (tag : Tag)
  -- waybills
  | dispatcherInvocationArrive (tag : Tag) (inv : Inv)
  | dispatcherHandOut (tag : Tag) (n : Nat)
  | donePostScan (tag : Tag)
  | resultTransfer (slot : BitVec 20) (n : Nat)
  | jobEndReport (chip : Chip) (wbs : List Word)
  -- the time base and trains
  | holdoverEntry
  | clockLost
  | timetableFire (tag : Tag) (n : Byte)
  | haltBeaconSend (tag : Tag) (n : Byte)
  | verdictSend (tag : Tag) (n : Byte)
  | leadFailover (tag : Tag) (n : Byte)
  -- soft errors, boot, power, debug, links
  | packageWake
  -- events that only the outside world brings
  | hostPostedWrite (fn : FnId) (bar : Bar) (addr : Nat) (bytes : List Byte)
  | orderingPointSend (fn : FnId)
  | routeAcknowledge (fn : FnId) (die : Fin 4)
  | hostRead (fn : FnId) (bar : Bar) (addr : Nat) (n : Nat)
  | hostAtomicopInbound (fn : FnId)
  | hostCompletionTimeout (t : TileId) (k : SlotId) (op : Nat)
  | functionLevelReset (fn : FnId)
  | ptpSync (pps : Bool) (offset : Int)
  | remoteAccessReceive (src : Chip) (tag : Tag) (req : RemoteReq)
  | remotePageRequestReceive (tag : Tag) (src : Chip) (ptag : BitVec 16) (addr : Word) (w : Bool)
  | trainFlitReceive (port : Fin 12) (tag : Tag) (src : Chip) (epoch : Byte) (msg : Msg)
  | correctedSoftError (tgt : SoftTarget)
  | uncorrectedSoftError (tgt : SoftTarget)
  | boot (images : List BootObj) (record : BootObj) (chip : Chip) (sec : BitVec 2)
  | linkRouteLoss (chip : Chip)
  | waybillValueArrive (tag : Tag) (wb : Word) (o : WbOutcome)
  | haltBeaconReceive (tag : Tag) (n : Byte) (src : Chip) (leave : Bool)
  | grantRequestReceive (src : Chip) (tag : Tag) (n : Nat)
  | invasiveDebugAccess (tag : Tag) (act : DbgAct)
  | throttleChange (tag : Tag) (theta : BitVec 16)
  | thermalShutdown
  | accessConfirmed (t : TileId) (k : SlotId) (op : Nat) (large : Bool) (perm : PagePerm)
  | pageBatchAnswered (t : TileId) (k : SlotId) (launch : BitVec 32) (ctx : BitVec 16) (answers : List PageAnswer)
  | copyPageRequestAnswer (t : TileId) (ch : Fin 4) (ans : PageAnswer)
  | rempfrsp (fn : FnId) (v : Word)
  | lsubmit (fn : FnId) (v : Word)
  | regionEnable (fn : FnId) (n : Fin 16) (v : Word)
  | regionDisable (fn : FnId) (n : Fin 16) (v : Word)
  | protectionRangeWrite (fn : FnId) (n : Fin 8) (hi : Bool) (v : Word)
  | reminv (fn : FnId)
  | orderLogConfigWrite (fn : FnId) (r : Fin 3) (v : Word)
  | partitionEnable
  | partitionDisable
  | clearMapScrub (ch : Fin 512)
  | qcfgWrite (q : Fin 64) (v : Word)
  | vfbindWrite (vf : BitVec 8) (v : Word)
  | vfCtxbaseWrite (vf : BitVec 8) (v : Word)
  | monitorCfgWrite (fn : FnId) (m : MonSel) (v : Word)
  | monsel (fn : FnId) (v : Word)
  | attreq (fn : FnId) (v : Word)
  | dbgreq (fn : FnId) (v : Word)
  | dbgresp (fn : FnId) (ecdsa lms : Bool)
  | tbcfgWrite (v : Word)
  | timetableWindowCommit (fn : FnId) (n : Byte)
  | flrstatRead (vf : BitVec 8)
  | bar0RegisterWrite (fn : FnId) (off : BitVec 20) (v : Word)
  | grantArrive (tag : Tag) (chip : Chip) (grants : List (BitVec 20 × BitVec 24))
  | actionBeaconReceive (tag : Tag) (n : Byte) (free : Bool)
  | verdictReceive (tag : Tag) (n : Byte) (missing : List Chip)
  deriving DecidableEq, Repr

end Sys2Proof
end

