-- ==== Sys2Proof/WellFormed.lean ====
section
/-!
DEFINITION. Which instructions are well formed: the limits that R55, R57, R61, R66 to R78, R211, R217, R244, R352 and
R377 put on the operands of a word, and simple limits on the data of an event.
-/
namespace Sys2Proof

/-- The group I of R211. -/
def Ty.isI : Ty → Bool
  | .s8 | .s16 | .s32 | .s64 | .z8 | .z16 | .z32 | .z64 => true
  | _ => false

/-- The group F of R211. -/
def Ty.isF : Ty → Bool
  | .f64 | .f32 | .f16 | .bf16 => true
  | _ => false

/-- The five narrow storage formats (R217). -/
def Ty.isNarrow : Ty → Bool
  | .e4m3 | .e5m2 | .e3m2 | .e2m3 | .e2m1 => true
  | _ => false

/-- Any integer type code (R58). -/
def Ty.isInt : Ty → Bool
  | .s8 | .s16 | .s32 | .s64 | .s128 | .z8 | .z16 | .z32 | .z64 | .z128 => true
  | _ => false

/-- Types that most lanewise instructions accept: I and F (R211). -/
def Ty.isIF (t : Ty) : Bool := t.isI || t.isF

/-- Types of vabs and vneg (R211). -/
def Ty.isAbs : Ty → Bool
  | .s8 | .s16 | .s32 | .s64 | .f64 | .f32 | .f16 | .bf16 => true
  | _ => false

/-- Types of vcmp (R211). -/
def Ty.isCmp : Ty → Bool
  | .s16 | .s32 | .s64 | .z16 | .z32 | .z64 | .f64 | .f32 | .f16 | .bf16 => true
  | _ => false

/-- Integer types of fcvti and icvtf (R182). -/
def Ty.isFI : Ty → Bool
  | .s32 | .s64 | .z32 | .z64 => true
  | _ => false

/-- Width in bits of a lane of the type (R194); 0 for no type. -/
def Ty.width : Ty → Nat
  | .none => 0
  | .s8 | .z8 | .e4m3 | .e5m2 => 8
  | .s16 | .z16 | .f16 | .bf16 => 16
  | .s32 | .z32 | .f32 | .rns10 => 32
  | .s64 | .z64 | .f64 => 64
  | .s128 | .z128 => 128
  | .e3m2 | .e2m3 => 6
  | .e2m1 => 4

/-- The pairs that vcvt accepts (R217). -/
def vcvtPair (td ts : Ty) : Bool :=
  td != ts &&
  ((td.isIF && ts.isIF && (td.width ≥ 16 || ts.width ≥ 16 || (td.width == 8 && ts.width == 8))) ||
   (ts.isNarrow && td.isF) || (ts.isF && td.isNarrow) ||
   (td == .rns10 && (ts == .s32 || ts == .s64)) ||
   (ts == .rns10 && (td == .s32 || td == .s64 || td == .f32 || td == .f64)))

/-- Types of mmac inputs (R244). -/
def Ty.isMmac : Ty → Bool
  | .f64 | .f32 | .f16 | .bf16 | .e4m3 | .e5m2 | .e3m2 | .e2m3 | .e2m1 | .s8 | .z8 => true
  | _ => false

/-- s8 and z8, the types that A4 and B4 go with (R244). -/
def Ty.is8 : Ty → Bool
  | .s8 | .z8 => true
  | _ => false

/-- Result types of mdrain (R244). -/
def Ty.isDrain : Ty → Bool
  | .s32 | .f64 | .f32 | .f16 | .bf16 => true
  | _ => false

/-- Source types of mldt for each kind (R244). -/
def mldtPair : MKind → Ty → Bool
  | .fp64, .f64 => true
  | .fp32, .f32 => true
  | .wide, .f32 => true
  | .rns, .s32 => true
  | .rns, .rns10 => true
  | _, _ => false

/-- The register code is even (R61). -/
def even5 (n : BitVec 5) : Bool := n.toNat % 2 == 0

/-- un and ord go with floating-point types alone (R57). -/
def cndOk (t : Ty) (c : Cnd) : Bool := t.isF || (c != .un && c != .ord)

/-- RM is 0b000 with an integer type (R213). -/
def rmOk (t : Ty) (rm : Rm) : Bool := !t.isInt || rm == .dyn

/-- No cache hint (R55). -/
def Hdr.noCache (h : Hdr) : Bool := h.cache == .none

/-- In the no-return form D is zero (R76, R77). -/
def amoOk (w : AmoW) (n : Bool) (d : G) : Bool := w != .b128 && (!n || d == 0)

/-- The D of a floating-point atomic in the no-return form is the code 0, that is g0 (R77). -/
def amofOk (n : Bool) (d : GF) : Bool := !n || d == .g 0

/-- The well-formed instructions: exactly those whose words pass the checks of R62; an event is well formed when
the sizes of its data are possible. -/
def Instr.wf : Instr → Bool
  | .nop h | .eret h | .ifence h | .rdone h | .srep h => h.noCache
  | .trap h _ => h.noCache
  | .brk h _ => h.noCache
  | .csrr h _ _ => h.noCache
  | .csrw h _ _ _ | .csrs h _ _ _ | .csrc h _ _ _ => h.noCache
  | .bra h _ => h.noCache
  | .call h _ _ | .loop h _ _ => h.noCache
  | .ret h _ => h.noCache
  | .jmpi h _ _ => h.noCache
  | .sstart h _ _ | .cancel h _ _ => h.noCache
  | .sstop h _ | .sbar h _ | .lfin h _ => h.noCache
  | .launch h _ _ _ => h.noCache
  | .ccount h _ _ _ => h.noCache
  | .add h _ _ _ _ | .sub h _ _ _ _ | .mul h _ _ _ _ | .mulh h _ _ _ _ | .mulhz h _ _ _ _
  | .div h _ _ _ _ | .divz h _ _ _ _ | .rem h _ _ _ _ | .remz h _ _ _ _ | .and h _ _ _ _
  | .or h _ _ _ _ | .xor h _ _ _ _ | .andn h _ _ _ _ | .orn h _ _ _ _ | .shl h _ _ _ _
  | .shr h _ _ _ _ | .sha h _ _ _ _ | .rot h _ _ _ _ | .min h _ _ _ _ | .max h _ _ _ _
  | .minz h _ _ _ _ | .maxz h _ _ _ _ => h.noCache
  | .clz h _ _ _ | .ctz h _ _ _ | .popc h _ _ _ | .bswap h _ _ _ => h.noCache
  | .bfx h _ _ _ _ _ | .bfxs h _ _ _ _ _ | .mad h _ _ _ _ _ => h.noCache
  | .bfi h _ _ _ _ _ _ => h.noCache
  | .sel h _ _ _ _ _ => h.noCache
  | .cmpEq h _ _ _ _ | .cmpNe h _ _ _ _ | .cmpLt h _ _ _ _ | .cmpGe h _ _ _ _ | .cmpLtz h _ _ _ _
  | .cmpGez h _ _ _ _ => h.noCache
  | .addi h _ _ _ _ => h.noCache
  | .shli h w _ _ n | .shri h w _ _ n | .shai h w _ _ n => h.noCache && (!w || n.toNat < 32)
  | .movi h _ _ => h.noCache
  | .movhi h _ _ _ => h.noCache
  | .cmpiEq h _ _ _ | .cmpiNe h _ _ _ | .cmpiLt h _ _ _ | .cmpiGe h _ _ _ | .cmpiLtz h _ _ _
  | .cmpiGez h _ _ _ => h.noCache
  | .lea h _ _ => h.noCache
  | .pand h _ _ _ | .por h _ _ _ | .pxor h _ _ _ => h.noCache
  | .pnot h _ _ | .pmov h _ _ => h.noCache
  | .fadd h _ _ _ _ _ | .fsub h _ _ _ _ _ | .fmul h _ _ _ _ _ | .fdiv h _ _ _ _ _ => h.noCache
  | .ffma h _ _ _ _ _ _ | .ffms h _ _ _ _ _ _ | .fnma h _ _ _ _ _ _ => h.noCache
  | .fsqrt h _ _ _ _ => h.noCache
  | .fmin h _ _ _ _ | .fmax h _ _ _ _ | .fsgn h _ _ _ _ => h.noCache
  | .fabs h _ _ _ | .fneg h _ _ _ => h.noCache
  | .fcmp h _ _ _ _ _ => h.noCache
  | .fclass h _ _ _ => h.noCache
  | .fcvt h td ts _ _ _ => h.noCache && td != ts
  | .fcvti h td _ _ _ _ => h.noCache && td.isFI
  | .icvtf h _ ts _ _ _ => h.noCache && ts.isFI
  | .fmov h _ _ => h.noCache
  | .vadd h t rm _ _ _ _ | .vsub h t rm _ _ _ _ | .vmul h t rm _ _ _ _ => h.noCache && t.isIF && rmOk t rm
  | .vfma h t rm _ _ _ _ _ | .vfms h t rm _ _ _ _ _ => h.noCache && t.isIF && rmOk t rm
  | .vmin h t _ _ _ _ | .vmax h t _ _ _ _ | .vperm h t _ _ _ _ => h.noCache && t.isIF
  | .vabs h t _ _ _ | .vneg h t _ _ _ => h.noCache && t.isAbs
  | .vand h t _ _ _ _ | .vor h t _ _ _ _ | .vxor h t _ _ _ _ => h.noCache && t.isI
  | .vshl h t _ _ _ _ | .vshr h t _ _ _ _ | .vsha h t _ _ _ _ => h.noCache && t.isI
  | .vcmp h t c _ _ _ _ => h.noCache && t.isCmp && cndOk t c
  | .vsel h t _ _ _ _ => h.noCache && t.isIF
  | .vcvt h td ts _ _ _ _ => h.noCache && vcvtPair td ts
  | .vbcast h t _ _ _ => h.noCache && t.isIF
  | .vmovg h t _ _ _ => h.noCache && t.isIF
  | .vext h t _ _ _ => h.noCache && t.isIF
  | .vredadd h t _ m _ _ => h.noCache && t.isIF && !m.mz
  | .vredmax h t m _ _ | .vredmin h t m _ _ => h.noCache && t.isIF && !m.mz
  | .vrcp h _ _ _ _ | .vrsq h _ _ _ _ | .vexp2 h _ _ _ _ | .vlog2 h _ _ _ _ | .vsin h _ _ _ _
  | .vcos h _ _ _ _ | .vtanh h _ _ _ _ => h.noCache
  | .kand h _ _ _ | .kor h _ _ _ => h.noCache
  | .knot h _ _ => h.noCache
  | .kpop h _ _ => h.noCache
  | .sbind h _ _ => h.noCache
  | .sfree h _ => h.noCache
  | .sstat h _ _ => h.noCache
  | .mzero _ _ _ => true
  | .mmac _ _ _ _ m => m.ta.isMmac && m.tb.isMmac && (!m.a4 || m.ta.is8) && (!m.b4 || m.tb.is8) &&
      (m.ye || m.ys == 0) && (m.ze || (m.zs == 0 && !m.zk))
  | .mdrain _ _ _ _ td _ => td.isDrain
  | .mldt _ _ _ k ts => mldtPair k ts
  | .mfetch _ _ _ => true
  | .msety _ _ _ _ | .msetz _ _ _ _ => true
  | .mbound _ _ _ _ => true
  | .mcfg _ _ => true
  | .dbar _ => true
  | .ld _ _ _ _ => true
  | .ldSigned _ sz _ _ => sz != .b64
  | .ldB128 _ d _ => even5 d
  | .st _ _ _ _ => true
  | .stB128 _ _ d => even5 d
  | .pref _ _ | .flush _ _ => true
  | .vld _ _ _ => true
  | .vst _ _ _ => true
  | .vgather _ _ _ _ _ _ | .vscatter _ _ _ _ _ _ => true
  | .ldacq _ _ _ _ _ => true
  | .strel _ _ _ _ _ => true
  | .waitcL h _ | .waitcS h _ => h.noCache
  | .mwait _ _ _ _ _ => true
  | .amoadd _ w n _ d _ | .amoand _ w n _ d _ | .amoor _ w n _ d _ | .amoxor _ w n _ d _ | .amomin _ w n _ d _
  | .amomax _ w n _ d _ | .amominz _ w n _ d _ | .amomaxz _ w n _ d _ | .amoswp _ w n _ d _ => amoOk w n d
  | .amocas _ w n _ d b c => (!n || d == 0) && (w != .b128 || (even5 d && even5 b && even5 c))
  | .amofadd _ _ n _ d _ | .amofmin _ _ n _ d _ | .amofmax _ _ n _ d _ => amofOk n d
  | .cpy _ _ stp sco _ _ _ _ _ _ => stp || sco == .slot
  | .cpybt _ _ stp sco nblk _ _ _ _ _ => (stp || sco == .slot) && nblk != 0
  | .cpchain _ _ _ => true
  | .cpwp _ _ _ | .cpstat _ _ _ => true
  | .pput _ _ _ | .pputg _ _ _ | .pwatch _ _ _ => true
  | .pputv _ _ b => even5 b
  | .pget _ _ _ _ => true
  | .pgetv _ d _ _ _ => even5 d
  | .pgetg _ _ _ _ _ => true
  | .pfresh _ _ _ => true
  | .invoke h _ _ _ c _ narg warg _ rp => h.noCache && narg.toNat ≤ 8 && warg.toNat < 2 ^ narg.toNat &&
      (rp || c == 0)
  | .wbstate h _ _ item => h.noCache && item.toNat ≤ 1
  | .wbcause h _ _ item => h.noCache && item.toNat ≤ 2
  | .wbbind h _ _ => h.noCache
  | .wbdrop h _ => h.noCache
  | .time h _ => h.noCache
  | .ttab h _ _ => h.noCache
  | .tstat h _ _ => h.noCache
  -- events: the data they bring fit what carries them
  | .hostPostedWrite _ _ _ bytes => 0 < bytes.length && bytes.length ≤ 512
  | .hostRead _ _ _ n => 0 < n && n ≤ 4096
  | .pageBatchAnswered _ _ _ _ as => as.length ≤ 17
  | .dispatcherInvocationArrive _ inv => inv.args.length ≤ 8
  | .grantArrive _ _ gs => gs.length ≤ 32
  | .verdictReceive _ _ ms => ms.length ≤ 255
  | .gangForm _ | .gangStart _ | .gangComplete _ | .quarterOpPerform _ _ _ | .pinLineFetch _
  | .mwaitPoll _ _ _ | .mwaitLimitExpiry _ _ | .atomicPerform _ _ _ _ | .replayHoldRelease _ _ _
  | .replayTimeout _ _ _ | .copyCommandStart _ _ | .copyPieceWrite _ _ _ | .copyStampWrite _ _
  | .chainRecordRead _ _ _ | .copyChannelHalt _ _ _ | .copyPageRequestAnswer _ _ _ | .postCommit _ _ _ _
  | .postSample _ _ _ _ _ _ | .longResultReturn _ _ _ _ _ | .storePerformed _ _ _ _ _ | .slotResume _ _
  | .deferredTrap _ _ | .roundTimerExpiry _ | .launchProcessorTurn | .launchComplete _ _ | .phaseStartInstant _ _
  | .phaseEnd _ _ | .throttleChange _ _ | .thermalShutdown | .accessConfirmed _ _ _ _ _ | .runAheadStart _ _ _
  | .pageRequestTimeout _ _ | .remotePageRequestReceive _ _ _ _ _ | .rempfrsp _ _ | .remoteAccessReceive _ _ _
  | .orderingPointSend _ | .routeAcknowledge _ _ | .hostAtomicopInbound _ | .lsubmit _ _ | .regionEnable _ _ _
  | .regionDisable _ _ _ | .protectionRangeWrite _ _ _ _ | .reminv _ | .orderLogConfigWrite _ _ _ | .partitionEnable
  | .partitionDisable | .teardownComplete _ | .clearMapScrub _ | .qcfgWrite _ _ | .vfbindWrite _ _
  | .vfCtxbaseWrite _ _ | .monitorCfgWrite _ _ _ | .monsel _ _ | .attreq _ _ | .attestationReportDone _
  | .dbgreq _ _ | .dbgresp _ _ _ | .tbcfgWrite _ | .timetableWindowCommit _ _ | .flrstatRead _
  | .bar0RegisterWrite _ _ _ | .functionLevelReset _ | .timeSliceEnd _ | .preemptStop _ | .contextSaveComplete _
  | .contextRestore _ | .dispatcherHandOut _ _ | .donePostScan _ | .resultTransfer _ _ | .jobEndReport _ _
  | .ptpSync _ _ | .holdoverEntry | .clockLost | .timetableFire _ _ | .actionBeaconReceive _ _ _
  | .haltBeaconSend _ _ | .verdictSend _ _ | .leadFailover _ _ | .trainFlitReceive _ _ _ _ _
  | .correctedSoftError _ | .uncorrectedSoftError _ | .boot _ _ _ _ | .packageWake | .linkRouteLoss _
  | .waybillValueArrive _ _ _ | .haltBeaconReceive _ _ _ _ | .grantRequestReceive _ _ _
  | .hostCompletionTimeout _ _ _ | .invasiveDebugAccess _ _ => true

end Sys2Proof
end

