-- ==== Sys2Proof/Decode.lean ====
section
/-!
DEFINITION. The decoder, total on every 96-bit word: it makes the checks of R62 in their order, with the fields that
depend on others as R479 lays down, and answers the instruction or the reason and bit of the illegal-instruction trap.
After it the encoder, written from the same encoding tables (R53, R56, R57, R64 to R79, R244, R294, R352, R377, R378).
-/
namespace Sys2Proof

/-- The fields of a word as numbers (R53): bits [95:52] by name, and bits [51:0] as `lo`. -/
structure Raw where
  cls : Nat
  fn : Nat
  gs : Nat
  gp : Nat
  sw : Nat
  cache : Nat
  sched : Nat
  d : Nat
  a : Nat
  b : Nat
  lo : Nat
  deriving DecidableEq, Repr

/-- The field of `w` bits at bit `l` of a number. -/
def fld (x l w : Nat) : Nat := x / 2 ^ l % 2 ^ w

/-- Splitting a word into its fields (R53). -/
def Raw.ofWord (x : Nat) : Raw :=
  { cls := fld x 90 6, fn := fld x 83 7, gs := fld x 82 1, gp := fld x 78 4, sw := fld x 77 1, cache := fld x 75 2,
    sched := fld x 73 2, d := fld x 66 7, a := fld x 59 7, b := fld x 52 7, lo := fld x 0 52 }

/-- Joining the fields into a word (R53). -/
def Raw.toWord (r : Raw) : Nat :=
  r.cls * 2 ^ 90 + r.fn * 2 ^ 83 + r.gs * 2 ^ 82 + r.gp * 2 ^ 78 + r.sw * 2 ^ 77 + r.cache * 2 ^ 75 +
  r.sched * 2 ^ 73 + r.d * 2 ^ 66 + r.a * 2 ^ 59 + r.b * 2 ^ 52 + r.lo

/-- Fields C and E of forms K and X (R56). -/
def Raw.c (r : Raw) : Nat := fld r.lo 45 7
def Raw.e (r : Raw) : Nat := fld r.lo 38 7
/-- Fields of form M (R56). -/
def Raw.sc (r : Raw) : Nat := fld r.lo 50 2
def Raw.sz (r : Raw) : Nat := fld r.lo 48 2
def Raw.disp (r : Raw) : Nat := fld r.lo 0 48

/-! ## Codes of the fields -/

def CacheHint.code : CacheHint → Nat
  | .none => 0 | .keep => 1 | .stream => 2 | .noAlloc => 3

def CacheHint.ofCode : Nat → CacheHint
  | 0 => .none | 1 => .keep | 2 => .stream | _ => .noAlloc

def SchedHint.code : SchedHint → Nat
  | .none => 0 | .yield => 1 | .heavy => 2

def SchedHint.ofCode : Nat → SchedHint
  | 0 => .none | 1 => .yield | _ => .heavy

def Rm.code : Rm → Nat
  | .dyn => 0 | .rne => 1 | .rtz => 2 | .rup => 3 | .rdn => 4

def Rm.ofCode : Nat → Rm
  | 0 => .dyn | 1 => .rne | 2 => .rtz | 3 => .rup | _ => .rdn

/-- The type codes (R58). -/
def Ty.code : Ty → Nat
  | .none => 0 | .s8 => 1 | .s16 => 2 | .s32 => 3 | .s64 => 4 | .s128 => 5 | .z8 => 6 | .z16 => 7 | .z32 => 8
  | .z64 => 9 | .z128 => 10 | .f64 => 11 | .f32 => 12 | .f16 => 13 | .bf16 => 14 | .e4m3 => 15 | .e5m2 => 16
  | .e2m3 => 17 | .e3m2 => 18 | .e2m1 => 19 | .rns10 => 20

/-- The type of a code; codes 21 to 31 name none (R58). -/
def Ty.ofCode : Nat → Ty
  | 1 => .s8 | 2 => .s16 | 3 => .s32 | 4 => .s64 | 5 => .s128 | 6 => .z8 | 7 => .z16 | 8 => .z32
  | 9 => .z64 | 10 => .z128 | 11 => .f64 | 12 => .f32 | 13 => .f16 | 14 => .bf16 | 15 => .e4m3 | 16 => .e5m2
  | 17 => .e2m3 | 18 => .e3m2 | 19 => .e2m1 | 20 => .rns10 | _ => .none

def FTy.ty : FTy → Ty
  | .f64 => .f64 | .f32 => .f32 | .f16 => .f16 | .bf16 => .bf16

def FTy.code (t : FTy) : Nat := t.ty.code

def FTy.ofCode : Nat → FTy
  | 11 => .f64 | 12 => .f32 | 13 => .f16 | _ => .bf16

def Cnd.code : Cnd → Nat
  | .eq => 0 | .ne => 1 | .lt => 2 | .le => 3 | .gt => 4 | .ge => 5 | .un => 6 | .ord => 7

def Cnd.ofCode : Nat → Cnd
  | 0 => .eq | 1 => .ne | 2 => .lt | 3 => .le | 4 => .gt | 5 => .ge | 6 => .un | _ => .ord

def Size.code : Size → Nat
  | .b8 => 0 | .b16 => 1 | .b32 => 2 | .b64 => 3

def Size.ofCode : Nat → Size
  | 0 => .b8 | 1 => .b16 | 2 => .b32 | _ => .b64

def Scope.code : Scope → Nat
  | .slot => 0 | .core => 1 | .tile => 2 | .die => 3 | .pkg => 4 | .sys => 5

def Scope.ofCode : Nat → Scope
  | 0 => .slot | 1 => .core | 2 => .tile | 3 => .die | 4 => .pkg | _ => .sys

def MKind.code : MKind → Nat
  | .fp64 => 0 | .fp32 => 1 | .wide => 2 | .rns => 3

def MKind.ofCode : Nat → MKind
  | 0 => .fp64 | 1 => .fp32 | 2 => .wide | _ => .rns

def AmoW.code : AmoW → Nat
  | .b32 => 0 | .b64 => 1 | .b128 => 2

def AmoW.ofCode : Nat → AmoW
  | 0 => .b32 | 1 => .b64 | _ => .b128

def AmoF.code : AmoF → Nat
  | .bf16 => 0 | .bf16x2 => 1 | .f32 => 2 | .f32x2 => 3 | .f64 => 4

def AmoF.ofCode : Nat → AmoF
  | 0 => .bf16 | 1 => .bf16x2 | 2 => .f32 | 3 => .f32x2 | _ => .f64

/-- Operand codes (R60). -/
def GF.code : GF → Nat
  | .g n => n.toNat
  | .f n => 32 + n.toNat

def GF.ofCode (c : Nat) : GF := if c < 32 then .g (BitVec.ofNat 5 c) else .f (BitVec.ofNat 5 c)

def VG.code : VG → Nat
  | .g n => n.toNat
  | .v n => 64 + n.toNat

def VG.ofCode (c : Nat) : VG := if c < 32 then .g (BitVec.ofNat 5 c) else .v (BitVec.ofNat 5 c)

/-- The register number a code names within its kind: g, f and v of 32, p of 16, k of 8, y and z of 4 (R60). -/
def r5 (c : Nat) : BitVec 5 := BitVec.ofNat 5 c
def r4 (c : Nat) : BitVec 4 := BitVec.ofNat 4 c
def r3 (c : Nat) : BitVec 3 := BitVec.ofNat 3 c
def r2 (c : Nat) : BitVec 2 := BitVec.ofNat 2 c

def bit (n : Nat) : Bool := n % 2 == 1

/-- What a row accepts in an operand field (R61, R64 to R79): `zero` is the rows' dash, `na` no such field. -/
inductive OpK where
  | zero | na | g | f | gf | v | vg | p | k | y | z | v8 | g2 | v2
  deriving DecidableEq, Repr

/-- Check 5 of R62 for one field. -/
def OpK.accepts (kd : OpK) (c : Nat) : Bool :=
  match kd with
  | .zero | .na => true
  | .g => c < 32
  | .f => 32 ≤ c && c < 64
  | .gf => c < 64
  | .v => 64 ≤ c && c < 96
  | .vg => c < 32 || (64 ≤ c && c < 96)
  | .p => 96 ≤ c && c < 112
  | .k => 112 ≤ c && c < 120
  | .y => 120 ≤ c && c < 124
  | .z => 124 ≤ c
  | .v8 => 64 ≤ c && c < 72
  | .g2 => c < 32 && c % 2 == 0
  | .v2 => 64 ≤ c && c < 96 && c % 2 == 0

/-- A row of the opcode map: the kinds of its operand fields, the fields below bit 52 that must be zero (lowest bit and
value), its limits (lowest bit of a field that fails), and the instruction. -/
structure Row where
  d : OpK := .zero
  a : OpK := .zero
  b : OpK := .zero
  c : OpK := .zero
  e : OpK := .zero
  zeros : Raw → List (Nat × Nat) := fun _ => []
  limits : Raw → List (Nat × Bool) := fun _ => []
  build : Hdr → Raw → Instr

/-! ## Rows by form -/

/-- Form K: bits [37:0] are zero (R56). -/
def kRow (d a b c e : OpK) (build : Hdr → Raw → Instr) : Row :=
  { d, a, b, c, e, zeros := fun r => [(0, fld r.lo 0 38)], build }

/-- Form I with an upper limit on IMM52 (R56, R59). -/
def iRow (d a : OpK) (lim : Nat) (build : Hdr → Raw → Instr) : Row :=
  { d, a, c := .na, e := .na, limits := fun r => [(0, decide (r.lo < lim))], build }

/-- Form J (R56). -/
def jRow (d : OpK) (build : Hdr → Raw → Instr) : Row :=
  { d, c := .na, e := .na, build }

/-- Form M with SZ free (R56). -/
def mRow (d a b : OpK) (build : Hdr → Raw → Instr) : Row :=
  { d, a, b, c := .na, e := .na, build }

/-- Form M with SZ zero (R56). -/
def mRow0 (d a b : OpK) (build : Hdr → Raw → Instr) : Row :=
  { d, a, b, c := .na, e := .na, zeros := fun r => [(48, r.sz)], build }

/-- Sub-fields of form X in classes 0x06 and 0x07 (R57). -/
def Raw.rm (r : Raw) : Nat := fld r.lo 35 3
def Raw.td (r : Raw) : Nat := fld r.lo 30 5
def Raw.ts (r : Raw) : Nat := fld r.lo 25 5
def Raw.mask (r : Raw) : Nat := fld r.lo 20 5
def Raw.cnd (r : Raw) : Nat := fld r.lo 16 4

def Raw.vmask (r : Raw) : VMask :=
  { me := bit (fld r.lo 24 1), km := BitVec.ofNat 3 (fld r.lo 21 3), mz := bit (fld r.lo 20 1) }

def Raw.rmv (r : Raw) : Rm := Rm.ofCode r.rm
def Raw.tdv (r : Raw) : Ty := Ty.ofCode r.td
def Raw.tsv (r : Raw) : Ty := Ty.ofCode r.ts
def Raw.tdf (r : Raw) : FTy := FTy.ofCode r.td
def Raw.tsf (r : Raw) : FTy := FTy.ofCode r.ts

/-- Which sub-fields of R57 a row reads. -/
structure XRead where
  rm : Bool := false
  td : Option (Ty → Bool) := none
  ts : Option (Ty → Bool) := none
  mask : Bool := false
  cnd : Bool := false

/-- A row of class 0x06 or 0x07: a sub-field it does not read is zero; RM, TD, TS and CND lie in their limits (R57,
R182, R211). -/
def xRow (d a b c : OpK) (x : XRead) (zs : Raw → List (Nat × Nat)) (ls : Raw → List (Nat × Bool))
    (build : Hdr → Raw → Instr) : Row :=
  { d, a, b, c, e := .zero, build,
    zeros := fun r =>
      [(0, fld r.lo 0 16)] ++ (if x.cnd then [] else [(16, r.cnd)]) ++ (if x.mask then [] else [(20, r.mask)]) ++
      (if x.ts.isSome then [] else [(25, r.ts)]) ++ (if x.td.isSome then [] else [(30, r.td)]) ++
      (if x.rm then [] else [(35, r.rm)]) ++ zs r,
    limits := fun r =>
      (if x.cnd then [(16, decide (r.cnd < 8))] else []) ++
      (match x.ts with | some ok => [(25, ok r.tsv)] | none => []) ++
      (match x.td with | some ok => [(30, ok r.tdv)] | none => []) ++
      (if x.rm then [(35, decide (r.rm < 5))] else []) ++ ls r }

def noZ : Raw → List (Nat × Nat) := fun _ => []
def noL : Raw → List (Nat × Bool) := fun _ => []

/-- RM is zero when TD names an integer type (R213, R479). -/
def rmInt : Raw → List (Nat × Nat) := fun r => if r.tdv.isInt then [(35, r.rm)] else []

/-- MZ of a reduction is zero (R219, R479). -/
def mzZero : Raw → List (Nat × Nat) := fun r => [(20, fld r.lo 20 1)]

/-- Form X outside classes 0x06 and 0x07: the entry's own sub-fields. -/
def sRow (d a b c e : OpK) (zs : Raw → List (Nat × Nat)) (ls : Raw → List (Nat × Bool))
    (build : Hdr → Raw → Instr) : Row :=
  { d, a, b, c, e, zeros := zs, limits := ls, build }

def Raw.mem (r : Raw) : MemRef :=
  { base := r5 r.a, index := r5 r.b, sc := BitVec.ofNat 2 r.sc, disp := BitVec.ofNat 48 r.disp }

def Raw.imm (r : Raw) : BitVec 52 := BitVec.ofNat 52 r.lo
def Raw.size (r : Raw) : Size := Size.ofCode r.sz

/-- Class 0x00, system (R64). -/
def row00 : Nat → Option Row
  | 0 => some (kRow .zero .zero .zero .zero .zero fun h _ => .nop h)
  | 1 => some (iRow .zero .zero 4096 fun h r => .trap h (BitVec.ofNat 12 r.lo))
  | 2 => some (kRow .zero .zero .zero .zero .zero fun h _ => .eret h)
  | 3 => some (iRow .g .zero 4096 fun h r => .csrr h (r5 r.d) (BitVec.ofNat 12 r.lo))
  | 4 => some (iRow .g .g 4096 fun h r => .csrw h (r5 r.d) (BitVec.ofNat 12 r.lo) (r5 r.a))
  | 5 => some (iRow .g .g 4096 fun h r => .csrs h (r5 r.d) (BitVec.ofNat 12 r.lo) (r5 r.a))
  | 6 => some (iRow .g .g 4096 fun h r => .csrc h (r5 r.d) (BitVec.ofNat 12 r.lo) (r5 r.a))
  | 7 => some (iRow .zero .zero 65536 fun h r => .brk h (BitVec.ofNat 16 r.lo))
  | 8 => some (kRow .zero .zero .zero .zero .zero fun h _ => .ifence h)
  | _ => none

/-- Class 0x01, control (R65). -/
def row01 : Nat → Option Row
  | 0 => some (jRow .zero fun h r => .bra h r.imm)
  | 1 => some (jRow .g fun h r => .call h (r5 r.d) r.imm)
  | 2 => some (kRow .zero .g .zero .zero .zero fun h r => .ret h (r5 r.a))
  | 3 => some (kRow .g .g .zero .zero .zero fun h r => .jmpi h (r5 r.d) (r5 r.a))
  | 4 => some (jRow .g fun h r => .loop h (r5 r.d) r.imm)
  | 5 => some (kRow .zero .zero .zero .zero .zero fun h _ => .rdone h)
  | _ => none

/-- Class 0x02, hierarchy (R65). -/
def row02 : Nat → Option Row
  | 0 => some (kRow .zero .g .g .zero .zero fun h r => .sstart h (r5 r.a) (r5 r.b))
  | 1 => some (kRow .zero .g .zero .zero .zero fun h r => .sstop h (r5 r.a))
  | 2 => some (kRow .zero .g .zero .zero .zero fun h r => .sbar h (r5 r.a))
  | 3 => some (kRow .g .g .zero .p .zero fun h r => .launch h (r5 r.d) (r5 r.a) (r4 r.c))
  | 4 => some (kRow .zero .g .zero .zero .zero fun h r => .lfin h (r5 r.a))
  | 5 => some (kRow .zero .g .g .zero .zero fun h r => .cancel h (r5 r.a) (r5 r.b))
  | 6 => some (kRow .g .g .g .zero .zero fun h r => .ccount h (r5 r.d) (r5 r.a) (r5 r.b))
  | _ => none

/-- Class 0x03 by op, which is the function divided by two (R66). -/
def row03 : Nat → Option Row
  | 0 => some (kRow .g .g .g .zero .zero fun h r => .add h (bit r.fn) (r5 r.d) (r5 r.a) (r5 r.b))
  | 1 => some (kRow .g .g .g .zero .zero fun h r => .sub h (bit r.fn) (r5 r.d) (r5 r.a) (r5 r.b))
  | 2 => some (kRow .g .g .g .zero .zero fun h r => .mul h (bit r.fn) (r5 r.d) (r5 r.a) (r5 r.b))
  | 3 => some (kRow .g .g .g .zero .zero fun h r => .mulh h (bit r.fn) (r5 r.d) (r5 r.a) (r5 r.b))
  | 4 => some (kRow .g .g .g .zero .zero fun h r => .mulhz h (bit r.fn) (r5 r.d) (r5 r.a) (r5 r.b))
  | 5 => some (kRow .g .g .g .zero .zero fun h r => .div h (bit r.fn) (r5 r.d) (r5 r.a) (r5 r.b))
  | 6 => some (kRow .g .g .g .zero .zero fun h r => .divz h (bit r.fn) (r5 r.d) (r5 r.a) (r5 r.b))
  | 7 => some (kRow .g .g .g .zero .zero fun h r => .rem h (bit r.fn) (r5 r.d) (r5 r.a) (r5 r.b))
  | 8 => some (kRow .g .g .g .zero .zero fun h r => .remz h (bit r.fn) (r5 r.d) (r5 r.a) (r5 r.b))
  | 9 => some (kRow .g .g .g .zero .zero fun h r => .and h (bit r.fn) (r5 r.d) (r5 r.a) (r5 r.b))
  | 10 => some (kRow .g .g .g .zero .zero fun h r => .or h (bit r.fn) (r5 r.d) (r5 r.a) (r5 r.b))
  | 11 => some (kRow .g .g .g .zero .zero fun h r => .xor h (bit r.fn) (r5 r.d) (r5 r.a) (r5 r.b))
  | 12 => some (kRow .g .g .g .zero .zero fun h r => .andn h (bit r.fn) (r5 r.d) (r5 r.a) (r5 r.b))
  | 13 => some (kRow .g .g .g .zero .zero fun h r => .orn h (bit r.fn) (r5 r.d) (r5 r.a) (r5 r.b))
  | 14 => some (kRow .g .g .g .zero .zero fun h r => .shl h (bit r.fn) (r5 r.d) (r5 r.a) (r5 r.b))
  | 15 => some (kRow .g .g .g .zero .zero fun h r => .shr h (bit r.fn) (r5 r.d) (r5 r.a) (r5 r.b))
  | 16 => some (kRow .g .g .g .zero .zero fun h r => .sha h (bit r.fn) (r5 r.d) (r5 r.a) (r5 r.b))
  | 17 => some (kRow .g .g .g .zero .zero fun h r => .rot h (bit r.fn) (r5 r.d) (r5 r.a) (r5 r.b))
  | 18 => some (kRow .g .g .g .zero .zero fun h r => .min h (bit r.fn) (r5 r.d) (r5 r.a) (r5 r.b))
  | 19 => some (kRow .g .g .g .zero .zero fun h r => .max h (bit r.fn) (r5 r.d) (r5 r.a) (r5 r.b))
  | 20 => some (kRow .g .g .g .zero .zero fun h r => .minz h (bit r.fn) (r5 r.d) (r5 r.a) (r5 r.b))
  | 21 => some (kRow .g .g .g .zero .zero fun h r => .maxz h (bit r.fn) (r5 r.d) (r5 r.a) (r5 r.b))
  | 22 => some (kRow .g .g .zero .zero .zero fun h r => .clz h (bit r.fn) (r5 r.d) (r5 r.a))
  | 23 => some (kRow .g .g .zero .zero .zero fun h r => .ctz h (bit r.fn) (r5 r.d) (r5 r.a))
  | 24 => some (kRow .g .g .zero .zero .zero fun h r => .popc h (bit r.fn) (r5 r.d) (r5 r.a))
  | 25 => some (kRow .g .g .g .g .zero fun h r => .bfx h (bit r.fn) (r5 r.d) (r5 r.a) (r5 r.b) (r5 r.c))
  | 26 => some (kRow .g .g .g .g .zero fun h r => .bfxs h (bit r.fn) (r5 r.d) (r5 r.a) (r5 r.b) (r5 r.c))
  | 27 => some (kRow .g .g .g .g .g fun h r => .bfi h (bit r.fn) (r5 r.d) (r5 r.a) (r5 r.b) (r5 r.c) (r5 r.e))
  | 28 => some (kRow .g .g .g .p .zero fun h r => .sel h (bit r.fn) (r5 r.d) (r5 r.a) (r5 r.b) (r4 r.c))
  | 29 => some (kRow .g .g .g .g .zero fun h r => .mad h (bit r.fn) (r5 r.d) (r5 r.a) (r5 r.b) (r5 r.c))
  | 30 => some (kRow .g .g .zero .zero .zero fun h r => .bswap h (bit r.fn) (r5 r.d) (r5 r.a))
  | 31 => some (kRow .p .g .g .zero .zero fun h r => .cmpEq h (bit r.fn) (r4 r.d) (r5 r.a) (r5 r.b))
  | 32 => some (kRow .p .g .g .zero .zero fun h r => .cmpNe h (bit r.fn) (r4 r.d) (r5 r.a) (r5 r.b))
  | 33 => some (kRow .p .g .g .zero .zero fun h r => .cmpLt h (bit r.fn) (r4 r.d) (r5 r.a) (r5 r.b))
  | 34 => some (kRow .p .g .g .zero .zero fun h r => .cmpGe h (bit r.fn) (r4 r.d) (r5 r.a) (r5 r.b))
  | 35 => some (kRow .p .g .g .zero .zero fun h r => .cmpLtz h (bit r.fn) (r4 r.d) (r5 r.a) (r5 r.b))
  | 36 => some (kRow .p .g .g .zero .zero fun h r => .cmpGez h (bit r.fn) (r4 r.d) (r5 r.a) (r5 r.b))
  | _ => none

/-- Class 0x04, integer immediate and address (R67). -/
def row04 : Nat → Option Row
  | 0 => some (iRow .g .g (2 ^ 52) fun h r => .addi h false (r5 r.d) (r5 r.a) r.imm)
  | 1 => some (iRow .g .g (2 ^ 52) fun h r => .addi h true (r5 r.d) (r5 r.a) r.imm)
  | 2 => some (iRow .g .g 64 fun h r => .shli h false (r5 r.d) (r5 r.a) (BitVec.ofNat 6 r.lo))
  | 3 => some (iRow .g .g 32 fun h r => .shli h true (r5 r.d) (r5 r.a) (BitVec.ofNat 6 r.lo))
  | 4 => some (iRow .g .g 64 fun h r => .shri h false (r5 r.d) (r5 r.a) (BitVec.ofNat 6 r.lo))
  | 5 => some (iRow .g .g 32 fun h r => .shri h true (r5 r.d) (r5 r.a) (BitVec.ofNat 6 r.lo))
  | 6 => some (iRow .g .g 64 fun h r => .shai h false (r5 r.d) (r5 r.a) (BitVec.ofNat 6 r.lo))
  | 7 => some (iRow .g .g 32 fun h r => .shai h true (r5 r.d) (r5 r.a) (BitVec.ofNat 6 r.lo))
  | 8 => some (iRow .g .zero (2 ^ 52) fun h r => .movi h (r5 r.d) r.imm)
  | 9 => some (iRow .g .g 4096 fun h r => .movhi h (r5 r.d) (r5 r.a) (BitVec.ofNat 12 r.lo))
  | 10 => some (iRow .p .g (2 ^ 52) fun h r => .cmpiEq h (r4 r.d) (r5 r.a) r.imm)
  | 11 => some (iRow .p .g (2 ^ 52) fun h r => .cmpiNe h (r4 r.d) (r5 r.a) r.imm)
  | 12 => some (iRow .p .g (2 ^ 52) fun h r => .cmpiLt h (r4 r.d) (r5 r.a) r.imm)
  | 13 => some (iRow .p .g (2 ^ 52) fun h r => .cmpiGe h (r4 r.d) (r5 r.a) r.imm)
  | 14 => some (iRow .p .g (2 ^ 52) fun h r => .cmpiLtz h (r4 r.d) (r5 r.a) r.imm)
  | 15 => some (iRow .p .g (2 ^ 52) fun h r => .cmpiGez h (r4 r.d) (r5 r.a) r.imm)
  | 16 => some (mRow0 .g .g .g fun h r => .lea h (r5 r.d) r.mem)
  | _ => none

/-- Class 0x05, predicates (R68). -/
def row05 : Nat → Option Row
  | 0 => some (kRow .p .p .p .zero .zero fun h r => .pand h (r4 r.d) (r4 r.a) (r4 r.b))
  | 1 => some (kRow .p .p .p .zero .zero fun h r => .por h (r4 r.d) (r4 r.a) (r4 r.b))
  | 2 => some (kRow .p .p .p .zero .zero fun h r => .pxor h (r4 r.d) (r4 r.a) (r4 r.b))
  | 3 => some (kRow .p .p .zero .zero .zero fun h r => .pnot h (r4 r.d) (r4 r.a))
  | 4 => some (kRow .p .p .zero .zero .zero fun h r => .pmov h (r4 r.d) (r4 r.a))
  | _ => none

/-- Class 0x06, scalar floating point (R69, R182). -/
def row06 : Nat → Option Row
  | 0 => some (xRow .f .f .f .zero { rm := true, td := some Ty.isF } noZ noL fun h r => .fadd h r.tdf r.rmv (r5 r.d) (r5 r.a) (r5 r.b))
  | 1 => some (xRow .f .f .f .zero { rm := true, td := some Ty.isF } noZ noL fun h r => .fsub h r.tdf r.rmv (r5 r.d) (r5 r.a) (r5 r.b))
  | 2 => some (xRow .f .f .f .zero { rm := true, td := some Ty.isF } noZ noL fun h r => .fmul h r.tdf r.rmv (r5 r.d) (r5 r.a) (r5 r.b))
  | 3 => some (xRow .f .f .f .f { rm := true, td := some Ty.isF } noZ noL fun h r => .ffma h r.tdf r.rmv (r5 r.d) (r5 r.a) (r5 r.b) (r5 r.c))
  | 4 => some (xRow .f .f .f .f { rm := true, td := some Ty.isF } noZ noL fun h r => .ffms h r.tdf r.rmv (r5 r.d) (r5 r.a) (r5 r.b) (r5 r.c))
  | 5 => some (xRow .f .f .f .f { rm := true, td := some Ty.isF } noZ noL fun h r => .fnma h r.tdf r.rmv (r5 r.d) (r5 r.a) (r5 r.b) (r5 r.c))
  | 6 => some (xRow .f .f .f .zero { rm := true, td := some Ty.isF } noZ noL fun h r => .fdiv h r.tdf r.rmv (r5 r.d) (r5 r.a) (r5 r.b))
  | 7 => some (xRow .f .f .zero .zero { rm := true, td := some Ty.isF } noZ noL fun h r => .fsqrt h r.tdf r.rmv (r5 r.d) (r5 r.a))
  | 8 => some (xRow .f .f .f .zero { td := some Ty.isF } noZ noL fun h r => .fmin h r.tdf (r5 r.d) (r5 r.a) (r5 r.b))
  | 9 => some (xRow .f .f .f .zero { td := some Ty.isF } noZ noL fun h r => .fmax h r.tdf (r5 r.d) (r5 r.a) (r5 r.b))
  | 10 => some (xRow .f .f .zero .zero { td := some Ty.isF } noZ noL fun h r => .fabs h r.tdf (r5 r.d) (r5 r.a))
  | 11 => some (xRow .f .f .zero .zero { td := some Ty.isF } noZ noL fun h r => .fneg h r.tdf (r5 r.d) (r5 r.a))
  | 12 => some (xRow .f .f .f .zero { td := some Ty.isF } noZ noL fun h r => .fsgn h r.tdf (r5 r.d) (r5 r.a) (r5 r.b))
  | 13 => some (xRow .p .f .f .zero { ts := some Ty.isF, cnd := true } noZ (fun r => [(16, !r.tsv.isInt || r.cnd < 6)]) fun h r => .fcmp h r.tsf (Cnd.ofCode r.cnd) (r4 r.d) (r5 r.a) (r5 r.b))
  | 14 => some (xRow .g .f .zero .zero { ts := some Ty.isF } noZ noL fun h r => .fclass h r.tsf (r5 r.d) (r5 r.a))
  | 15 => some (xRow .f .f .zero .zero { rm := true, td := some Ty.isF, ts := some Ty.isF } noZ (fun r => [(25, r.td != r.ts)]) fun h r => .fcvt h r.tdf r.tsf r.rmv (r5 r.d) (r5 r.a))
  | 16 => some (xRow .g .f .zero .zero { rm := true, td := some Ty.isFI, ts := some Ty.isF } noZ noL fun h r => .fcvti h r.tdv r.tsf r.rmv (r5 r.d) (r5 r.a))
  | 17 => some (xRow .f .g .zero .zero { rm := true, td := some Ty.isF, ts := some Ty.isFI } noZ noL fun h r => .icvtf h r.tdf r.tsv r.rmv (r5 r.d) (r5 r.a))
  | 18 => some (xRow .gf .gf .zero .zero {} noZ noL fun h r => .fmov h (GF.ofCode r.d) (GF.ofCode r.a))
  | _ => none

/-- The types that some pair of R217 holds. -/
def Ty.isCvt (t : Ty) : Bool := t.isIF || t.isNarrow || t == .rns10

/-- Class 0x07, vector (R70, R211). -/
def row07 : Nat → Option Row
  | 0 => some (xRow .v .v .v .zero { rm := true, td := some Ty.isIF, mask := true } rmInt noL fun h r => .vadd h r.tdv r.rmv r.vmask (r5 r.d) (r5 r.a) (r5 r.b))
  | 1 => some (xRow .v .v .v .zero { rm := true, td := some Ty.isIF, mask := true } rmInt noL fun h r => .vsub h r.tdv r.rmv r.vmask (r5 r.d) (r5 r.a) (r5 r.b))
  | 2 => some (xRow .v .v .v .zero { rm := true, td := some Ty.isIF, mask := true } rmInt noL fun h r => .vmul h r.tdv r.rmv r.vmask (r5 r.d) (r5 r.a) (r5 r.b))
  | 3 => some (xRow .v .v .v .v { rm := true, td := some Ty.isIF, mask := true } rmInt noL fun h r => .vfma h r.tdv r.rmv r.vmask (r5 r.d) (r5 r.a) (r5 r.b) (r5 r.c))
  | 4 => some (xRow .v .v .v .v { rm := true, td := some Ty.isIF, mask := true } rmInt noL fun h r => .vfms h r.tdv r.rmv r.vmask (r5 r.d) (r5 r.a) (r5 r.b) (r5 r.c))
  | 5 => some (xRow .v .v .v .zero { td := some Ty.isIF, mask := true } noZ noL fun h r => .vmin h r.tdv r.vmask (r5 r.d) (r5 r.a) (r5 r.b))
  | 6 => some (xRow .v .v .v .zero { td := some Ty.isIF, mask := true } noZ noL fun h r => .vmax h r.tdv r.vmask (r5 r.d) (r5 r.a) (r5 r.b))
  | 7 => some (xRow .v .v .zero .zero { td := some Ty.isAbs, mask := true } noZ noL fun h r => .vabs h r.tdv r.vmask (r5 r.d) (r5 r.a))
  | 8 => some (xRow .v .v .zero .zero { td := some Ty.isAbs, mask := true } noZ noL fun h r => .vneg h r.tdv r.vmask (r5 r.d) (r5 r.a))
  | 9 => some (xRow .v .v .v .zero { td := some Ty.isI, mask := true } noZ noL fun h r => .vand h r.tdv r.vmask (r5 r.d) (r5 r.a) (r5 r.b))
  | 10 => some (xRow .v .v .v .zero { td := some Ty.isI, mask := true } noZ noL fun h r => .vor h r.tdv r.vmask (r5 r.d) (r5 r.a) (r5 r.b))
  | 11 => some (xRow .v .v .v .zero { td := some Ty.isI, mask := true } noZ noL fun h r => .vxor h r.tdv r.vmask (r5 r.d) (r5 r.a) (r5 r.b))
  | 12 => some (xRow .v .v .vg .zero { td := some Ty.isI, mask := true } noZ noL fun h r => .vshl h r.tdv r.vmask (r5 r.d) (r5 r.a) (VG.ofCode r.b))
  | 13 => some (xRow .v .v .vg .zero { td := some Ty.isI, mask := true } noZ noL fun h r => .vshr h r.tdv r.vmask (r5 r.d) (r5 r.a) (VG.ofCode r.b))
  | 14 => some (xRow .v .v .vg .zero { td := some Ty.isI, mask := true } noZ noL fun h r => .vsha h r.tdv r.vmask (r5 r.d) (r5 r.a) (VG.ofCode r.b))
  | 15 => some (xRow .k .v .v .zero { ts := some Ty.isCmp, mask := true, cnd := true } noZ (fun r => [(16, !r.tsv.isInt || r.cnd < 6)]) fun h r => .vcmp h r.tsv (Cnd.ofCode r.cnd) r.vmask (r3 r.d) (r5 r.a) (r5 r.b))
  | 16 => some (xRow .v .v .v .k { td := some Ty.isIF } noZ noL fun h r => .vsel h r.tdv (r5 r.d) (r5 r.a) (r5 r.b) (r3 r.c))
  | 17 => some (xRow .v .v .zero .zero { rm := true, td := some Ty.isCvt, ts := some Ty.isCvt, mask := true } noZ (fun r => [(25, vcvtPair r.tdv r.tsv)]) fun h r => .vcvt h r.tdv r.tsv r.rmv r.vmask (r5 r.d) (r5 r.a))
  | 18 => some (xRow .v .gf .zero .zero { td := some Ty.isIF, mask := true } noZ noL fun h r => .vbcast h r.tdv r.vmask (r5 r.d) (GF.ofCode r.a))
  | 19 => some (xRow .v .g .g .zero { td := some Ty.isIF } noZ noL fun h r => .vmovg h r.tdv (r5 r.d) (r5 r.a) (r5 r.b))
  | 20 => some (xRow .gf .v .g .zero { td := some Ty.isIF } noZ noL fun h r => .vext h r.tdv (GF.ofCode r.d) (r5 r.a) (r5 r.b))
  | 21 => some (xRow .v .v .v .zero { td := some Ty.isIF, mask := true } noZ noL fun h r => .vperm h r.tdv r.vmask (r5 r.d) (r5 r.a) (r5 r.b))
  | 22 => some (xRow .gf .v .zero .zero { rm := true, td := some Ty.isIF, mask := true } mzZero noL fun h r => .vredadd h r.tdv r.rmv r.vmask (GF.ofCode r.d) (r5 r.a))
  | 23 => some (xRow .gf .v .zero .zero { td := some Ty.isIF, mask := true } mzZero noL fun h r => .vredmax h r.tdv r.vmask (GF.ofCode r.d) (r5 r.a))
  | 24 => some (xRow .gf .v .zero .zero { td := some Ty.isIF, mask := true } mzZero noL fun h r => .vredmin h r.tdv r.vmask (GF.ofCode r.d) (r5 r.a))
  | 25 => some (xRow .v .v .zero .zero { td := some Ty.isF, mask := true } noZ noL fun h r => .vrcp h r.tdf r.vmask (r5 r.d) (r5 r.a))
  | 26 => some (xRow .v .v .zero .zero { td := some Ty.isF, mask := true } noZ noL fun h r => .vrsq h r.tdf r.vmask (r5 r.d) (r5 r.a))
  | 27 => some (xRow .v .v .zero .zero { td := some Ty.isF, mask := true } noZ noL fun h r => .vexp2 h r.tdf r.vmask (r5 r.d) (r5 r.a))
  | 28 => some (xRow .v .v .zero .zero { td := some Ty.isF, mask := true } noZ noL fun h r => .vlog2 h r.tdf r.vmask (r5 r.d) (r5 r.a))
  | 29 => some (xRow .v .v .zero .zero { td := some Ty.isF, mask := true } noZ noL fun h r => .vsin h r.tdf r.vmask (r5 r.d) (r5 r.a))
  | 30 => some (xRow .v .v .zero .zero { td := some Ty.isF, mask := true } noZ noL fun h r => .vcos h r.tdf r.vmask (r5 r.d) (r5 r.a))
  | 31 => some (xRow .v .v .zero .zero { td := some Ty.isF, mask := true } noZ noL fun h r => .vtanh h r.tdf r.vmask (r5 r.d) (r5 r.a))
  | _ => none

/-- Class 0x08, lane masks (R71). -/
def row08 : Nat → Option Row
  | 0 => some (kRow .k .k .k .zero .zero fun h r => .kand h (r3 r.d) (r3 r.a) (r3 r.b))
  | 1 => some (kRow .k .k .k .zero .zero fun h r => .kor h (r3 r.d) (r3 r.a) (r3 r.b))
  | 2 => some (kRow .k .k .zero .zero .zero fun h r => .knot h (r3 r.d) (r3 r.a))
  | 3 => some (kRow .g .k .zero .zero .zero fun h r => .kpop h (r5 r.d) (r3 r.a))
  | _ => none

/-- Class 0x09, streams (R71). -/
def row09 : Nat → Option Row
  | 0 => some (kRow .v8 .g .zero .zero .zero fun h r => .sbind h (r3 r.d) (r5 r.a))
  | 1 => some (kRow .v8 .zero .zero .zero .zero fun h r => .sfree h (r3 r.d))
  | 2 => some (kRow .zero .zero .zero .zero .zero fun h _ => .srep h)
  | 3 => some (kRow .g .v8 .zero .zero .zero fun h r => .sstat h (r5 r.d) (r3 r.a))
  | _ => none

/-- The sub-fields of mmac (R244). -/
def Raw.mmac (r : Raw) : MmacSub :=
  { ta := Ty.ofCode (fld r.lo 33 5), tb := Ty.ofCode (fld r.lo 28 5), sa := bit (fld r.lo 27 1),
    sb := bit (fld r.lo 26 1), bt := bit (fld r.lo 25 1), a4 := bit (fld r.lo 24 1), b4 := bit (fld r.lo 23 1),
    ye := bit (fld r.lo 22 1), ys := BitVec.ofNat 2 (fld r.lo 20 2), ze := bit (fld r.lo 19 1),
    zs := BitVec.ofNat 2 (fld r.lo 17 2), zk := bit (fld r.lo 16 1) }

/-- Zero fields of mmac, among them those that depend on another field (R244, R479). -/
def mmacZeros (r : Raw) : List (Nat × Nat) :=
  [(0, fld r.lo 0 16)] ++ (if r.mmac.ze then [] else [(16, fld r.lo 16 1), (17, fld r.lo 17 2)]) ++
  (if r.mmac.ye then [] else [(20, fld r.lo 20 2)]) ++ (if r.mmac.tb.is8 then [] else [(23, fld r.lo 23 1)]) ++
  (if r.mmac.ta.is8 then [] else [(24, fld r.lo 24 1)])

def Raw.kind (r : Raw) : MKind := MKind.ofCode (fld r.lo 36 2)

/-- The accumulator set of the function (R72). -/
def Raw.set (r : Raw) : YZ := BitVec.ofNat 2 r.fn

/-- Class 0x0A, matrix (R72, R73, R244). -/
def row0A : Nat → Option Row
  | 0 => some (sRow .zero .zero .zero .zero .zero (fun r => [(0, fld r.lo 0 36)]) noL fun h r => .mzero h r.set r.kind)
  | 1 => some (sRow .zero .zero .zero .zero .zero (fun r => [(0, fld r.lo 0 36)]) noL fun h r => .mzero h r.set r.kind)
  | 2 => some (sRow .zero .zero .zero .zero .zero (fun r => [(0, fld r.lo 0 36)]) noL fun h r => .mzero h r.set r.kind)
  | 3 => some (sRow .zero .zero .zero .zero .zero (fun r => [(0, fld r.lo 0 36)]) noL fun h r => .mzero h r.set r.kind)
  | 4 => some (sRow .zero .g .g .zero .zero mmacZeros (fun r => [(28, r.mmac.tb.isMmac), (33, r.mmac.ta.isMmac)]) fun h r => .mmac h r.set (r5 r.a) (r5 r.b) r.mmac)
  | 5 => some (sRow .zero .g .g .zero .zero mmacZeros (fun r => [(28, r.mmac.tb.isMmac), (33, r.mmac.ta.isMmac)]) fun h r => .mmac h r.set (r5 r.a) (r5 r.b) r.mmac)
  | 6 => some (sRow .zero .g .g .zero .zero mmacZeros (fun r => [(28, r.mmac.tb.isMmac), (33, r.mmac.ta.isMmac)]) fun h r => .mmac h r.set (r5 r.a) (r5 r.b) r.mmac)
  | 7 => some (sRow .zero .g .g .zero .zero mmacZeros (fun r => [(28, r.mmac.tb.isMmac), (33, r.mmac.ta.isMmac)]) fun h r => .mmac h r.set (r5 r.a) (r5 r.b) r.mmac)
  | 8 => some (sRow .g .zero .zero .p .zero (fun r => [(0, fld r.lo 0 32)]) (fun r => [(33, (Ty.ofCode (fld r.lo 33 5)).isDrain)]) fun h r => .mdrain h r.set (r5 r.d) (r4 r.c) (Ty.ofCode (fld r.lo 33 5)) (bit (fld r.lo 32 1)))
  | 9 => some (sRow .g .zero .zero .p .zero (fun r => [(0, fld r.lo 0 32)]) (fun r => [(33, (Ty.ofCode (fld r.lo 33 5)).isDrain)]) fun h r => .mdrain h r.set (r5 r.d) (r4 r.c) (Ty.ofCode (fld r.lo 33 5)) (bit (fld r.lo 32 1)))
  | 10 => some (sRow .g .zero .zero .p .zero (fun r => [(0, fld r.lo 0 32)]) (fun r => [(33, (Ty.ofCode (fld r.lo 33 5)).isDrain)]) fun h r => .mdrain h r.set (r5 r.d) (r4 r.c) (Ty.ofCode (fld r.lo 33 5)) (bit (fld r.lo 32 1)))
  | 11 => some (sRow .g .zero .zero .p .zero (fun r => [(0, fld r.lo 0 32)]) (fun r => [(33, (Ty.ofCode (fld r.lo 33 5)).isDrain)]) fun h r => .mdrain h r.set (r5 r.d) (r4 r.c) (Ty.ofCode (fld r.lo 33 5)) (bit (fld r.lo 32 1)))
  | 12 => some (sRow .zero .g .zero .zero .zero (fun r => [(0, fld r.lo 0 31)]) (fun r => [(31, mldtPair r.kind (Ty.ofCode (fld r.lo 31 5)))]) fun h r => .mldt h r.set (r5 r.a) r.kind (Ty.ofCode (fld r.lo 31 5)))
  | 13 => some (sRow .zero .g .zero .zero .zero (fun r => [(0, fld r.lo 0 31)]) (fun r => [(31, mldtPair r.kind (Ty.ofCode (fld r.lo 31 5)))]) fun h r => .mldt h r.set (r5 r.a) r.kind (Ty.ofCode (fld r.lo 31 5)))
  | 14 => some (sRow .zero .g .zero .zero .zero (fun r => [(0, fld r.lo 0 31)]) (fun r => [(31, mldtPair r.kind (Ty.ofCode (fld r.lo 31 5)))]) fun h r => .mldt h r.set (r5 r.a) r.kind (Ty.ofCode (fld r.lo 31 5)))
  | 15 => some (sRow .zero .g .zero .zero .zero (fun r => [(0, fld r.lo 0 31)]) (fun r => [(31, mldtPair r.kind (Ty.ofCode (fld r.lo 31 5)))]) fun h r => .mldt h r.set (r5 r.a) r.kind (Ty.ofCode (fld r.lo 31 5)))
  | 16 => some (kRow .zero .g .g .zero .zero fun h r => .mfetch h (r5 r.a) (r5 r.b))
  | 20 => some (sRow .y .g .zero .zero .zero (fun r => [(0, fld r.lo 0 37)]) noL fun h r => .msety h (r2 r.d) (r5 r.a) (bit (fld r.lo 37 1)))
  | 24 => some (sRow .z .g .zero .zero .zero (fun r => [(0, fld r.lo 0 37)]) noL fun h r => .msetz h (r2 r.d) (r5 r.a) (bit (fld r.lo 37 1)))
  | 28 => some (kRow .g .g .zero .zero .zero fun h r => .mbound h r.set (r5 r.d) (r5 r.a))
  | 29 => some (kRow .g .g .zero .zero .zero fun h r => .mbound h r.set (r5 r.d) (r5 r.a))
  | 30 => some (kRow .g .g .zero .zero .zero fun h r => .mbound h r.set (r5 r.d) (r5 r.a))
  | 31 => some (kRow .g .g .zero .zero .zero fun h r => .mbound h r.set (r5 r.d) (r5 r.a))
  | 32 => some (kRow .zero .g .zero .zero .zero fun h r => .mcfg h (r5 r.a))
  | 36 => some (kRow .zero .zero .zero .zero .zero fun h _ => .dbar h)
  | _ => none

/-- Class 0x0B, memory (R74). -/
def row0B : Nat → Option Row
  | 0 => some (mRow .gf .g .g fun h r => .ld h r.size (GF.ofCode r.d) r.mem)
  | 1 => some ({ mRow .g .g .g (fun h r => .ldSigned h r.size (r5 r.d) r.mem) with limits := fun r => [(48, r.sz < 3)] })
  | 2 => some (mRow0 .g2 .g .g fun h r => .ldB128 h (r5 r.d) r.mem)
  | 3 => some (mRow .gf .g .g fun h r => .st h r.size r.mem (GF.ofCode r.d))
  | 4 => some (mRow0 .g2 .g .g fun h r => .stB128 h r.mem (r5 r.d))
  | 5 => some (mRow0 .zero .g .g fun h r => .pref h r.mem)
  | 6 => some (mRow0 .zero .g .g fun h r => .flush h r.mem)
  | 8 => some (mRow0 .v .g .g fun h r => .vld h (r5 r.d) r.mem)
  | 9 => some (mRow0 .v .g .g fun h r => .vst h r.mem (r5 r.d))
  | 10 => some (mRow0 .v .g .v fun h r => .vgather h (r5 r.d) (r5 r.a) (r5 r.b) (BitVec.ofNat 2 r.sc) (BitVec.ofNat 48 r.disp))
  | 11 => some (mRow0 .v .g .v fun h r => .vscatter h (r5 r.d) (r5 r.a) (r5 r.b) (BitVec.ofNat 2 r.sc) (BitVec.ofNat 48 r.disp))
  | 16 => some (mRow .g .g .g fun h r => .ldacq h r.size (Scope.ofCode (r.fn % 8)) (r5 r.d) r.mem)
  | 17 => some (mRow .g .g .g fun h r => .ldacq h r.size (Scope.ofCode (r.fn % 8)) (r5 r.d) r.mem)
  | 18 => some (mRow .g .g .g fun h r => .ldacq h r.size (Scope.ofCode (r.fn % 8)) (r5 r.d) r.mem)
  | 19 => some (mRow .g .g .g fun h r => .ldacq h r.size (Scope.ofCode (r.fn % 8)) (r5 r.d) r.mem)
  | 20 => some (mRow .g .g .g fun h r => .ldacq h r.size (Scope.ofCode (r.fn % 8)) (r5 r.d) r.mem)
  | 21 => some (mRow .g .g .g fun h r => .ldacq h r.size (Scope.ofCode (r.fn % 8)) (r5 r.d) r.mem)
  | 24 => some (mRow .g .g .g fun h r => .strel h r.size (Scope.ofCode (r.fn % 8)) r.mem (r5 r.d))
  | 25 => some (mRow .g .g .g fun h r => .strel h r.size (Scope.ofCode (r.fn % 8)) r.mem (r5 r.d))
  | 26 => some (mRow .g .g .g fun h r => .strel h r.size (Scope.ofCode (r.fn % 8)) r.mem (r5 r.d))
  | 27 => some (mRow .g .g .g fun h r => .strel h r.size (Scope.ofCode (r.fn % 8)) r.mem (r5 r.d))
  | 28 => some (mRow .g .g .g fun h r => .strel h r.size (Scope.ofCode (r.fn % 8)) r.mem (r5 r.d))
  | 29 => some (mRow .g .g .g fun h r => .strel h r.size (Scope.ofCode (r.fn % 8)) r.mem (r5 r.d))
  | _ => none

/-- Class 0x0C, waits (R75). -/
def row0C : Nat → Option Row
  | 0 => some (iRow .zero .zero 65536 fun h r => .waitcL h (BitVec.ofNat 16 r.lo))
  | 1 => some (iRow .zero .zero 65536 fun h r => .waitcS h (BitVec.ofNat 16 r.lo))
  | 2 => some (kRow .p .g .g .g .zero fun h r => .mwait h (r4 r.d) (r5 r.a) (r5 r.b) (r5 r.c))
  | _ => none

/-- Width and no-return bit of an integer atomic's function (R76). -/
def Raw.amoW (r : Raw) : AmoW := AmoW.ofCode (fld r.fn 1 2)
def Raw.amoN (r : Raw) : Bool := bit r.fn

/-- Form of an integer atomic but amocas: D is zero in the no-return form (R76). -/
def amoRow (n : Bool) (build : Hdr → AmoW → Bool → G → G → G → Instr) : Row :=
  kRow (if n then .zero else .g) .g .g .zero .zero fun h r => build h r.amoW r.amoN (r5 r.a) (r5 r.d) (r5 r.b)

/-- Form of amocas (R76). -/
def casRow (n wide : Bool) : Row :=
  kRow (if n then .zero else if wide then .g2 else .g) .g (if wide then .g2 else .g) (if wide then .g2 else .g) .zero
    fun h r => .amocas h r.amoW r.amoN (r5 r.a) (r5 r.d) (r5 r.b) (r5 r.c)

/-- Class 0x0D, integer atomics: the function is 8 × op + 2 × width + N, and width 2 is amocas alone (R76). -/
def row0D (fn : Nat) : Option Row :=
  if fn % 8 / 2 = 3 then none else if fn % 8 / 2 = 2 then (if fn / 8 = 9 then some (casRow (bit fn) true) else none) else
  match fn / 8 with
  | 0 => some (amoRow (bit fn) fun h w n a d b => .amoadd h w n a d b)
  | 1 => some (amoRow (bit fn) fun h w n a d b => .amoand h w n a d b)
  | 2 => some (amoRow (bit fn) fun h w n a d b => .amoor h w n a d b)
  | 3 => some (amoRow (bit fn) fun h w n a d b => .amoxor h w n a d b)
  | 4 => some (amoRow (bit fn) fun h w n a d b => .amomin h w n a d b)
  | 5 => some (amoRow (bit fn) fun h w n a d b => .amomax h w n a d b)
  | 6 => some (amoRow (bit fn) fun h w n a d b => .amominz h w n a d b)
  | 7 => some (amoRow (bit fn) fun h w n a d b => .amomaxz h w n a d b)
  | 8 => some (amoRow (bit fn) fun h w n a d b => .amoswp h w n a d b)
  | 9 => some (casRow (bit fn) false)
  | _ => none

/-- Form of a floating-point atomic (R77). -/
def amofRow (n : Bool) (build : Hdr → AmoF → Bool → G → GF → GF → Instr) : Row :=
  kRow (if n then .zero else .gf) .g .gf .zero .zero fun h r =>
    build h (AmoF.ofCode (fld r.fn 1 3)) (bit r.fn) (r5 r.a) (GF.ofCode r.d) (GF.ofCode r.b)

/-- Class 0x0E, floating-point atomics: the function is 16 × op + 2 × type + N (R77). -/
def row0E (fn : Nat) : Option Row :=
  if fn % 16 / 2 < 5 then
    match fn / 16 with
    | 0 => some (amofRow (bit fn) fun h t n a d b => .amofadd h t n a d b)
    | 1 => some (amofRow (bit fn) fun h t n a d b => .amofmin h t n a d b)
    | 2 => some (amofRow (bit fn) fun h t n a d b => .amofmax h t n a d b)
    | _ => none
  else none

/-- SCOPE is zero when ST is zero (R352, R479). -/
def scopeZero : Raw → List (Nat × Nat) := fun r => if bit (fld r.lo 35 1) then [] else [(32, fld r.lo 32 3)]
def scopeOk : Raw → List (Nat × Bool) := fun r => [(32, fld r.lo 32 3 < 6)]

/-- Class 0x0F, copies (R78, R352). -/
def row0F : Nat → Option Row
  | 0 => some (sRow .g .g .g .g .zero scopeZero scopeOk fun h r => .cpy h (BitVec.ofNat 2 (fld r.lo 36 2)) (bit (fld r.lo 35 1)) (Scope.ofCode (fld r.lo 32 3)) (BitVec.ofNat 16 (fld r.lo 16 16)) (BitVec.ofNat 16 (fld r.lo 0 16)) (r5 r.d) (r5 r.a) (r5 r.b) (r5 r.c))
  | 1 => some (sRow .g .g .g .g .g (fun r => (0, fld r.lo 0 24) :: scopeZero r) (fun r => (24, fld r.lo 24 8 != 0) :: scopeOk r) fun h r => .cpybt h (BitVec.ofNat 2 (fld r.lo 36 2)) (bit (fld r.lo 35 1)) (Scope.ofCode (fld r.lo 32 3)) (BitVec.ofNat 8 (fld r.lo 24 8)) (r5 r.d) (r5 r.a) (r5 r.b) (r5 r.c) (r5 r.e))
  | 2 => some (kRow .zero .g .g .zero .zero fun h r => .cpchain h (r5 r.a) (r5 r.b))
  | 3 => some (kRow .g .g .zero .zero .zero fun h r => .cpwp h (r5 r.d) (r5 r.a))
  | 4 => some (kRow .g .g .zero .zero .zero fun h r => .cpstat h (r5 r.d) (r5 r.a))
  | _ => none

/-- Class 0x10, posts (R78, R294). -/
def row10 : Nat → Option Row
  | 0 => some (kRow .zero .g .g .zero .zero fun h r => .pput h (r5 r.a) (r5 r.b))
  | 1 => some (kRow .zero .g .v2 .zero .zero fun h r => .pputv h (r5 r.a) (r5 r.b))
  | 2 => some (kRow .zero .g .g .zero .zero fun h r => .pputg h (r5 r.a) (r5 r.b))
  | 3 => some (kRow .g .g .g .zero .zero fun h r => .pget h (r5 r.d) (r5 r.a) (r5 r.b))
  | 4 => some (sRow .v2 .g .zero .g .zero (fun r => [(6, fld r.lo 6 32)]) noL fun h r => .pgetv h (r5 r.d) (r5 r.a) (r5 r.c) (BitVec.ofNat 6 r.lo))
  | 5 => some (sRow .g .g .zero .g .zero (fun r => [(11, fld r.lo 11 27)]) noL fun h r => .pgetg h (r5 r.d) (r5 r.a) (r5 r.c) (BitVec.ofNat 11 r.lo))
  | 6 => some (kRow .g .g .zero .zero .zero fun h r => .pfresh h (r5 r.d) (r5 r.a))
  | 7 => some (kRow .zero .g .g .zero .zero fun h r => .pwatch h (r5 r.a) (r5 r.b))
  | _ => none

/-- Zero fields of invoke: bits [11:0], WARG at or above NARG, C when RP is zero (R377, R479). -/
def invokeZeros (r : Raw) : List (Nat × Nat) :=
  [(0, fld r.lo 0 12), (14 + fld r.lo 22 4, fld r.lo 14 8 / 2 ^ fld r.lo 22 4)] ++
  (if bit (fld r.lo 12 1) then [] else [(45, r.c)])

/-- Class 0x11, waybills (R78, R377, R378). -/
def row11 : Nat → Option Row
  | 0 => some (sRow .g .g .g .g .zero invokeZeros (fun r => [(22, fld r.lo 22 4 < 9)]) fun h r => .invoke h (r5 r.d) (r5 r.a) (r5 r.b) (r5 r.c) (BitVec.ofNat 12 (fld r.lo 26 12)) (BitVec.ofNat 4 (fld r.lo 22 4)) (BitVec.ofNat 8 (fld r.lo 14 8)) (bit (fld r.lo 13 1)) (bit (fld r.lo 12 1)))
  | 1 => some (sRow .g .g .zero .zero .zero (fun r => [(2, fld r.lo 2 36)]) (fun r => [(0, fld r.lo 0 2 < 2)]) fun h r => .wbstate h (r5 r.d) (r5 r.a) (BitVec.ofNat 2 r.lo))
  | 2 => some (kRow .zero .g .g .zero .zero fun h r => .wbbind h (r5 r.a) (r5 r.b))
  | 3 => some (kRow .zero .g .zero .zero .zero fun h r => .wbdrop h (r5 r.a))
  | 4 => some (sRow .g .g .zero .zero .zero (fun r => [(2, fld r.lo 2 36)]) (fun r => [(0, fld r.lo 0 2 < 3)]) fun h r => .wbcause h (r5 r.d) (r5 r.a) (BitVec.ofNat 2 r.lo))
  | _ => none

/-- Class 0x12, time (R79). -/
def row12 : Nat → Option Row
  | 0 => some (kRow .g .zero .zero .zero .zero fun h r => .time h (r5 r.d))
  | 1 => some (kRow .zero .g .g .zero .zero fun h r => .ttab h (r5 r.a) (r5 r.b))
  | 2 => some (kRow .g .g .zero .zero .zero fun h r => .tstat h (r5 r.d) (r5 r.a))
  | _ => none

/-- The row of a function in an assigned class (R63). -/
def rowOf (cls fn : Nat) : Option Row :=
  match cls with
  | 0x00 => row00 fn
  | 0x01 => row01 fn
  | 0x02 => row02 fn
  | 0x03 => row03 (fn / 2)
  | 0x04 => row04 fn
  | 0x05 => row05 fn
  | 0x06 => row06 fn
  | 0x07 => row07 fn
  | 0x08 => row08 fn
  | 0x09 => row09 fn
  | 0x0A => row0A fn
  | 0x0B => row0B fn
  | 0x0C => row0C fn
  | 0x0D => row0D fn
  | 0x0E => row0E fn
  | 0x0F => row0F fn
  | 0x10 => row10 fn
  | 0x11 => row11 fn
  | 0x12 => row12 fn
  | _ => none

/-- Whether the cache hint is accepted (R55): classes 0x0A, 0x0B, 0x0D to 0x10, and mwait. -/
def cacheAccepted (cls fn : Nat) : Bool :=
  cls == 0x0A || cls == 0x0B || (0x0D ≤ cls && cls ≤ 0x10) || (cls == 0x0C && fn == 2)

/-- What decoding answers: an instruction, or the reason and bit of the illegal-instruction trap (R62). -/
inductive Decoded where
  | ok (i : Instr)
  | illegal (reason : Nat) (bit : Nat)
  deriving DecidableEq, Repr

/-- The lowest set bit of a nonzero number below 2^64, counted from `at`. -/
def lowBit : Nat → Nat → Nat → Nat
  | 0, b, _ => b
  | n + 1, b, x => if x % 2 = 1 then b else lowBit n (b + 1) (x / 2)

/-- The lowest nonzero bit among fields that must be zero (check 4). -/
def lowestNonzero : List (Nat × Nat) → Option Nat
  | [] => none
  | (b, x) :: l =>
    match lowestNonzero l with
    | none => if x = 0 then none else some (lowBit 64 b x)
    | some m => if x = 0 then some m else some (Nat.min m (lowBit 64 b x))

/-- The lowest bit among fields that fail their limits (check 6). -/
def lowestFailing : List (Nat × Bool) → Option Nat
  | [] => none
  | (b, ok) :: l =>
    match lowestFailing l with
    | none => if ok then none else some b
    | some m => if ok then some m else some (Nat.min m b)

/-- All the fields a row requires to be zero: its own, and each operand field that it leaves unused. -/
def Row.allZeros (w : Row) (r : Raw) : List (Nat × Nat) :=
  w.zeros r ++ (if w.e = .zero then [(38, r.e)] else []) ++ (if w.c = .zero then [(45, r.c)] else []) ++
  (if w.b = .zero then [(52, r.b)] else []) ++ (if w.a = .zero then [(59, r.a)] else []) ++
  (if w.d = .zero then [(66, r.d)] else [])

/-- Check 5: D, A, B, C, E in that order. -/
def Row.badOperand (w : Row) (r : Raw) : Option Nat :=
  if !w.d.accepts r.d then some 66 else if !w.a.accepts r.a then some 59 else if !w.b.accepts r.b then some 52
  else if !w.c.accepts r.c then some 45 else if !w.e.accepts r.e then some 38 else none

/-- The common fields of a word whose scheduling hint is not 0b11. -/
def Raw.hdr (r : Raw) : Hdr :=
  { gs := bit r.gs, gp := BitVec.ofNat 4 r.gp, sw := bit r.sw, cache := CacheHint.ofCode r.cache,
    sched := SchedHint.ofCode r.sched }

/-- The checks of R62 from the third on, for a word whose row is known. -/
def Row.decode (w : Row) (r : Raw) : Decoded :=
  if r.sched = 3 then .illegal 3 73
  else if r.cache ≠ 0 ∧ cacheAccepted r.cls r.fn = false then .illegal 3 75
  else match lowestNonzero (w.allZeros r) with
    | some b => .illegal 4 b
    | none => match w.badOperand r with
      | some b => .illegal 5 b
      | none => match lowestFailing (w.limits r) with
        | some b => .illegal 6 b
        | none => .ok (w.build r.hdr r)

/-- Decoding of the fields (R62, R63). -/
def decodeRaw (r : Raw) : Decoded :=
  if r.cls > 0x12 then .illegal 1 90
  else match rowOf r.cls r.fn with
    | none => .illegal 2 83
    | some w => w.decode r

/-- The decoder: total on every 96-bit word. -/
def decode (x : InsnWord) : Decoded := decodeRaw (Raw.ofWord x.toNat)

/-- The decoder on a number of `nbits` bits whose bit 0 is the least significant bit of the first 32-bit word; the
bits above are zero. Words are little-endian with the first at the lowest address (R50), so this is the word itself. -/
def decodeTableWord (nbits w : Nat) : Option Instr :=
  match decode (BitVec.ofNat 96 (w % 2 ^ nbits)) with
  | .ok i => some i
  | .illegal _ _ => none

/-! ## The encoder -/

def b1 (b : Bool) : Nat := if b then 1 else 0

/-- A word from its class, function, common fields, operands and low 52 bits (R53). -/
def mkRaw (h : Hdr) (cls fn d a b lo : Nat) : Raw :=
  { cls, fn, gs := b1 h.gs, gp := h.gp.toNat, sw := b1 h.sw, cache := h.cache.code, sched := h.sched.code, d, a, b, lo }

/-- The low 52 bits of forms K and X: C, E and the rest (R56). -/
def ce (c e sub : Nat) : Nat := c * 2 ^ 45 + e * 2 ^ 38 + sub

/-- The sub-fields of R57. -/
def xsub (rm td ts : Nat) (m : VMask) (cnd : Nat) : Nat :=
  rm * 2 ^ 35 + td * 2 ^ 30 + ts * 2 ^ 25 + b1 m.me * 2 ^ 24 + m.km.toNat * 2 ^ 21 + b1 m.mz * 2 ^ 20 + cnd * 2 ^ 16

def VMask.off : VMask := ⟨false, 0, false⟩

/-- The low 52 bits of form M (R56). -/
def mlo (m : MemRef) (sz : Nat) : Nat := m.sc.toNat * 2 ^ 50 + sz * 2 ^ 48 + m.disp.toNat

/-- Codes of the kinds (R60). -/
def cv (n : BitVec 5) : Nat := 64 + n.toNat
def cf (n : BitVec 5) : Nat := 32 + n.toNat
def cp (n : BitVec 4) : Nat := 96 + n.toNat
def ck (n : BitVec 3) : Nat := 112 + n.toNat
def cv8 (n : BitVec 3) : Nat := 64 + n.toNat
def cy (n : BitVec 2) : Nat := 120 + n.toNat
def cz (n : BitVec 2) : Nat := 124 + n.toNat

/-- The sub-fields of mmac (R244). -/
def mmacSub (s : MmacSub) : Nat :=
  s.ta.code * 2 ^ 33 + s.tb.code * 2 ^ 28 + b1 s.sa * 2 ^ 27 + b1 s.sb * 2 ^ 26 + b1 s.bt * 2 ^ 25 + b1 s.a4 * 2 ^ 24 +
  b1 s.b4 * 2 ^ 23 + b1 s.ye * 2 ^ 22 + s.ys.toNat * 2 ^ 20 + b1 s.ze * 2 ^ 19 + s.zs.toNat * 2 ^ 17 + b1 s.zk * 2 ^ 16

/-- Class 0x03 word: function 2 × op + W (R66). -/
def int3 (h : Hdr) (op : Nat) (w : Bool) (d a b c e : Nat) : Raw := mkRaw h 0x03 (2 * op + b1 w) d a b (ce c e 0)

/-- Atomic words (R76, R77). -/
def amoE (h : Hdr) (op : Nat) (w : AmoW) (n : Bool) (a d b c : G) : Raw :=
  mkRaw h 0x0D (8 * op + 2 * w.code + b1 n) d.toNat a.toNat b.toNat (ce c.toNat 0 0)
def amofE (h : Hdr) (op : Nat) (t : AmoF) (n : Bool) (a : G) (d b : GF) : Raw :=
  mkRaw h 0x0E (16 * op + 2 * t.code + b1 n) d.code a.toNat b.code 0

/-- The fields of an instruction's word; an event has none. -/
def Instr.raw : Instr → Option Raw
  | .nop h => some (mkRaw h 0x00 0x00 0 0 0 0)
  | .trap h n => some (mkRaw h 0x00 0x01 0 0 0 n.toNat)
  | .eret h => some (mkRaw h 0x00 0x02 0 0 0 0)
  | .csrr h d n => some (mkRaw h 0x00 0x03 d.toNat 0 0 n.toNat)
  | .csrw h d n a => some (mkRaw h 0x00 4 d.toNat a.toNat 0 n.toNat)
  | .csrs h d n a => some (mkRaw h 0x00 5 d.toNat a.toNat 0 n.toNat)
  | .csrc h d n a => some (mkRaw h 0x00 6 d.toNat a.toNat 0 n.toNat)
  | .brk h n => some (mkRaw h 0x00 0x07 0 0 0 n.toNat)
  | .ifence h => some (mkRaw h 0x00 0x08 0 0 0 0)
  | .bra h o => some (mkRaw h 0x01 0x00 0 0 0 o.toNat)
  | .call h d o => some (mkRaw h 0x01 0x01 d.toNat 0 0 o.toNat)
  | .ret h a => some (mkRaw h 0x01 0x02 0 a.toNat 0 0)
  | .jmpi h d a => some (mkRaw h 0x01 0x03 d.toNat a.toNat 0 0)
  | .loop h d o => some (mkRaw h 0x01 0x04 d.toNat 0 0 o.toNat)
  | .rdone h => some (mkRaw h 0x01 0x05 0 0 0 0)
  | .sstart h a b => some (mkRaw h 0x02 0x00 0 a.toNat b.toNat 0)
  | .sstop h a => some (mkRaw h 0x02 0x01 0 a.toNat 0 0)
  | .sbar h a => some (mkRaw h 0x02 0x02 0 a.toNat 0 0)
  | .launch h d a c => some (mkRaw h 0x02 0x03 d.toNat a.toNat 0 (ce (cp c) 0 0))
  | .lfin h a => some (mkRaw h 0x02 0x04 0 a.toNat 0 0)
  | .cancel h a b => some (mkRaw h 0x02 0x05 0 a.toNat b.toNat 0)
  | .ccount h d a b => some (mkRaw h 0x02 0x06 d.toNat a.toNat b.toNat 0)
  | .add h w d a b => some (int3 h 0 w d.toNat a.toNat b.toNat 0 0)
  | .sub h w d a b => some (int3 h 1 w d.toNat a.toNat b.toNat 0 0)
  | .mul h w d a b => some (int3 h 2 w d.toNat a.toNat b.toNat 0 0)
  | .mulh h w d a b => some (int3 h 3 w d.toNat a.toNat b.toNat 0 0)
  | .mulhz h w d a b => some (int3 h 4 w d.toNat a.toNat b.toNat 0 0)
  | .div h w d a b => some (int3 h 5 w d.toNat a.toNat b.toNat 0 0)
  | .divz h w d a b => some (int3 h 6 w d.toNat a.toNat b.toNat 0 0)
  | .rem h w d a b => some (int3 h 7 w d.toNat a.toNat b.toNat 0 0)
  | .remz h w d a b => some (int3 h 8 w d.toNat a.toNat b.toNat 0 0)
  | .and h w d a b => some (int3 h 9 w d.toNat a.toNat b.toNat 0 0)
  | .or h w d a b => some (int3 h 10 w d.toNat a.toNat b.toNat 0 0)
  | .xor h w d a b => some (int3 h 11 w d.toNat a.toNat b.toNat 0 0)
  | .andn h w d a b => some (int3 h 12 w d.toNat a.toNat b.toNat 0 0)
  | .orn h w d a b => some (int3 h 13 w d.toNat a.toNat b.toNat 0 0)
  | .shl h w d a b => some (int3 h 14 w d.toNat a.toNat b.toNat 0 0)
  | .shr h w d a b => some (int3 h 15 w d.toNat a.toNat b.toNat 0 0)
  | .sha h w d a b => some (int3 h 16 w d.toNat a.toNat b.toNat 0 0)
  | .rot h w d a b => some (int3 h 17 w d.toNat a.toNat b.toNat 0 0)
  | .min h w d a b => some (int3 h 18 w d.toNat a.toNat b.toNat 0 0)
  | .max h w d a b => some (int3 h 19 w d.toNat a.toNat b.toNat 0 0)
  | .minz h w d a b => some (int3 h 20 w d.toNat a.toNat b.toNat 0 0)
  | .maxz h w d a b => some (int3 h 21 w d.toNat a.toNat b.toNat 0 0)
  | .clz h w d a => some (int3 h 22 w d.toNat a.toNat 0 0 0)
  | .ctz h w d a => some (int3 h 23 w d.toNat a.toNat 0 0 0)
  | .popc h w d a => some (int3 h 24 w d.toNat a.toNat 0 0 0)
  | .bswap h w d a => some (int3 h 30 w d.toNat a.toNat 0 0 0)
  | .bfx h w d a b c => some (int3 h 25 w d.toNat a.toNat b.toNat c.toNat 0)
  | .bfxs h w d a b c => some (int3 h 26 w d.toNat a.toNat b.toNat c.toNat 0)
  | .mad h w d a b c => some (int3 h 29 w d.toNat a.toNat b.toNat c.toNat 0)
  | .bfi h w d a b c e => some (int3 h 27 w d.toNat a.toNat b.toNat c.toNat e.toNat)
  | .sel h w d a b c => some (int3 h 28 w d.toNat a.toNat b.toNat (cp c) 0)
  | .cmpEq h w d a b => some (int3 h 31 w (cp d) a.toNat b.toNat 0 0)
  | .cmpNe h w d a b => some (int3 h 32 w (cp d) a.toNat b.toNat 0 0)
  | .cmpLt h w d a b => some (int3 h 33 w (cp d) a.toNat b.toNat 0 0)
  | .cmpGe h w d a b => some (int3 h 34 w (cp d) a.toNat b.toNat 0 0)
  | .cmpLtz h w d a b => some (int3 h 35 w (cp d) a.toNat b.toNat 0 0)
  | .cmpGez h w d a b => some (int3 h 36 w (cp d) a.toNat b.toNat 0 0)
  | .addi h w d a i => some (mkRaw h 0x04 (b1 w) d.toNat a.toNat 0 i.toNat)
  | .shli h w d a n => some (mkRaw h 0x04 (2 + b1 w) d.toNat a.toNat 0 n.toNat)
  | .shri h w d a n => some (mkRaw h 0x04 (4 + b1 w) d.toNat a.toNat 0 n.toNat)
  | .shai h w d a n => some (mkRaw h 0x04 (6 + b1 w) d.toNat a.toNat 0 n.toNat)
  | .movi h d i => some (mkRaw h 0x04 0x08 d.toNat 0 0 i.toNat)
  | .movhi h d a i => some (mkRaw h 0x04 0x09 d.toNat a.toNat 0 i.toNat)
  | .cmpiEq h d a i => some (mkRaw h 0x04 10 (cp d) a.toNat 0 i.toNat)
  | .cmpiNe h d a i => some (mkRaw h 0x04 11 (cp d) a.toNat 0 i.toNat)
  | .cmpiLt h d a i => some (mkRaw h 0x04 12 (cp d) a.toNat 0 i.toNat)
  | .cmpiGe h d a i => some (mkRaw h 0x04 13 (cp d) a.toNat 0 i.toNat)
  | .cmpiLtz h d a i => some (mkRaw h 0x04 14 (cp d) a.toNat 0 i.toNat)
  | .cmpiGez h d a i => some (mkRaw h 0x04 15 (cp d) a.toNat 0 i.toNat)
  | .lea h d m => some (mkRaw h 0x04 0x10 d.toNat m.base.toNat m.index.toNat (mlo m 0))
  | .pand h d a b => some (mkRaw h 0x05 0 (cp d) (cp a) (cp b) 0)
  | .por h d a b => some (mkRaw h 0x05 1 (cp d) (cp a) (cp b) 0)
  | .pxor h d a b => some (mkRaw h 0x05 2 (cp d) (cp a) (cp b) 0)
  | .pnot h d a => some (mkRaw h 0x05 3 (cp d) (cp a) 0 0)
  | .pmov h d a => some (mkRaw h 0x05 4 (cp d) (cp a) 0 0)
  | .fadd h t rm d a b => some (mkRaw h 0x06 0 (cf d) (cf a) (cf b) (ce 0 0 (xsub rm.code t.code 0 .off 0)))
  | .fsub h t rm d a b => some (mkRaw h 0x06 1 (cf d) (cf a) (cf b) (ce 0 0 (xsub rm.code t.code 0 .off 0)))
  | .fmul h t rm d a b => some (mkRaw h 0x06 2 (cf d) (cf a) (cf b) (ce 0 0 (xsub rm.code t.code 0 .off 0)))
  | .fdiv h t rm d a b => some (mkRaw h 0x06 6 (cf d) (cf a) (cf b) (ce 0 0 (xsub rm.code t.code 0 .off 0)))
  | .ffma h t rm d a b c => some (mkRaw h 0x06 3 (cf d) (cf a) (cf b) (ce (cf c) 0 (xsub rm.code t.code 0 .off 0)))
  | .ffms h t rm d a b c => some (mkRaw h 0x06 4 (cf d) (cf a) (cf b) (ce (cf c) 0 (xsub rm.code t.code 0 .off 0)))
  | .fnma h t rm d a b c => some (mkRaw h 0x06 5 (cf d) (cf a) (cf b) (ce (cf c) 0 (xsub rm.code t.code 0 .off 0)))
  | .fsqrt h t rm d a => some (mkRaw h 0x06 7 (cf d) (cf a) 0 (ce 0 0 (xsub rm.code t.code 0 .off 0)))
  | .fmin h t d a b => some (mkRaw h 0x06 8 (cf d) (cf a) (cf b) (ce 0 0 (xsub 0 t.code 0 .off 0)))
  | .fmax h t d a b => some (mkRaw h 0x06 9 (cf d) (cf a) (cf b) (ce 0 0 (xsub 0 t.code 0 .off 0)))
  | .fsgn h t d a b => some (mkRaw h 0x06 12 (cf d) (cf a) (cf b) (ce 0 0 (xsub 0 t.code 0 .off 0)))
  | .fabs h t d a => some (mkRaw h 0x06 10 (cf d) (cf a) 0 (ce 0 0 (xsub 0 t.code 0 .off 0)))
  | .fneg h t d a => some (mkRaw h 0x06 11 (cf d) (cf a) 0 (ce 0 0 (xsub 0 t.code 0 .off 0)))
  | .fcmp h t c d a b => some (mkRaw h 0x06 13 (cp d) (cf a) (cf b) (ce 0 0 (xsub 0 0 t.code .off c.code)))
  | .fclass h t d a => some (mkRaw h 0x06 14 d.toNat (cf a) 0 (ce 0 0 (xsub 0 0 t.code .off 0)))
  | .fcvt h td ts rm d a => some (mkRaw h 0x06 15 (cf d) (cf a) 0 (ce 0 0 (xsub rm.code td.code ts.code .off 0)))
  | .fcvti h td ts rm d a => some (mkRaw h 0x06 16 d.toNat (cf a) 0 (ce 0 0 (xsub rm.code td.code ts.code .off 0)))
  | .icvtf h td ts rm d a => some (mkRaw h 0x06 17 (cf d) a.toNat 0 (ce 0 0 (xsub rm.code td.code ts.code .off 0)))
  | .fmov h d a => some (mkRaw h 0x06 18 d.code a.code 0 0)
  | .vadd h t rm m d a b => some (mkRaw h 0x07 0 (cv d) (cv a) (cv b) (ce 0 0 (xsub rm.code t.code 0 m 0)))
  | .vsub h t rm m d a b => some (mkRaw h 0x07 1 (cv d) (cv a) (cv b) (ce 0 0 (xsub rm.code t.code 0 m 0)))
  | .vmul h t rm m d a b => some (mkRaw h 0x07 2 (cv d) (cv a) (cv b) (ce 0 0 (xsub rm.code t.code 0 m 0)))
  | .vfma h t rm m d a b c => some (mkRaw h 0x07 3 (cv d) (cv a) (cv b) (ce (cv c) 0 (xsub rm.code t.code 0 m 0)))
  | .vfms h t rm m d a b c => some (mkRaw h 0x07 4 (cv d) (cv a) (cv b) (ce (cv c) 0 (xsub rm.code t.code 0 m 0)))
  | .vmin h t m d a b => some (mkRaw h 0x07 5 (cv d) (cv a) (cv b) (ce 0 0 (xsub 0 t.code 0 m 0)))
  | .vmax h t m d a b => some (mkRaw h 0x07 6 (cv d) (cv a) (cv b) (ce 0 0 (xsub 0 t.code 0 m 0)))
  | .vand h t m d a b => some (mkRaw h 0x07 9 (cv d) (cv a) (cv b) (ce 0 0 (xsub 0 t.code 0 m 0)))
  | .vor h t m d a b => some (mkRaw h 0x07 10 (cv d) (cv a) (cv b) (ce 0 0 (xsub 0 t.code 0 m 0)))
  | .vxor h t m d a b => some (mkRaw h 0x07 11 (cv d) (cv a) (cv b) (ce 0 0 (xsub 0 t.code 0 m 0)))
  | .vperm h t m d a b => some (mkRaw h 0x07 21 (cv d) (cv a) (cv b) (ce 0 0 (xsub 0 t.code 0 m 0)))
  | .vabs h t m d a => some (mkRaw h 0x07 7 (cv d) (cv a) 0 (ce 0 0 (xsub 0 t.code 0 m 0)))
  | .vneg h t m d a => some (mkRaw h 0x07 8 (cv d) (cv a) 0 (ce 0 0 (xsub 0 t.code 0 m 0)))
  | .vshl h t m d a b => some (mkRaw h 0x07 12 (cv d) (cv a) b.code (ce 0 0 (xsub 0 t.code 0 m 0)))
  | .vshr h t m d a b => some (mkRaw h 0x07 13 (cv d) (cv a) b.code (ce 0 0 (xsub 0 t.code 0 m 0)))
  | .vsha h t m d a b => some (mkRaw h 0x07 14 (cv d) (cv a) b.code (ce 0 0 (xsub 0 t.code 0 m 0)))
  | .vcmp h t c m d a b => some (mkRaw h 0x07 15 (ck d) (cv a) (cv b) (ce 0 0 (xsub 0 0 t.code m c.code)))
  | .vsel h t d a b c => some (mkRaw h 0x07 16 (cv d) (cv a) (cv b) (ce (ck c) 0 (xsub 0 t.code 0 .off 0)))
  | .vcvt h td ts rm m d a => some (mkRaw h 0x07 17 (cv d) (cv a) 0 (ce 0 0 (xsub rm.code td.code ts.code m 0)))
  | .vbcast h t m d a => some (mkRaw h 0x07 18 (cv d) a.code 0 (ce 0 0 (xsub 0 t.code 0 m 0)))
  | .vmovg h t d a b => some (mkRaw h 0x07 19 (cv d) a.toNat b.toNat (ce 0 0 (xsub 0 t.code 0 .off 0)))
  | .vext h t d a b => some (mkRaw h 0x07 20 d.code (cv a) b.toNat (ce 0 0 (xsub 0 t.code 0 .off 0)))
  | .vredadd h t rm m d a => some (mkRaw h 0x07 22 d.code (cv a) 0 (ce 0 0 (xsub rm.code t.code 0 m 0)))
  | .vredmax h t m d a => some (mkRaw h 0x07 23 d.code (cv a) 0 (ce 0 0 (xsub 0 t.code 0 m 0)))
  | .vredmin h t m d a => some (mkRaw h 0x07 24 d.code (cv a) 0 (ce 0 0 (xsub 0 t.code 0 m 0)))
  | .vrcp h t m d a => some (mkRaw h 0x07 25 (cv d) (cv a) 0 (ce 0 0 (xsub 0 t.code 0 m 0)))
  | .vrsq h t m d a => some (mkRaw h 0x07 26 (cv d) (cv a) 0 (ce 0 0 (xsub 0 t.code 0 m 0)))
  | .vexp2 h t m d a => some (mkRaw h 0x07 27 (cv d) (cv a) 0 (ce 0 0 (xsub 0 t.code 0 m 0)))
  | .vlog2 h t m d a => some (mkRaw h 0x07 28 (cv d) (cv a) 0 (ce 0 0 (xsub 0 t.code 0 m 0)))
  | .vsin h t m d a => some (mkRaw h 0x07 29 (cv d) (cv a) 0 (ce 0 0 (xsub 0 t.code 0 m 0)))
  | .vcos h t m d a => some (mkRaw h 0x07 30 (cv d) (cv a) 0 (ce 0 0 (xsub 0 t.code 0 m 0)))
  | .vtanh h t m d a => some (mkRaw h 0x07 31 (cv d) (cv a) 0 (ce 0 0 (xsub 0 t.code 0 m 0)))
  | .kand h d a b => some (mkRaw h 0x08 0 (ck d) (ck a) (ck b) 0)
  | .kor h d a b => some (mkRaw h 0x08 1 (ck d) (ck a) (ck b) 0)
  | .knot h d a => some (mkRaw h 0x08 2 (ck d) (ck a) 0 0)
  | .kpop h d a => some (mkRaw h 0x08 3 d.toNat (ck a) 0 0)
  | .sbind h d a => some (mkRaw h 0x09 0 (cv8 d) a.toNat 0 0)
  | .sfree h d => some (mkRaw h 0x09 1 (cv8 d) 0 0 0)
  | .srep h => some (mkRaw h 0x09 2 0 0 0 0)
  | .sstat h d a => some (mkRaw h 0x09 3 d.toNat (cv8 a) 0 0)
  | .mzero h c k => some (mkRaw h 0x0A c.toNat 0 0 0 (k.code * 2 ^ 36))
  | .mmac h c a b s => some (mkRaw h 0x0A (4 + c.toNat) 0 a.toNat b.toNat (mmacSub s))
  | .mdrain h c d p td zr => some (mkRaw h 0x0A (8 + c.toNat) d.toNat 0 0 (ce (cp p) 0 (td.code * 2 ^ 33 + b1 zr * 2 ^ 32)))
  | .mldt h c a k ts => some (mkRaw h 0x0A (12 + c.toNat) 0 a.toNat 0 (k.code * 2 ^ 36 + ts.code * 2 ^ 31))
  | .mfetch h a b => some (mkRaw h 0x0A 16 0 a.toNat b.toNat 0)
  | .msety h d a ad => some (mkRaw h 0x0A 20 (cy d) a.toNat 0 (b1 ad * 2 ^ 37))
  | .msetz h d a ad => some (mkRaw h 0x0A 24 (cz d) a.toNat 0 (b1 ad * 2 ^ 37))
  | .mbound h c d a => some (mkRaw h 0x0A (28 + c.toNat) d.toNat a.toNat 0 0)
  | .mcfg h a => some (mkRaw h 0x0A 32 0 a.toNat 0 0)
  | .dbar h => some (mkRaw h 0x0A 36 0 0 0 0)
  | .ld h sz d m => some (mkRaw h 0x0B 0 d.code m.base.toNat m.index.toNat (mlo m sz.code))
  | .ldSigned h sz d m => some (mkRaw h 0x0B 1 d.toNat m.base.toNat m.index.toNat (mlo m sz.code))
  | .ldB128 h d m => some (mkRaw h 0x0B 2 d.toNat m.base.toNat m.index.toNat (mlo m 0))
  | .st h sz m d => some (mkRaw h 0x0B 3 d.code m.base.toNat m.index.toNat (mlo m sz.code))
  | .stB128 h m d => some (mkRaw h 0x0B 4 d.toNat m.base.toNat m.index.toNat (mlo m 0))
  | .pref h m => some (mkRaw h 0x0B 5 0 m.base.toNat m.index.toNat (mlo m 0))
  | .flush h m => some (mkRaw h 0x0B 6 0 m.base.toNat m.index.toNat (mlo m 0))
  | .vld h d m => some (mkRaw h 0x0B 8 (cv d) m.base.toNat m.index.toNat (mlo m 0))
  | .vst h m d => some (mkRaw h 0x0B 9 (cv d) m.base.toNat m.index.toNat (mlo m 0))
  | .vgather h d a b sc o => some (mkRaw h 0x0B 10 (cv d) a.toNat (cv b) (mlo ⟨0, 0, sc, o⟩ 0))
  | .vscatter h d a b sc o => some (mkRaw h 0x0B 11 (cv d) a.toNat (cv b) (mlo ⟨0, 0, sc, o⟩ 0))
  | .ldacq h sz s d m => some (mkRaw h 0x0B (16 + s.code) d.toNat m.base.toNat m.index.toNat (mlo m sz.code))
  | .strel h sz s m d => some (mkRaw h 0x0B (24 + s.code) d.toNat m.base.toNat m.index.toNat (mlo m sz.code))
  | .waitcL h n => some (mkRaw h 0x0C 0 0 0 0 n.toNat)
  | .waitcS h n => some (mkRaw h 0x0C 1 0 0 0 n.toNat)
  | .mwait h d a b c => some (mkRaw h 0x0C 2 (cp d) a.toNat b.toNat (ce c.toNat 0 0))
  | .amoadd h w n a d b => some (amoE h 0 w n a d b 0)
  | .amoand h w n a d b => some (amoE h 1 w n a d b 0)
  | .amoor h w n a d b => some (amoE h 2 w n a d b 0)
  | .amoxor h w n a d b => some (amoE h 3 w n a d b 0)
  | .amomin h w n a d b => some (amoE h 4 w n a d b 0)
  | .amomax h w n a d b => some (amoE h 5 w n a d b 0)
  | .amominz h w n a d b => some (amoE h 6 w n a d b 0)
  | .amomaxz h w n a d b => some (amoE h 7 w n a d b 0)
  | .amoswp h w n a d b => some (amoE h 8 w n a d b 0)
  | .amocas h w n a d b c => some (amoE h 9 w n a d b c)
  | .amofadd h t n a d b => some (amofE h 0 t n a d b)
  | .amofmin h t n a d b => some (amofE h 1 t n a d b)
  | .amofmax h t n a d b => some (amofE h 2 t n a d b)
  | .cpy h ch stp sco ss ds d a b c => some (mkRaw h 0x0F 0 d.toNat a.toNat b.toNat (ce c.toNat 0 (ch.toNat * 2 ^ 36 + b1 stp * 2 ^ 35 + sco.code * 2 ^ 32 + ss.toNat * 2 ^ 16 + ds.toNat)))
  | .cpybt h ch stp sco nb d a b c e => some (mkRaw h 0x0F 1 d.toNat a.toNat b.toNat (ce c.toNat e.toNat (ch.toNat * 2 ^ 36 + b1 stp * 2 ^ 35 + sco.code * 2 ^ 32 + nb.toNat * 2 ^ 24)))
  | .cpchain h a b => some (mkRaw h 0x0F 2 0 a.toNat b.toNat 0)
  | .cpwp h d a => some (mkRaw h 0x0F 3 d.toNat a.toNat 0 0)
  | .cpstat h d a => some (mkRaw h 0x0F 4 d.toNat a.toNat 0 0)
  | .pput h a b => some (mkRaw h 0x10 0 0 a.toNat b.toNat 0)
  | .pputv h a b => some (mkRaw h 0x10 1 0 a.toNat (cv b) 0)
  | .pputg h a b => some (mkRaw h 0x10 2 0 a.toNat b.toNat 0)
  | .pget h d a b => some (mkRaw h 0x10 3 d.toNat a.toNat b.toNat 0)
  | .pgetv h d a c l => some (mkRaw h 0x10 4 (cv d) a.toNat 0 (ce c.toNat 0 l.toNat))
  | .pgetg h d a c q => some (mkRaw h 0x10 5 d.toNat a.toNat 0 (ce c.toNat 0 q.toNat))
  | .pfresh h d a => some (mkRaw h 0x10 6 d.toNat a.toNat 0 0)
  | .pwatch h a b => some (mkRaw h 0x10 7 0 a.toNat b.toNat 0)
  | .invoke h d a b c svc na wa tw rp => some (mkRaw h 0x11 0 d.toNat a.toNat b.toNat (ce c.toNat 0 (svc.toNat * 2 ^ 26 + na.toNat * 2 ^ 22 + wa.toNat * 2 ^ 14 + b1 tw * 2 ^ 13 + b1 rp * 2 ^ 12)))
  | .wbstate h d a i => some (mkRaw h 0x11 1 d.toNat a.toNat 0 i.toNat)
  | .wbbind h a b => some (mkRaw h 0x11 2 0 a.toNat b.toNat 0)
  | .wbdrop h a => some (mkRaw h 0x11 3 0 a.toNat 0 0)
  | .wbcause h d a i => some (mkRaw h 0x11 4 d.toNat a.toNat 0 i.toNat)
  | .time h d => some (mkRaw h 0x12 0 d.toNat 0 0 0)
  | .ttab h a b => some (mkRaw h 0x12 1 0 a.toNat b.toNat 0)
  | .tstat h d a => some (mkRaw h 0x12 2 d.toNat a.toNat 0 0)
  | .gangForm _ | .gangStart _ | .gangComplete _ | .quarterOpPerform _ _ _ | .pinLineFetch _ | .mwaitPoll _ _ _
  | .mwaitLimitExpiry _ _ | .atomicPerform _ _ _ _ | .replayHoldRelease _ _ _ | .replayTimeout _ _ _
  | .copyCommandStart _ _ | .copyPieceWrite _ _ _ | .copyStampWrite _ _ | .chainRecordRead _ _ _
  | .copyChannelHalt _ _ _ | .copyPageRequestAnswer _ _ _ | .postCommit _ _ _ _ | .postSample _ _ _ _ _ _
  | .longResultReturn _ _ _ _ _ | .storePerformed _ _ _ _ _ | .slotResume _ _ | .deferredTrap _ _
  | .roundTimerExpiry _ | .launchProcessorTurn | .launchComplete _ _ | .phaseStartInstant _ _ | .phaseEnd _ _
  | .throttleChange _ _ | .thermalShutdown | .accessConfirmed _ _ _ _ _ | .runAheadStart _ _ _
  | .pageBatchAnswered _ _ _ _ _ | .pageRequestTimeout _ _ | .remotePageRequestReceive _ _ _ _ _
  | .rempfrsp _ _ | .remoteAccessReceive _ _ _ | .hostPostedWrite _ _ _ _ | .orderingPointSend _
  | .routeAcknowledge _ _ | .hostRead _ _ _ _ | .hostAtomicopInbound _ | .lsubmit _ _ | .regionEnable _ _ _
  | .regionDisable _ _ _ | .protectionRangeWrite _ _ _ _ | .reminv _ | .orderLogConfigWrite _ _ _
  | .partitionEnable | .partitionDisable | .teardownComplete _ | .clearMapScrub _ | .qcfgWrite _ _
  | .vfbindWrite _ _ | .vfCtxbaseWrite _ _ | .monitorCfgWrite _ _ _ | .monsel _ _ | .attreq _ _
  | .attestationReportDone _ | .dbgreq _ _ | .dbgresp _ _ _ | .tbcfgWrite _ | .timetableWindowCommit _ _
  | .flrstatRead _ | .bar0RegisterWrite _ _ _ | .functionLevelReset _ | .timeSliceEnd _ | .preemptStop _
  | .contextSaveComplete _ | .contextRestore _ | .dispatcherInvocationArrive _ _ | .dispatcherHandOut _ _
  | .donePostScan _ | .resultTransfer _ _ | .grantArrive _ _ _ | .jobEndReport _ _ | .ptpSync _ _
  | .holdoverEntry | .clockLost | .timetableFire _ _ | .actionBeaconReceive _ _ _ | .haltBeaconSend _ _
  | .verdictSend _ _ | .verdictReceive _ _ _ | .leadFailover _ _ | .trainFlitReceive _ _ _ _ _
  | .correctedSoftError _ | .uncorrectedSoftError _ | .boot _ _ _ _ | .packageWake | .linkRouteLoss _
  | .waybillValueArrive _ _ _ | .haltBeaconReceive _ _ _ _ | .grantRequestReceive _ _ _
  | .hostCompletionTimeout _ _ _ | .invasiveDebugAccess _ _ => none

/-- The word of an instruction; none for an event, which is not fetched. -/
def encode (i : Instr) : Option InsnWord :=
  match i.raw with
  | some r => some (BitVec.ofNat 96 r.toWord)
  | none => none

/-- Whether a constructor is an encoded instruction. -/
def Instr.encoded (i : Instr) : Bool := i.raw.isSome

end Sys2Proof
end

