-- ==== Sys2Proof/Machine/State.lean ====
section
/-!
DEFINITION. The state of one Carow module as plain data: every register, memory, queue and table that the spec names
(INVENTORY.md lists them with their rules), the few fields of the model's own (`cur`, `agenda`, `out`, `free`, `serial`),
and the state right after reset.
-/
namespace Sys2Proof.Machine

/-- Data by number, sorted by number; a number that is not listed reads as the default its reader gives. -/
abbrev Map (α : Type) := List (Nat × α)

/-- Bytes by address in canonical form (Memory.wf of Ops): an address not listed reads as zero. -/
abbrev Mem := List Host.Cell

/-! ## Faults and refusals -/

/-- What ends a run. -/
inductive Fault where
  /-- Raised by step when the module is powered off: nothing executes (R99, R418). Safe: the real module is stopped. -/
  | off
  deriving DecidableEq, Repr

/-- What the model turns away. -/
inductive Refusal where
  /-- Raised by an arm of exec that has no meaning yet. Safe: nothing is claimed of it. -/
  | notModelled (mnemonic : String)
  deriving DecidableEq, Repr

/-! ## A thread slot -/

/-- What a trap delivers (R421): code, INFO, TRAPPC, TRAPVAL; and whether it is a tile trap (R420). -/
structure TrapRec where
  code : Nat
  info : Nat
  pc : Word
  val : Word
  /-- taken at the instruction named, and not deferred (R420) -/
  precise : Bool
  deriving DecidableEq, Repr

/-- The parks of R83. `again` parks have had no effect: the instruction at PC issues again after the resume. -/
inductive Park where
  | none
  | count (s : Bool) (n : Nat)
  | mwait (d : P) (addr : Word) (val : Word) (t0 lim : Nat) (hint : CacheHint)
  | sbar (mask : Word)
  | drawbar
  /-- until the batch with this tag is answered (R432, R433) -/
  | page (group : BitVec 9)
  | confirm
  | acquire
  | release
  | stores
  | queue (ch : Fin 4)
  /-- until the scoreboard has room for these ranges (R350) -/
  | board (rd wr : List (Nat × Nat))
  /-- until earlier entries of the scoreboard let these stream elements be read and written (R204, R350) -/
  | element (rd wr : List Nat)
  | rate (link : Bool) (bytes : Nat)
  | range (set : YZ) (h : Hdr) (d : G) (p : P)
  /-- rdone, or sstop of itself: until its long results are written (R126) -/
  | ending
  /-- another slot's sstop: the same (R127) -/
  | halting
  | trap (t : TrapRec)
  deriving DecidableEq, Repr

/-- A stream binding (R199, R209). -/
structure Binding where
  base : Nat
  b0 : Nat
  b1 : Nat
  b2 : Nat
  s0 : Int
  s1 : Int
  s2 : Int
  rcur : Nat
  wcur : Nat
  under : Bool
  overrun : Bool
  deriving DecidableEq, Repr

/-- A piece of an access still to be performed: address, bytes, the byte of the operation's data it carries (R273), whether
its request has left for the host or another module, and for a remote address that names this module the location it stands for
(R256), or the address itself while that is not known. -/
structure Piece where
  addr : Nat
  size : Nat
  pos : Nat
  sent : Bool := false
  home : Option Nat := none
  deriving DecidableEq, Repr

/-- A register a long result will write: operand code, bit offset and width in the operation's data, sign extension. -/
structure Dest where
  code : Nat
  lo : Nat
  bits : Nat
  signed : Bool
  deriving DecidableEq, Repr

/-- Integer and floating-point atomic operations (R335, R337). -/
inductive AmoOp where
  | add | and | or | xor | min | max | minz | maxz | swp | cas
  deriving DecidableEq, Repr
inductive AmofOp where
  | add | min | max
  deriving DecidableEq, Repr

/-- A shape of a row copy (R344): source, destination, rows, row bytes, strides. -/
structure Rows where
  src : Nat
  dst : Nat
  nr : Nat
  rb : Nat
  ss : Nat
  ds : Nat
  deriving DecidableEq, Repr

/-- A command of a copy channel (R342 to R355). -/
inductive Cmd where
  | rows (r : Rows)
  | blocks (dst table pool nblk rb brows ntok : Nat)
  | chain (next : Nat)
  deriving DecidableEq, Repr

/-- A transfer record being performed: its address, the next one, its rows, and its stamp until it is written (R355). -/
structure Link where
  at_ : Nat
  next : Nat
  rows : Rows
  stamp : Option (Nat × Scope)
  deriving DecidableEq, Repr

/-- A command with its stamp, the slot that issued it, its scoreboard entry, the bytes done in copy order, the record of
a chain, the bytes read ahead of them, the block indices read so far, and the old values of the source bytes that it has written
itself (R344), by copyKey. -/
structure Job where
  cmd : Cmd
  stamp : Option (Nat × Scope)
  slot : SlotId
  board : Nat
  done : Nat
  link : Option Link
  got : Nat
  buf : Nat
  idxs : List Nat
  old : Map Byte
  /-- the acquires outstanding at its issue, which come before its accesses (R302) -/
  after : List Nat
  hint : CacheHint
  /-- nothing orders its host accesses at its issue (R319), and whether it has made one -/
  relaxed : Bool
  hosted : Bool
  /-- the request of its next access has left for the host or another module -/
  asked : Bool
  /-- SEQ has been raised for the stamp that is next (R345) -/
  raised : Bool := false
  deriving DecidableEq, Repr

/-- What a hub-die long result asks for (R85). -/
inductive Query where
  | cpwp (ch : Fin 4)
  | cpstat (ch : Fin 4) (item : BitVec 2)
  | invoke (inv : Inv) (chip : Chip)
  | wbstate (wb : Word) (item : BitVec 2)
  | wbcause (wb : Word) (item : BitVec 2)
  | launch (addr : Nat)
  | ccount (level : Nat) (id : Nat)
  | time
  | tstat (a : Word)
  | drain
  deriving DecidableEq, Repr

/-- What a held operation of R430 does when it is sent at last. -/
inductive Act0 where
  | copy (ch : Fin 4) (j : Job) (bytes : Nat)
  | lfin (code : Byte)
  | cancel (level id : Nat)
  deriving DecidableEq, Repr

/-- What an outstanding operation is. -/
inductive OpKind where
  | load
  | acq (sco : Scope)
  | store
  | rel (sco : Scope)
  | amo (o : AmoOp) (w : AmoW) (b c : Nat)
  | amof (o : AmofOp) (t : AmoF) (b : Nat) (seq : Nat)
  | flush
  | install (post : BitVec 32)
  | sample (post : BitVec 32) (store : Option Nat) (lo bytes : Nat)
  | query (q : Query)
  | bind (wb : Word) (post : BitVec 32) (limit buf : Nat)
  | drop (wb : Word)
  | ttab (n : Byte) (record : Nat)
  | stamp (ch : Fin 4)
  | act (a : Act0)
  /-- the host stamp of an mwait, until its translation is found (R333, R430) -/
  | probe
  deriving DecidableEq, Repr

/-- An outstanding operation of a slot, in issue order (R85, R322, R328, R430). -/
structure Op where
  id : Nat
  pc : Word
  kind : OpKind
  addr : Nat
  size : Nat
  pieces : List Piece
  data : Nat
  dests : List Dest
  /-- the value is fixed and only the destinations remain -/
  ready : Bool
  /-- the operation has taken effect at its home -/
  performed : Bool
  cntL : Bool
  cntS : Bool
  /-- its data hold poison (R428) -/
  bad : Bool
  /-- its translation has been found, or it needs none (R430) -/
  conf : Bool
  /-- an address in each host or remote page whose translation is still to be found (R326, R430) -/
  far : List Nat
  /-- sent to the host with relaxed ordering (R319) -/
  relaxed : Bool
  /-- its request has left for another module (R270, R281, R376) -/
  sent : Bool
  /-- it waits in the slot's queue for confirmation (R430) -/
  held : Bool
  /-- it returns a run-ahead mark (R431) -/
  mark : Bool
  /-- instructions issued since the checkpoint when it issued -/
  idx : Nat
  /-- ids of the counted operations it waits for: strel (R328), invoke (R374) -/
  after : List Nat
  hint : CacheHint
  /-- tile cycle and instant of its issue -/
  t0 : Nat
  ns : Nat
  deriving DecidableEq, Repr

/-- The checkpoint of R430. -/
structure Ckpt where
  pc : Word
  g : Vector Word 32
  f : Vector Word 32
  v : Vector VWord 32
  p : Vector Bool 16
  k : Vector Word 8
  bad : List Nat
  deriving DecidableEq, Repr

/-- Between an unconfirmed access and its confirmation or rollback (R430 to R432): the checkpoint of each unconfirmed
access by operation, the instructions issued since, and once an access is found to fault its operation, marked registers,
the batch's pages, and pages known to have failed with their INFO (R434). Operations numbered below `since` are of an earlier
activity of the slot, to which nothing rolls back (R127). -/
structure RunAhead where
  since : Nat := 0
  ckpts : List (Nat × Ckpt)
  issued : Nat
  fault : Option Nat
  marks : List Nat
  pages : List Nat
  pre : List (Nat × Byte)
  deriving DecidableEq, Repr

/-- A host access of a slot: its bytes, whether it writes and reads them, and the counter that counted it (R321). -/
structure HostAccess where
  addr : Nat
  size : Nat
  writes : Bool
  reads : Bool
  cntL : Bool
  cntS : Bool
  deriving DecidableEq, Repr

/-- What decides relaxed ordering (R302, R319): the host accesses a slot has made; the registers whose values depend on a host
read; whether a guard or branch has; whether every later event is ordered after a host access. -/
structure HostOrder where
  seen : List HostAccess
  deps : List Nat
  ctl : Bool
  all : Bool
  deriving DecidableEq, Repr

/-- One of the 32 slots of a tile. -/
structure Slot where
  g : Vector Word 32
  f : Vector Word 32
  v : Vector VWord 32
  p : Vector Bool 16
  k : Vector Word 8
  pc : Word
  active : Bool
  park : Park
  /-- parked by a switch marker until every long result is written (R86) -/
  sPark : Bool
  /-- parked by yield: the number below which its operations stand, turns left (R84) -/
  yPark : Option (Nat × Nat)
  /-- turns still to forfeit (R82) -/
  forfeit : Nat
  /-- started by sstart and not active yet: the first tile cycle in which it may become so (R127) -/
  starting : Option Nat
  fcsr : Word
  normturns : Word
  cntl : Word
  cnts : Word
  chkPower : Bool
  chkHazard : Bool
  tm : Bool
  tinfo : Byte
  tcode : Byte
  trappc : Word
  trapval : Word
  save : Vector Word 4
  /-- active for a tile trap alone (R420) -/
  trapOnly : Bool
  /-- a unit-level retry under way: address and cause (R423) -/
  retry : Option (Word × Nat)
  /-- a trap cause that the instruction about to issue does not take: the defined result of R424 -/
  waive : Option Nat
  /-- traps to take at the next issue (R420) -/
  deferred : List TrapRec
  streams : Vector (Option Binding) 8
  /-- repetitions of the instruction after srep still to issue, 0 while they are still to be counted (R210) -/
  srep : Option Nat
  sbarCnt : Nat
  drawCnt : Nat
  ops : List Op
  /-- number of its next floating-point atomic (R339) -/
  fseq : Nat
  /-- operand codes of poisoned registers (R428) -/
  bad : List Nat
  ra : Option RunAhead
  /-- failed pages with their INFO (R434) -/
  failed : List (Nat × Byte)
  /-- the access of successive faults: page and count (R434) -/
  faults : List (Nat × Nat)
  /-- context generation (R433) -/
  ctxGen : BitVec 16
  hostOrd : HostOrder
  deriving DecidableEq, Repr

/-- A slot before anything ran: reset values the spec does not give are zero (log 1). -/
def Slot.reset : Slot :=
  { g := Vector.replicate 32 0, f := Vector.replicate 32 0, v := Vector.replicate 32 0,
    p := Vector.replicate 16 false, k := Vector.replicate 8 0, pc := 0, active := false, park := .none, sPark := false,
    yPark := none, forfeit := 0, starting := none, fcsr := 0, normturns := 0, cntl := 0, cnts := 0, chkPower := false,
    chkHazard := false, tm := false, tinfo := 0, tcode := 0, trappc := 0, trapval := 0, save := Vector.replicate 4 0,
    trapOnly := false, retry := none, waive := none, deferred := [], streams := Vector.replicate 8 none, srep := none, sbarCnt := 0,
    drawCnt := 0, ops := [], fseq := 0, bad := [], ra := none, failed := [], faults := [], ctxGen := 0,
    hostOrd := { seen := [], deps := [], ctl := false, all := false } }

/-! ## A tile -/

/-- An accumulator tile (R223): KIND, BOUND, RANGE, its poison mark, and the elements that are not zero, row-major. -/
structure Acc where
  kind : Option MKind
  bound : Nat
  range : Bool
  bad : Bool
  elems : Map Nat
  deriving DecidableEq, Repr

def Acc.reset : Acc := { kind := none, bound := 0, range := false, bad := false, elems := [] }

/-- A held line of the pin buffer: its address, its bytes, fetched by mfetch or by an mmac, poison, and the number of its fetch
(R233). -/
structure Pin where
  line : Nat
  data : Nat
  byMac : Bool
  bad : Bool
  id : Nat
  deriving DecidableEq, Repr

/-- A line to fetch into the pin buffer: whether an mmac asked for it first, whether an mmac waits for it, the cache hint and the slot
of the instruction that asked first (R233, R260). -/
structure Fetch where
  line : Nat
  byMac : Bool
  wanted : Bool
  hint : CacheHint
  slot : SlotId
  deriving DecidableEq, Repr

/-- What an mmac takes along from its issue (R231, R235, R246): its quarter's operands, sampled predicates. -/
structure Mac where
  q : Fin 4
  slot : SlotId
  pc : Word
  set : YZ
  kind : MKind
  sub : MmacSub
  a : Nat
  b : Nat
  y : Word
  z : Word
  /-- the power check is waived for it (R424) -/
  waived : Bool
  /-- its scoreboard entries and its place in the quarter's order -/
  board : Nat
  qid : Nat
  /-- chunks of its tile-store operands read at the issue: address, bytes, poison (R234) -/
  early : Map (Nat × Bool)
  /-- the lines of its L2 operands, and the copies of those that it has (R233) -/
  lines : List Nat
  held : List Pin
  deriving DecidableEq, Repr

/-- An arrival parked at the drawbar (R226): its count, and its mmac, or none for dbar. -/
structure Arrival where
  slot : SlotId
  n : Nat
  pc : Word
  mac : Option Mac
  deriving DecidableEq, Repr

/-- What a quarter performs (R229). -/
inductive QWhat where
  | zero (kind : MKind)
  | mac
  | drain (slot : SlotId) (op : Nat) (addr : Nat) (td : Ty) (zr : Bool) (cfg : Word) (waits : Bool)
  | load (slot : SlotId) (addr : Nat) (kind : MKind) (ts : Ty)
  | bound (slot : SlotId) (op : Nat)
  deriving DecidableEq, Repr

/-- A queued operation of a quarter: number, quarter, accumulator set, scoreboard entry (0 none). -/
structure QOp where
  id : Nat
  q : Fin 4
  set : YZ
  what : QWhat
  board : Nat
  deriving DecidableEq, Repr

/-- A copy channel (R342 to R356). -/
structure Channel where
  queue : List Job
  cur : Option Job
  enq : Word
  wpos : Word
  seq : Word
  halted : Bool
  err : Byte
  errAddr : Word
  /-- an error found: code of R348, address, INFO of the trap; the halt is still to come -/
  fail : Option (Nat × Nat × Nat)
  /-- a page request in flight: address, instant of its timeout (R348), instant it was sent, tag (R433) -/
  page : Option (Nat × Nat × Nat × BitVec 9)
  deriving DecidableEq, Repr

def Channel.reset : Channel :=
  { queue := [], cur := none, enq := 0, wpos := 0, seq := 0, halted := false, err := 0, errAddr := 0, fail := none,
    page := none }

/-- A scoreboard entry (R350): number, the ranges of window addresses it reads and writes (first, length), and the chunks of the
store that a matrix operation has read already. -/
structure Board where
  id : Nat
  rd : List (Nat × Nat)
  wr : List (Nat × Nat)
  got : List Nat
  deriving DecidableEq, Repr

/-- A monitor (R412). -/
structure Monitor where
  cfg : Word
  min : Word
  max : Word
  bins : Vector Word 16
  deriving DecidableEq, Repr

def Monitor.reset : Monitor := { cfg := 0, min := BitVec.allOnes 64, max := 0, bins := Vector.replicate 16 0 }

/-- A 64-byte sector of L1 (R259): address, bytes, a poison bit for each 32-byte granule, kept by its hint (R260). -/
structure Sector where
  addr : Nat
  data : Nat
  bad : Nat
  keep : Bool
  deriving DecidableEq, Repr

/-- A binding entry (R276). -/
structure PostEntry where
  post : BitVec 32
  lines : Nat
  isOut : Bool
  isIn : Bool
  lossy : Bool
  exact : Bool
  decl : BitVec 16
  writer : BitVec 16
  wchip : BitVec 16
  deriving DecidableEq, Repr

/-- One of the 512 tiles. -/
structure Tile where
  slots : Vector Slot 32
  store : Mem
  /-- poisoned 64-byte chunks of the store, by number (R428) -/
  badChunks : List Nat
  y : Vector Word 4
  z : Vector Word 4
  /-- operand codes of poisoned y and z registers (R428) -/
  badYZ : List Nat
  /-- accumulator tile (c, q) at 4c + q -/
  acc : Map Acc
  matcfg : Word
  matstat : Word
  arrivals : List Arrival
  /-- formed gangs not started, oldest first, at most four (R230) -/
  gangs : List (List Mac)
  /-- the gang being performed and the tile cycle at which it completes -/
  running : Option (List Mac × Nat)
  qops : List QOp
  pins : List Pin
  fetches : List Fetch
  channels : Vector Channel 4
  board : List Board
  watch : Vector Word 16
  watchF : Vector Word 16
  pmsel : Vector Word 8
  pmcnt : Vector Word 8
  pmstat : Word
  monitors : Vector Monitor 4
  trapvec : Word
  tag : Tag
  tokDecl : Nat
  tokUsed : Nat
  pwrPower : Bool
  stretch : Bool
  tileIdx : BitVec 16
  period : BitVec 32
  lparam : Word
  launchId : BitVec 32
  idem : Bool
  overFault : Bool
  nTiles : Nat
  round : Word
  overruns : Word
  begun : Nat
  inRound : Bool
  /-- the number of the round in progress, and the cycle at which it began, for its duration (R94, R410) -/
  roundNo : Word
  roundAt : Nat
  rerun : Option Word
  inRerun : Bool
  roundsOver : Bool
  /-- tile cycle c, and tile cycles to the next expiry (R80, R94) -/
  cycle : Nat
  toExpiry : Nat
  /-- the instant of expiry 0 (R108), whether it has come, the part of a tile cycle that has passed in units of 1/256
  nominal cycle (R99), and the cores whose turn of the tile cycle is still to come, in order (R80) -/
  s0 : Nat
  going : Bool
  phase : Nat
  due : List (Fin 4)
  halted : Bool
  /-- an invasive debugger holds the tile halted, and the slot it lets issue once (R418) -/
  dbgHalt : Bool
  dbgStep : Option SlotId
  /-- traps raised on an inactive slot, for the next round start (R420) -/
  pendingTraps : List (SlotId × TrapRec)
  l1 : Vector (List Sector) 4
  icache : Vector (Map (BitVec 32)) 4
  posts : List PostEntry
  /-- declared slots with their entry addresses (R39) -/
  entries : List (SlotId × Word)
  /-- the launch it runs (its pending-launch store entry), if any -/
  launch : Option Nat
  chkInit : Bool × Bool
  /-- writes of tile registers that the next tile cycle makes, in order: number, bits cleared, bits set (R447) -/
  csrNext : List (Nat × Word × Word)
  deriving DecidableEq, Repr

/-- A tile as teardown leaves it (R399); MATCFG, UPOL and PWRST take their launch-start values at launch start. -/
def Tile.reset : Tile :=
  { slots := Vector.replicate 32 Slot.reset, store := [], badChunks := [], y := Vector.replicate 4 0,
    z := Vector.replicate 4 0, badYZ := [], acc := [], matcfg := 0x3F80000000000000, matstat := 0, arrivals := [], gangs := [],
    running := none, qops := [], pins := [], fetches := [], channels := Vector.replicate 4 Channel.reset, board := [],
    watch := Vector.replicate 16 0, watchF := Vector.replicate 16 0, pmsel := Vector.replicate 8 0,
    pmcnt := Vector.replicate 8 0, pmstat := 0, monitors := Vector.replicate 4 Monitor.reset, trapvec := 3, tag := 0,
    tokDecl := 0, tokUsed := 0, pwrPower := false, stretch := false, tileIdx := 0, period := 0, lparam := 0,
    launchId := 0, idem := false, overFault := false, nTiles := 0, round := 0, overruns := 0, begun := 0,
    inRound := false, roundNo := 0, roundAt := 0, rerun := none, inRerun := false, roundsOver := false, cycle := 0, toExpiry := 0, s0 := 0,
    going := false, phase := 0, due := [],
    halted := false, dbgHalt := false, dbgStep := none, pendingTraps := [], l1 := Vector.replicate 4 [], icache := Vector.replicate 4 [], posts := [],
    entries := [], launch := none, chkInit := (false, false), csrNext := [] }

/-! ## Posts, waybills, launches -/

/-- A bound post (R274 to R282), kept at its first slot: value bytes, freshness, poisoned 32-byte granules, the launches
that bind it (partition tag, pending-launch store entry, OUT). -/
structure Post where
  lines : Nat
  wchip : BitVec 16
  writer : BitVec 16
  f : Word
  val : Mem
  bad : List Nat
  binders : List (Nat × Nat × Bool)
  deriving DecidableEq, Repr

/-- What a slot of the waybill table holds (R358). -/
inductive WbState where
  | free
  | pending
  | resolved (value : Word) (len addr : Nat)
  | broken (root : Word) (code svcst : Byte) (depth : Nat) (parent : Word)
  deriving DecidableEq, Repr

/-- A binding of a waybill (R372): result post, payload limit, buffer, the bytes of payload already sent, whether its
record has been installed, with the chip and the partition of the binder. -/
structure WbBind where
  post : BitVec 32
  limit : Nat
  buf : Nat
  sent : Nat
  done : Bool
  chip : Chip
  tag : Tag
  deriving DecidableEq, Repr

/-- A waybill slot: generation, state, bindings, the dispatchers of other chips that wait for it with a queued invocation (R358), and
when it was freed last. -/
structure WbSlot where
  gen : BitVec 24
  st : WbState
  binds : List WbBind
  asked : List (Chip × Tag)
  freed : Nat
  deriving DecidableEq, Repr

/-- An invocation in the dispatcher queue (R365): what is known of the waybills it names, the number under which it became
eligible (R369), the argument and done posts of the tile it was handed to (R366). -/
structure QInv where
  inv : Inv
  known : List (Word × WbOutcome)
  elig : Option Nat
  handed : Option (BitVec 32 × BitVec 32)
  deriving DecidableEq, Repr

/-- A launch in the pending-launch store (R103): its record with what the header supplied (R100). -/
structure Launch where
  gen : BitVec 24
  fn : FnId
  param : Word
  period : Nat
  periods : List Nat
  tile0 : Nat
  n : Nat
  budget : Option Nat
  tokens : Nat
  queue : Nat
  policy : BitVec 2
  overFault : Bool
  idem : Bool
  chk : Bool × Bool
  graph : Nat
  /-- the instances of its graph, phase and job (R109) -/
  up : List Nat
  start : Nat
  doneAddr : Nat
  handler : Word
  entries : List (SlotId × Word)
  binds : List PostEntry
  buffers : List (Nat × Bool × Bool × Nat × Nat)
  order : Nat
  /-- not live once completed; pending until started -/
  live : Bool
  started : Bool
  counter : Word
  fin : Option Byte
  /-- the status it completes with once it is to end before its count -/
  ending : Option Byte
  deriving DecidableEq, Repr

/-- A live graph, phase or job (R109, R110): the number of its instance, and those of the instances above it. -/
structure Obj where
  inst : Nat
  up : List Nat
  policy : BitVec 2
  parent : Nat
  expect : Word
  start : Nat
  finish : Nat
  doneAddr : Nat
  counter : Word
  /-- for a phase: it has started -/
  started : Bool
  ending : Option Byte
  deriving DecidableEq, Repr

/-- A translation that the hub die holds (R269): the number of its first 64 KiB page, whether it spans 2 MiB, its permissions. -/
structure Translation where
  page : Nat
  large : Bool
  perm : PagePerm
  deriving DecidableEq, Repr

/-- A pending batch of page requests (R433): its tag, tile, slot, its LAUNCHID and context generation, pages, timeout instant. -/
structure Batch where
  group : BitVec 9
  tile : TileId
  slot : SlotId
  launchId : BitVec 32
  ctxGen : BitVec 16
  pages : List Nat
  due : Nat
  /-- the instant it was sent -/
  since : Nat
  deriving DecidableEq, Repr

/-- A timetable entry (R455, R458): the 64-byte record as one number, the state and the status fields. -/
structure TEntry where
  record : Nat
  state : BitVec 3
  err : BitVec 4
  skew : BitVec 32
  epoch : Byte
  evicted : Bool
  strag : Bool
  late : Bool
  bt : Bool
  /-- the bytes of the window as written (R455), the member list read at acceptance -/
  window : Nat
  members : List Chip
  /-- at its instant the entry was found to be timed by the lead's beacon (R457, R466) -/
  waits : Bool
  /-- halt beacons received, members counted missing, verdicts sent, leads tried (R462 to R464) -/
  beacons : List Chip
  left : List Chip
  verdicts : Nat
  leads : Nat
  deriving DecidableEq, Repr

def TEntry.empty : TEntry :=
  { record := 0, state := 0, err := 0, skew := 0, epoch := 0, evicted := false, strag := false, late := false, bt := false,
    window := 0, members := [], waits := false, beacons := [], left := [], verdicts := 0, leads := 0 }

/-- The train a partition belongs to (R454, R457): number, epoch, halted, members, lead. -/
structure Train where
  num : Nat
  epoch : Byte
  halted : Bool
  members : List Chip
  lead : Chip
  deriving DecidableEq, Repr

/-- A flit waiting at a port (R459): the partition, source chip, epoch, message. -/
structure Flit where
  tag : Tag
  src : Chip
  epoch : Byte
  msg : Msg
  deriving DecidableEq, Repr

/-- A stop under way (R436): its instant, the function and the place of its image, the timetable entry that asked for it,
whether the tiles have stopped. -/
structure Stop where
  at_ : Nat
  fn : FnId
  base : Nat
  train : Option Nat
  done : Bool
  deriving DecidableEq, Repr

/-- A restore under way, or prepared for a timetable entry (R440): the function, the place of its image, the least instant of the
restart. -/
structure Restore where
  fn : FnId
  base : Nat
  at_ : Nat
  train : Option Nat
  deriving DecidableEq, Repr

/-- A saved context (R439): the stop instant, the tiles and posts as they stood, the image as it was written at `base`, and
the flits of the ports. It is kept under its function's number, or from 1000 under its partition's tag for a train. -/
structure Saved where
  fn : FnId
  base : Nat
  stopAt : Nat
  tiles : List (TileId × Tile)
  posts : Map Post
  image : Nat
  ports : List (Nat × Flit)
  deriving DecidableEq, Repr

/-- An entry of a slice group's page directory (R266). -/
structure Dir where
  page : Nat
  repl : Bool
  sharers : BitVec 4
  rd : Nat
  wr : Nat
  deriving DecidableEq, Repr

/-- A decoded view line held in a slice (R161, R162): decoded bytes, a bit for each filled and each dirty 64-byte sector
and for each poisoned 32-byte granule. -/
structure ViewLine where
  data : Nat
  valid : Nat
  dirty : Nat
  bad : Nat
  deriving DecidableEq, Repr

/-- A 256-byte line in an L2 slice (R10): its key, the hint of its last access, a bit for each filled and each dirty 64-byte
sector. The bytes of a plain line are those of `hbm`, and of a view line those of `views`. -/
structure L2Line where
  key : Nat
  hint : CacheHint
  valid : Nat
  dirty : Nat
  deriving DecidableEq, Repr

/-- A clean copy of a line in a remote-data cache (R265): its key, the hint of its fill, a bit for each filled 64-byte sector
and for each poisoned 32-byte granule. Its bytes are those of its home, since a write drops the copy first (R267). -/
structure RLine where
  key : Nat
  hint : CacheHint
  valid : Nat
  bad : Nat
  deriving DecidableEq, Repr

/-- One of the 255 partitions (R394, R397, R402). -/
structure Part where
  en : Bool
  clearing : Bool
  cfgerr : BitVec 4
  share : BitVec 32
  thmax : BitVec 16
  hier : Word
  wayb : Word
  hostlim : Word
  linklim : Word
  hostBucket : Nat
  linkBucket : Nat
  groups : Map (BitVec 16)
  tiles : Map (BitVec 16)
  window : Map Word
  ptiles : Nat
  pgroups : Nat
  /-- four words of each format region (R157), two of each protection range (R264) -/
  regions : Vector Word 64
  ranges : Vector Word 16
  remroot : Word
  rempfq : Word
  rempfhead : Word
  /-- page-table entries the link interface caches (R271): page of the remote space, page base, W, RD -/
  remCache : List (Nat × Nat × Bool × Bool)
  /-- REMPF requests waiting for their answer: tag, source chip -/
  rempf : List (BitVec 16 × Chip)
  ordctl : Word
  ordbase : Word
  ordseg : Word
  /-- order-log values that wait for the next launch start (R338) -/
  ordNext : Option (Word × Word × Word)
  /-- per slice: records written, numbers of matched records, held atomics (slice, tile, slot, operation, instant of the
  timeout), slices that have left replay (R340, R341) -/
  logCount : Map Nat
  logMatched : Map (List Nat)
  logHeld : List (Nat × TileId × SlotId × Nat × Nat)
  logLeft : List Nat
  svcbase : Word
  fltlog : Word
  flthead : Word
  fltcfg : Word
  monsel : Word
  sliceMon : Map Monitor
  timetable : Map TEntry
  train : Option Train
  /-- epoch of each train that has acted, and whether it was ever running (R454, R457) -/
  epochs : Map (Byte × Bool)
  /-- chips whose nonzero epochs are discarded after a cancel (R454) -/
  discard : List Chip
  evicted : List Chip
  /-- θ in 1/256, and the instant of its last change (R99) -/
  theta : BitVec 16
  thetaAt : Option Nat
  launches : Map Launch
  accepted : Nat
  graphs : Map Obj
  phases : Map Obj
  jobs : Map Obj
  pools : Map (List (BitVec 20 × BitVec 24))
  poolAsked : List Nat
  queue : List QInv
  /-- the waybill last handed to an argument post, by the post's key, with the key of the done post (R366) -/
  lastHanded : Map (Word × Nat)
  /-- invocation messages that the hub die holds (R374, R409): their chips, and the partitions there -/
  outbox : List (Chip × Tag × Inv)
  /-- waybills its jobs took, with the instance of the job (R359) -/
  taken : List (Word × Nat)
  /-- its slots' invocations that name waybills of other chips: their waybills, and the launch, tile and slot (R376) -/
  named : List (Word × Nat × TileId × SlotId)
  resident : Option FnId
  sliceEnd : Nat
  batches : List Batch
  stopping : Option Stop
  restoring : Option Restore
  /-- translations the hub die holds (R269) -/
  atc : List Translation
  /-- completion stamps of the launch processor that wait for the translation of their host page, in order: address and value
  (R110, R269) -/
  stamps : List (Nat × Nat)
  deriving DecidableEq, Repr

def Part.reset : Part :=
  { en := false, clearing := false, cfgerr := 0, share := 0, thmax := 256, hier := 0, wayb := 0, hostlim := 0,
    linklim := 0, hostBucket := 0, linkBucket := 0, groups := [], tiles := [], window := [], ptiles := 0, pgroups := 0,
    regions := Vector.replicate 64 0, ranges := Vector.replicate 16 0, remroot := 0, rempfq := 0, rempfhead := 0,
    remCache := [], rempf := [], ordctl := 0x000003E800000000, ordbase := 0, ordseg := 12, ordNext := none, logCount := [],
    logMatched := [], logHeld := [], logLeft := [], svcbase := 0, fltlog := 0, flthead := 0, fltcfg := 10000,
    monsel := 0, sliceMon := [], timetable := [], train := none, epochs := [], discard := [], evicted := [], theta := 256, thetaAt := none,
    launches := [], accepted := 0, graphs := [], phases := [], jobs := [], pools := [], poolAsked := [],
    queue := [], lastHanded := [], outbox := [], taken := [], named := [], resident := none, sliceEnd := 0, batches := [], stopping := none,
    restoring := none, atc := [], stamps := [] }

/-! ## Functions, ports, the module -/

/-- A posted write in an ordering point (R386): whether it has been sent, the tag it was sent with (R396), and its pieces still
to be performed, each a place in HBM, a size and data. -/
structure Posted where
  bar : Bar
  addr : Nat
  bytes : List Byte
  sent : Bool
  tag : Tag
  left : List (Nat × Nat × Nat)
  deriving DecidableEq, Repr

/-- A PCIe function's own registers (R402) and ordering point. -/
structure Func where
  lstat : Word
  ctxbase : Word
  attnonce : Vector Word 4
  attreq : Word
  attstat : Word
  attBusy : Bool
  dbgreq : Word
  dbgchal : Vector Word 4
  dbgresp : Word
  /-- a challenge is outstanding (R417) -/
  dbgOpen : Bool
  posted : List Posted
  /-- the dies whose acknowledgement of the head write is outstanding -/
  routes : List (Fin 4)
  vfbind : Word
  flrstat : Word
  aer : List Nat
  deriving DecidableEq, Repr

def Func.reset : Func :=
  { lstat := 0, ctxbase := 0, attnonce := Vector.replicate 4 0, attreq := 0, attstat := 0,
    attBusy := false, dbgreq := 0, dbgchal := Vector.replicate 4 0, dbgresp := 0, dbgOpen := false, posted := [], routes := [], vfbind := 0,
    flrstat := 0, aer := [] }

/-- Power states of the module (R418); a tile is gated when it has no launch and no invasive session holds its partition. -/
inductive Power where
  | active | packageIdle | off
  deriving DecidableEq, Repr

/-- States of the time unit (R452). -/
inductive Clock where
  | locked | holdover | lost
  deriving DecidableEq, Repr

/-- The time unit (R449, R451, R452): TAI in ns and its 16-bit fraction, thirds of that fraction's unit (the model's own: a nominal tile
cycle is no whole number of units), state, SET, E, E0 and the entry instant; the correction toward TAI that the servo has still to
make and the most of it in one nominal cycle, in those thirds. -/
structure TimeUnit where
  tai : Nat
  frac : BitVec 16
  third : Nat
  owed : Int
  slew : Nat
  clock : Clock
  isSet : Bool
  e : Nat
  e0 : Nat
  since : Nat
  tbcfg : Word
  deriving DecidableEq, Repr

/-- A Damfold Link port's buffers (R459). -/
structure Port where
  save : List Flit
  hold : List Flit
  deriving DecidableEq, Repr

/-- What leaves the module. -/
inductive Output where
  | hostWrite (fn : FnId) (addr : Nat) (size data : Nat) (relaxed : Bool)
  | hostAtomic (fn : FnId) (addr : Nat) (size op operand cmp : Nat) (relaxed : Bool)
  | hostLoad (fn : FnId) (addr : Nat) (size : Nat) (relaxed : Bool)
  | hostRead (fn : FnId) (data : Nat) (ep : Bool)
  | unsupported (fn : FnId)
  | msix (fn : FnId) (vec : Nat)
  | link (chip : Chip) (tag : Tag) (epoch : Byte) (m : Msg)
  /-- a page request group with its index (R433) -/
  | pageGroup (tag : Tag) (group : BitVec 9) (pages : List Nat)
  /-- the page requests of a batch to another module, with the epoch and the batch's tag (R433, R435, R454) -/
  | pageMessage (chip : Chip) (tag : Tag) (epoch : Byte) (group : BitVec 9) (pages : List Nat)
  | remoteAnswer (chip : Chip) (tag : Tag) (epoch : Byte) (status data : Nat)
  | pageAnswer (chip : Chip) (tag : Tag) (epoch : Byte) (ptag : BitVec 16) (status : Nat)
  /-- to a member: the sender, train, INSTANT of the entry, epoch; kind 0 halt, 1 leave, 2 action, 3 free-running action
  (R462, R465) -/
  | beacon (chip src : Chip) (train instant : Nat) (epoch : Byte) (kind : Nat)
  /-- to a member: train and INSTANT of the entry, the action of R463 (its SPOL), the members that are missing -/
  | verdict (chip : Chip) (train instant act : Nat) (missing : List Chip)
  | grants (chip : Chip) (tag : Tag) (l : List (BitVec 20 × BitVec 24))
  | grantsBack (chip : Chip) (tag : Tag) (l : List (BitVec 20 × BitVec 24))
  | grantRequest (chip : Chip) (tag : Tag) (n : Nat)
  | jobEnd (chip : Chip) (tag : Tag) (epoch : Byte) (wbs : List Word)
  /-- the timing port's Delay_Req, with its domain (R450) -/
  | delayReq (domain : Byte)
  | debugHalt (t : TileId)
  | debugRead (tag : Tag) (v : Nat)
  | flrDone (fn : FnId)
  deriving DecidableEq, Repr

/-- An act of an agent: the turn of a slot, an event, a nominal cycle that passes, in which the clocks of the tiles named
stand (R4), or a word that a core's instruction cache takes before it is fetched (R52). -/
inductive Act where
  | turn (t : TileId) (k : SlotId)
  | event (i : Instr)
  | time (slow : List TileId)
  | fill (t : TileId) (c : Fin 4) (addr : Nat)
  deriving DecidableEq, Repr

/-- The module. -/
structure State where
  tiles : Map Tile
  parts : Map Part
  funcs : Map Func
  hbm : Mem
  /-- poisoned 32-byte granules of HBM, by number (R428) -/
  badHbm : List Nat
  /-- clear maps (R400): per channel, the 64 KiB blocks whose bit is set, as rising intervals (first, past the last) -/
  clearMap : Map (List (Nat × Nat))
  views : Map ViewLine
  /-- the lines of each L2 slice, by group and slice (R10) -/
  l2 : Map (List L2Line)
  /-- a partition's share of a die's remote-data cache, at 4 times its tag plus the die (R12, R265) -/
  rdc : Map (List RLine)
  dirs : Map (List Dir)
  posts : Map Post
  waybills : Map WbSlot
  queues : Vector (List (Nat × Nat)) 64
  qcfg : Vector Word 64
  lastServed : Vector Nat 8
  nextTurn : Nat
  psel : Word
  binderr : Word
  allow : Map Byte
  hubMon : Vector Monitor 16
  time : TimeUnit
  ports : Vector Port 12
  chipId : Chip
  booted : Bool
  security : BitVec 2
  cfgVersion : Nat
  rollback : Nat
  /-- the bytes of the firmware images, in boot order, and of the configuration record, as numbers (R415) -/
  firmware : Nat
  config : Nat
  /-- the next leaf of the module's LMS key (R413) -/
  lmsLeaf : Nat
  /-- chips to which no route is left (R360, R397) -/
  lost : List Chip
  power : Power
  /-- debug sessions: partition, level, breakpoints armed (R417, R418) -/
  dbg : List (Nat × Nat × Bool)
  saved : Map Saved
  /-- a start is held back because the module's power limits cannot be met (R99) -/
  noStart : Bool
  cur : TileId × SlotId
  agenda : List Act
  out : List Output
  free : Nat
  serial : Nat
  deriving DecidableEq, Repr

/-- The module right after reset: every value the spec gives, and the values log 1 names where it gives none. -/
def State.reset : State :=
  { tiles := [], parts := [], funcs := [], hbm := [], badHbm := [], clearMap := [], views := [], l2 := [], rdc := [], dirs := [], posts := [],
    waybills := [], queues := Vector.replicate 64 [], qcfg := Vector.replicate 64 0,
    lastServed := Vector.replicate 8 63, nextTurn := 0, psel := 0, binderr := 0, allow := [],
    hubMon := Vector.replicate 16 Monitor.reset,
    time := { tai := 0, frac := 0, third := 0, owed := 0, slew := 0, clock := .lost, isSet := false, e := 65535, e0 := 0, since := 0,
              tbcfg := 0x000007D000000000 },
    ports := Vector.replicate 12 { save := [], hold := [] }, chipId := 0, booted := false, security := 0,
    cfgVersion := 0, rollback := 0, firmware := 0, config := 0, lmsLeaf := 0, lost := [], power := .active, dbg := [], saved := [], noStart := false,
    cur := (0, 0), agenda := [], out := [], free := 0, serial := 1 }

end Sys2Proof.Machine
end

