-- ==== Sys2Proof/Machine/Data.lean ====
section
/-!
DEFINITION. Operations on plain data: numbered maps, bytes of memory in canonical form, and bits of numbers and words.
-/
namespace Sys2Proof.Machine

/-! ## Maps -/

/-- The entry of a number, or the default. -/
def mapGet {α : Type} (d : α) : Map α → Nat → α
  | [], _ => d
  | (k, x) :: m, n => if n = k then x else mapGet d m n

/-- The entry of a number, if listed. -/
def mapFind {α : Type} : Map α → Nat → Option α
  | [], _ => none
  | (k, x) :: m, n => if n = k then some x else mapFind m n

/-- Lists a number's entry at its place, replacing the old one. -/
def mapSet {α : Type} : Map α → Nat → α → Map α
  | [], n, x => [(n, x)]
  | (k, y) :: m, n, x => if n = k then (n, x) :: m else if n < k then (n, x) :: (k, y) :: m else (k, y) :: mapSet m n x

/-- Takes a number's entry off. -/
def mapErase {α : Type} : Map α → Nat → Map α
  | [], _ => []
  | (k, y) :: m, n => if n = k then mapErase m n else (k, y) :: mapErase m n

/-! ## Memory (R2: byte memory, little-endian) -/

/-- What an address that is not listed reads as: zero (R263, R299, R95). -/
def Memory.unlisted : Byte := 0

/-- The canonical form: addresses strictly rising, no byte listed that an unlisted address reads as. -/
def Memory.wf : Mem → Bool
  | [] => true
  | [(_, b)] => b != Memory.unlisted
  | (a, b) :: (a', b') :: m => decide (a < a') && b != Memory.unlisted && Memory.wf ((a', b') :: m)

/-- One byte. -/
def Memory.get : Mem → Nat → Byte
  | [], _ => Memory.unlisted
  | (k, b) :: m, a => if a = k then b else Memory.get m a

/-- Puts one byte, keeping the canonical form. -/
def Memory.put : Mem → Nat → Byte → Mem
  | [], a, x => if x = Memory.unlisted then [] else [(a, x)]
  | (k, b) :: m, a, x =>
    if a = k then (if x = Memory.unlisted then m else (a, x) :: m)
    else if a < k then (if x = Memory.unlisted then (k, b) :: m else (a, x) :: (k, b) :: m)
    else (k, b) :: Memory.put m a x

/-- Takes off every byte of [lo, hi). -/
def Memory.clear (m : Mem) (lo hi : Nat) : Mem := m.filter fun c => c.1 < lo || hi ≤ c.1

/-- `n` bytes from `a`, little-endian. -/
def Memory.readN (m : Mem) (a : Nat) : Nat → Nat
  | 0 => 0
  | n + 1 => (Memory.get m a).toNat + 256 * Memory.readN m (a + 1) n

/-- The low `n` bytes of `x` put from `a`. -/
def Memory.writeN (m : Mem) (a : Nat) (x : Nat) : Nat → Mem
  | 0 => m
  | n + 1 => Memory.writeN (Memory.put m a (BitVec.ofNat 8 x)) (a + 1) (x / 256) n

/-! ## Bits -/

/-- The field of `n` bits at bit `lo` of a number. -/
def bitsAt (x lo n : Nat) : Nat := x / 2 ^ lo % 2 ^ n

/-- Bit `i` of a number. -/
def bitAt (x i : Nat) : Bool := x / 2 ^ i % 2 == 1

/-- A number with the field of `n` bits at `lo` replaced. -/
def putBits (x lo n v : Nat) : Nat := x / 2 ^ (lo + n) * 2 ^ (lo + n) + v % 2 ^ n * 2 ^ lo + x % 2 ^ lo

/-- The two's-complement value of the low `w` bits. -/
def sval (w x : Nat) : Int := if x % 2 ^ w < 2 ^ (w - 1) then (x % 2 ^ w : Nat) else ((x % 2 ^ w : Nat) : Int) - (2 ^ w : Nat)

/-- The low `w` bits of an integer. -/
def ubits (w : Nat) (i : Int) : Nat := (i % ((2 ^ w : Nat) : Int)).toNat

/-- Sign extension from `n` bits to 64. -/
def sext64 (n x : Nat) : Word := BitVec.ofInt 64 (sval n x)

def w64 (x : Nat) : Word := BitVec.ofNat 64 x

def bool01 (b : Bool) : Nat := if b then 1 else 0

/-- Division rounding up. -/
def ceilDiv (a b : Nat) : Nat := (a + b - 1) / b

/-- The smallest number of a list that holds one. -/
def minOf : List Nat → Option Nat
  | [] => none
  | x :: l => match minOf l with
    | none => some x
    | some y => some (Nat.min x y)

/-- Numbers from `a`, `n` of them. -/
def natsFrom (a : Nat) : Nat → List Nat
  | 0 => []
  | n + 1 => a :: natsFrom (a + 1) n

/-- Whether [a, a + n) and [b, b + m) share a number. -/
def overlap (a n b m : Nat) : Bool := a < b + m && b < a + n

/-- A register field kept within the bits a mask gives: the RW fields take `new`, the rest stay. -/
def maskIn (mask old new : Word) : Word := (old &&& ~~~mask) ||| (new &&& mask)

end Sys2Proof.Machine
end

