-- ==== Sys2Proof/Machine/Float.lean ====
section
/-!
DEFINITION. Number formats and rounding: the floating-point formats of R134 to R137, RNS10 (R138, R139), one exact
rounding (R140 to R144), and the conversions of R151 to R155. A value is computed exactly, as a dyadic number or a
fraction, and rounded once.
-/
namespace Sys2Proof.Machine

/-- A format of R135: exponent and fraction bits, bias, whether it has infinities and NaNs. -/
structure Fmt where
  e : Nat
  m : Nat
  bias : Nat
  hasInf : Bool
  hasNan : Bool
  deriving DecidableEq, Repr

def Fmt.f64 : Fmt := ⟨11, 52, 1023, true, true⟩
def Fmt.f32 : Fmt := ⟨8, 23, 127, true, true⟩
def Fmt.f16 : Fmt := ⟨5, 10, 15, true, true⟩
def Fmt.bf16 : Fmt := ⟨8, 7, 127, true, true⟩

/-- The format of a floating-point type code. -/
def Fmt.of : Ty → Fmt
  | .f64 => Fmt.f64
  | .f16 => Fmt.f16
  | .bf16 => Fmt.bf16
  | .e5m2 => ⟨5, 2, 15, true, true⟩
  | .e4m3 => ⟨4, 3, 7, false, true⟩
  | .e3m2 => ⟨3, 2, 3, false, false⟩
  | .e2m3 => ⟨2, 3, 1, false, false⟩
  | .e2m1 => ⟨2, 1, 1, false, false⟩
  | _ => Fmt.f32

def Fmt.width (f : Fmt) : Nat := 1 + f.e + f.m

/-- The magnitude bits of the largest finite value (R135, R136). -/
def Fmt.maxFinite (f : Fmt) : Nat :=
  if f.hasInf then (2 ^ f.e - 1) * 2 ^ f.m - 1 else if f.hasNan then 2 ^ (f.e + f.m) - 2 else 2 ^ (f.e + f.m) - 1

/-- The magnitude bits of infinity. -/
def Fmt.infBits (f : Fmt) : Nat := (2 ^ f.e - 1) * 2 ^ f.m

/-- The canonical quiet NaN (R135, R137). -/
def Fmt.qnan (f : Fmt) : Nat :=
  if f.hasInf then (2 ^ f.e - 1) * 2 ^ f.m + 2 ^ (f.m - 1) else 2 ^ (f.e + f.m) - 1

/-- A value read from an encoding: NaN, infinity, or (−1)^neg × sig × 2^exp. -/
inductive FV where
  | nan (neg sig : Bool)
  | inf (neg : Bool)
  | num (neg : Bool) (sig : Nat) (exp : Int)
  deriving DecidableEq, Repr

/-- Reads an encoding (R134, R136). -/
def FV.decode (f : Fmt) (x : Nat) : FV :=
  let neg := bitAt x (f.e + f.m)
  let ex := bitsAt x f.m f.e
  let fr := bitsAt x 0 f.m
  if f.hasInf && ex == 2 ^ f.e - 1 then
    (if fr == 0 then .inf neg else .nan neg (!bitAt fr (f.m - 1)))
  else if f.hasNan && !f.hasInf && ex == 2 ^ f.e - 1 && fr == 2 ^ f.m - 1 then .nan neg false
  else if ex == 0 then .num neg fr (1 - (f.bias : Int) - (f.m : Int))
  else .num neg (2 ^ f.m + fr) ((ex : Int) - (f.bias : Int) - (f.m : Int))

def FV.isNan : FV → Bool
  | .nan _ _ => true
  | _ => false
def FV.isSnan : FV → Bool
  | .nan _ s => s
  | _ => false
def FV.isInf : FV → Bool
  | .inf _ => true
  | _ => false
def FV.neg : FV → Bool
  | .nan n _ => n
  | .inf n => n
  | .num n _ _ => n
def FV.isZero : FV → Bool
  | .num _ 0 _ => true
  | _ => false
/-- The opposite value. -/
def FV.flip : FV → FV
  | .nan n s => .nan n s
  | .inf n => .inf (!n)
  | .num n s e => .num (!n) s e

/-- Whether an encoding is subnormal (R134). -/
def Fmt.isSub (f : Fmt) (x : Nat) : Bool := bitsAt x f.m f.e == 0 && bitsAt x 0 f.m != 0

/-- The rounding modes (R140). -/
inductive Mode where
  | rne | rtz | rup | rdn
  deriving DecidableEq, Repr

/-- Flags as bits in the order of FCSR's enables: NV, DZ, OF, UF, NX (R144, R146). -/
def flNV : Nat := 1
def flDZ : Nat := 2
def flOF : Nat := 4
def flUF : Nat := 8
def flNX : Nat := 16

/-- A delivered encoding and the flags raised. -/
structure FR where
  bits : Nat
  fl : Nat
  deriving DecidableEq, Repr

def Fmt.signBit (f : Fmt) (neg : Bool) : Nat := if neg then 2 ^ (f.e + f.m) else 0
def FR.nan (f : Fmt) (fl : Nat) : FR := ⟨f.qnan, fl⟩
def FR.inf (f : Fmt) (neg : Bool) : FR := ⟨f.signBit neg + f.infBits, 0⟩
def FR.zero (f : Fmt) (neg : Bool) : FR := ⟨f.signBit neg, 0⟩

/-- Whether the integer part n of a magnitude with remainder r of d is increased by a rounding (R140). -/
def Mode.up (md : Mode) (neg : Bool) (n r d : Nat) : Bool :=
  match md with
  | .rne => 2 * r > d || (2 * r == d && n % 2 == 1)
  | .rtz => false
  | .rup => !neg && r != 0
  | .rdn => neg && r != 0

/-- ⌊num / den × 2^k⌋ and its remainder with the divisor. -/
def scaleDiv (num den : Nat) (k : Int) : Nat × Nat × Nat :=
  let n := if k ≥ 0 then num * 2 ^ k.toNat else num
  let d := if k ≥ 0 then den else den * 2 ^ (-k).toNat
  (n / d, n % d, d)

/-- ⌊log2 (num / den)⌋ of a positive fraction. -/
def ilog (num den : Nat) : Int :=
  let k : Int := (Nat.log2 num : Int) - (Nat.log2 den : Int)
  if (scaleDiv num den (-k)).1 = 0 then k - 1 else k

/-- Rounds the magnitude num / den × 2^exp with a sign into a format (R140), with flags and the result beyond range of
R142. A zero keeps the sign given. -/
def Fmt.round (f : Fmt) (md : Mode) (neg : Bool) (num den : Nat) (exp : Int) : FR :=
  if num = 0 then FR.zero f neg else
  let e := ilog num den + exp
  let qmin : Int := 1 - (f.bias : Int) - (f.m : Int)
  let q := max (e - (f.m : Int)) qmin
  let (n, r, d) := scaleDiv num den (exp - q)
  let n' := if md.up neg n r d then n + 1 else n
  let bits := (q - qmin).toNat * 2 ^ f.m + n'
  if bits > f.maxFinite then
    let exceeds := !f.hasInf || (match md with | .rne => false | .rtz => true | .rup => neg | .rdn => !neg)
    ⟨f.signBit neg + (if exceeds then f.maxFinite else f.infBits), flOF + flNX⟩
  else
    let (n1, r1, d1) := scaleDiv num den (exp - (e - (f.m : Int)))
    let n1' := if md.up neg n1 r1 d1 then n1 + 1 else n1
    let emin : Int := 1 - (f.bias : Int)
    let tiny := e < emin && !(e == emin - 1 && n1' == 2 ^ (f.m + 1))
    ⟨f.signBit neg + bits, if r = 0 then 0 else flNX + (if tiny then flUF else 0)⟩

/-- Rounds an exact dyadic number; an exact zero takes the sign given. -/
def Fmt.roundInt (f : Fmt) (md : Mode) (zneg : Bool) (x : Int) (exp : Int) : FR :=
  if x = 0 then FR.zero f zneg else f.round md (x < 0) x.natAbs 1 exp

/-- An exact dyadic value as an integer at exponent `e` (at or below the value's own). -/
def dyAt (neg : Bool) (sig : Nat) (exp e : Int) : Int :=
  let m := sig * 2 ^ (exp - e).toNat
  if neg then -(m : Int) else m

/-- The sum of two exact dyadic values: integer and exponent. -/
def dyAdd (a : Int × Int) (b : Int × Int) : Int × Int :=
  let e := min a.2 b.2
  (a.1 * (2 ^ (a.2 - e).toNat : Nat) + b.1 * (2 ^ (b.2 - e).toNat : Nat), e)

/-- The sign of an exact zero sum in the absence of a rule of its own (R143). -/
def zeroSign (md : Mode) (an bn : Bool) : Bool := if an == bn then an else md == .rdn

/-- The bit-wise integer square root. -/
def isqrtAux (x : Nat) : Nat → Nat → Nat
  | 0, r => r
  | k + 1, r => let r' := r + 2 ^ k; isqrtAux x k (if r' * r' ≤ x then r' else r)

def isqrt (x : Nat) : Nat := isqrtAux x (Nat.log2 x / 2 + 1) 0

/-! ## RNS10 (R138, R139) -/

def rnsM : Nat := 1073740800

/-- The canonical element of an integer. -/
def rnsOf (v : Int) : Nat :=
  (v % 1023).toNat + (v % 1024).toNat * 2 ^ 10 + (v % 1025).toNat * 2 ^ 20

/-- The reconstruction of R240 from residues. -/
def rnsX (r1 r2 r3 : Nat) : Nat :=
  let al := (r1 + 1023 * 2 - r2 % 1023) % 1023
  let be := ((r2 + 1025 * 3 - r3 - al) * 512) % 1025
  r2 + 1024 * (al + 1023 * be)

/-- The value of an element; a non-canonical one is reduced first (R139). -/
def rnsVal (x : Nat) : Int :=
  let v := rnsX (bitsAt x 0 10 % 1023) (bitsAt x 10 10) (bitsAt x 20 11 % 1025)
  if v < 536870400 then (v : Int) else (v : Int) - (rnsM : Int)

/-- The canonical form of an element (R139). -/
def rnsCanon (x : Nat) : Nat := bitsAt x 0 10 % 1023 + bitsAt x 10 10 * 2 ^ 10 + bitsAt x 20 11 % 1025 * 2 ^ 20

/-! ## Conversions (R151 to R155) -/

/-- Between floating-point formats (R151, R152). -/
def cvtFF (src dst : Fmt) (md : Mode) (x : Nat) : FR :=
  match FV.decode src x with
  | .nan neg sg =>
    if dst.hasNan then FR.nan dst (if sg then flNV else 0) else ⟨dst.signBit neg + dst.maxFinite, flNV⟩
  | .inf neg => if dst.hasInf then FR.inf dst neg else ⟨dst.signBit neg + dst.maxFinite, flOF + flNX⟩
  | .num neg s e => dst.round md neg s 1 e

/-- Signed types and the ends of an integer type's range (R133). -/
def tySigned : Ty → Bool
  | .s8 | .s16 | .s32 | .s64 | .s128 => true
  | _ => false
def tyLo (t : Ty) : Int := if tySigned t then -((2 ^ (t.width - 1) : Nat) : Int) else 0
def tyHi (t : Ty) : Int := if tySigned t then ((2 ^ (t.width - 1) : Nat) : Int) - 1 else ((2 ^ t.width : Nat) : Int) - 1

/-- The lane value of an integer type. -/
def tyVal (t : Ty) (x : Nat) : Int := if tySigned t then sval t.width x else ((x % 2 ^ t.width : Nat) : Int)

/-- A real rounded to an integer in a mode: the integer and whether it is inexact. -/
def roundToInt (md : Mode) (neg : Bool) (s : Nat) (e : Int) : Int × Bool :=
  let (n, r, d) := scaleDiv s 1 e
  let n' := if md.up neg n r d then n + 1 else n
  (if neg then -(n' : Int) else n', r != 0)

/-- Floating point to integer (R153). -/
def cvtFI (src : Fmt) (t : Ty) (md : Mode) (x : Nat) : FR :=
  match FV.decode src x with
  | .nan _ _ => ⟨0, flNV⟩
  | .inf neg => ⟨ubits t.width (if neg then tyLo t else tyHi t), flNV⟩
  | .num neg s e =>
    let (i, inx) := roundToInt md neg s e
    if i < tyLo t then ⟨ubits t.width (tyLo t), flNV⟩
    else if i > tyHi t then ⟨ubits t.width (tyHi t), flNV⟩
    else ⟨ubits t.width i, if inx then flNX else 0⟩

/-- Integer to floating point (R154). -/
def cvtIF (dst : Fmt) (md : Mode) (i : Int) : FR := dst.roundInt md false i 0

/-- Integer to rns10 (R155). -/
def cvtIR (i : Int) : FR :=
  if i < -536870400 then ⟨rnsOf (-536870400), flOF + flNX⟩
  else if i > 536870399 then ⟨rnsOf 536870399, flOF + flNX⟩ else ⟨rnsOf i, 0⟩

/-- rns10 to integer (R155): saturated with NV. -/
def cvtRI (t : Ty) (x : Nat) : FR :=
  let i := rnsVal x
  if i < tyLo t then ⟨ubits t.width (tyLo t), flNV⟩
  else if i > tyHi t then ⟨ubits t.width (tyHi t), flNV⟩ else ⟨ubits t.width i, 0⟩

end Sys2Proof.Machine
end

