-- ==== Sys2Proof/Machine/Access.lean ====
section
/-!
DEFINITION. Reaching storage: accessors of tiles, slots, partitions and functions; the address map, homes and protection
ranges (R255 to R264); HBM with clear maps and poison (R400, R428); the tile store (R242, R258); view lines (R156 to
R165); page directories (R266); L1 (R259).
-/
namespace Sys2Proof.Machine

/-! ## Accessors -/

def State.tile (s : State) (t : TileId) : Tile := mapGet Tile.reset s.tiles t.val
def State.setTile (s : State) (t : TileId) (x : Tile) : State := { s with tiles := mapSet s.tiles t.val x }
def State.modTile (s : State) (t : TileId) (f : Tile → Tile) : State := s.setTile t (f (s.tile t))
def Tile.slot (t : Tile) (k : SlotId) : Slot := t.slots[k.val]
def Tile.setSlot (t : Tile) (k : SlotId) (x : Slot) : Tile := { t with slots := t.slots.set k.val x }
def State.slot (s : State) (t : TileId) (k : SlotId) : Slot := (s.tile t).slot k
def State.setSlot (s : State) (t : TileId) (k : SlotId) (x : Slot) : State := s.modTile t fun y => y.setSlot k x
def State.modSlot (s : State) (t : TileId) (k : SlotId) (f : Slot → Slot) : State := s.setSlot t k (f (s.slot t k))
def State.part (s : State) (p : Nat) : Part := mapGet Part.reset s.parts p
def State.setPart (s : State) (p : Nat) (x : Part) : State := { s with parts := mapSet s.parts p x }
def State.modPart (s : State) (p : Nat) (f : Part → Part) : State := s.setPart p (f (s.part p))
def State.func (s : State) (n : FnId) : Func := mapGet Func.reset s.funcs n.val
def State.setFunc (s : State) (n : FnId) (x : Func) : State := { s with funcs := mapSet s.funcs n.val x }
def State.modFunc (s : State) (n : FnId) (f : Func → Func) : State := s.setFunc n (f (s.func n))

/-- The tile and slot whose turn it is, and the partition the tile belongs to. -/
def State.myTile (s : State) : Tile := s.tile s.cur.1
def State.me (s : State) : Slot := s.slot s.cur.1 s.cur.2
def State.upd (s : State) (f : Slot → Slot) : State := s.modSlot s.cur.1 s.cur.2 f
def State.updTile (s : State) (f : Tile → Tile) : State := s.modTile s.cur.1 f
def State.myTag (s : State) : Nat := s.myTile.tag.toNat
def State.myPart (s : State) : Part := s.part s.myTag

/-- A free Boolean choice, each one fresh (log 3). -/
def State.flip (s : State) : State × Bool := ({ s with free := s.free + 1 }, Config.freeBool s.free)

def State.emit (s : State) (o : Output) : State := { s with out := s.out ++ [o] }
def State.event (s : State) (i : Instr) : State := { s with agenda := s.agenda ++ [.event i] }
def State.fresh (s : State) : State × Nat := ({ s with serial := s.serial + 1 }, s.serial)

/-- The tile numbers of a slot index: its core (R8, R90). -/
def coreOf (k : SlotId) : Fin 4 := ⟨k.val / 8, by have := k.isLt; omega⟩
def slotOf (n : Nat) : SlotId := ⟨n % 32, Nat.mod_lt _ (by decide)⟩
def allSlots : List SlotId := (natsFrom 0 32).map slotOf
/-- The die of a tile (R8). -/
def dieOf (t : TileId) : Nat := t.val / 128

/-- Physical tiles of a partition in logical order (R394, R397). -/
def Part.tileList (p : Part) : List TileId :=
  (natsFrom 0 p.ptiles).map fun i => ⟨(mapGet 0 p.tiles i).toNat % 512, Nat.mod_lt _ (by decide)⟩

/-- The logical (partition) index of a physical tile (R101). -/
def Part.logical (p : Part) (t : TileId) : Nat := (p.tileList.findIdx? fun x => x == t).getD 0

/-! ## Address map (R255 to R257) -/

/-- The classes of R255. -/
inductive Cls where
  | hbm | view | store | host | remote
  deriving DecidableEq, Repr

/-- The class of an address by its bits alone (R255). -/
def clsAt (a : Nat) : Cls :=
  if a < 2 ^ 39 then .hbm else if a < 2 ^ 48 then .view else if 2 ^ 63 ≤ a then .remote else if 2 ^ 49 ≤ a then .host else .store

def linBase : Nat := 0x0001000000000000
def swzBase : Nat := 0x0001000000400000
def storeSize : Nat := 0x200000
def hostBase : Nat := 0x0002000000000000
def viewBase : Nat := 0x0000010000000000

/-- The offset in the tile store that an address of either window names (R242). -/
def storeOff (a : Nat) : Option Nat :=
  if linBase ≤ a && a < linBase + storeSize then some (a - linBase)
  else if swzBase ≤ a && a < swzBase + storeSize then
    (let o := a - swzBase; some (o ^^^ ((o / 2 ^ 11 % 32) * 2 ^ 6)))
  else none

/-- Whether n bytes from a lie in one tile-store window (R258). -/
def inWindow (a n : Nat) : Bool :=
  (linBase ≤ a && a + n ≤ linBase + storeSize) || (swzBase ≤ a && a + n ≤ swzBase + storeSize)

def inAnyWindow (a : Nat) : Bool := inWindow a 1

/-- The extent of a partition (R394). -/
def Part.extent (p : Part) : Nat := p.pgroups * 2 ^ 30

/-- A format region as its descriptor gives it (R157). -/
structure Region where
  idx : Nat
  en : Bool
  base : Nat
  size : Nat
  st : Ty
  oc : Ty
  blk : Nat
  noScale : Bool
  scaleBase : Nat
  deriving DecidableEq, Repr

def Part.regWord (p : Part) (n w : Nat) : Nat := (p.regions[(4 * n + w) % 64]'(Nat.mod_lt _ (by decide))).toNat

def Part.region (p : Part) (n : Nat) : Region :=
  let c := p.regWord n 2
  { idx := n, en := bitAt c 0, base := bitsAt (p.regWord n 0) 16 23 * 2 ^ 16, size := bitsAt (p.regWord n 1) 0 40,
    st := Ty.ofCode (bitsAt c 2 5), oc := Ty.ofCode (bitsAt c 7 5), blk := bitsAt c 12 4, noScale := bitAt c 16,
    scaleBase := bitsAt (p.regWord n 3) 2 37 * 4 }

/-- Element count, view start and view end of a region (R159). -/
def Region.count (r : Region) : Nat := r.size * 8 / (Fmt.of r.st).width
def Region.viewLo (r : Region) : Nat := r.base + viewBase
def Region.viewHi (r : Region) : Nat := r.viewLo + r.count * (Fmt.of r.oc).width / 8

def Part.allRegions (p : Part) : List Region := (natsFrom 0 16).map p.region

/-- The enabled region whose view range holds n bytes from a (R160). -/
def Part.findRegion (p : Part) (a n : Nat) : Option Region :=
  p.allRegions.find? fun r => r.en && r.viewLo ≤ a && a + n ≤ r.viewHi

/-- The class of n bytes from a; none where R256 and R160 trap. -/
def Part.classOf (p : Part) (a n : Nat) : Option Cls :=
  if a < 2 ^ 39 then (if a + n ≤ p.extent then some .hbm else none)
  else if a < 2 ^ 40 then none
  else if a < 2 ^ 48 then (if (p.findRegion a n).isSome then some .view else none)
  else if inWindow a n then some .store
  else if 2 ^ 49 ≤ a && a + n ≤ 2 ^ 50 then some .host
  else if 2 ^ 63 ≤ a && bitsAt a 60 3 == 0 && a % 2 ^ 48 + n ≤ 2 ^ 48 then some .remote
  else none

/-- The chip a remote address names, with 0xFFF and this module's own (R256). -/
def remoteChip (s : State) (a : Nat) : Chip :=
  if bitsAt a 48 12 = 0xFFF then s.chipId else BitVec.ofNat 12 (bitsAt a 48 12)

/-- A valid link-window entry (R270, R397). -/
def Part.link (p : Part) (c : Chip) : Option Tag :=
  let w := mapGet 0 p.window c.toNat
  if w.getLsbD 0 then some (w.extractLsb' 8 8) else none

/-- The epoch that a partition's flits carry: 0 outside any train (R454). -/
def Part.epoch (p : Part) : Byte := match p.train with | some t => t.epoch | none => 0

/-- A message of a partition leaves over Damfold Link (R454). -/
def State.sendMsg (s : State) (tag : Nat) (chip : Chip) (m : Msg) : State :=
  s.emit (.link chip (BitVec.ofNat 8 tag) (s.part tag).epoch m)

/-- RLAT (R397): 0 when no route is left. -/
def State.rlat (s : State) (c : Chip) : Nat := if s.lost.contains c then 0 else Config.routeLatency c.toNat % 2 ^ 32

/-! ## Protection ranges (R264) -/

/-- Permissions as bits: RD 1, W 2, X 4. -/
def needR : Nat := 1
def needW : Nat := 2
def needX : Nat := 4

/-- Whether one range grants what is needed to n bytes of HBM from a. -/
def rangeGrants (lo hi : Word) (a n need : Nat) : Bool :=
  let b := bitsAt lo.toNat 16 23 * 2 ^ 16
  let l := (bitsAt hi.toNat 16 23 + 1) * 2 ^ 16
  if lo.getLsbD 3 && b < l && overlap a n b (l - b) then lo.toNat % 8 &&& need == need else true

/-- Whether every enabled range that holds a byte grants what is needed. -/
def Part.grants (p : Part) (a n need : Nat) : Bool :=
  (natsFrom 0 8).all fun i =>
    rangeGrants (p.ranges[(2 * i) % 16]'(Nat.mod_lt _ (by decide))) (p.ranges[(2 * i + 1) % 16]'(Nat.mod_lt _ (by decide)))
      a n need

/-- The storage bytes of the elements that n view bytes from a touch: first and length. -/
def Region.storage (r : Region) (a n : Nat) : Nat × Nat :=
  let wo := (Fmt.of r.oc).width / 8
  let ws := (Fmt.of r.st).width
  let i0 := (a - r.viewLo) / wo
  let i1 := (a - r.viewLo + n - 1) / wo
  let lo := r.base + i0 * ws / 8
  (lo, r.base + (i1 * ws + ws - 1) / 8 + 1 - lo)

/-- The protection check of an access of a class (R264): views at the storage addresses. -/
def Part.permits (p : Part) (c : Cls) (a n need : Nat) : Bool :=
  match c with
  | .hbm => p.grants a n need
  | .view => match p.findRegion a n with
    | some r => p.grants (r.storage a n).1 (r.storage a n).2 need
    | none => true
  | _ => true

/-- What a slot asks of an address. -/
inductive Use where
  | ld | st | acq | rel | amo (host : Bool)
  deriving DecidableEq, Repr

def Use.need : Use → Nat
  | .ld | .acq => needR
  | .st | .rel => needW
  | .amo _ => needR + needW

/-- Whether a class accepts the kind of access (R257, R270). -/
def Use.accepts (u : Use) (s : State) (p : Part) (c : Cls) (a : Nat) : Bool :=
  match u, c with
  | .amo _, .store => false
  | .amo h, .host => h
  | _, .remote => (p.link (remoteChip s a)).isSome
  | _, _ => true

/-- The trap codes (R420). -/
def cIllegal : Nat := 1
def cHazard : Nat := 2
def cAlign : Nat := 3
def cProt : Nat := 4
def cPage : Nat := 5
def cPost : Nat := 6
def cStale : Nat := 7
def cOverrun : Nat := 8
def cRange : Nat := 9
def cFloat : Nat := 10
def cWaybill : Nat := 11
def cStraggler : Nat := 12
def cClock : Nat := 13
def cSoft : Nat := 15
def cPower : Nat := 16
def cBreak : Nat := 17

/-- The checks of R323 in their order: the class of a, or the trap code with TRAPVAL = a. What runs past the end of a tile-store
window (R258) fails the first check; what starts in a view range and runs past it (R160) fails after the alignment. -/
def checkAccess (s : State) (p : Part) (u : Use) (a n : Nat) : Except Nat Cls :=
  match p.classOf a 1 with
  | none => .error cProt
  | some c =>
    if !u.accepts s p c a || (c == .store && !inWindow a n) then .error cProt
    else if a / 4096 ≠ (a + n - 1) / 4096 then .error cAlign
    else if (match u with | .ld | .st => false | _ => a % n != 0) then .error cAlign
    else if (p.classOf a n).isNone || !p.permits c a n u.need then .error cProt
    else .ok c

/-! ## HBM (R261, R400, R428) -/

/-- The physical place of a guest-physical address: channel × 2^30 + offset (R261). -/
def Part.phys (p : Part) (a : Nat) : Nat :=
  let u := a / 65536
  (mapGet 0 p.groups (u % p.pgroups)).toNat % 512 * 2 ^ 30 + u / p.pgroups * 65536 + a % 65536

/-- The guest-physical address of a place in one of the partition's channels (R261). -/
def Part.guestOf (p : Part) (ph : Nat) : Option Nat :=
  ((natsFrom 0 p.pgroups).find? fun i => (mapGet 0 p.groups i).toNat % 512 == ph / 2 ^ 30).map fun i =>
    (ph % 2 ^ 30 / 65536 * p.pgroups + i) * 65536 + ph % 65536

/-- Whether the clear-map bit of a physical block is set. -/
def State.blockClear (s : State) (ph : Nat) : Bool :=
  (mapGet [] s.clearMap (ph / 2 ^ 30)).any fun i => i.1 ≤ ph % 2 ^ 30 / 65536 && ph % 2 ^ 30 / 65536 < i.2

/-- A byte of HBM: zero while its block's clear bit is set. -/
def State.hbmByte (s : State) (ph : Nat) : Byte := if s.blockClear ph then 0 else Memory.get s.hbm ph

/-- Removes a block from the intervals of a clear map. -/
def dropBlock (b : Nat) : List (Nat × Nat) → List (Nat × Nat)
  | [] => []
  | (lo, hi) :: l =>
    if lo ≤ b && b < hi then ((if lo < b then [(lo, b)] else []) ++ (if b + 1 < hi then [(b + 1, hi)] else [])) ++ l
    else (lo, hi) :: dropBlock b l

/-- Zeroes a block whose bit is set and clears the bit (R400). -/
def State.touchBlock (s : State) (ph : Nat) : State :=
  if s.blockClear ph then
    let lo := ph / 65536 * 65536
    let ch := ph / 2 ^ 30
    { s with hbm := Memory.clear s.hbm lo (lo + 65536), badHbm := s.badHbm.filter fun g => g * 32 < lo || lo + 65536 ≤ g * 32,
             clearMap := mapSet s.clearMap ch (dropBlock (ph % 2 ^ 30 / 65536) (mapGet [] s.clearMap ch)) }
  else s

/-- `n` bytes of HBM of a partition from guest-physical a. -/
def State.readHbm (s : State) (p : Part) (a : Nat) : Nat → Nat
  | 0 => 0
  | n + 1 => (s.hbmByte (p.phys a)).toNat + 256 * s.readHbm p (a + 1) n

/-- Whether a byte read lies in a poisoned granule. -/
def State.badHbmAt (s : State) (p : Part) (a n : Nat) : Bool :=
  (natsFrom (a / 32) ((a + n - 1) / 32 + 1 - a / 32)).any fun g =>
    s.badHbm.contains (p.phys (g * 32) / 32) && !s.blockClear (p.phys (g * 32))

/-- Puts bytes one after another. -/
def State.writeHbmBytes (s : State) (p : Part) (a x : Nat) : Nat → State
  | 0 => s
  | n + 1 =>
    let s1 := s.touchBlock (p.phys a)
    State.writeHbmBytes { s1 with hbm := Memory.put s1.hbm (p.phys a) (BitVec.ofNat 8 x) } p (a + 1) (x / 256) n

/-- The copies of some lines in every remote-data cache are invalidated (R267). -/
def dropCopies (rdc : Map (List RLine)) (gone : Nat → Bool) : Map (List RLine) :=
  rdc.map fun d => (d.1, d.2.filter fun l => !gone l.key)

/-- A write of n bytes, before which every copy of its lines is invalidated (R267); it clears the mark of each whole granule
it covers (R428). -/
def State.writeHbm (s : State) (p : Part) (a x n : Nat) : State :=
  let s1 := s.writeHbmBytes p a x n
  let gs := (natsFrom (ceilDiv a 32) ((a + n) / 32 - ceilDiv a 32)).map fun g => p.phys (g * 32) / 32
  let ls := (natsFrom (a / 256) ((a + n - 1) / 256 + 1 - a / 256)).map fun l => p.phys (l * 256) / 256
  { s1 with badHbm := s1.badHbm.filter fun g => !gs.contains g, rdc := dropCopies s1.rdc ls.contains }

/-! ## Homes and page directories (R261, R262, R266) -/

def viewKey (tag a : Nat) : Nat := tag * 2 ^ 50 + a / 256

/-- The storage address that decides the home of an HBM or view address (R262). -/
def Part.homeAddr (p : Part) (a : Nat) : Nat :=
  match clsAt a with
  | .view => (match p.findRegion (a / 256 * 256) 256 with
    | some r => (r.storage (a / 256 * 256) 256).1
    | none => 0)
  | _ => a

/-- The physical slice group of the home, and its slice. -/
def Part.homeGroup (p : Part) (a : Nat) : Nat := p.phys (p.homeAddr a) / 2 ^ 30
def Part.homeSlice (p : Part) (a : Nat) : Nat :=
  4 * p.homeGroup a + (bitsAt (p.homeAddr a) 8 2 ^^^ bitsAt (p.homeAddr a) 12 2)

/-- A line in L2 and in the remote-data caches: an HBM line by its place, a view line by partition and address. -/
def Part.lineKey (p : Part) (tag a : Nat) : Nat :=
  match clsAt a with
  | .view => 2 ^ 64 + viewKey tag a
  | _ => p.phys a / 256

/-- Whether a partition owns a slice group: it is enabled, and its table names it (R394, R396). -/
def Part.owns (p : Part) (g : Nat) : Bool := p.en && (natsFrom 0 p.pgroups).any fun i => (mapGet 0 p.groups i).toNat % 512 == g

/-- The owner of a slice group (R396). -/
def State.owner (s : State) (g : Nat) : Option Nat := (s.parts.find? fun p => p.2.owns g).map (·.1)

/-- The slice groups of a partition on a die, which give it its share of the die's remote-data cache (R12, R265). -/
def Part.groupsOn (p : Part) (die : Nat) : Nat := (natsFrom 0 p.pgroups).countP fun i => (mapGet 0 p.groups i).toNat % 512 / 128 == die

/-- The directory entry of a page; a page without one is memory-side with zero counters. -/
def dirOf (l : List Dir) (page : Nat) : Dir := (l.find? fun d => d.page == page).getD { page, repl := false, sharers := 0, rd := 0, wr := 0 }

/-- The entry after a read from another die. -/
def Dir.read (d : Dir) : Dir :=
  if d.repl then { d with rd := Nat.min 63 (d.rd + 1) }
  else if d.rd + 1 ≥ 32 then { d with repl := true, rd := 0, wr := 0 } else { d with rd := d.rd + 1 }

/-- The entry after a write or an atomic from a die; the hub die is 4, and no sharer. -/
def Dir.write (d : Dir) (die : Nat) : Dir :=
  if !d.repl then { d with rd := 0 }
  else if d.sharers &&& ~~~(BitVec.ofNat 4 (2 ^ die)) = 0 then { d with rd := 0 }
  else if d.wr + 1 ≥ 4 then { d with repl := false, sharers := 0, rd := 0, wr := 0 } else { d with wr := d.wr + 1, rd := 0 }

/-- The key of the page an address lies in: an HBM page by its place. -/
def Part.pageKey (p : Part) (tag a : Nat) : Nat := p.lineKey tag (a / 65536 * 65536) / 256

/-- Whether a line key lies in a page of this group. -/
def inPage (page key : Nat) : Bool := key / 256 == page

/-- Puts a directory entry first; the least recently used one leaves a full directory, and a page that leaves or returns to
memory-side has its copies invalidated first (R266, R267). -/
def State.dirPut (s : State) (g : Nat) (old d : Dir) : State :=
  let l := d :: (mapGet [] s.dirs g).filter fun e => e.page != d.page
  let gone := (l.drop 1024).map Dir.page ++ (if old.repl && !d.repl then [d.page] else [])
  { s with dirs := mapSet s.dirs g (l.take 1024), rdc := if gone.isEmpty then s.rdc else dropCopies s.rdc fun k => gone.any fun q => inPage q k }

/-- Counts a read from a compute die, or a write or atomic from any, in the directory of the home's group (R266). A write or atomic
to a page without an entry allocates one too, for which a full directory gives up its least recently used entry, even a
replicated one (log 61, DESIGN CHOICE: R266 does not say which accesses allocate). -/
def State.dirCount (s : State) (tag die a : Nat) (write : Bool) : State :=
  let p := s.part tag
  let g := p.homeGroup a
  let d := dirOf (mapGet [] s.dirs g) (p.pageKey tag a)
  if write then s.dirPut g d (d.write die)
  else if die = g / 128 ∨ 4 ≤ die then s
  else s.dirPut g d d.read

/-- Reads or writes of several lines by one agent. -/
def State.dirCounts (s : State) (tag die : Nat) (ls : List Nat) (write : Bool) : State :=
  ls.foldl (fun s a => s.dirCount tag die a write) s

/-! ## Views (R159 to R165) -/

/-- Sets sticky bits of a region's third word (R157). -/
def Part.regSticky (p : Part) (n bit : Nat) (on : Bool) : Part :=
  if on then
    { p with regions := p.regions.set ((4 * n + 2) % 64) (p.regions[(4 * n + 2) % 64]'(Nat.mod_lt _ (by decide)) |||
        BitVec.ofNat 64 (2 ^ bit)) (Nat.mod_lt _ (by decide)) }
  else p

/-- The scale of element i: an f32 encoding (R159, R163), and whether it is a positive normal number. -/
def Region.scale (r : Region) (s : State) (p : Part) (i : Nat) : Nat :=
  if r.noScale then 0x3F800000
  else s.readHbm p (r.scaleBase + 4 * (i * (Fmt.of r.st).width / (8 * 2 ^ r.blk))) 4

def scaleOk (x : Nat) : Bool := !bitAt x 31 && bitsAt x 23 8 != 0 && bitsAt x 23 8 != 255

/-- The 256-byte lines that n bytes from a touch, by their first addresses. -/
def lineStarts (a n : Nat) : List Nat := (natsFrom (a / 256) ((a + n - 1) / 256 + 1 - a / 256)).map (256 * ·)

/-- The lines with the storage bytes of the elements that n view bytes from a touch, and those with their scales: the home
controller of the view line accesses each through its own home (R161, R262). -/
def Region.storageLines (r : Region) (a n : Nat) : List Nat := lineStarts (r.storage a n).1 (r.storage a n).2
def Region.scaleLines (r : Region) (a n : Nat) : List Nat :=
  let wo := (Fmt.of r.oc).width / 8
  let at_ (b : Nat) : Nat := r.scaleBase + 4 * ((b - r.viewLo) / wo * (Fmt.of r.st).width / (8 * 2 ^ r.blk))
  if r.noScale then [] else lineStarts (at_ a) (at_ (a + n - 1) + 4 - at_ a)

/-- Whether a home slice refuses n bytes at `a` under a tag: the group has another owner (R396), or the view address lies in no
enabled region any more (R160, R165). A view line's controller asks for the storage and the scales of whole sectors. -/
def State.refuses (s : State) (tag a n : Nat) : Bool :=
  let p := s.part tag
  let alien (b : Nat) : Bool := s.owner (p.homeGroup b) != some tag
  match clsAt a with
  | .hbm => alien a
  | .view => (match p.findRegion a n with
    | none => true
    | some r =>
      let b := a / 64 * 64
      let m := (a + n + 63) / 64 * 64 - b
      alien a || (r.storageLines b m ++ r.scaleLines b m).any alien)
  | _ => false

/-- Storage bits of element i. -/
def Region.raw (r : Region) (s : State) (p : Part) (i : Nat) : Nat :=
  let ws := (Fmt.of r.st).width
  bitsAt (s.readHbm p (r.base + i * ws / 8) (ceilDiv (i * ws % 8 + ws) 8)) (i * ws % 8) ws

/-- Decoding an element (R161): the on-chip encoding and whether BADSCALE is set. -/
def decodeElem (st oc : Fmt) (sc x : Nat) : Nat × Bool :=
  if !scaleOk sc then (oc.qnan, true) else
  match FV.decode st x with
  | .nan _ _ => (oc.qnan, false)
  | .inf n => ((FR.inf oc n).bits, false)
  | .num n sg e => match FV.decode Fmt.f32 sc with
    | .num _ t f => ((oc.round .rne n (sg * t) 1 (e + f)).bits, false)
    | _ => (oc.qnan, false)

/-- Encoding an element (R162): the storage encoding, BADSCALE, NANSAT, SAT. -/
def encodeElem (st oc : Fmt) (sc x : Nat) : Nat × Bool × Bool × Bool :=
  if !scaleOk sc then (0, true, false, false) else
  match FV.decode oc x with
  | .nan n _ => if st.hasNan then (st.qnan, false, false, false) else (st.signBit n + st.maxFinite, false, true, false)
  | .inf n => if st.hasInf then ((FR.inf st n).bits, false, false, false) else (st.signBit n + st.maxFinite, false, false, true)
  | .num n sg e => match FV.decode Fmt.f32 sc with
    | .num _ t f => let r := st.round .rne n sg t (e - f); (r.bits, false, false, r.fl / 4 % 2 == 1)
    | _ => (0, true, false, false)

/-- Elements of a view line decoded in turn: the line's bytes, poisoned granules, BADSCALE. -/
def fillElems (s : State) (p : Part) (r : Region) (wo : Nat) (i pos : Nat) : Nat → Nat × Nat × Bool
  | 0 => (0, 0, false)
  | n + 1 =>
    let (d, b, e) := fillElems s p r wo (i + 1) (pos + wo) n
    let ws := (Fmt.of r.st).width
    let (v, bs) := decodeElem (Fmt.of r.st) (Fmt.of r.oc) (r.scale s p i) (r.raw s p i)
    let bad := s.badHbmAt p (r.base + i * ws / 8) (ceilDiv (i * ws % 8 + ws) 8) || (!r.noScale && s.badHbmAt p (r.scaleBase + 4 * (i * ws / (8 * 2 ^ r.blk))) 1)
    (d + v * 2 ^ (8 * pos), if bad then b ||| 2 ^ (pos / 32) else b, e || bs)

/-- The 64-byte sectors of a line that n bytes from a touch, as bits. -/
def sectorBits (a n : Nat) : Nat := (natsFrom 0 4).foldl (fun m i => if overlap (a % 256) n (64 * i) 64 then m + 2 ^ i else m) 0

/-- The line of a view address with the sectors of n bytes from it filled (R10, R161); none while no region is there. The reads of
storage and scales are the home controller's, from its die (R262, R266; log 61). -/
def State.viewFill (s : State) (tag a n : Nat) : State × Option ViewLine :=
  let p := s.part tag
  let b := a / 256 * 256
  match p.findRegion b 256 with
  | none => (s, none)
  | some r =>
    let wo := (Fmt.of r.oc).width / 8
    let l0 := (mapFind s.views (viewKey tag a)).getD { data := 0, valid := 0, dirty := 0, bad := 0 }
    let fill (q : ViewLine × Bool) (i : Nat) : ViewLine × Bool :=
      if bitAt (sectorBits a n) i && !bitAt q.1.valid i then
        let (d, m, e) := fillElems s p r wo ((b + 64 * i - r.viewLo) / wo) (64 * i) (64 / wo)
        ({ q.1 with data := q.1.data + d, valid := q.1.valid + 2 ^ i, bad := q.1.bad ||| m }, q.2 || e)
      else q
    let (l, e) := (natsFrom 0 4).foldl fill (l0, false)
    let new := (natsFrom 0 4).filter fun i => bitAt l.valid i && !bitAt l0.valid i
    let ls := ((new.map fun i => r.storageLines (b + 64 * i) 64 ++ r.scaleLines (b + 64 * i) 64).flatten).eraseDups
    let s1 := (s.dirCounts tag (p.homeGroup a / 128) ls false).modPart tag fun q => q.regSticky r.idx 17 e
    ({ s1 with views := mapSet s1.views (viewKey tag a) l }, some l)

/-- Puts the `ws` bits of element i into the storage range. -/
def Region.putRaw (r : Region) (s : State) (p : Part) (i v : Nat) (bad : Bool) : State :=
  let ws := (Fmt.of r.st).width
  let a := r.base + i * ws / 8
  let n := ceilDiv (i * ws % 8 + ws) 8
  let s1 := s.writeHbm p a (putBits (s.readHbm p a n) (i * ws % 8) ws v) n
  if bad then { s1 with badHbm := p.phys a / 32 :: s1.badHbm } else s1

/-- Encodes the elements of dirty sectors in turn (R162). -/
def encodeElems (s : State) (tag : Nat) (r : Region) (l : ViewLine) (wo i pos : Nat) : Nat → State
  | 0 => s
  | n + 1 =>
    let s1 :=
      if bitAt l.dirty (pos / 64) then
        let p := s.part tag
        let (v, bs, ns, sat) := encodeElem (Fmt.of r.st) (Fmt.of r.oc) (r.scale s p i) (bitsAt l.data (8 * pos) (8 * wo))
        let s2 := r.putRaw s p i v (bitAt l.bad (pos / 32))
        s2.modPart tag fun q => ((q.regSticky r.idx 17 bs).regSticky r.idx 19 ns).regSticky r.idx 18 sat
      else s
    encodeElems s1 tag r l wo (i + 1) (pos + wo) n

/-- The storage granules that the dirty sectors of a line cover whole: the write-back clears their marks (R428). -/
def Region.covered (r : Region) (l : ViewLine) (e0 per : Nat) : List Nat :=
  let ws := (Fmt.of r.st).width
  let a0 := r.base + e0 * ws / 8
  (natsFrom (a0 / 32) ((a0 + 4 * per * ws / 8) / 32 + 1 - a0 / 32)).filter fun g =>
    let i0 := (32 * g - r.base) * 8 / ws
    let i1 := ((32 * g + 32 - r.base) * 8 - 1) / ws
    decide (r.base ≤ 32 * g ∧ e0 ≤ i0 ∧ i1 < e0 + 4 * per) &&
      (natsFrom ((i0 - e0) / per) ((i1 - e0) / per + 1 - (i0 - e0) / per)).all fun q => bitAt l.dirty q

/-- Writes a view line back, drops it and every copy of it (R162, R330). The storage and scales are accessed from the die of its
home (R262, R266; log 61); what their homes refuse is not written (R396). -/
def State.viewWriteBack (s : State) (tag a : Nat) : State :=
  let key := 2 ^ 64 + viewKey tag a
  let s0 := { s with rdc := dropCopies s.rdc (· == key), l2 := s.l2.map fun d => (d.1, d.2.filter fun l => l.key != key) }
  match mapFind s.views (viewKey tag a) with
  | none => s0
  | some l =>
    let s1 := { s0 with views := mapErase s0.views (viewKey tag a) }
    let p := s.part tag
    match p.findRegion (a / 256 * 256) 256 with
    | none => s1
    | some r =>
      let wo := (Fmt.of r.oc).width / 8
      let e0 := (a / 256 * 256 - r.viewLo) / wo
      let gs := (r.covered l e0 (64 / wo)).map fun g => p.phys (32 * g) / 32
      let b := a / 256 * 256
      let dirty := (natsFrom 0 4).filter (bitAt l.dirty)
      let die := p.homeGroup a / 128
      let s2 := (s1.dirCounts tag die ((dirty.map fun i => r.scaleLines (b + 64 * i) 64).flatten).eraseDups false).dirCounts tag die
        ((dirty.map fun i => r.storageLines (b + 64 * i) 64).flatten).eraseDups true
      if dirty.any fun i => s.refuses tag (b + 64 * i) 64 then s2
      else encodeElems { s2 with badHbm := s2.badHbm.filter fun g => !gs.contains g } tag r l wo e0 0 (256 / wo)

/-- Before an access, a held view line may have been evicted, as a replacement does: a free choice (R164). -/
def State.viewEvict (s : State) (tag a : Nat) : State :=
  match mapFind s.views (viewKey tag a) with
  | none => s
  | some _ => let (s1, b) := s.flip; if b then s1.viewWriteBack tag a else s1

/-! ## L2 slices (R10, R260) -/

/-- What a cache gives up first (R260): lines of the stream hint, then unhinted ones, then kept ones; which among equals is
a free choice. -/
def evictionClass (hs : List CacheHint) : CacheHint :=
  if hs.contains .stream then .stream else if hs.contains .none then .none else .keep

/-- The hint that a present line has after an access with a hint: no-allocate leaves it. -/
def hintAfter (old h : CacheHint) : CacheHint := if h = .noAlloc then old else h

def victim {α : Type} (hint : α → CacheHint) (l : List α) (n : Nat) : Option α :=
  let c := evictionClass (l.map hint)
  let m := l.filter fun x => hint x == c
  m[Config.freeLevel n % m.length]?

/-- Places line `key` in a set that may be full: the line given up is a free choice (R10: 16 ways). -/
def State.l2Evict (s : State) (sl key : Nat) : State :=
  let ls := mapGet [] s.l2 sl
  let set := ls.filter fun l => Config.l2Set l.key % 128 == Config.l2Set key % 128
  if set.length < 16 then s
  else match victim L2Line.hint set s.free with
    | none => s
    | some v =>
      let s1 := { s with free := s.free + 1, l2 := mapSet s.l2 sl (ls.filter fun l => l.key != v.key) }
      if v.key < 2 ^ 64 then s1 else s1.viewWriteBack ((v.key - 2 ^ 64) / 2 ^ 50) ((v.key - 2 ^ 64) % 2 ^ 50 * 256)

/-- An access to n bytes of a line at its home slice: the line is present afterwards with the sectors touched, unless the
hint keeps an absent one out (R260). -/
def State.l2Touch (s : State) (tag a n : Nat) (write : Bool) (h : CacheHint) : State :=
  let p := s.part tag
  let sl := p.homeSlice a
  let key := p.lineKey tag a
  let m := sectorBits a n
  let w := if write then m else 0
  match (mapGet [] s.l2 sl).find? fun l => l.key == key with
  | some l => { s with l2 := mapSet s.l2 sl ({ l with hint := hintAfter l.hint h, valid := l.valid ||| m, dirty := l.dirty ||| w } ::
      (mapGet [] s.l2 sl).filter fun x => x.key != key) }
  | none =>
    if h = .noAlloc then s
    else
      let s1 := s.l2Evict sl key
      { s1 with l2 := mapSet s1.l2 sl ({ key, hint := h, valid := m, dirty := w } :: mapGet [] s1.l2 sl) }

/-! ## Remote-data caches (R265, R267) -/

/-- A copy of a line that a die's remote-data cache holds for a partition: it may have been evicted, a free choice. -/
def State.rdcLook (s : State) (tag die a n : Nat) : State × Option RLine :=
  let p := s.part tag
  let key := p.lineKey tag a
  let m := sectorBits a n
  match (mapGet [] s.rdc (4 * tag + die)).find? fun l => l.key == key with
  | none => (s, none)
  | some l =>
    let (s1, gone) := s.flip
    if gone then ({ s1 with rdc := mapSet s1.rdc (4 * tag + die) ((mapGet [] s1.rdc (4 * tag + die)).filter fun x => x.key != key) }, none)
    else (s1, if l.valid &&& m = m then some l else none)

/-- A read that misses on a replicated page fills a clean copy into its die's share and sets the sharer bit (R265). A share
holds 1,024 lines for each slice group. -/
def State.rdcFill (s : State) (tag die a n bad : Nat) (h : CacheHint) : State :=
  let p := s.part tag
  let g := p.homeGroup a
  let d := dirOf (mapGet [] s.dirs g) (p.pageKey tag a)
  let cap := 1024 * p.groupsOn die
  let key := p.lineKey tag a
  let ls := mapGet [] s.rdc (4 * tag + die)
  let old := ls.find? fun l => l.key == key
  if !d.repl || die == g / 128 || 4 ≤ die || cap == 0 || (h == .noAlloc && old.isNone) then s
  else
    let rest := ls.filter fun l => l.key != key
    let v := if rest.length < cap then none else victim RLine.hint rest s.free
    let rest := match v with | some v => rest.filter fun l => l.key != v.key | none => rest
    let l0 : RLine := old.getD { key, hint := h, valid := 0, bad := 0 }
    let l : RLine := { l0 with hint := hintAfter l0.hint h, valid := l0.valid ||| sectorBits a n, bad := l0.bad ||| bad }
    let s1 := s.dirPut g d { d with sharers := d.sharers ||| BitVec.ofNat 4 (2 ^ die) }
    { s1 with rdc := mapSet s1.rdc (4 * tag + die) (l :: rest), free := if v.isSome then s1.free + 1 else s1.free }

/-! ## The homes -/

/-- The poison of n bytes as a bit for each 32-byte granule of the 256-byte line they lie in (R428). -/
def State.badBits (s : State) (p : Part) (a n : Nat) : Nat :=
  (natsFrom 0 8).foldl (fun m i => if overlap (a % 256) n (32 * i) 32 && s.badHbmAt p (a / 256 * 256 + 32 * i) 1 then m + 2 ^ i else m) 0

/-- The bits of the granules of a line that n bytes from a touch. -/
def granuleBits (a n : Nat) : Nat := (natsFrom 0 8).foldl (fun m i => if overlap (a % 256) n (32 * i) 32 then m + 2 ^ i else m) 0

/-- n bytes within one line as the home slice gives them, counted by no directory, and their poison bits. -/
def State.homeLook (s : State) (tag : Nat) (c : Cls) (a n : Nat) (h : CacheHint := .none) : State × Nat × Nat :=
  match c with
  | .view =>
    let s0 := s.viewEvict tag a
    let held := (mapFind s0.views (viewKey tag a)).isSome
    (match s0.viewFill tag a n with
    | (s1, none) => (s1, 0, 0)
    | (s1, some l) =>
      let s2 := s1.l2Touch tag a n false h
      (if h = .noAlloc ∧ held = false then s2.viewWriteBack tag a else s2,
        bitsAt l.data (8 * (a % 256)) (8 * n), l.bad &&& granuleBits a n))
  | _ => let s1 := s.l2Touch tag a n false h
         let p := s1.part tag
         (s1, s1.readHbm p a n, s1.badBits p a n)

/-- A read of n bytes within one line at its home, from a die: the bytes and their poison bits. -/
def State.homeBits (s : State) (tag die : Nat) (c : Cls) (a n : Nat) (h : CacheHint := .none) : State × Nat × Nat :=
  (s.dirCount tag die a false).homeLook tag c a n h

def State.homeRead (s : State) (tag die : Nat) (c : Cls) (a n : Nat) (h : CacheHint := .none) : State × Nat × Bool :=
  let (s1, v, b) := s.homeBits tag die c a n h
  (s1, v, b != 0)

/-- The bytes of a copy, which are those of the home. -/
def State.copyBytes (s : State) (tag : Nat) (c : Cls) (a n : Nat) : Nat :=
  match c with
  | .view => (match mapFind s.views (viewKey tag a) with | some l => bitsAt l.data (8 * (a % 256)) (8 * n) | none => 0)
  | _ => s.readHbm (s.part tag) a n

/-- A read of n bytes within one line by an agent of a die, through the die's remote-data cache (R265): the bytes, their poison
bits, and whether that cache answered. -/
def State.dieRead (s : State) (tag die : Nat) (c : Cls) (a n : Nat) (h : CacheHint := .none) : State × Nat × Nat × Bool :=
  match s.rdcLook tag die a n with
  | (s1, some l) => (s1, s1.copyBytes tag c a n, l.bad &&& granuleBits a n, true)
  | (s1, none) =>
    let (s2, v, b) := s1.homeBits tag die c a n h
    (s2.rdcFill tag die a n b h, v, b, false)

/-- A write of n bytes within one granule at its home, into the view line that is held if one is; the copies of its line are
invalidated first (R267). A write of a view address that no region holds any more is lost. -/
def State.homePut (s : State) (tag die : Nat) (c : Cls) (a x n : Nat) (h : CacheHint := .none) : State :=
  let s0 := s.dirCount tag die a true
  match c with
  | .view =>
    let held := (mapFind s0.views (viewKey tag a)).isSome
    (match s0.viewFill tag a n with
    | (s1, none) => s1
    | (s1, some l) =>
      let l' : ViewLine := { l with data := putBits l.data (8 * (a % 256)) (8 * n) x, dirty := l.dirty ||| sectorBits a n,
                                    bad := if n = 32 then l.bad &&& (255 - 2 ^ (a % 256 / 32)) else l.bad }
      let s2 := { s1 with views := mapSet s1.views (viewKey tag a) l', rdc := dropCopies s1.rdc (· == 2 ^ 64 + viewKey tag a) }
      let s3 := s2.l2Touch tag a n true h
      if h = .noAlloc ∧ held = false then s3.viewWriteBack tag a else s3)
  | _ => let s1 := s0.l2Touch tag a n true h
         s1.writeHbm (s1.part tag) a x n

/-- A write at its home, before which a view line may have been evicted (R164). -/
def State.homeWrite (s : State) (tag die : Nat) (c : Cls) (a x n : Nat) (h : CacheHint := .none) : State :=
  match c with
  | .view => (s.viewEvict tag a).homePut tag die .view a x n h
  | _ => s.homePut tag die c a x n h

/-- A line leaves its home slice, written back, and every remote-data cache (R116, R330). -/
def State.dropLine (s : State) (tag a : Nat) : State :=
  match clsAt a with
  | .view => s.viewWriteBack tag a
  | _ => let key := (s.part tag).lineKey tag a
         { s with rdc := dropCopies s.rdc (· == key), l2 := s.l2.map fun d => (d.1, d.2.filter fun l => l.key != key) }

/-- The 64 KiB pages that n bytes from a touch, by their first addresses. -/
def pageStarts (a n : Nat) : List Nat := (natsFrom (a / 65536) ((a + n - 1) / 65536 + 1 - a / 65536)).map (65536 * ·)

/-- The hub die reads and writes a partition's memory, of any length; a write is counted once for each page (log 61). Where a home
refuses a page of it, nothing is read or written (R396; log 70). -/
def State.partRead (s : State) (tag a n : Nat) : Nat :=
  if (pageStarts a n).any fun g => s.refuses tag g 1 then 0 else s.readHbm (s.part tag) a n
def State.partWrite (s : State) (tag a x n : Nat) : State :=
  if (pageStarts a n).any fun g => s.refuses tag g 1 then s
  else let s1 := s.dirCounts tag 4 (pageStarts a n) true
       s1.writeHbm (s1.part tag) a x n

/-! ## The tile store (R242, R258) -/

/-- `n` bytes of the store from an address of one of its windows. -/
def Tile.storeRead (t : Tile) (a : Nat) : Nat → Nat
  | 0 => 0
  | n + 1 => (match storeOff a with | some o => (Memory.get t.store o).toNat | none => 0) + 256 * t.storeRead (a + 1) n

def Tile.storeBytes (t : Tile) (a x : Nat) : Nat → Tile
  | 0 => t
  | n + 1 =>
    Tile.storeBytes (match storeOff a with
      | some o => { t with store := Memory.put t.store o (BitVec.ofNat 8 x) }
      | none => t) (a + 1) (x / 256) n

/-- The 64-byte chunks that n bytes from a touch, by number. -/
def chunksOf (a n : Nat) : List Nat :=
  (natsFrom (a / 64) ((a + n - 1) / 64 + 1 - a / 64)).filterMap fun c => (storeOff (c * 64)).map (· / 64)

/-- A store to the tile store; it clears the mark of each whole chunk it covers (R428). -/
def Tile.storeWrite (t : Tile) (a x n : Nat) : Tile :=
  let t1 := t.storeBytes a x n
  let whole := (natsFrom (ceilDiv a 64) ((a + n) / 64 - ceilDiv a 64)).filterMap fun c => (storeOff (c * 64)).map (· / 64)
  { t1 with badChunks := t1.badChunks.filter fun c => !whole.contains c }

def Tile.storeBad (t : Tile) (a n : Nat) : Bool := (chunksOf a n).any t.badChunks.contains

/-! ## L1 and the instruction cache (R259, R52) -/

def Tile.l1Of (t : Tile) (c : Fin 4) : List Sector := t.l1[c.val]
def Tile.setL1 (t : Tile) (c : Fin 4) (l : List Sector) : Tile := { t with l1 := t.l1.set c.val l }

/-- Invalidates the whole L1 of a core, or one sector of it. -/
def Tile.l1Clear (t : Tile) (c : Fin 4) : Tile := t.setL1 c []
def Tile.l1Drop (t : Tile) (c : Fin 4) (a : Nat) : Tile := t.setL1 c ((t.l1Of c).filter fun x => x.addr ≠ a / 64 * 64)

/-- A store updates the sector when it is present, and never allocates; a whole granule loses its mark (R428). -/
def Tile.l1Store (t : Tile) (c : Fin 4) (a x n : Nat) : Tile :=
  t.setL1 c ((t.l1Of c).map fun y =>
    if y.addr = a / 64 * 64 then
      { y with data := putBits y.data (8 * (a % 64)) (8 * n) x, bad := if n = 32 then y.bad &&& (3 - 2 ^ (a % 64 / 32)) else y.bad }
    else y)

/-- L1's hint classes: kept sectors leave last (R260). -/
def Sector.hint (x : Sector) : CacheHint := if x.keep then .keep else .none

/-- A load puts its sector into a core's L1 of 1,024 sectors; the one given up is a free choice (R9, R259, R260). -/
def State.l1Fill (s : State) (t : TileId) (c : Fin 4) (x : Sector) : State :=
  let rest := ((s.tile t).l1Of c).filter fun y => y.addr ≠ x.addr
  if rest.length < 1024 then s.modTile t fun y => y.setL1 c (x :: rest)
  else match victim Sector.hint rest s.free with
    | none => s
    | some v => State.modTile { s with free := s.free + 1 } t fun y => y.setL1 c (x :: rest.filter fun z => z.addr ≠ v.addr)

/-! ## The remote page table (R271) -/

/-- What a walk finds: a page's address with its W and RD, or nothing. -/
structure Leaf where
  addr : Nat
  w : Bool
  rd : Bool
  deriving DecidableEq, Repr

/-- Reserved bits of an entry, and the bits of ADDR below an alignment, are zero. -/
def entryOk (e align : Nat) : Bool := bitsAt e 39 21 == 0 && bitsAt e 0 8 == 0 && bitsAt e 0 39 % align == 0

/-- The walk from a table at a level, for the address v. A table that runs past the partition's extent holds no translation
(log 22, DESIGN CHOICE: R271 does not say). -/
def walk (s : State) (p : Part) (v : Nat) : Nat → Nat → Nat → Option Leaf
  | 0, _, _ => none
  | fuel + 1, level, table =>
    let idx := match level with | 0 => bitsAt v 39 9 | 1 => bitsAt v 30 9 | 2 => bitsAt v 21 9 | _ => bitsAt v 16 5
    if table + 8 * idx + 8 > p.extent then none
    else
      let e := s.readHbm p (table + 8 * idx) 8
      let leaf (sz : Nat) : Option Leaf :=
        if entryOk e sz then some { addr := bitsAt e 0 39 + v % sz, w := bitAt e 61, rd := bitAt e 60 } else none
      if !bitAt e 63 then none
      else if bitAt e 62 then (if level = 2 then leaf (2 ^ 21) else if level = 3 then leaf (2 ^ 16) else none)
      else if level ≥ 3 then none
      else if entryOk e (if level = 2 then 256 else 4096) then walk s p v fuel (level + 1) (bitsAt e 0 39)
      else none

/-- The translation of a remote address by a partition. -/
def Part.remoteLookup (p : Part) (s : State) (v : Nat) : Option Leaf :=
  if p.remroot.getLsbD 0 then walk s p v 4 0 (bitsAt p.remroot.toNat 12 27 * 2 ^ 12) else none

/-- Whether an address is a remote one that names this module (R256). -/
def State.ownAlias (s : State) (a : Nat) : Bool := clsAt a == .remote && remoteChip s a == s.chipId

/-- The location that a remote address naming this module stands for: the guest address where it leads back to the same partition,
a number of its own in another one's HBM, the address itself while its page has no translation (R256, R271). -/
def State.ownPlace (s : State) (tag a : Nat) : Nat :=
  match (s.part tag).link s.chipId with
  | none => a
  | some tt => match (s.part tt.toNat).remoteLookup s (a % 2 ^ 48) with
    | none => a
    | some l => if tt.toNat = tag then l.addr else 2 ^ 64 + tt.toNat * 2 ^ 48 + l.addr

/-- A piece with the location it stands for. -/
def State.placed (s : State) (tag : Nat) (q : Piece) : Piece :=
  if s.ownAlias q.addr then { q with home := some (s.ownPlace tag q.addr) } else q

/-- The location of a piece, and whether it is not known yet. -/
def Piece.place (q : Piece) : Nat := q.home.getD q.addr
def Piece.vague (q : Piece) : Bool := match q.home with | some h => decide (2 ^ 63 ≤ h ∧ h < 2 ^ 64) | none => false

/-- Whether two pieces have a byte in common, or may have one while the location of either is not known (R302). -/
def Piece.meets (a b : Piece) : Bool := a.vague || b.vague || overlap a.place a.size b.place b.size

/-- Whether a host page is translated with the permissions needed (R269). -/
def Part.translated (p : Part) (page : Nat) (need : PagePerm) : Bool :=
  p.atc.any fun a => (if a.large then page / 32 == a.page / 32 else page == a.page) && (a.perm.rd || !need.rd) && (a.perm.w || !need.w)

/-- A translation is learned. -/
def Part.learn (p : Part) (page : Nat) (large : Bool) (perm : PagePerm) : Part :=
  { p with atc := { page, large, perm } :: p.atc }

/-- Whether a remote address names this module and its page has no translation there (R256, R270, R271). -/
def State.ownMissing (s : State) (tag a : Nat) : Bool :=
  clsAt a == .remote && remoteChip s a == s.chipId && (match (s.part tag).link s.chipId with
    | some tt => ((s.part tt.toNat).remoteLookup s (a % 2 ^ 48)).isNone
    | none => true)

end Sys2Proof.Machine
end

