-- ==== Sys2Proof/Machine/Levels.lean ====
section
/-!
DEFINITION. Registers of a slot (R60, R61, R88, R429), and the levels above it: killing and cancelling slots, tiles,
launches, graphs, phases and jobs (R109 to R111, R438), completion stamps, and the fault log (R426).
-/
namespace Sys2Proof.Machine

/-! ## Registers -/

/-- Operand codes of R60. -/
def rG (n : G) : Nat := n.toNat
def rF (n : F) : Nat := 32 + n.toNat
def rV (n : V) : Nat := 64 + n.toNat
def rP (n : P) : Nat := 96 + n.toNat
def rK (n : K) : Nat := 112 + n.toNat
def rGF (x : GF) : Nat := x.code
/-- The code of a destination that is discarded (R88). -/
def rNone : Nat := 128

/-- A register is written: its poison and run-ahead marks go (R429, R431), and an outstanding long result to it is
discarded when it arrives (R88). -/
def Slot.wrote (x : Slot) (c : Nat) : Slot :=
  { x with bad := x.bad.filter (· ≠ c),
           ops := x.ops.map fun o => { o with dests := o.dests.map fun d => if d.code = c then { d with code := rNone } else d },
           ra := x.ra.map fun r => { r with marks := r.marks.filter (· ≠ c) } }

/-- g0 reads zero and p0 reads true (R61). -/
def Slot.gr (x : Slot) (n : G) : Word := if n = 0 then 0 else x.g[n.toNat]
def Slot.fr (x : Slot) (n : F) : Word := x.f[n.toNat]
def Slot.vr (x : Slot) (n : V) : VWord := x.v[n.toNat]
def Slot.pr (x : Slot) (n : P) : Bool := if n = 0 then true else x.p[n.toNat]
def Slot.kr (x : Slot) (n : K) : Word := x.k[n.toNat]
def Slot.gfr (x : Slot) : GF → Word
  | .g n => x.gr n
  | .f n => x.fr n

/-- Writes; a write of g0 or p0 is discarded (R61). -/
def Slot.gw (x : Slot) (n : G) (v : Word) : Slot := if n = 0 then x else { x.wrote (rG n) with g := x.g.set n.toNat v }
def Slot.fw (x : Slot) (n : F) (v : Word) : Slot := { x.wrote (rF n) with f := x.f.set n.toNat v }
def Slot.vw (x : Slot) (n : V) (v : VWord) : Slot := { x.wrote (rV n) with v := x.v.set n.toNat v }
def Slot.pw (x : Slot) (n : P) (v : Bool) : Slot := if n = 0 then x else { x.wrote (rP n) with p := x.p.set n.toNat v }
def Slot.kw (x : Slot) (n : K) (v : Word) : Slot := { x.wrote (rK n) with k := x.k.set n.toNat v }
def Slot.gfw (x : Slot) : GF → Word → Slot
  | .g n, v => x.gw n v
  | .f n, v => x.fw n v

/-- Writes a register by operand code with a number (R424). -/
def Slot.cw (x : Slot) (c v : Nat) : Slot :=
  if c < 32 then x.gw (BitVec.ofNat 5 c) (w64 v)
  else if c < 64 then x.fw (BitVec.ofNat 5 c) (w64 v)
  else if c < 96 then x.vw (BitVec.ofNat 5 c) (BitVec.ofNat 1024 v)
  else if c < 112 then x.pw (BitVec.ofNat 4 c) (v % 2 == 1)
  else if c < 120 then x.kw (BitVec.ofNat 3 c) (w64 v)
  else x

/-- A long result of operation `id` is written to a register: older outstanding results to it are discarded when they
arrive, younger ones stand (R85, R88). -/
def Slot.land (x : Slot) (id c v : Nat) (bad : Bool) : Slot :=
  let y := x.cw c (if bad then 0 else v)
  { y with bad := if bad && c < 120 then c :: y.bad else y.bad,
           ops := x.ops.map fun o =>
             if o.id < id then { o with dests := o.dests.map fun d => if d.code = c then { d with code := rNone } else d } else o }

/-- Operand codes of registers with a long result outstanding (R85 to R89). -/
def Slot.pending (x : Slot) : List Nat := (x.ops.map fun o => o.dests.map (·.code)).flatten

/-- The number of long results outstanding, the discarded ones included (R86, R88). -/
def Slot.longs (x : Slot) : Nat := (x.ops.map fun o => o.dests.length).sum

/-! ## The kill of a slot, a tile, a launch (R111, R438) -/

/-- A stopped slot whose access is found to fault, or that a cancel or kill halts, has nothing to roll back to: what it
held and what is unconfirmed is discarded (R438, log 20). -/
def Slot.dropUnconfirmed (x : Slot) : Slot :=
  let gone := x.ops.filter fun o => o.held || !o.conf
  { x with ra := none, ops := x.ops.filter fun o => o.conf && !o.held, cntl := x.cntl - w64 (gone.countP (·.cntL)),
           cnts := x.cnts - w64 (gone.countP (·.cntS)) }

/-- The operations of an earlier activity that are held back or unconfirmed are discarded: one of them is found to fault (R127,
R438, log 20). -/
def Slot.dropOlder (x : Slot) (since : Nat) : Slot :=
  let old (o : Op) : Bool := decide (o.id < since) && (o.held || !o.conf)
  let gone := x.ops.filter old
  { x with ops := x.ops.filter fun o => !old o, cntl := x.cntl - w64 (gone.countP (·.cntL)),
           cnts := x.cnts - w64 (gone.countP (·.cntS)) }

/-- The end of a slot's activity in the round by rdone or sstop (R126, R206, R422). An mwait's translation that is still to be found
stays outstanding (R430). -/
def Slot.finish (x : Slot) : Slot :=
  { x with active := false, park := .none, sPark := false, yPark := none, forfeit := 0, srep := none, trapOnly := false,
           tm := false, waive := none, streams := Vector.replicate 8 none, ops := x.ops.filter fun o => o.kind != .probe || !o.conf }

/-- A slot that an abandoned round halts: its parks end, and its long results are drained, the unconfirmed ones too; a
slot that runs ahead gives up what it has not confirmed (R83, R97, R425). -/
def Slot.abandon (x : Slot) : Slot :=
  let y := { x.finish with retry := none, failed := [], faults := [], starting := none }
  match x.ra with
  | some r => if r.fault.isSome then y.dropUnconfirmed else y
  | none => y

/-- A slot that a cancel or a kill halts: what it held is discarded, what it has outstanding stays counted (R83, R438). -/
def Slot.halt (x : Slot) : Slot := { x.abandon.dropUnconfirmed with deferred := [] }

/-- Takes operations of the matrix array off their queues, with their scoreboard entries (R234). -/
def Tile.dropQops (t : Tile) (gone : QOp → Bool) : Tile :=
  let l := t.qops.filter gone
  { t with qops := t.qops.filter fun o => !gone o, board := t.board.filter fun b => !l.any fun o => o.board == b.id }

/-- Whether an mmac has still to get a line (R233). -/
def Mac.lacks (m : Mac) (l : Nat) : Bool := m.lines.contains l && !m.held.any fun p => p.line == l

/-- The mmacs of a tile that have arrived and have not completed. -/
def Tile.macs (t : Tile) : List Mac :=
  t.arrivals.filterMap (·.mac) ++ t.gangs.flatten ++ (match t.running with | some r => r.1 | none => [])

/-- What only mmacs that have gone needed in the pin buffer goes too (R228, R233). -/
def Tile.tidyPins (t : Tile) : Tile :=
  { t with pins := t.pins.filter fun p => !p.byMac || t.macs.any fun m => m.held.any fun q => q.id == p.id,
           fetches := (t.fetches.map fun f => { f with wanted := t.macs.any fun m => m.lacks f.line }).filter fun f => !f.byMac || f.wanted }

/-- The end of a round releases every pinned line, and what only an mfetch asked for is not fetched any more; an mmac keeps the copies
that it has and gets those that it waits for (R233). -/
def Tile.endPins (t : Tile) : Tile := { t with pins := [], fetches := t.fetches.filter (·.wanted) }

/-- Slots leave the matrix array: their arrivals at the drawbar, and the drains that wait at an element out of range, go
with their places and scoreboard entries (R127, R241). -/
def Tile.leaveMatrix (t : Tile) (who : SlotId → Bool) : Tile :=
  let macs := (t.arrivals.filter fun a => who a.slot).filterMap (·.mac)
  let t1 := t.dropQops fun o => macs.any (fun m => m.qid == o.id) ||
    (match o.what with | .drain k _ _ _ _ _ w => w && who k | _ => false)
  Tile.tidyPins { t1 with arrivals := t1.arrivals.filter fun a => !who a.slot,
                          board := t1.board.filter fun b => !macs.any fun m => m.board == b.id }

/-- Traps raised on slots and not yet taken wait for the tile's next round start (R420), a refused read's among them (R293). -/
def Tile.keepTraps (t : Tile) (who : SlotId → Bool) : Tile :=
  let ks := ((natsFrom 0 32).map fun n => (⟨n % 32, Nat.mod_lt _ (by decide)⟩ : SlotId)).filter who
  { t with pendingTraps := t.pendingTraps ++ (ks.map fun k => (t.slot k).deferred.map fun tr => (k, { tr with precise := false })).flatten,
           slots := t.slots.mapIdx fun i x => if ks.any fun k => k.val == i then { x with deferred := [] } else x }

/-- The scoreboard entries of the copies that a slot holds back (R350, R430). -/
def Slot.heldBoards (x : Slot) : List Nat := x.ops.filterMap fun o => match o.kind with | .act (.copy _ j _) => some j.board | _ => none

/-- Scoreboard entries of copies that slot `x`, now `y`, has given up. -/
def Tile.dropBoards (t : Tile) (x y : Slot) : Tile :=
  { t with board := t.board.filter fun b => !x.heldBoards.contains b.id || y.heldBoards.contains b.id }

/-- A slot gives up operations that it held, with the scoreboard entries of its copies (R432, R438). -/
def Tile.giveUp (t : Tile) (k : SlotId) (y : Slot) : Tile := (t.setSlot k y).dropBoards (t.slot k) y

/-- Halts every slot of a tile, each by `f`, and empties the drawbar. -/
def Tile.haltSlots (t : Tile) (f : Slot → Slot) : Tile :=
  let t1 := t.leaveMatrix fun _ => true
  ((natsFrom 0 32).map slotOf).foldl (fun t k =>
    let x := t.slot k
    if x.active || x.starting.isSome then t.giveUp k (f x) else t) t1

/-- The round ends without completing: its slots halt at an instruction boundary, and its stretch and its pinned lines end
(R97, R119, R233, R425). -/
def Tile.abandonRound (t : Tile) : Tile :=
  { ((t.keepTraps fun _ => true).haltSlots Slot.abandon).endPins with inRound := false, stretch := false }

/-- Lowers CNTS of the slots whose stamp-bearing commands are discarded (R348, R438). -/
def Slot.dropStamps (x : Slot) (ch : Fin 4) : Slot :=
  let isS : Op → Bool := fun o => o.kind == .stamp ch
  { x with ops := x.ops.filter fun o => !isS o, cnts := x.cnts - w64 (x.ops.countP isS) }

/-- A channel discards its command in progress and its queue (R438). -/
def Tile.dropChannel (t : Tile) (ch : Fin 4) : Tile :=
  let c := t.channels[ch.val]
  let ids := (c.queue ++ c.cur.toList).map (·.board)
  { t with channels := t.channels.set ch.val { c with queue := [], cur := none, page := none, fail := none },
           slots := t.slots.map fun x => x.dropStamps ch, board := t.board.filter fun b => !ids.contains b.id }

/-- A tile halted by a cancel or a kill. -/
def Tile.kill (t : Tile) : Tile :=
  let t1 := t.haltSlots Slot.halt
  let t2 := ((((t1.dropChannel 0).dropChannel 1).dropChannel 2).dropChannel 3)
  { t2 with inRound := false, roundsOver := true, halted := true, rerun := none, pendingTraps := [],
            slots := t2.slots.map fun x => { x with ctxGen := x.ctxGen + 1 } }

/-- Tiles of a launch. -/
def State.launchTiles (s : State) (tag e : Nat) : List TileId :=
  (s.part tag).tileList.filter fun t => (s.tile t).launch == some e

def State.launch (s : State) (tag e : Nat) : Option Launch :=
  match mapFind (s.part tag).launches e with
  | some l => if l.live then some l else none
  | none => none

def State.setLaunch (s : State) (tag e : Nat) (l : Launch) : State :=
  s.modPart tag fun p => { p with launches := mapSet p.launches e l }

/-- Takes the tiles of a launch out of the saved contexts of its partition. -/
def State.dropSaved (s : State) (tag e : Nat) : State :=
  { s with saved := s.saved.map fun c => (c.1, { c.2 with tiles := c.2.tiles.filter fun t => !(t.2.tag.toNat == tag && t.2.launch == some e) }) }

/-- Whether a saved context holds tiles of a launch. -/
def State.isSaved (s : State) (tag e : Nat) : Bool :=
  s.saved.any fun c => c.2.tiles.any fun t => t.2.tag.toNat == tag && t.2.launch == some e

/-- Ends a launch with a status: its tiles halt, or it leaves its queue; it completes once drained (R111). -/
def State.endLaunch (s : State) (tag e : Nat) (st : Byte) : State :=
  match s.launch tag e with
  | none => s
  | some l =>
    if l.ending.isSome then s else
    let s1 := s.setLaunch tag e { l with ending := some st }
    let s2 : State := { s1 with queues := s1.queues.map fun q => q.filter fun x => x ≠ (tag, e) }
    (s2.launchTiles tag e).foldl (fun s t => s.modTile t Tile.kill) (s2.dropSaved tag e)

/-! ## Completion of objects (R110) -/

/-- The function a partition's host accesses are made for: the resident one (R406). -/
def State.hostFn (s : State) (tag : Nat) : FnId := (s.part tag).resident.getD 0

/-- An 8-byte stamp to HBM or the host (R110). A stamp to a host page without a writable translation waits for it behind those
that wait already (R269; log 70). -/
def State.stampTo (s : State) (tag addr : Nat) (x : Nat) : State :=
  if addr = 0 then s
  else if 2 ^ 49 ≤ addr then
    (let p := s.part tag
     if p.stamps.isEmpty && p.translated ((addr - hostBase) / 65536) { rd := false, w := true } then
       s.emit (.hostWrite (s.hostFn tag) (addr - hostBase) 8 x false)
     else s.setPart tag { p with stamps := p.stamps ++ [(addr, x)] })
  else s.partWrite tag addr x 8

/-- The first stamp that waits leaves: its page is translated, or the hub die's request for the translation has been answered, a
free choice (R269; log 70). -/
def State.stampOut (s : State) (tag : Nat) : State :=
  match (s.part tag).stamps with
  | [] => s
  | (a, x) :: l =>
    let (s1, found) := if (s.part tag).translated ((a - hostBase) / 65536) { rd := false, w := true } then (s, true) else s.flip
    if found then (s1.modPart tag fun p => { p with stamps := l }).emit (.hostWrite (s.hostFn tag) (a - hostBase) 8 x false) else s1

/-- The stamp: status, lfin code, counter. -/
def stampVal (st code : Byte) (c : Word) : Nat := st.toNat * 2 ^ 56 + code.toNat * 2 ^ 48 + c.toNat % 2 ^ 48

/-- The status an object completes with now, if it does: its end once nothing below it is live, or its count. -/
def Obj.due (o : Obj) (below : Bool) : Option Byte :=
  match o.ending with
  | some st => if below then none else some st
  | none => if o.expect ≠ 0 ∧ o.counter = o.expect then some 1 else none

/-- Whether something below an instance is live. -/
def Part.liveUnder (p : Part) (n : Nat) : Bool :=
  (p.launches.any fun l => l.2.live && l.2.up.contains n) || (p.graphs.any fun g => g.2.up.contains n) || p.phases.any fun g => g.2.up.contains n

/-- An instance counts a completed child. -/
def countChild (m : Map Obj) (up : List Nat) : Map Obj :=
  m.map fun x => if up.head? = some x.2.inst then (x.1, { x.2 with counter := x.2.counter + 1 }) else x

/-- Completes a graph that is due; its phase counts it. -/
def State.settleGraph (s : State) (tag i : Nat) : State :=
  let p := s.part tag
  match mapFind p.graphs i with
  | none => s
  | some o => match o.due (p.liveUnder o.inst) with
    | none => s
    | some st =>
      (s.stampTo tag o.doneAddr (stampVal st 0 o.counter)).modPart tag fun p =>
        { p with graphs := mapErase p.graphs i, phases := countChild p.phases o.up }

def State.settlePhase (s : State) (tag i : Nat) : State :=
  let p := s.part tag
  match mapFind p.phases i with
  | none => s
  | some o => match o.due (p.liveUnder o.inst) with
    | none => s
    | some st =>
      (s.stampTo tag o.doneAddr (stampVal st 0 o.counter)).modPart tag fun p =>
        { p with phases := mapErase p.phases i, jobs := countChild p.jobs o.up }

/-- A waybill (R357). -/
def waybill (chip : Chip) (slot : BitVec 20) (gen : BitVec 24) : Word :=
  w64 (chip.toNat * 2 ^ 52 + slot.toNat * 2 ^ 32 + gen.toNat * 2 ^ 8 + 1)

/-- The chip of a waybill. -/
def wbChip (w : Word) : Chip := w.extractLsb' 52 12

/-- The module reports waybill slots that become free to each chip that holds some (R359). -/
def State.reportFree (s : State) (tag : Nat) (ws : List Word) : State :=
  let chips := (ws.map wbChip).eraseDups
  let e := (s.part tag).epoch
  chips.foldl (fun s c =>
    let l := ws.filter fun w => wbChip w = c
    if c = s.chipId then s.event (.jobEndReport c l) else s.emit (.jobEnd c (BitVec.ofNat 8 tag) e l)) s

/-- Unused grants go back (R361); this module's own become free as the reported ones do. Those that a request still under way brings
go back as they come. -/
def State.returnGrants (s : State) (tag : Nat) : State :=
  let s1 := (s.part tag).pools.foldl (fun s c =>
    let chip : Chip := BitVec.ofNat 12 c.1
    if c.2.isEmpty then s
    else if chip = s.chipId then s.event (.jobEndReport chip (c.2.map fun g => waybill chip g.1 g.2))
    else s.emit (.grantsBack chip (BitVec.ofNat 8 tag) c.2)) s
  s1.modPart tag fun p => { p with pools := [] }

/-- Completes a job that is due: a train ends with it, the module reports the job's waybills (R359, R454). -/
def State.settleJob (s : State) (tag i : Nat) : State :=
  let p := s.part tag
  match mapFind p.jobs i with
  | none => s
  | some o => match o.due (p.liveUnder o.inst) with
    | none => s
    | some st =>
      let s1 := (s.stampTo tag o.doneAddr (stampVal st 0 o.counter)).reportFree tag ((p.taken.filter fun w => w.2 = o.inst).map (·.1))
      let s2 := s1.modPart tag fun p =>
        { p with jobs := mapErase p.jobs i, taken := p.taken.filter fun w => w.2 ≠ o.inst,
                 train := match p.train with | some t => if t.num = o.parent then none else some t | none => none }
      if (mapErase p.jobs i).isEmpty then s2.returnGrants tag else s2

/-- Completes what is due in a partition, innermost first. -/
def State.settle (s : State) (tag : Nat) : State :=
  let s1 := ((s.part tag).graphs.map (·.1)).foldl (fun s i => s.settleGraph tag i) s
  let s2 := ((s1.part tag).phases.map (·.1)).foldl (fun s i => s.settlePhase tag i) s1
  ((s2.part tag).jobs.map (·.1)).foldl (fun s i => s.settleJob tag i) s2

/-! ## Cancel of an object and everything below it (R111) -/

/-- The live objects of a map that are an instance or lie below it end with a status. -/
def endIn (m : Map Obj) (n : Nat) (st : Byte) : Map Obj :=
  m.map fun x => if (x.2.inst = n ∨ n ∈ x.2.up) ∧ x.2.ending = none then (x.1, { x.2 with ending := some st }) else x

/-- Ends an instance with everything below it, the launches of a graph that has completed on its count included. -/
def State.endInst (s : State) (tag n : Nat) (st : Byte) : State :=
  let s1 := s.modPart tag fun p => { p with graphs := endIn p.graphs n st, phases := endIn p.phases n st, jobs := endIn p.jobs n st }
  ((s1.part tag).launches.filter fun l => l.2.live && l.2.up.contains n).foldl (fun s l => s.endLaunch tag l.1 st) s1

/-- Ends the live instance of an index, if there is one. -/
def State.endAt (s : State) (tag : Nat) (m : Map Obj) (i : Nat) (st : Byte) : State :=
  match mapFind m i with
  | some o => s.endInst tag o.inst st
  | none => s

/-- Cancels or kills the live object of a level: 1 launch (by its identifier), 2 graph, 3 phase, 4 job. -/
def State.endObject (s : State) (tag level id : Nat) (st : Byte) : State :=
  let s1 := match level with
    | 1 => (match s.launch tag (id % 256) with
      | some l => if id = id % 256 + l.gen.toNat * 256 then s.endLaunch tag (id % 256) st else s
      | none => s)
    | 2 => s.endAt tag (s.part tag).graphs id st
    | 3 => s.endAt tag (s.part tag).phases id st
    | _ => s.endAt tag (s.part tag).jobs id st
  s1.settle tag

/-! ## The fault log (R426) -/

/-- Records a fault of slot k of tile t, whose registers are those of x: level 1 to 5 or 7, the policy applied. -/
def State.faultLogOf (s : State) (t : TileId) (x : Tile) (k : SlotId) (code info level policy : Nat) (pc val : Word) : State :=
  let tag := x.tag.toNat
  let p := s.part tag
  if p.fltlog.getLsbD 0 then
    let a := bitsAt p.fltlog.toNat 13 26 * 2 ^ 13 + 32 * (p.flthead.toNat % 256)
    let w0 := code % 256 + info % 256 * 2 ^ 8 + level * 2 ^ 16 + policy % 4 * 2 ^ 20 + p.logical t * 2 ^ 32 + k.val * 2 ^ 48
    let w3 := x.launchId.toNat + x.round.toNat % 2 ^ 32 * 2 ^ 32
    (s.partWrite tag a (w0 + pc.toNat * 2 ^ 64 + val.toNat * 2 ^ 128 + w3 * 2 ^ 192) 32).modPart tag fun p =>
      { p with flthead := p.flthead + 1 }
  else s

def State.faultLog (s : State) (t : TileId) (k : SlotId) (code info level policy : Nat) (pc val : Word) : State :=
  s.faultLogOf t (s.tile t) k code info level policy pc val

end Sys2Proof.Machine
end

