-- ==== Sys2Proof/Machine/Ops.lean ====
section
/-!
DEFINITION. The named operations over the machine: monitors and counters, the end of a round (R96), fetching (R50 to
R52), taking a trap (R420 to R422) and returning from one (R446), and containment with its defined results (R423 to
R425).
-/
namespace Sys2Proof.Machine

/-! ## Counters and monitors (R410 to R412) -/

/-- The allow-list of the resident function, of 1,024 bits, permits a code (R411); the physical function sees every code. -/
def State.allowed (s : State) (tag code : Nat) : Bool :=
  match (s.part tag).resident with
  | none => true
  | some fn => if fn.val = 0 then true else decide (code < 1024) && bitAt (mapGet 0 s.allow ((fn.val - 1) * 128 + code / 8)).toNat (code % 8)

/-- A sample goes to a monitor that is enabled for its source (R412). -/
def Monitor.sample (m : Monitor) (ok : Bool) (src v : Nat) : Monitor :=
  if m.cfg.getLsbD 16 && bitsAt m.cfg.toNat 0 10 == src then
    (if ok then
      let b := bitsAt m.cfg.toNat 32 32
      let i := if v < b then 0 else Nat.min 15 ((v - b) / 2 ^ bitsAt m.cfg.toNat 24 5)
      let c := m.bins[i % 16]'(Nat.mod_lt _ (by decide))
      { m with min := if v < m.min.toNat then w64 v else m.min, max := if v > m.max.toNat then w64 v else m.max,
               bins := m.bins.set (i % 16) (if c = BitVec.allOnes 64 then c else c + 1) (Nat.mod_lt _ (by decide)) }
    else { m with cfg := m.cfg ||| 0x20000 })
  else m

/-- Whether a monitor is enabled for a source. -/
def Monitor.sees (m : Monitor) (src : Nat) : Bool := m.cfg.getLsbD 16 && bitsAt m.cfg.toNat 0 10 == src

/-- A sample of a tile source; one that is not allowed sets DENIED of PMSTAT too (R411). -/
def State.tileSample (s : State) (t : TileId) (src v : Nat) : State :=
  s.modTile t fun x =>
    let ok := s.allowed x.tag.toNat src
    { x with monitors := x.monitors.map fun m => m.sample ok src v,
             pmstat := if !ok && x.monitors.any (·.sees src) then x.pmstat ||| 1 else x.pmstat }

/-- The codes that the table of R410 lists for a tile's counters, and for its monitors. -/
def countCode (c : Nat) : Bool := decide (c ≤ 7)
def tileSource (c : Nat) : Bool := [0x200, 0x201, 0x202, 0x203, 0x212, 0x214, 0x215].contains c

/-- Whether an enabled counter or monitor of a tile has a code of the table that is not allowed (R411); any other code sets
nothing (R410). -/
def State.tileDenied (s : State) (x : Tile) : Bool :=
  (x.pmsel.any fun w => let c := bitsAt w.toNat 0 16; w.getLsbD 16 && countCode c && !s.allowed x.tag.toNat c) ||
    x.monitors.any fun m => let c := bitsAt m.cfg.toNat 0 10; m.cfg.getLsbD 16 && tileSource c && !s.allowed x.tag.toNat c

/-- PMSTAT after what has been enabled. -/
def State.noteDenied (s : State) (t : TileId) : State :=
  s.modTile t fun x => if s.tileDenied x then { x with pmstat := x.pmstat ||| 1 } else x

/-- An event is counted by the tile's counters (R410); one that is not allowed sets DENIED. -/
def State.tileCount (s : State) (t : TileId) (ev n : Nat) : State :=
  s.modTile t fun x =>
    let sel : Nat → Bool := fun i =>
      let w := x.pmsel[i % 8]'(Nat.mod_lt _ (by decide)); w.getLsbD 16 && bitsAt w.toNat 0 16 == ev
    let hit := (natsFrom 0 8).filter sel
    if hit.isEmpty then x
    else if s.allowed x.tag.toNat ev then
      { x with pmcnt := hit.foldl (fun v i => v.set (i % 8) (v[i % 8]'(Nat.mod_lt _ (by decide)) + w64 n) (Nat.mod_lt _ (by decide))) x.pmcnt }
    else { x with pmstat := x.pmstat ||| 1 }

/-! ## The end of a round (R96, R98, R119, R233) -/

/-- A round completes when no slot of it is active: the launch counts it, its stretch and its pinned lines end. -/
def State.roundCheck (s : State) (t : TileId) : State :=
  let x := s.tile t
  if x.inRound && !(x.slots.any fun y => y.active || y.starting.isSome) then
    let s1 := (s.tileSample t 0x203 (x.period.toNat - (x.cycle - x.roundAt))).tileSample t 0x215 x.tokUsed
    let last := match x.launch with
      | some e => (match s.launch x.tag.toNat e with
        | some l => (match l.budget with | some b => x.begun ≥ b | none => false) || l.fin.isSome
        | none => true)
      | none => true
    let s2 := s1.modTile t fun y =>
      { y.endPins with inRound := false, stretch := false, roundsOver := y.roundsOver || last }
    match x.launch with
    | some e => (match s2.launch x.tag.toNat e with
      | some l => s2.setLaunch x.tag.toNat e { l with counter := l.counter + 1 }
      | none => s2)
    | none => s2
  else s

/-- A slot's activity in the round ends; a deferred trap it has not taken waits for the next round start (R420). -/
def State.finishSlot (s : State) (t : TileId) (k : SlotId) : State :=
  ((s.modSlot t k Slot.finish).modTile t fun y => y.keepTraps (· == k)).roundCheck t

/-! ## Fetching (R50 to R52) -/

/-- A read of n bytes within one line by an agent of a tile: a hit in its die's remote-data cache is counted (R265, R410). -/
def State.tileRead (s : State) (t : TileId) (c : Cls) (a n : Nat) (h : CacheHint := .none) : State × Nat × Nat :=
  let (s1, v, b, hit) := s.dieRead (s.tile t).tag.toNat (dieOf t) c a n h
  (if hit then s1.tileCount t 0x003 1 else s1, v, b)

/-- A core's instruction cache of 48 KiB takes a word from its home, past L1 (R9, R259); the word given up is a free choice. A
home that refuses it gives none (R396). -/
def State.icacheFill (s : State) (t : TileId) (c : Fin 4) (a : Nat) : State × Nat :=
  if s.refuses (s.tile t).tag.toNat a 4 then (s, 0) else
  let (s1, v, _) := s.tileRead t .hbm a 4
  let ic := (s1.tile t).icache[c.val]
  let full := (mapFind ic a).isNone && decide (12288 ≤ ic.length)
  let ic1 := if full then ic.eraseIdx (Config.freeLevel s1.free % ic.length) else ic
  let s2 : State := if full then { s1 with free := s1.free + 1 } else s1
  (s2.modTile t fun y => { y with icache := y.icache.set c.val (mapSet ic1 a (BitVec.ofNat 32 v)) }, v)

/-- One 32-bit word through the core's instruction cache: a cached word that differs from its home may answer or be
refilled, a free choice (R52). -/
def State.fetch32 (s : State) (t : TileId) (c : Fin 4) (a : Nat) : State × Nat :=
  match mapFind (s.tile t).icache[c.val] a with
  | none => s.icacheFill t c a
  | some w =>
    if w.toNat = s.readHbm (s.part (s.tile t).tag.toNat) a 4 ∨ s.refuses (s.tile t).tag.toNat a 4 then (s, w.toNat)
    else let (s1, stale) := s.flip
         if stale then (s1, w.toNat) else s1.icacheFill t c a

/-- `n` words from `a`, little-endian. -/
def State.fetchWords (s : State) (t : TileId) (c : Fin 4) (a : Nat) : Nat → State × Nat
  | 0 => (s, 0)
  | n + 1 =>
    let (s1, w) := s.fetch32 t c a
    let (s2, r) := State.fetchWords s1 t c (a + 4) n
    (s2, w + 2 ^ 32 * r)

/-- The checks of R51: none, or the trap code. Where several fail at once, the extent is tested first, then the alignment, then
the X permission (log 70, DESIGN CHOICE: R51 gives no order). -/
def fetchFault (p : Part) (pc : Nat) : Option Nat :=
  if p.extent < pc + 12 then some cProt else if pc % 4 ≠ 0 then some cAlign
  else if !p.grants pc 12 needX then some cProt else none

/-- Whether one of the n words from `a` is not in the core's instruction cache and its home refuses it (R396). -/
def State.wordsRefused (s : State) (t : TileId) (c : Fin 4) (a n : Nat) : Bool :=
  (List.range n).any fun i => (mapFind (s.tile t).icache[c.val] (a + 4 * i)).isNone &&
    s.refuses (s.tile t).tag.toNat (a + 4 * i) 4

/-- Whether the home refuses a word of the instruction at `pc` (R396). -/
def State.fetchRefused (s : State) (t : TileId) (c : Fin 4) (pc : Nat) : Bool := s.wordsRefused t c pc 3

/-- The instruction at a program counter as the core sees it, or the illegal-instruction trap's TRAPVAL (R62). -/
def State.fetchInsn (s : State) (t : TileId) (k : SlotId) (pc : Word) : State × Decoded :=
  let (s1, w) := s.fetchWords t (coreOf k) pc.toNat 3
  (s1, decode (BitVec.ofNat 96 w))

/-- TRAPVAL of an illegal instruction (R62): the reason in [7:0], the bit in [15:8]. -/
def illegalVal (reason bit : Nat) : Word := w64 (reason + bit * 2 ^ 8)

/-! ## Operand fields of a word (R424) -/

/-- The register codes of a field: a pair's two, or one. -/
def opCodes (kd : OpK) (c : Nat) : List Nat :=
  match kd with
  | .zero | .na => []
  | .g2 | .v2 => [c, c + 1]
  | _ => [c]

/-- The register destinations of an instruction, by operand code. -/
def instrDests (i : Instr) : List Nat :=
  match i.raw with
  | none => []
  | some r => match rowOf r.cls r.fn with
    | none => []
    | some w =>
      let reads := (r.cls == 0x0B && ([3, 4, 9, 11].contains r.fn || 24 ≤ r.fn)) || (r.cls == 0x0F && r.fn < 2)
      let two := (r.cls == 0x02 && r.fn == 3) || (r.cls == 0x0A && 8 ≤ r.fn && r.fn < 12) || (r.cls == 0x10 && (r.fn == 4 || r.fn == 5))
      (if reads then [] else opCodes w.d r.d) ++ (if two then opCodes w.c r.c else [])

/-- Every register code an instruction names, its guard included. -/
def instrNames (i : Instr) : List Nat :=
  match i.raw with
  | none => []
  | some r => match rowOf r.cls r.fn with
    | none => []
    | some w => (96 + r.gp) :: (opCodes w.d r.d ++ opCodes w.a r.a ++ opCodes w.b r.b ++ opCodes w.c r.c ++ opCodes w.e r.e)

/-- The y and z registers that an mmac samples (R231). -/
def instrSamples : Instr → List Nat
  | .mmac _ _ _ _ sub => (if sub.ye then [120 + sub.ys.toNat] else []) ++ (if sub.ze then [124 + sub.zs.toNat] else [])
  | _ => []

/-- Writes zero to a register of any kind by code, the tile's y and z included; a written register has no mark (R429). -/
def State.zeroReg (s : State) (t : TileId) (k : SlotId) (c : Nat) : State :=
  if c < 120 then s.modSlot t k fun x => x.cw c 0
  else if c < 124 then s.modTile t fun x =>
    { x with y := x.y.set ((c - 120) % 4) 0 (Nat.mod_lt _ (by decide)), badYZ := x.badYZ.filter (· ≠ c) }
  else s.modTile t fun x =>
    { x with z := x.z.set ((c - 124) % 4) 0 (Nat.mod_lt _ (by decide)), badYZ := x.badYZ.filter (· ≠ c) }

/-- Every poisoned register among some codes becomes zero without its mark. -/
def State.cleanRegs (s : State) (t : TileId) (k : SlotId) (cs : List Nat) : State :=
  (cs.filter fun c => (s.slot t k).bad.contains c || (s.tile t).badYZ.contains c).foldl (fun s c => s.zeroReg t k c) s

/-! ## Containment (R423 to R425) -/

/-- The address of the instruction a trap was taken at. -/
def TrapRec.at (tr : TrapRec) : Word := if tr.code = cBreak then tr.pc - 12 else tr.pc

/-- The instruction that took a trap at an address: under srep the repeated one, unless the srep's own guard is poisoned (R210). -/
def State.trapInsn (s : State) (t : TileId) (k : SlotId) (pc : Word) : Option Instr :=
  match (s.fetchInsn t k pc).2 with
  | .ok (.srep h) =>
    if (s.slot t k).bad.contains (96 + h.gp.toNat) then some (.srep h)
    else match (s.fetchInsn t k (pc + 12)).2 with | .ok i => some i | .illegal _ _ => none
  | .ok i => some i
  | .illegal _ _ => none

/-- The registers that an instruction which took a trap names. -/
def State.trapNames (s : State) (t : TileId) (k : SlotId) (pc : Word) : List Nat :=
  match s.trapInsn t k pc with
  | some i => instrNames i ++ instrSamples i
  | none => []

/-- Its register destinations: a v name that is bound to a stream is none (R199). -/
def State.trapDests (s : State) (t : TileId) (k : SlotId) (pc : Word) : List Nat :=
  match s.trapInsn t k pc with
  | some i => (instrDests i).filter fun c => !(decide (64 ≤ c ∧ c < 72) && ((s.slot t k).streams[(c - 64) % 8]'(Nat.mod_lt _ (by decide))).isSome)
  | none => []

/-- The defined result of R424 under ignore at the unit level. -/
def State.ignoreTrap (s : State) (t : TileId) (k : SlotId) (tr : TrapRec) : State :=
  let s1 := s.modSlot t k fun x => { x with tm := false, pc := tr.pc }
  if !tr.precise then s1
  else if [cIllegal, cAlign, cProt, cPage, cPost, cWaybill].contains tr.code then
    let s2 := match fetchFault (s1.part (s1.tile t).tag.toNat) tr.pc.toNat with
      | some _ => s1
      | none => (s1.trapDests t k tr.pc).foldl (fun s c => s.zeroReg t k c) s1
    s2.modSlot t k fun x => { x with pc := tr.pc + 12 }
  else if [cRange, cFloat, cPower].contains tr.code then s1.modSlot t k fun x => { x with waive := some tr.code }
  else if tr.code = cSoft then
    (s1.cleanRegs t k (s1.trapNames t k tr.pc)).modSlot t k fun x => { x with waive := some cSoft }
  else s1

/-- Kills a job instance, and under policy 3 the job of a train on every other member too (R423). -/
def State.killJob (s : State) (tag job : Nat) (train : Bool) : State :=
  let num := match (s.part tag).jobs.find? fun o => o.2.inst == job with | some o => o.2.parent | none => 0
  let s1 := match (s.part tag).train with
    | some tr => if train ∧ num ≠ 0 ∧ tr.num = num then
        tr.members.foldl (fun (s : State) c => match (if c = s.chipId then none else (s.part tag).link c) with
        | some tt => s.sendMsg tag c (.jobKill tt num)
        | none => s) s
      else s
    | none => s
  (s1.endInst tag job 4).settle tag

/-- The containment policy of a live instance (R109); one that has completed has none left, and its fault goes up. -/
def policyOf (m : Map Obj) (n : Nat) : Nat :=
  match m.find? fun o => o.2.inst == n with
  | some o => o.2.policy.toNat
  | none => 3

/-- Containment at the graph level and above: the policies of the records in turn. -/
def State.containUp (s : State) (t : TileId) (k : SlotId) (tr : TrapRec) (info : Nat) (e : Nat) (l : Launch) : State :=
  let tag := (s.tile t).tag.toNat
  let p := s.part tag
  let lg (lvl q : Nat) : State := s.faultLog t k tr.code info lvl q tr.pc tr.val
  let gi := l.up.getD 0 0
  let ph := l.up.getD 1 0
  let jb := l.up.getD 2 0
  let pg := policyOf p.graphs gi
  let pp := policyOf p.phases ph
  let pj := policyOf p.jobs jb
  if pg < 2 then ((lg 3 pg).endLaunch tag e 4).settle tag
  else if pg = 2 then ((lg 3 2).endInst tag gi 4).settle tag
  else if pp < 2 then ((lg 4 pp).endInst tag gi 4).settle tag
  else if pp = 2 then ((lg 4 2).endInst tag ph 4).settle tag
  else if pj < 2 then ((lg 5 pj).endInst tag ph 4).settle tag
  else (lg 5 pj).killJob tag jb (pj == 3)

/-- Containment at the launch level; a re-run halts the tile and begins at its next expiry (R425). -/
def State.containLaunch (s : State) (t : TileId) (k : SlotId) (tr : TrapRec) (info : Nat) : State :=
  let x := s.tile t
  let tag := x.tag.toNat
  match x.launch with
  | none => s.finishSlot t k
  | some e => match s.launch tag e with
    | none => s.finishSlot t k
    | some l =>
      let pol := l.policy.toNat
      let lg (q : Nat) : State := s.faultLog t k tr.code info 2 q tr.pc tr.val
      if pol = 0 then (lg 0).finishSlot t k
      else if pol = 1 ∧ x.idem = true ∧ x.inRerun = false then
        (lg 1).modTile t fun y => { y.abandonRound with rerun := some y.roundNo }
      else if pol < 3 then ((lg 2).endLaunch tag e 4).settle tag
      else s.containUp t k tr info e l

/-- Containment at the unit level under TRAPVEC.UPOL (R423). -/
def State.containUnit (s : State) (t : TileId) (k : SlotId) (tr : TrapRec) (info : Nat) : State :=
  let pol := (s.tile t).trapvec.toNat % 4
  let lg (q : Nat) : State := s.faultLog t k tr.code info 1 q tr.pc tr.val
  if pol = 0 ∨ (pol = 1 ∧ tr.precise = false) then (lg 0).ignoreTrap t k tr
  else if pol = 1 then
    if (s.slot t k).retry = some (tr.at, tr.code) then
      (s.modSlot t k fun x => { x with retry := none }).containLaunch t k tr info
    else (lg 1).modSlot t k fun x => { x with retry := some (tr.at, tr.code), tm := false, pc := tr.at }
  else if pol = 2 then (lg 2).finishSlot t k
  else s.containLaunch t k tr info

/-! ## Taking a trap (R421) and leaving trap mode (R422, R446) -/

/-- Step 3 of R421: TRAPCAUSE, TRAPPC and TRAPVAL. -/
def Slot.enterTrap (x : Slot) (tr : TrapRec) : Slot :=
  { x with tm := true, tinfo := BitVec.ofNat 8 tr.info, tcode := BitVec.ofNat 8 tr.code, trappc := tr.pc, trapval := tr.val,
           pc := tr.pc, park := .none, sPark := false, yPark := none, srep := none, waive := none }

/-- Handler entry address, or 0 (R419). -/
def Tile.handler (t : Tile) : Word := t.trapvec &&& ~~~3

/-- Steps 3 and 4 of R421, once no long result is outstanding. -/
def State.deliver (s : State) (t : TileId) (k : SlotId) (tr : TrapRec) : State :=
  let x := s.slot t k
  let h := (s.tile t).handler
  let s1 := s.setSlot t k (x.enterTrap tr)
  if h ≠ 0 ∧ x.tm = false then s1.modSlot t k fun y => { y with pc := h }
  else if tr.code = cStraggler ∨ tr.code = cClock then
    (if x.trapOnly then s1.finishSlot t k else s1.modSlot t k fun y => { y with tm := x.tm })
  else if x.tm then (s1.modSlot t k fun y => { y with tm := false }).containUnit t k tr x.tcode.toNat
  else if tr.code = cOverrun then (s1.modSlot t k fun y => { y with tm := false }).containLaunch t k tr tr.info
  else s1.containUnit t k tr tr.info

/-- A slot takes a trap: it stops, waits for its long results and, since a trap writes outside the registers of R430, for
the confirmation of its accesses, and the trap is delivered (R421, R430). -/
def State.takeTrap (s : State) (t : TileId) (k : SlotId) (tr : TrapRec) : State :=
  if (s.slot t k).longs = 0 ∧ (s.slot t k).ra.isNone then s.deliver t k tr
  else s.modSlot t k fun x => { x with park := .trap tr, sPark := false, yPark := none, pc := tr.pc, srep := none }

/-- A deferred trap: at the slot's next issue, or at the tile's next round start (R420). -/
def State.deferTrap (s : State) (t : TileId) (k : SlotId) (code info : Nat) (val : Word) : State :=
  let tr : TrapRec := { code, info, pc := 0, val, precise := false }
  if (s.slot t k).active then s.modSlot t k fun x => { x with deferred := x.deferred ++ [tr] }
  else s.modTile t fun x => { x with pendingTraps := x.pendingTraps ++ [(k, tr)] }

/-- The deferred trap that a slot takes next, and those left. The stale-limit traps of a round start come one after another, each
after the handler of the one before has ended (R292). -/
def Slot.nextTrap (x : Slot) : Option (TrapRec × List TrapRec) :=
  match x.deferred.find? fun tr => !(x.tm && tr.code == cStale) with
  | some tr => some (tr, x.deferred.erase tr)
  | none => none

/-- The lowest-numbered declared slot of a tile (R420). -/
def Tile.firstDeclared (t : Tile) : SlotId := slotOf ((minOf (t.entries.map fun e => e.1.val)).getD 0)

/-- A tile trap (R420): in the lowest-numbered declared slot; an inactive one becomes active for a handler alone, and
without a handler the trap goes to containment from it. -/
def State.tileTrap (s : State) (t : TileId) (code info : Nat) (val : Word) : State :=
  let x := s.tile t
  let k := x.firstDeclared
  let y := x.slot k
  let entry := match x.entries.find? fun e => e.1 == k with | some e => e.2 | none => 0
  if y.active then
    s.modSlot t k fun z => { z with deferred := z.deferred ++ [{ code, info, pc := 0, val, precise := false }] }
  else
    let s1 := s.modSlot t k fun z => { z with active := true, trapOnly := true, tm := false, pc := entry }
    s1.takeTrap t k { code, info, pc := entry, val, precise := false }

/-- Leaving trap mode by eret (R422, R446). -/
def State.leaveTrap (s : State) (t : TileId) (k : SlotId) : State :=
  let x := s.slot t k
  if x.trapOnly then s.finishSlot t k
  else s.modSlot t k fun y => { y with tm := false, pc := y.trappc }

/-- `trap` in trap mode passes the original fault to the launch level (R422, R445). -/
def State.passUp (s : State) (t : TileId) (k : SlotId) : State :=
  let x := s.slot t k
  let tr : TrapRec := { code := x.tcode.toNat, info := x.tinfo.toNat, pc := x.trappc, val := x.trapval, precise := false }
  let s1 := s.modSlot t k fun y => { y with tm := false, pc := y.trappc }
  if tr.code = cStraggler ∨ tr.code = cClock then (if x.trapOnly then s1.finishSlot t k else s1)
  else s1.containLaunch t k tr tr.info

end Sys2Proof.Machine
end

