-- ==== Sys2Proof/Machine/Operands.lean ====
section
/-!
DEFINITION. Issuing an instruction: the guard, hazard, poison, stream and token checks in their order (R54, R89, R429,
R203, R118), run-ahead (R430 to R432), what an instruction's effect may answer (Eff), the switch marker and hints (R84,
R86). The operand forms: effective addresses (R33), pieces (R273), and putting an access into the slot's queue (R322,
R328).
-/
namespace Sys2Proof.Machine

/-! ## What an effect answers -/

/-- The effect of an instruction whose guard passes: it completes and the PC advances (`go`), transfers control (`jump`),
sets PC and activity itself (`own`), issues and then parks (`park`), must wait without any effect (`wait`), or traps,
without effect or with the state given. -/
inductive Eff where
  | go (s : State)
  | jump (s : State) (pc : Word)
  | own (s : State)
  | park (s : State) (p : Park)
  | wait (p : Park)
  | trap (code info : Nat) (val : Word)
  | trapIn (s : State) (code info : Nat) (val : Word)

/-- What an instruction needs at issue: registers read and written by operand code; registers on which a trap check
depends (R431); tokens (R117); whether it writes outside g, f, p, k and v at once (R430); whether it sends or holds a
memory operation; whether it may name bound streams, or checks them itself (R203); whether it takes no trap (R329);
whether what it writes may keep a part of what it held. -/
structure Req where
  reads : List Nat := []
  writes : List Nat := []
  deep : List Nat := []
  tokens : Nat := 0
  outside : Bool := false
  mem : Bool := false
  streams : Bool := false
  quiet : Bool := false
  merge : Bool := false

/-! ## Run-ahead: rollback (R432, R433) -/

/-- Held commands that are sent at last, in order, as acts of their own (R430). -/
def State.sendActs (s : State) (t : TileId) (k : SlotId) (ids : List Nat) : State :=
  ids.foldl (fun s i => match (s.slot t k).ops.find? fun o => o.id == i with
    | some o => (match o.kind with | .act _ => s.event (.storePerformed t k i 0 0) | _ => s)
    | none => s) s

/-- The tags of the page requests under way, of the slots' batches and of the copy channels (R348, R433). -/
def State.groupsUsed (s : State) : List (BitVec 9) :=
  (s.parts.map fun p => p.2.batches.map (·.group)).flatten ++
    (s.tiles.map fun t => t.2.channels.toList.filterMap fun c => c.page.map (·.2.2.2)).flatten

/-- The tag of a new page request: the lowest that is free. With all 512 in use it shares tag 0 (log 70, DESIGN CHOICE: R433 does
not say). -/
def State.newGroup (s : State) : BitVec 9 :=
  ((((natsFrom 0 512).map (BitVec.ofNat 9)).find? fun g => !s.groupsUsed.contains g).getD 0)

/-- The page requests of a batch leave: the host's pages as one group, another module's as one message to it (R433). -/
def State.askPages (s : State) (tag : Nat) (group : BitVec 9) (pages : List Nat) : State :=
  let far := pages.filter fun g => clsAt (g * 65536) == .remote
  let host := pages.filter fun g => clsAt (g * 65536) != .remote
  let s1 := if host.isEmpty then s else s.emit (.pageGroup (BitVec.ofNat 8 tag) group host)
  ((far.map fun g => remoteChip s (g * 65536)).eraseDups).foldl (fun s c =>
    s.emit (.pageMessage c (BitVec.ofNat 8 tag) (s.part tag).epoch group (far.filter fun g => remoteChip s (g * 65536) == c))) s1

/-- Discards the held operations from a faulting access on, restores its checkpoint, and parks on the batch. -/
def State.rollBack (s : State) (t : TileId) (k : SlotId) : State :=
  let x := s.slot t k
  match x.ra with
  | none => s
  | some r => match r.fault with
    | none => s
    | some f =>
      match r.ckpts.find? (fun c => c.1 = f), x.ops.find? (fun o => o.id = f) with
      | some (_, c), some o =>
        let gone : Op → Bool := fun o => o.id == f || (o.held && f ≤ o.id)
        let kept := (x.ops.filter fun o => !gone o).map fun o =>
          if f ≤ o.id then { o with dests := o.dests.map fun d => { d with code := rNone }, conf := true, mark := true }
          else { o with held := false }
        let lost := x.ops.filter gone
        let pages := ((o.addr / 65536) :: r.pages).filter fun g => !(r.pre.any fun q => q.1 == g)
        let acts := (x.ops.filter fun o => !gone o && o.held).map (·.id)
        let p := s.part (s.tile t).tag.toNat
        let group := s.newGroup
        let b : Batch := { group, tile := t, slot := k, launchId := (s.tile t).launchId, ctxGen := x.ctxGen, pages,
                           due := s.time.tai + Nat.max 1 (bitsAt p.fltcfg.toNat 0 32) * 1000, since := s.time.tai }
        let s1 := s.modTile t fun y => y.giveUp k
          { x with pc := c.pc, g := c.g, f := c.f, v := c.v, p := c.p, k := c.k, bad := c.bad, ops := kept, ra := none,
                   cntl := x.cntl - w64 (lost.countP (·.cntL)), cnts := x.cnts - w64 (lost.countP (·.cntS)),
                   fseq := x.fseq - lost.countP (fun o => match o.kind with | .amof _ _ _ _ => true | _ => false),
                   park := .page group, sPark := false, yPark := none, srep := none,
                   deferred := (match x.park with | .trap tr => if tr.precise then [] else [tr] | _ => []) ++ x.deferred,
                   failed := r.pre ++ x.failed.filter fun g => !(r.pre.any fun q => q.1 == g.1),
                   faults := match x.faults.find? (fun y => y.1 = o.addr / 65536) with
                     | some y => (y.1, y.2 + 1) :: x.faults.filter fun z => z.1 ≠ y.1
                     | none => (o.addr / 65536, 1) :: x.faults }
        let s2 := s1.sendActs t k acts
        if pages.isEmpty then s2
        else (s2.modPart (s.tile t).tag.toNat fun p => { p with batches := p.batches ++ [b] }).askPages (s.tile t).tag.toNat group pages
      | _, _ => s

/-! ## The end of an issue -/

/-- Forfeited turns (R82). -/
def State.forfeit (s : State) (n : Nat) : State := s.upd fun x => { x with forfeit := x.forfeit + n }

/-- Yield and the switch marker after an instruction (R84, R86): yield waits for a result of an operation numbered below
`bound`, of which `prev` were outstanding at the issue; the marker for every long result. -/
def Slot.hints (h : Hdr) (prev bound : Nat) (x : Slot) : Slot :=
  { x with sPark := x.sPark || (h.sw && x.longs != 0),
           yPark := if h.sched = .yield ∧ prev ≠ 0 then some (bound, 64) else x.yPark }

/-- The PC after an instruction that does not transfer control: the next one, or under srep the repetitions (R210). -/
def Slot.advance (h : Hdr) (prev bound : Nat) (x : Slot) : Slot :=
  match x.srep with
  | none => { x with pc := x.pc + 12, waive := none, retry := none }.hints h prev bound
  | some n =>
    if n ≤ 1 then { x with pc := x.pc + 24, srep := none, waive := none, retry := none }.hints h prev bound
    else { x with srep := some (n - 1), waive := none, retry := none }

/-- Whether a slot is parked (R83). -/
def Slot.parked (x : Slot) : Bool := x.park != .none || x.sPark || x.yPark.isSome

/-- Counts an issued instruction towards run-ahead, which ends after 64 from the faulting access, and where its marker or hint
parks the slot (R431). -/
def State.countAhead (s : State) : State :=
  match s.me.ra with
  | none => s
  | some r =>
    let s1 := s.upd fun x => { x with ra := some { r with issued := r.issued + 1 } }
    match r.fault with
    | none => s1
    | some f =>
      let base := match s.me.ops.find? (fun o => o.id = f) with | some o => o.idx | none => 0
      if r.issued + 1 - base ≥ 64 ∨ r.pages.length ≥ 16 ∨ s1.me.parked then s1.rollBack s.cur.1 s.cur.2 else s1

/-- Whether the slot runs ahead of a faulting access. -/
def Slot.ahead (x : Slot) : Bool := match x.ra with | some r => r.fault.isSome | none => false
def Slot.marks (x : Slot) : List Nat := match x.ra with | some r => r.marks | none => []

/-- Marks registers during run-ahead: their results are not known (R431). -/
def Slot.markAll (x : Slot) (cs : List Nat) : Slot :=
  let y := cs.foldl (fun x c => x.cw c 0) x
  { y with ra := y.ra.map fun r => { r with marks := cs ++ r.marks } }

/-- Whether an operation only reads, writes, or both, of the host's memory. -/
def OpKind.writes : OpKind → Bool
  | .store | .rel _ | .amo _ _ _ _ | .amof _ _ _ _ => true
  | _ => false

def OpKind.reads : OpKind → Bool
  | .load | .acq _ | .amo _ _ _ _ | .amof _ _ _ _ | .probe => true
  | _ => false

/-- The permissions that an access needs of a host page. -/
def OpKind.perm (k : OpKind) : PagePerm := { rd := k.reads, w := k.writes }

/-- The host accesses of an operation. -/
def Op.hostBytes (o : Op) : List HostAccess :=
  let one (a n : Nat) : List HostAccess :=
    if 2 ^ 49 ≤ a && a < 2 ^ 50 then
      [{ addr := a, size := n, writes := o.kind.writes, reads := o.kind.reads, cntL := o.cntL, cntS := o.cntS }]
    else []
  match o.kind with
  | .probe => one o.addr 8
  | _ => (o.pieces.map fun p => one p.addr p.size).flatten

/-- Whether the order of R302 puts an earlier host access of the slot before a host access that issues now (R319). -/
def HostOrder.orders (d : HostOrder) (reads : List Nat) (o : Op) : Bool :=
  d.all || reads.any d.deps.contains || (o.kind.writes && d.ctl) ||
    (match o.kind with | .rel _ => !d.seen.isEmpty | _ => false) ||
    o.hostBytes.any fun b => d.seen.any fun e => overlap b.addr b.size e.addr e.size && (e.writes || b.writes)

/-- The stream a v code names, if it is bound (R203). -/
def Slot.boundAt (x : Slot) (c : Nat) : Bool :=
  if 64 ≤ c ∧ c < 72 then (x.streams[(c - 64) % 8]'(Nat.mod_lt _ (by decide))).isSome else false

/-- A guard that depends on a host read has been tested (R302). -/
def Slot.guarded (x y : Slot) (h : Hdr) : Slot :=
  { y with hostOrd := { y.hostOrd with ctl := y.hostOrd.ctl || x.hostOrd.deps.contains (96 + h.gp.toNat) } }

/-- What an instruction that has issued does to the order of host accesses (R302): the attribute of its own accesses, the bytes
they touch, the registers that depend on them or through it, and a guard or branch. What a memory operation brings does not depend
on its operands, nor does what is popped: that is a flow through memory. -/
def Slot.order (x y : Slot) (h : Hdr) (q : Req) (jump : Bool) : Slot :=
  let d := x.hostOrd
  let mine := y.ops.filter fun o => !(x.ops.any fun q => q.id == o.id) && !o.hostBytes.isEmpty
  let reads := q.reads.filter fun c => !x.boundAt c
  let writes := q.writes.filter fun c => !x.boundAt c
  let dep := reads.any d.deps.contains
  let ctl := d.ctl || d.deps.contains (96 + h.gp.toNat) || (jump && dep)
  let d1 : HostOrder := { d with ctl }
  let ops := y.ops.map fun o => if mine.any fun q => q.id == o.id then { o with relaxed := !d1.orders reads o } else o
  let acq := mine.any fun o => match o.kind with | .acq _ => true | _ => false
  let marked := h.sw && d.seen.any fun e => e.reads && e.cntL
  { y with ops, hostOrd :=
      { seen := d.seen ++ (mine.map Op.hostBytes).flatten,
        deps := (if dep && !q.mem then writes ++ d.deps else if q.merge then d.deps else d.deps.filter fun c => !writes.contains c) ++ (mine.map fun o => o.dests.map (·.code)).flatten,
        ctl, all := d.all || acq || marked } }

/-- Charges tokens (R117, R119): beyond TOKDECL the tile goes into power stretch; a heavy instruction in power stretch
forfeits 8 turns. Run-ahead charges nothing, since it writes nothing outside its slot (R431). -/
def State.charge (s : State) (n : Nat) : State :=
  if n = 0 ∨ s.me.ahead = true then s else
  let x := s.myTile
  let u := Nat.min 65535 (x.tokUsed + n)
  let exceeds := decide (x.tokUsed + n > x.tokDecl)
  let s1 := s.updTile fun y => { y with tokUsed := u, pwrPower := y.pwrPower || exceeds, stretch := y.stretch || exceeds }
  if x.stretch then s1.forfeit 8 else s1

/-- TRAPPC under srep names the srep, and otherwise the instruction (R210, R421). -/
def Slot.trapAt (x : Slot) (code info : Nat) (val : Word) : TrapRec := { code, info, pc := x.pc, val, precise := true }

def State.trapMe (s : State) (code info : Nat) (val : Word) : State :=
  s.takeTrap s.cur.1 s.cur.2 (s.me.trapAt code info val)

/-- What becomes of an effect; during run-ahead a wait or a trap ends it (R431). -/
def State.conclude (s : State) (h : Hdr) (q : Req) (e : Eff) : State :=
  match e with
  | .go s1 => ((s1.charge q.tokens).upd fun x => s.me.order (x.advance h s.me.longs s.serial) h q false).countAhead
  | .jump s1 pc => (s1.upd fun x =>
      s.me.order ({ x with pc, waive := none, retry := none }.hints h s.me.longs s.serial) h q true).countAhead
  | .own s1 => s1.upd fun y => s.me.guarded y h
  | .park s1 p =>
    if s.me.ahead then s.rollBack s.cur.1 s.cur.2
    else ((s1.charge q.tokens).upd fun x =>
      s.me.order { x.advance h s.me.longs s.serial with park := p } h q false).countAhead
  | .wait p => if s.me.ahead then s.rollBack s.cur.1 s.cur.2 else s.upd fun x => { x with park := p }
  | .trap c i v => if s.me.ahead then s.rollBack s.cur.1 s.cur.2 else (s.trapMe c i v).upd fun y => s.me.guarded y h
  | .trapIn s1 c i v => if s.me.ahead then s.rollBack s.cur.1 s.cur.2 else (s1.trapMe c i v).upd fun y => s.me.guarded y h

/-! ## The checks before an effect -/

/-- The first of some codes with a long result outstanding under CHECKED.HAZARD (R89). Where several are, TRAPVAL names the first
in the order of the instruction's list of reads (log 70, DESIGN CHOICE: R89 names none). -/
def Slot.hazard (x : Slot) (cs : List Nat) : Option Nat :=
  if x.chkHazard then cs.find? fun c => x.pending.contains c else none

/-- Whether the guard passes (R54). -/
def Slot.guardOk (x : Slot) (h : Hdr) : Bool := x.pr h.gp != h.gs

/-- What run-ahead makes of an instruction with a marked operand, if it does not execute (R431): one whose trap checks depend on
it, or that would park, ends run-ahead; one that computes gives marks and takes no trap; a prefetch does nothing. -/
def State.runsMarked (s : State) (h : Hdr) (q : Req) : Option State :=
  let x := s.me
  if !x.ahead || !q.reads.any x.marks.contains then none
  else if q.deep.any x.marks.contains then some (s.rollBack s.cur.1 s.cur.2)
  else if q.quiet then some (s.conclude h q (.go s))
  else if q.mem then none
  else if q.outside || (q.writes ++ q.reads).any x.boundAt then some (s.rollBack s.cur.1 s.cur.2)
  else some (s.conclude h q (.go (s.upd fun y => y.markAll q.writes)))

/-- The checks of an instruction whose guard passes, then its effect. -/
def State.issueChecked (s : State) (h : Hdr) (q : Req) (body : State → Eff) : State :=
  let x := s.me
  let used := rP h.gp :: q.reads
  match s.runsMarked h q with
  | some s1 => s1
  | none =>
  match (if q.quiet then none else x.hazard q.reads) with
  | some c => s.conclude h q (.trap cHazard 0 (w64 c))
  | none =>
    match (if x.waive = some cSoft ∨ q.quiet = true then none else used.find? fun c => x.bad.contains c) with
    | some c => s.conclude h q (.trap cSoft 1 (w64 c))
    | none =>
      match (if q.streams then none else (q.writes ++ q.reads).find? x.boundAt : Option Nat) with
      | some c => s.conclude h q (.trap cProt 0 (w64 c))
      | none =>
        if q.outside ∧ x.ra.isSome then s.conclude h q (.wait .confirm)
        else if q.tokens ≠ 0 ∧ s.myTile.tokUsed + q.tokens > s.myTile.tokDecl ∧ x.chkPower ∧ x.waive ≠ some cPower then
          s.conclude h q (.trap cPower 0 (w64 (s.myTile.tokDecl * 2 ^ 32 + s.myTile.tokUsed * 2 ^ 16 + q.tokens)))
        else s.conclude h q (body s)

/-- An issue: the guard predicate is always read (R89); a failed guard leaves only the marker and the hints (R54). -/
def State.issue (s : State) (h : Hdr) (q : Req) (body : State → Eff) : Host.Outcome State Fault Refusal :=
  match s.power with
  | .off => .fault .off
  | _ =>
    let x := s.me
    match (if q.quiet then none else x.hazard [rP h.gp]) with
    | some c => .next (s.conclude h q (.trap cHazard 0 (w64 c)))
    | none =>
      if x.ahead && x.marks.contains (rP h.gp) then .next (s.rollBack s.cur.1 s.cur.2)
      else if x.guardOk h then .next (s.issueChecked h q body)
      else .next (s.conclude h {} (.go s))

/-- An event: it happens in a powered module; one whose condition does not hold leaves the state as it is. -/
def State.happen (s : State) (f : State → State) : Host.Outcome State Fault Refusal :=
  match s.power with
  | .off => .fault .off
  | _ => .next (f s)

/-- Whether the tiles of a partition have halted at a stop instant (R436). -/
def Part.stopped (p : Part) : Bool := match p.stopping with | some st => st.done | none => false

/-- Whether a tile's partition has stopped (R436, R437): nothing reaches its slots until the restore. -/
def State.frozen (s : State) (t : TileId) : Bool := (s.part (s.tile t).tag.toNat).stopped

/-- An event at a tile: it does not happen while the tile's partition is stopped. -/
def State.happenAt (s : State) (t : TileId) (f : State → State) : Host.Outcome State Fault Refusal :=
  s.happen fun s => if s.frozen t then s else f s

/-! ## Addresses (R33) and pieces (R273) -/

/-- The effective address of a form M reference. -/
def Slot.ea (x : Slot) (m : MemRef) : Word :=
  x.gr m.base + (x.gr m.index <<< m.sc.toNat) + m.disp.signExtend 64

def memCodes (m : MemRef) : List Nat := [rG m.base, rG m.index]

/-- An access split at the multiples of its granule. -/
def splitPieces (g : Nat) : Nat → Nat → Nat → Nat → List Piece
  | 0, _, _, _ => []
  | f + 1, a, n, pos =>
    if n = 0 then []
    else let m := Nat.min n (g - a % g)
         { addr := a, size := m, pos } :: splitPieces g f (a + m) (n - m) (pos + m)

/-- Whether a class lies outside the module's own memory as slots address it. -/
def Cls.isFar : Cls → Bool
  | .host | .remote => true
  | _ => false

/-- The single-copy granule of a class (R18, R273). -/
def Cls.granule : Cls → Nat
  | .store => 64
  | .host => 8
  | _ => 32

def piecesOf (c : Cls) (a n : Nat) : List Piece := splitPieces c.granule (n / c.granule + 2) a n 0

/-- The pieces of an access of the issuing slot, those of a remote one with the locations they stand for (R256). -/
def State.piecesAt (s : State) (c : Cls) (a n : Nat) : List Piece :=
  match c with
  | .remote => (piecesOf c a n).map (s.placed s.myTag)
  | _ => piecesOf c a n

/-! ## Putting an operation into the slot's queue (R322, R328, R430) -/

/-- An operation with nothing particular. -/
def Op.plain (kind : OpKind) : Op :=
  { id := 0, pc := 0, kind, addr := 0, size := 0, pieces := [], data := 0, dests := [], ready := false, performed := false,
    cntL := false, cntS := false, bad := false, conf := true, far := [], relaxed := false, sent := false, held := false, mark := false, idx := 0, after := [],
    hint := .none, t0 := 0, ns := 0 }

/-- A destination; g0 and p0 discard (R85). -/
def destOf (code lo bits : Nat) (signed : Bool) : Dest :=
  { code := if code = 0 ∨ code = 96 then rNone else code, lo, bits, signed }

/-- The state a rollback to an access issued now restores (R430). -/
def Slot.ckpt (x : Slot) : Ckpt := { pc := x.pc, g := x.g, f := x.f, v := x.v, p := x.p, k := x.k, bad := x.bad }

/-- A slot's operation issues: it is counted; an unconfirmed access takes its checkpoint; while one is unconfirmed,
whatever would be seen outside the slot is held (R430). `outward` says that it would. -/
def State.addOp (s : State) (o : Op) (outward : Bool) : State :=
  let (s1, id) := s.fresh
  let cyc := s.myTile.cycle
  s1.upd fun x =>
    let r0 : RunAhead := { ckpts := [], issued := 0, fault := none, marks := [], pages := [], pre := [] }
    let ra := if o.conf then x.ra
      else some (match x.ra with
        | none => { r0 with ckpts := [(id, x.ckpt)] }
        | some r => { r with ckpts := r.ckpts ++ [(id, x.ckpt)] })
    let idx := match x.ra with | some r => r.issued | none => 0
    let o' := { o with id, pc := x.pc, held := outward && ra.isSome, idx, t0 := cyc, ns := s.time.tai }
    { x with ops := x.ops ++ [o'], ra, cntl := if o.cntL then x.cntl + 1 else x.cntl,
             cnts := if o.cntS then x.cnts + 1 else x.cnts }

/-- Ids of the slot's counted operations, which a strel or an invoke waits for (R328, R374). -/
def Slot.counted (x : Slot) : List Nat := (x.ops.filter fun o => o.cntL || o.cntS).map (·.id)

/-- The rate limiter (R408, R409): the charge taken, or none while the bucket lacks it. -/
def Part.chargeRate (p : Part) (link : Bool) (n : Nat) : Option Part :=
  let lim := if link then p.linklim else p.hostlim
  let b := if link then p.linkBucket else p.hostBucket
  let burst := bitsAt lim.toNat 32 32
  if bitsAt lim.toNat 0 32 = 0 then some p
  else if n ≤ b then some (if link then { p with linkBucket := b - n } else { p with hostBucket := b - n })
  else if burst < n ∧ b = burst then some (if link then { p with linkBucket := 0 } else { p with hostBucket := 0 })
  else none

/-- The bytes of a request are charged by its class: a request to this module itself is none to another module (R408). -/
def State.chargeFor (s : State) (tag : Nat) (c : Cls) (a n : Nat) : Option State :=
  match c with
  | .host => ((s.part tag).chargeRate false n).map (s.setPart tag)
  | .remote => if remoteChip s a = s.chipId then some s else ((s.part tag).chargeRate true n).map (s.setPart tag)
  | _ => some s

/-- An access in a failed page traps with code 5 (R434). -/
def State.pageOk (s : State) (a : Nat) (k : Eff) : Eff :=
  match s.me.failed.find? (fun f => f.1 = a / 65536) with
  | some f => .trapIn (s.upd fun x => { x with failed := x.failed.filter fun g => g.1 ≠ f.1 }) cPage f.2.toNat (w64 a)
  | none => k

/-- A host or remote access at issue: a failed page traps, the rate limiter may hold it (R409). -/
def State.farAccess (s : State) (c : Cls) (a n : Nat) (k : State → Eff) : Eff :=
  match c with
  | .host | .remote => s.pageOk a
      (match s.chargeFor s.myTag c a n with
      | none => .wait (.rate (c == .remote) n)
      | some s1 => k s1)
  | _ => k s

/-- Adds a page to the batch of a run-ahead, which holds up to 16 beyond the faulting one (R431, R433). -/
def Slot.addPage (x : Slot) (pg : Nat) : Slot :=
  match x.ra with
  | none => x
  | some r =>
    let own := match r.fault with
      | some f => x.ops.any fun o => o.id == f && o.addr / 65536 == pg
      | none => false
    if own || r.pages.contains pg || decide (16 ≤ r.pages.length) then x else { x with ra := some { r with pages := r.pages ++ [pg] } }

/-- During run-ahead a load from a page without a translation returns a mark and adds the page (R431). -/
def State.aheadPage (s : State) (a : Nat) : State := s.upd fun x => x.addPage (a / 65536)

/-- Whether the page of an address lacks a translation now; another module's pages are its own to know. -/
def State.lacks (s : State) (tag : Nat) (need : PagePerm) (a : Nat) : Bool :=
  if clsAt a = .remote then remoteChip s a != s.chipId || s.ownMissing tag a
  else !(s.part tag).translated ((a - hostBase) / 65536) need

/-- Whether a later access lacks a translation: of another module's page the spec leaves it open (R431). -/
def State.lacksNow (s : State) (tag : Nat) (need : PagePerm) (a : Nat) : Bool :=
  s.lacks tag need a && (clsAt a == .host || remoteChip s a == s.chipId || Config.pageMissing s.time.tai (a / 65536))

/-- Whether the class needs a translation that is not at hand during run-ahead. -/
def State.aheadMiss (s : State) (c : Cls) (a : Nat) (need : PagePerm) : Bool := s.me.ahead && c.isFar && s.lacksNow s.myTag need a

/-- A field of a number of data as a register value. -/
def Dest.value (d : Dest) (data : Nat) : Nat :=
  let v := bitsAt data d.lo d.bits
  if d.signed then ubits 64 (sval d.bits v) else v

/-- Writes every destination at once (tile-store loads, R85). -/
def Slot.deliverAll (x : Slot) (ds : List Dest) (data : Nat) (bad : Bool) : Slot :=
  ds.foldl (fun x d =>
    let y := x.cw d.code (if bad then 0 else d.value data)
    if bad && d.code < 120 then { y with bad := d.code :: y.bad } else y) x

/-- Whether an ldacq of the slot is outstanding (R328). -/
def Slot.acquiring (x : Slot) : Bool := x.ops.any fun o => match o.kind with | .acq _ => true | _ => false

/-- A load of n bytes at a (R324, R325, R328). -/
def State.loadEff (s : State) (h : Hdr) (u : Use) (kind : OpKind) (a n : Nat) (ds : List Dest) (bound : List Nat) : Eff :=
  match checkAccess s s.myPart u a n with
  | .error c => .trap c 0 (w64 a)
  | .ok c =>
    match bound.find? s.me.boundAt with
    | some b => .trap cProt 0 (w64 b)
    | none =>
      if c = .store then
        if s.me.acquiring then .wait .acquire
        else .go (s.upd fun x => x.deliverAll ds (s.myTile.storeRead a n) (s.myTile.storeBad a n))
      else s.farAccess c a n fun s1 =>
        if s1.aheadMiss c a kind.perm then .go ((s1.upd fun x => x.markAll (ds.map (·.code))).aheadPage a)
        else .go (s1.addOp { Op.plain kind with addr := a, size := n, pieces := s1.piecesAt c a n, dests := ds, cntL := true,
                                                conf := !c.isFar, far := if c.isFar then [a] else [], hint := h.cache } false)

/-- A store of the low n bytes of x at a. -/
def State.storeEff (s : State) (h : Hdr) (u : Use) (kind : OpKind) (a n x : Nat) (bound : List Nat) : Eff :=
  match checkAccess s s.myPart u a n with
  | .error c => .trap c 0 (w64 a)
  | .ok c =>
    match bound.find? s.me.boundAt with
    | some b => .trap cProt 0 (w64 b)
    | none =>
      if c = .store then
        if s.me.ra.isSome then .wait .confirm
        else if s.me.acquiring then .wait .acquire
        else if u = .rel ∧ s.me.counted ≠ [] then .wait .release
        else .go (s.updTile fun t => t.storeWrite a x n)
      else s.farAccess c a n fun s1 =>
        let s2 := if s1.aheadMiss c a kind.perm then s1.aheadPage a else s1
        .go (s2.addOp { Op.plain kind with addr := a, size := n, pieces := s1.piecesAt c a n, data := x, cntS := true,
                                           conf := !c.isFar || s1.me.ahead, far := if c.isFar then [a] else [], hint := h.cache,
                                           after := if u = .rel then s1.me.counted else [] } true)

end Sys2Proof.Machine
end

