-- ==== Sys2Proof/Machine/Control.lean ====
section
/-!
DEFINITION. Class 0x01, control (R124 to R126), and class 0x02, hierarchy (R127 to R132); the entry state of a slot (R95).
-/
namespace Sys2Proof.Machine

/-- P + 12 × sext(OFF52) (R124). -/
def branchTo (pc : Word) (off : BitVec 52) : Word := pc + 12 * off.signExtend 64

/-- `bra` (R124). -/
def execBra (h : Hdr) (off : BitVec 52) (s : State) : Host.Outcome State Fault Refusal :=
  s.issue h {} fun s => .jump s (branchTo s.me.pc off)

/-- `call`: the link is P + 12 (R124). -/
def execCall (h : Hdr) (d : G) (off : BitVec 52) (s : State) : Host.Outcome State Fault Refusal :=
  s.issue h { writes := [rG d] } fun s => .jump (s.upd fun x => x.gw d (x.pc + 12)) (branchTo s.me.pc off)

/-- `loop`: counts down and branches while the counter is not zero (R124). -/
def execLoop (h : Hdr) (d : G) (off : BitVec 52) (s : State) : Host.Outcome State Fault Refusal :=
  s.issue h { reads := [rG d], writes := [rG d], deep := [rG d] } fun s =>
    let n := s.me.gr d - 1
    let s1 := s.upd fun x => x.gw d n
    if n ≠ 0 then .jump s1 (branchTo s.me.pc off) else .go s1

/-- `ret`: PC := g[A] (R125). -/
def execRet (h : Hdr) (a : G) (s : State) : Host.Outcome State Fault Refusal :=
  s.issue h { reads := [rG a], deep := [rG a] } fun s => .jump s (s.me.gr a)

/-- `jmpi`: the target is read before the link is written (R125). -/
def execJmpi (h : Hdr) (d a : G) (s : State) : Host.Outcome State Fault Refusal :=
  s.issue h { reads := [rG a], writes := [rG d], deep := [rG a] } fun s => .jump (s.upd fun x => x.gw d (x.pc + 12)) (s.me.gr a)

/-- The end of the issuing slot's part in the round, once its long results are written (R126). -/
def State.endSelf (s : State) : State :=
  if s.me.longs = 0 then s.finishSlot s.cur.1 s.cur.2
  else s.upd fun x => { x with park := .ending, sPark := false, yPark := none }

/-- `rdone` (R126). -/
def execRdone (h : Hdr) (s : State) : Host.Outcome State Fault Refusal :=
  s.issue h { outside := true } fun s => if s.me.ahead then .wait .ending else .own s.endSelf

/-- The state a slot starts with (R95). Accesses of its earlier activity whose translations are still to be found stay so (R430). -/
def Slot.begin (x : Slot) (t : Tile) (k : SlotId) (round pc : Word) : Slot :=
  let g0 : Vector Word 32 := Vector.replicate 32 0
  { x with g := ((((g0.set 1 t.lparam).set 2 (t.tileIdx.setWidth 64)).set 3 (w64 k.val)).set 4 round).set 5 (w64 t.nTiles),
           f := Vector.replicate 32 0, v := Vector.replicate 32 0, p := Vector.replicate 16 false, k := Vector.replicate 8 0,
           pc, active := true, park := .none, sPark := false, yPark := none, forfeit := 0, starting := none, fcsr := 0,
           chkPower := t.chkInit.2, chkHazard := t.chkInit.1, cntl := 0, tm := false, trapOnly := false, retry := none,
           waive := none, streams := Vector.replicate 8 none, srep := none, bad := [],
           ra := if x.ops.all (·.conf) then none
             else some { since := x.ops.foldl (fun n o => Nat.max n (o.id + 1)) 0, ckpts := [], issued := 0, fault := none, marks := [],
                         pages := [], pre := [] },
           hostOrd := { x.hostOrd with deps := [] } }

/-- `sstart` (R127). -/
def execSstart (h : Hdr) (a b : G) (s : State) : Host.Outcome State Fault Refusal :=
  s.issue h { reads := [rG a, rG b], deep := [rG a], outside := true } fun s =>
    let n := s.me.gr a
    if n.toNat > 31 then .trap cProt 0 n
    else
      let k := slotOf n.toNat
      let x := s.slot s.cur.1 k
      if x.active then .go s
      else .go (s.setSlot s.cur.1 k { x.begin s.myTile k s.myTile.round (s.me.gr b) with
                  active := false, starting := some (s.myTile.cycle + 8) })

/-- `sstop` of another slot: it leaves its park and becomes inactive once its long results are written (R127). A slot that runs
ahead has nothing to roll back to, and discards what is unconfirmed (log 20). -/
def State.stopSlot (s : State) (k : SlotId) : State :=
  let x := s.slot s.cur.1 k
  if !x.active then s
  else
    let y := if x.ahead then x.dropUnconfirmed else x
    let s1 := s.updTile fun t => let t1 := t.leaveMatrix (· == k); if x.ahead then t1.giveUp k y else t1
    if y.longs = 0 then s1.finishSlot s.cur.1 k
    else s1.modSlot s.cur.1 k fun y => { y with park := .halting, sPark := false, yPark := none, srep := none }

/-- `sstop` (R127). -/
def execSstop (h : Hdr) (a : G) (s : State) : Host.Outcome State Fault Refusal :=
  s.issue h { reads := [rG a], deep := [rG a], outside := true } fun s =>
    let n := s.me.gr a
    if n.toNat > 31 then .trap cProt 0 n
    else if slotOf n.toNat = s.cur.2 then (if s.me.ahead then .wait .ending else .own s.endSelf)
    else .go (s.stopSlot (slotOf n.toNat))

/-- The condition that releases an sbar (R128). -/
def Tile.sbarOk (t : Tile) (k : SlotId) (mask : Word) : Bool :=
  allSlots.all fun j => j == k || !mask.getLsbD j.val || !(t.slot j).active || (t.slot j).sbarCnt ≥ (t.slot k).sbarCnt

/-- `sbar` (R128). -/
def execSbar (h : Hdr) (a : G) (s : State) : Host.Outcome State Fault Refusal :=
  s.issue h { reads := [rG a], outside := true } fun s =>
    let m := s.me.gr a
    let s1 := s.upd fun x => { x with sbarCnt := x.sbarCnt + 1 }
    if s1.myTile.sbarOk s.cur.2 m then .go s1 else .park s1 (.sbar m)

/-- A hub-die request whose answer is a long result, not counted (R85). -/
def State.ask (s : State) (q : Query) (ds : List Dest) (outward : Bool) : State :=
  s.addOp { Op.plain (.query q) with dests := ds } outward

/-- `launch` (R129): status and identifier to D, acceptance to C, both long results. -/
def execLaunch (h : Hdr) (d a : G) (c : P) (s : State) : Host.Outcome State Fault Refusal :=
  s.issue h { reads := [rG a], writes := [rG d, rP c], deep := [rG a], mem := true } fun s =>
    let v := s.me.gr a
    if v.toNat % 128 ≠ 0 then .trap cAlign 0 v
    else if v.toNat + 128 > s.myPart.extent then .trap cProt 0 v
    else if s.me.cnts ≠ 0 then .wait .stores
    else .go (s.ask (.launch v.toNat) [destOf (rG d) 0 64 false, destOf (rP c) 64 1 false] true)

/-- What lfin does to its launch (R130). -/
def State.lfinDo (s : State) (t : TileId) (code : Byte) : State :=
  let tag := (s.tile t).tag.toNat
  match (s.tile t).launch with
  | none => s
  | some e => match s.launch tag e with
    | none => s
    | some l =>
      if l.fin.isSome then s
      else (s.launchTiles tag e).foldl (fun s u => s.modTile u fun y => { y with roundsOver := true, rerun := none })
        (s.setLaunch tag e { l with fin := some code })

/-- `lfin` (R130). -/
def execLfin (h : Hdr) (a : G) (s : State) : Host.Outcome State Fault Refusal :=
  s.issue h { reads := [rG a], mem := true } fun s =>
    let code : Byte := (s.me.gr a).setWidth 8
    if s.me.ra.isSome then .go (s.addOp (Op.plain (.act (.lfin code))) true) else .go (s.lfinDo s.cur.1 code)

/-- The faults of a level and an identifier (R131). -/
def levelFault (level id : Nat) : Bool :=
  level < 1 || level > 4 || (level == 2 && id > 4095) || (level == 3 && id > 1023) || (level == 4 && id > 255)

/-- `cancel` (R131). -/
def execCancel (h : Hdr) (a b : G) (s : State) : Host.Outcome State Fault Refusal :=
  s.issue h { reads := [rG a, rG b], deep := [rG a, rG b], mem := true } fun s =>
    let l := (s.me.gr a).toNat
    let i := s.me.gr b
    if levelFault l i.toNat then .trap cProt 0 i
    else if s.me.ra.isSome then .go (s.addOp (Op.plain (.act (.cancel l i.toNat))) true)
    else .go (s.endObject s.myTag l i.toNat 3)

/-- The counter that ccount reads, all ones when no live object is named (R132). -/
def State.counterOf (s : State) (tag level id : Nat) : Word :=
  let p := s.part tag
  let o (m : Map Obj) : Word := match mapFind m id with | some x => x.counter | none => BitVec.allOnes 64
  match level with
  | 1 => (match s.launch tag (id % 256) with
    | some l => if id = id % 256 + l.gen.toNat * 256 then l.counter else BitVec.allOnes 64
    | none => BitVec.allOnes 64)
  | 2 => o p.graphs
  | 3 => o p.phases
  | _ => o p.jobs

/-- `ccount` (R132): a long result. -/
def execCcount (h : Hdr) (d a b : G) (s : State) : Host.Outcome State Fault Refusal :=
  s.issue h { reads := [rG a, rG b], writes := [rG d], deep := [rG a, rG b], mem := true } fun s =>
    let l := (s.me.gr a).toNat
    let i := s.me.gr b
    if levelFault l i.toNat then .trap cProt 0 i
    else .go (s.ask (.ccount l i.toNat) [destOf (rG d) 0 64 false] false)

end Sys2Proof.Machine
end

