-- ==== Sys2Proof/Machine/Flags.lean ====
section
/-!
DEFINITION. FCSR (R145): the rounding mode (R141), raising flags and the floating-point exception trap (R144, R146), the
normaliser (R149, R150). And the exact floating-point operations with their flags (R183 to R191), used by the scalar,
vector, matrix and atomic units alike.
-/
namespace Sys2Proof.Machine

/-- FCSR.RM (R145). -/
def Slot.mode (x : Slot) : Mode :=
  match bitsAt x.fcsr.toNat 16 2 with | 0 => .rne | 1 => .rtz | 2 => .rup | _ => .rdn

/-- The mode of a scalar or vector instruction (R141). -/
def Slot.rmMode (x : Slot) : Rm → Mode
  | .dyn => x.mode | .rne => .rne | .rtz => .rtz | .rup => .rup | .rdn => .rdn

/-- ORs flags into FCSR, each 8 bits above its enable (R145). -/
def Slot.raise (x : Slot) (fl : Nat) : Slot := { x with fcsr := x.fcsr ||| w64 (fl % 32 * 2 ^ 8) }

/-- The flags whose enables are set (R146); none while the trap is waived (R424). -/
def Slot.trapping (x : Slot) (fl : Nat) : Nat := if x.waive = some cFloat then 0 else fl &&& (x.fcsr.toNat % 32)

/-- The normaliser's two forfeited turns, counted in NORMTURNS (R82, R149, R150). -/
def Slot.normalise (x : Slot) (sub : Bool) : Slot :=
  if sub then { x with forfeit := x.forfeit + 2, normturns := x.normturns + 2 } else x

/-- The end of an instruction that raises flags (R146): the trap, with no destination written, or its results. -/
def State.fpEnd (s : State) (fl : Nat) (sub : Bool) (k : State → State) : Eff :=
  if s.me.trapping fl ≠ 0 then .trapIn (s.upd fun x => x.raise fl) cFloat 0 (w64 (fl % 32))
  else .go ((k s).upd fun x => (x.raise fl).normalise sub)

/-! ## Exact operations -/

/-- NV when a value is a signalling NaN (R144). -/
def nvIf (b : Bool) : Nat := if b then flNV else 0

/-- The exact dyadic value of a number. -/
def FV.dy : FV → Int × Int
  | .num n s e => (if n then -(s : Int) else s, e)
  | _ => (0, 0)

/-- A + B (R184). -/
def fpAdd (f : Fmt) (md : Mode) (a b : FV) : FR :=
  if a.isNan || b.isNan then FR.nan f (nvIf (a.isSnan || b.isSnan))
  else if a.isInf && b.isInf then (if a.neg == b.neg then FR.inf f a.neg else FR.nan f flNV)
  else if a.isInf then FR.inf f a.neg
  else if b.isInf then FR.inf f b.neg
  else let d := dyAdd a.dy b.dy
       f.roundInt md (zeroSign md a.neg b.neg) d.1 d.2

/-- A × B (R184). -/
def fpMul (f : Fmt) (md : Mode) (a b : FV) : FR :=
  let n := a.neg != b.neg
  if a.isNan || b.isNan then FR.nan f (nvIf (a.isSnan || b.isSnan))
  else if (a.isInf && b.isZero) || (a.isZero && b.isInf) then FR.nan f flNV
  else if a.isInf || b.isInf then FR.inf f n
  else f.round md n (a.dy.1.natAbs * b.dy.1.natAbs) 1 (a.dy.2 + b.dy.2)

/-- ±(A × B) + C with one rounding (R185); `n` negates the product. -/
def fpFma (f : Fmt) (md : Mode) (n : Bool) (a b c : FV) : FR :=
  let pn := (a.neg != b.neg) != n
  let zi := (a.isInf && b.isZero) || (a.isZero && b.isInf)
  if zi then FR.nan f flNV
  else if a.isNan || b.isNan || c.isNan then FR.nan f (nvIf (a.isSnan || b.isSnan || c.isSnan))
  else if a.isInf || b.isInf then (if c.isInf && c.neg != pn then FR.nan f flNV else FR.inf f pn)
  else if c.isInf then FR.inf f c.neg
  else
    let m := a.dy.1.natAbs * b.dy.1.natAbs
    let d := dyAdd (if pn then -(m : Int) else m, a.dy.2 + b.dy.2) c.dy
    f.roundInt md (zeroSign md pn c.neg) d.1 d.2

/-- A / B (R186). -/
def fpDiv (f : Fmt) (md : Mode) (a b : FV) : FR :=
  let n := a.neg != b.neg
  if a.isNan || b.isNan then FR.nan f (nvIf (a.isSnan || b.isSnan))
  else if (a.isInf && b.isInf) || (a.isZero && b.isZero) then FR.nan f flNV
  else if a.isInf then FR.inf f n
  else if b.isInf then FR.zero f n
  else if b.isZero then { FR.inf f n with fl := flDZ }
  else f.round md n a.dy.1.natAbs b.dy.1.natAbs (a.dy.2 - b.dy.2)

/-- √A (R187): the root to more bits than any format holds, with a sticky bit below them. -/
def fpSqrt (f : Fmt) (md : Mode) (a : FV) : FR :=
  match a with
  | .nan _ sg => FR.nan f (nvIf sg)
  | .inf n => if n then FR.nan f flNV else FR.inf f false
  | .num n s e =>
    if s = 0 then FR.zero f n
    else if n then FR.nan f flNV
    else
      let odd := e % 2 != 0
      let m := (if odd then 2 * s else s) * 2 ^ 128
      let h := ((if odd then e - 1 else e) - 128) / 2
      let r := isqrt m
      f.round md false (2 * r + (if r * r = m then 0 else 1)) 1 (h - 1)

/-- Order of two numbers or infinities: −1, 0 or 1. -/
def fpOrder (a b : FV) : Int :=
  let rank : FV → Int := fun v => match v with | .inf true => -1 | .inf false => 1 | _ => 0
  if rank a != rank b then (if rank a < rank b then -1 else 1)
  else if a.isInf then 0
  else let d := dyAdd a.dy (b.flip.dy)
       if d.1 < 0 then -1 else if d.1 = 0 then 0 else 1

/-- Minimum or maximum of two encodings (R188): −0 below +0, the operand's own bits. -/
def fpMinMax (f : Fmt) (isMax : Bool) (x y : Nat) : FR :=
  let a := FV.decode f x
  let b := FV.decode f y
  let nv := nvIf (a.isSnan || b.isSnan)
  if a.isNan && b.isNan then ⟨f.qnan, nv⟩
  else if a.isNan then ⟨y, nv⟩
  else if b.isNan then ⟨x, nv⟩
  else
    let o := fpOrder a b
    let less := o < 0 || (o == 0 && a.neg && !b.neg)
    ⟨if less != isMax then x else if o == 0 && a.neg == b.neg then x else y, 0⟩

/-- A comparison (R190): the condition and the flags. -/
def fpCmp (f : Fmt) (c : Cnd) (x y : Nat) : Bool × Nat :=
  let a := FV.decode f x
  let b := FV.decode f y
  let un := a.isNan || b.isNan
  let sg := a.isSnan || b.isSnan
  let o := fpOrder a b
  match c with
  | .eq => (!un && o == 0, nvIf sg)
  | .ne => (un || o != 0, nvIf sg)
  | .lt => (!un && o < 0, nvIf un)
  | .le => (!un && o ≤ 0, nvIf un)
  | .gt => (!un && o > 0, nvIf un)
  | .ge => (!un && o ≥ 0, nvIf un)
  | .un => (un, nvIf sg)
  | .ord => (!un, nvIf sg)

/-- Class and sign of an encoding (R191). -/
def fpClass (f : Fmt) (x : Nat) : Nat :=
  let k := match FV.decode f x with
    | .nan _ s => if s then 5 else 4
    | .inf _ => 3
    | .num _ s _ => if s = 0 then 0 else if f.isSub x then 1 else 2
  k + 256 * bool01 (bitAt x (f.e + f.m))

end Sys2Proof.Machine
end

