-- ==== Sys2Proof/Machine/Remote.lean ====
section
/-!
DEFINITION. Atomic operations as functions (R335, R337), and an access from another module at the receiving side: the
remote page table and the access at its home (R270, R271).
-/
namespace Sys2Proof.Machine

/-! ## Atomic operations -/

/-- The new value of an integer atomic on w bits (R335). -/
def amoNew (o : AmoOp) (w old b c : Nat) : Nat :=
  match o with
  | .add => (old + b) % 2 ^ w
  | .and => old &&& b
  | .or => old ||| b
  | .xor => old ^^^ b
  | .min => if sval w b < sval w old then b else old
  | .max => if sval w old < sval w b then b else old
  | .minz => Nat.min old b
  | .maxz => Nat.max old b
  | .swp => b
  | .cas => if old = c then b else old

def AmoOp.code : AmoOp → Nat
  | .add => 0 | .and => 1 | .or => 2 | .xor => 3 | .min => 4 | .max => 5 | .minz => 6 | .maxz => 7 | .swp => 8 | .cas => 9

def AmoOp.ofCode (n : Nat) : AmoOp :=
  match n with
  | 0 => .add | 1 => .and | 2 => .or | 3 => .xor | 4 => .min | 5 => .max | 6 => .minz | 7 => .maxz | 8 => .swp | _ => .cas

/-- The element format of a floating-point atomic and its number of elements (R337). -/
def amofFmt : AmoF → Fmt × Nat
  | .bf16 => (Fmt.bf16, 1) | .bf16x2 => (Fmt.bf16, 2) | .f32 => (Fmt.f32, 1) | .f32x2 => (Fmt.f32, 2) | .f64 => (Fmt.f64, 1)

def amofSize (t : AmoF) : Nat := (amofFmt t).1.width * (amofFmt t).2 / 8

/-- One element of a floating-point atomic. -/
def amofElem (o : AmofOp) (f : Fmt) (x y : Nat) : Nat :=
  match o with
  | .add => (fpAdd f .rne (FV.decode f x) (FV.decode f y)).bits
  | .min => (fpMinMax f false x y).bits
  | .max => (fpMinMax f true x y).bits

/-- The new value of a floating-point atomic (R337): each element of a pair on its own. -/
def amofNew (o : AmofOp) (t : AmoF) (old b : Nat) : Nat :=
  let f := (amofFmt t).1
  let w := f.width
  (natsFrom 0 (amofFmt t).2).foldr (fun e acc => acc * 2 ^ w + amofElem o f (bitsAt old (e * w) w) (bitsAt b (e * w) w)) 0

def amofCode (o : AmofOp) (t : AmoF) : Nat :=
  10 + (match t with | .bf16 => 0 | .bf16x2 => 3 | .f32 => 6 | .f32x2 => 9 | .f64 => 12) + (match o with | .add => 0 | .min => 1 | .max => 2)

/-- The new value of an atomic by its number in a link request: 0 to 9 integer, from 10 floating point. -/
def atomicNew (op size old b c : Nat) : Nat :=
  if op < 10 then amoNew (AmoOp.ofCode op) (8 * size) old b c
  else
    let t : AmoF := match (op - 10) / 3 with | 0 => .bf16 | 1 => .bf16x2 | 2 => .f32 | 3 => .f32x2 | _ => .f64
    let o : AmofOp := match (op - 10) % 3 with | 0 => .add | 1 => .min | _ => .max
    amofNew o t old b

/-! ## The remote page table (R271) -/

/-- A translation as the link interface finds it: a cached entry may answer or have been replaced, a free choice; what a
walk finds is cached (R271). -/
def State.remoteTranslate (s : State) (tag v : Nat) : State × Option Leaf :=
  let pg := v / 65536
  let hit := if (s.part tag).remroot.getLsbD 0 then (s.part tag).remCache.find? fun e => e.1 == pg else none
  let (s1, use) := match hit with | some _ => s.flip | none => (s, false)
  match hit, use with
  | some e, true => (s1, some { addr := e.2.1 + v % 65536, w := e.2.2.1, rd := e.2.2.2 })
  | _, _ => match (s1.part tag).remoteLookup s1 v with
    | none => (s1.modPart tag fun p => { p with remCache := p.remCache.filter fun e => e.1 != pg }, none)
    | some l => (s1.modPart tag fun p =>
        { p with remCache := (pg, l.addr - v % 65536, l.w, l.rd) :: p.remCache.filter fun e => e.1 != pg }, some l)

/-- The die of the home of an HBM address of a partition. -/
def State.homeDie (s : State) (tag a : Nat) : Nat := (s.part tag).phys a / 2 ^ 30 / 128

/-! ## Posts (R275, R281, R282) -/

/-- The post slot that a post number names on its chip: die, slice and slot. -/
def postKey (n : BitVec 32) : Nat := bitsAt n.toNat 3 17

/-- The chip of a post number, 0xFFF being this one. -/
def postChip (s : State) (n : BitVec 32) : Chip :=
  let c : Chip := n.extractLsb' 20 12
  if c = 0xFFF then s.chipId else c

/-- Whether two post numbers name one post (R275). -/
def samePost (s : State) (a b : BitVec 32) : Bool := postChip s a == postChip s b && postKey a == postKey b

/-- The poisoned granules among n bytes of a post from lo, by their place there. -/
def Post.badMask (p : Post) (lo n : Nat) : Nat :=
  (natsFrom (lo / 32) (ceilDiv (lo % 32 + n) 32)).foldl (fun m g => if p.bad.contains g then m + 2 ^ (g - lo / 32) else m) 0

/-- A commit, and its status: 0 committed, 2 no such post, 5 exhausted (R281, R282). -/
def State.commitPost (s : State) (key value : Nat) : State × Nat :=
  match mapFind s.posts key with
  | none => (s, 2)
  | some p =>
    if p.f.toNat + 1 ≥ 2 ^ 64 - 1 then (s, 5)
    else ({ s with posts := mapSet s.posts key { p with f := p.f + 1, val := Memory.writeN [] 0 value (256 * p.lines), bad := [] } }, 0)

/-- What the receiving module answers: the data (of a load or an atomic), and a status, 0 done, 1 poisoned, 2 protection fault, that
of a home which refuses the access too (R396), 4 missing translation. -/
def State.memoryServe (s : State) (tag : Nat) (r : RemoteReq) : State × Nat × Nat :=
  match s.remoteTranslate tag (r.addr % 2 ^ 48) with
  | (s, none) => (s, 0, 4)
  | (s, some l) =>
    let p := s.part tag
    let need := match r.kind with | .load => needR | .store => needW | _ => needR + needW
    let ok := (match r.kind with | .load => l.rd | .store => l.w | _ => l.rd && l.w) &&
      decide (l.addr + r.size ≤ p.extent) && p.grants l.addr r.size need
    if !ok || s.refuses tag l.addr r.size then (s, 0, 2)
    else
      let die := s.homeDie tag l.addr
      match r.kind with
      | .load => let (s1, v, b) := s.homeRead tag die .hbm l.addr r.size
                 (s1, v, bool01 b)
      | .store => (s.homeWrite tag die .hbm l.addr r.data r.size, 0, 0)
      | _ =>
        let (s1, v, b) := s.homeLook tag .hbm l.addr r.size
        if b != 0 then (s1, 0, 1) else (s1.homeWrite tag die .hbm l.addr (atomicNew r.op r.size v r.data r.cmp) r.size, v, 0)

/-- An access from another module (R270); to a post it is refused unless the post is bound by the partition with the
same LINES (R278), and an install also where the post is exhausted, with status 5 (R293). A sample answers the bytes asked for,
F above them, and above a place for the status the poisoned granules among them. -/
def State.remoteServe (s : State) (tag : Nat) (r : RemoteReq) : State × Nat × Nat :=
  let n : BitVec 32 := BitVec.ofNat 32 r.addr
  let bound : Option Post := match mapFind s.posts (postKey n) with
    | some p => if p.binders.any (fun b => b.1 == tag) && p.lines * 256 == r.size then some p else none
    | none => none
  match r.kind with
  | .install => (match bound with
    | none => (s, 0, 2)
    | some _ => let (s1, st) := s.commitPost (postKey n) r.data
                (s1, 0, st))
  | .sample => (match bound with
    | none => (s, 0, 2)
    | some p =>
      let mask := p.badMask r.op r.cmp
      (s, Memory.readN p.val r.op r.cmp + p.f.toNat * 2 ^ (8 * r.cmp) + mask * 2 ^ (8 * r.cmp + 72), bool01 (mask != 0)))
  | _ => s.memoryServe tag r

end Sys2Proof.Machine
end

