-- ==== Sys2Proof/Machine/Memory.lean ====
section
/-!
DEFINITION. Class 0x0B, loads and stores (R323 to R331); class 0x0C, waits (R332, R333); classes 0x0D and 0x0E, atomics
(R334 to R337); the events that perform atomics and hold or release them in replay mode (R316, R338 to R341); and the
pieces of loads and stores performed at their homes (R302, R328).
-/
namespace Sys2Proof.Machine

/-! ## Sending an operation from the slot's queue (R302, R328, R430) -/

def Slot.opOf (x : Slot) (id : Nat) : Option Op := x.ops.find? fun o => o.id == id

def Slot.setOp (x : Slot) (o : Op) : Slot := { x with ops := x.ops.map fun q => if q.id = o.id then o else q }

/-- An operation ends: it leaves the queue and its counter is lowered (R322). -/
def Slot.dropOp (x : Slot) (o : Op) : Slot :=
  { x with ops := x.ops.filter fun q => q.id ≠ o.id, cntl := if o.cntL then x.cntl - 1 else x.cntl,
           cnts := if o.cntS then x.cnts - 1 else x.cnts }

def OpKind.isAcq : OpKind → Bool
  | .acq _ => true
  | _ => false

/-- Whether two operations are invocations with one waybill as target, which are delivered in program order (R307, R370). -/
def OpKind.sameTarget : OpKind → OpKind → Bool
  | .query (.invoke a _), .query (.invoke b _) => a.target.isSome && a.target == b.target
  | _, _ => false

/-- Whether an operation is free to act: it is confirmed, not held, no earlier acquire is outstanding, nor an earlier invocation
with its target, and what it waits for has been lowered (R302, R307, R328). -/
def Slot.free (x : Slot) (o : Op) : Bool :=
  o.conf && !o.held && (x.ops.all fun q => decide (o.id ≤ q.id) || !(q.kind.isAcq || o.kind.sameTarget q.kind)) &&
    o.after.all fun i => !(x.ops.any fun q => q.id == i)

/-- Whether a piece may be performed: its operation is free, and no earlier access of the slot, nor an earlier piece of
its own operation, to any of its bytes is outstanding (R302, R326, R328): two names of one location are one (R256). -/
def Slot.sendable (x : Slot) (o : Op) (i : Nat) (pc : Piece) : Bool :=
  x.free o && (o.pieces.take i).all (fun q => !pc.meets q) &&
    x.ops.all fun q => decide (o.id ≤ q.id) || !(q.pieces.any pc.meets)

/-! ## Reads at homes -/

/-- Scopes at which L1 does not answer (R259, R304). -/
def scopeWide : Scope → Bool
  | .slot => false | .core => false | _ => true

def OpKind.isAtom : OpKind → Bool
  | .amo _ _ _ _ | .amof _ _ _ _ => true
  | _ => false

/-- Whether an atomic of a core on a sector, issued before `id`, has still to be performed: a later load of the core is answered
after it, and no load fills the sector until then (R259, R304). -/
def Tile.atomOn (t : Tile) (c : Fin 4) (id sector : Nat) : Bool :=
  allSlots.any fun k => coreOf k == c && (t.slot k).ops.any fun o =>
    o.kind.isAtom && !o.performed && decide (o.id < id) && o.addr / 64 == sector

/-- A load piece of an HBM or view address: a sector present in L1 may answer or have been evicted, a free choice; a
load that the hint lets allocate fills its sector; no-allocate invalidates a present one (R259, R260). A line that is on another
die may come from the remote-data cache. -/
def State.cachedRead (s : State) (t : TileId) (k : SlotId) (o : Op) (pc : Piece) : State × Nat × Bool :=
  let c := clsAt pc.addr
  let core := coreOf k
  let bypass := match o.kind with | .acq sc => scopeWide sc | _ => false
  let drop (s : State) : State := s.modTile t fun y => y.l1Drop core pc.addr
  match (if bypass then (s, none) else match ((s.tile t).l1Of core).find? fun x => x.addr = pc.addr / 64 * 64 with
    | none => (s, none)
    | some x => let (s0, hit) := s.flip; if hit then (s0, some x) else (drop s0, none) : State × Option Sector) with
  | (s0, some x) =>
    (if o.hint == .noAlloc then drop s0 else s0,
      bitsAt x.data (8 * (pc.addr % 64)) (8 * pc.size), bitAt x.bad (pc.addr % 64 / 32))
  | (s0, none) =>
    let s1 := s0.tileCount t 0x002 1
    if bypass || (o.hint != .none && o.hint != .keep) || (s.slot t k).ra.isSome || (s.tile t).atomOn core s.serial (pc.addr / 64) then
      let (s2, v, b) := s1.tileRead t c pc.addr pc.size o.hint
      (s2, v, b != 0)
    else
      let (s2, v, b) := s1.tileRead t c (pc.addr / 64 * 64) 64 o.hint
      (s2.l1Fill t core { addr := pc.addr / 64 * 64, data := v, bad := b / 2 ^ (2 * (pc.addr % 256 / 64)) % 4, keep := o.hint == .keep },
        bitsAt v (8 * (pc.addr % 64)) (8 * pc.size), bitAt b (pc.addr % 256 / 32))

/-- The data of an answer of n bytes, and its status: 0 done, 1 poisoned, 2 protection fault, 3 unsupported request, 4 missing
translation. -/
def answerOf (ext n : Nat) : Nat × Nat := (ext % 2 ^ (8 * n), ext / 2 ^ (8 * n))

/-- A request over the link (R270): performed here when it names this module, else it leaves, and once it has left (`sent`) `ext`
is its answer. Without an answer yet: none. -/
def State.remoteAsk (s : State) (t : TileId) (sent : Bool) (r : RemoteReq) (ext : Nat) : State × Option (Nat × Nat) :=
  let tag := (s.tile t).tag.toNat
  let chip := remoteChip s r.addr
  match (s.part tag).link chip with
  | none => (s, some (0, 2))
  | some tt =>
    if chip = s.chipId then
      let (s1, v, st) := s.remoteServe tt.toNat { r with addr := r.addr % 2 ^ 48 }
      (s1, some (v, st))
    else if sent then (s, some (answerOf ext r.size))
    else (s.sendMsg tag chip (.access tt r), none)

/-- A request of a slot or channel to the host leaves, or has its answer. -/
def State.hostAsk (s : State) (sent : Bool) (o : Output) (n ext : Nat) : State × Option (Nat × Nat) :=
  if sent then (s, some (answerOf ext n)) else (s.emit o, none)

/-- An access through a remote address that names this module leaves no older copy of its bytes in the core's L1 (R309). -/
def State.aliasDrop (s : State) (t : TileId) (k : SlotId) (pc : Piece) : State :=
  match pc.home with
  | some h => if h < 2 ^ 39 then s.modTile t fun y => y.l1Drop (coreOf k) h else s
  | none => s

/-- A load piece at its home: data and status. -/
def State.loadPiece (s : State) (t : TileId) (k : SlotId) (o : Op) (pc : Piece) (ext : Nat) : State × Option (Nat × Nat) :=
  match clsAt pc.addr with
  | .host => s.hostAsk pc.sent (.hostLoad (s.hostFn (s.tile t).tag.toNat) (pc.addr - hostBase) pc.size o.relaxed) pc.size ext
  | .remote => (s.aliasDrop t k pc).remoteAsk t pc.sent { kind := .load, addr := pc.addr, size := pc.size, data := 0, op := 0, cmp := 0 } ext
  | _ => let (s1, v, b) := s.cachedRead t k o pc
         (s1, some (v, bool01 b))

/-- Piece i of an operation has left. -/
def Op.leave (o : Op) (i : Nat) (pc : Piece) : Op := { o with pieces := o.pieces.set i { pc with sent := true } }

/-- An operation that fails where it is carried: its results are discarded and the slot takes a deferred trap, code 4
for a protection fault (R165, R270), code 5 for a translation that has gone since it was found (R270, log 31), else code 15 (R257). -/
def State.failOp (s : State) (t : TileId) (k : SlotId) (o : Op) (st : Nat) (a : Nat) : State :=
  let s1 := s.modSlot t k fun x => x.dropOp o
  if st = 2 then s1.deferTrap t k cProt 0 (w64 a)
  else if st = 4 then s1.deferTrap t k cPage 3 (w64 a)
  else s1.deferTrap t k cSoft 0 (w64 a)

/-- Performs piece i of a load. Where a piece fails, TRAPVAL is the address of that piece (log 70, DESIGN CHOICE: R270 says 'the
address'). -/
def State.returnPiece (s : State) (t : TileId) (k : SlotId) (o : Op) (i : Nat) (ext : Nat) : State :=
  match o.pieces[i]? with
  | none => s
  | some pc =>
    if (s.slot t k).sendable o i pc && !(s.tile t).atomOn (coreOf k) o.id (pc.addr / 64) then
      match (if s.refuses (s.tile t).tag.toNat pc.addr pc.size then (s, some (0, 2)) else s.loadPiece t k o pc ext) with
      | (s1, none) => s1.modSlot t k fun x => x.setOp (o.leave i pc)
      | (s1, some (v, st)) =>
      if st ≥ 2 then s1.failOp t k o st pc.addr
      else
        let ps := o.pieces.eraseIdx i
        let o' := { o with pieces := ps, data := putBits o.data (8 * pc.pos) (8 * pc.size) v, bad := o.bad || st == 1,
                           ready := ps.isEmpty }
        let s2 := s1.modSlot t k fun x => x.setOp o'
        match o.kind, ps with
        | .acq sc, [] => if scopeWide sc then s2.modTile t fun y => y.l1Clear (coreOf k) else s2
        | _, _ => s2
    else s

/-- Delivers destination i of an operation that is ready; after the last one the operation ends (R85, R322). -/
def State.deliverDest (s : State) (t : TileId) (k : SlotId) (o : Op) (i : Nat) : State :=
  match o.dests[i]? with
  | none => s
  | some d => s.modSlot t k fun x =>
    let y := x.land o.id d.code (d.value o.data) o.bad
    let z := { y with yPark := match y.yPark with | some (b, n) => if o.id < b then none else some (b, n) | none => none }
    match o.dests.eraseIdx i with
    | [] => z.dropOp o
    | ds => z.setOp { o with dests := ds }

/-! ## Writes at homes -/

/-- Performs a store piece: a status as of remoteAsk. -/
def State.storePiece (s : State) (t : TileId) (k : SlotId) (o : Op) (pc : Piece) (ext : Nat) : State × Option Nat :=
  let v := bitsAt o.data (8 * pc.pos) (8 * pc.size)
  let tag := (s.tile t).tag.toNat
  match clsAt pc.addr with
  | .host => (s.emit (.hostWrite (s.hostFn tag) (pc.addr - hostBase) pc.size v o.relaxed), some 0)
  | .remote =>
    let (s1, a) := (s.aliasDrop t k pc).remoteAsk t pc.sent { kind := .store, addr := pc.addr, size := pc.size, data := v, op := 0, cmp := 0 }
      (ext * 2 ^ (8 * pc.size))
    (s1, a.map (·.2))
  | c =>
    let s1 := s.homeWrite tag (dieOf t) c pc.addr v pc.size o.hint
    (s1.modTile t fun y => if o.hint == .noAlloc then y.l1Drop (coreOf k) pc.addr else y.l1Store (coreOf k) pc.addr v pc.size, some 0)

/-- Performs piece i of a store; CNTS is lowered with the last one (R322). -/
def State.performPiece (s : State) (t : TileId) (k : SlotId) (o : Op) (i : Nat) (ext : Nat) : State :=
  match o.pieces[i]? with
  | none => s
  | some pc =>
    if (s.slot t k).sendable o i pc then
      match (if s.refuses (s.tile t).tag.toNat pc.addr pc.size then (s, some 2) else s.storePiece t k o pc ext) with
      | (s1, none) => s1.modSlot t k fun x => x.setOp (o.leave i pc)
      | (s1, some st) =>
      if st ≥ 2 then s1.failOp t k o st pc.addr
      else s1.modSlot t k fun x => match o.pieces.eraseIdx i with
        | [] => x.dropOp o
        | ps => x.setOp { o with pieces := ps }
    else s

/-- A flush is performed (R330, R331): dirty sectors of a view line are encoded, and the core's L1, the remote-data caches and the
home slice lose the line. -/
def State.performFlush (s : State) (t : TileId) (k : SlotId) (o : Op) : State :=
  if (s.slot t k).free o then
    let a := o.addr / 256 * 256
    let s1 := s.dropLine (s.tile t).tag.toNat a
    (s1.modTile t fun y => y.setL1 (coreOf k) ((y.l1Of (coreOf k)).filter fun x => x.addr / 256 ≠ a / 256)).modSlot t k
      fun x => x.dropOp o
  else s

/-! ## Class 0x0B -/

def Size.bytes : Size → Nat
  | .b8 => 1 | .b16 => 2 | .b32 => 4 | .b64 => 8

/-- `ld` (R324). -/
def execLd (h : Hdr) (sz : Size) (d : GF) (m : MemRef) (s : State) : Host.Outcome State Fault Refusal :=
  s.issue h { reads := memCodes m, writes := [rGF d], deep := memCodes m, mem := true } fun s =>
    s.loadEff h .ld .load (s.me.ea m).toNat (Size.bytes sz) [destOf (rGF d) 0 (8 * Size.bytes sz) false] []

/-- `ld.s` (R324). -/
def execLdSigned (h : Hdr) (sz : Size) (d : G) (m : MemRef) (s : State) : Host.Outcome State Fault Refusal :=
  s.issue h { reads := memCodes m, writes := [rG d], deep := memCodes m, mem := true } fun s =>
    s.loadEff h .ld .load (s.me.ea m).toNat (Size.bytes sz) [destOf (rG d) 0 (8 * Size.bytes sz) true] []

/-- `ld.b128` (R324). -/
def execLdB128 (h : Hdr) (d : G) (m : MemRef) (s : State) : Host.Outcome State Fault Refusal :=
  s.issue h { reads := memCodes m, writes := [rG d, rG (d + 1)], deep := memCodes m, mem := true } fun s =>
    s.loadEff h .ld .load (s.me.ea m).toNat 16 [destOf (rG d) 0 64 false, destOf (rG (d + 1)) 64 64 false] []

/-- `st` (R324). -/
def execSt (h : Hdr) (sz : Size) (m : MemRef) (d : GF) (s : State) : Host.Outcome State Fault Refusal :=
  s.issue h { reads := rGF d :: memCodes m, deep := memCodes m, mem := true } fun s =>
    s.storeEff h .st .store (s.me.ea m).toNat (Size.bytes sz) ((s.me.gfr d).toNat % 2 ^ (8 * Size.bytes sz)) []

/-- `st.b128` (R324). -/
def execStB128 (h : Hdr) (m : MemRef) (d : G) (s : State) : Host.Outcome State Fault Refusal :=
  s.issue h { reads := rG d :: rG (d + 1) :: memCodes m, deep := memCodes m, mem := true } fun s =>
    s.storeEff h .st .store (s.me.ea m).toNat 16 ((s.me.gr (d + 1)).toNat * 2 ^ 64 + (s.me.gr d).toNat) []

/-- `pref` (R329): the line of an HBM or view address that would not fault may be filled into its home slice and, from another
die on a replicated page, into the remote-data cache, a free choice. It takes no trap. -/
def execPref (h : Hdr) (m : MemRef) (s : State) : Host.Outcome State Fault Refusal :=
  s.issue h { reads := memCodes m, mem := true, quiet := true } fun s =>
    let a := (s.me.ea m).toNat / 256 * 256
    match checkAccess s s.myPart .ld (s.me.ea m).toNat 1 with
    | .ok .hbm | .ok .view =>
      let (s1, fill) := s.flip
      .go (if fill then (s1.dieRead s1.myTag (dieOf s1.cur.1) (clsAt a) a 256 h.cache).1 else s1)
    | _ => .go s

/-- `flush` (R330, R331). -/
def execFlush (h : Hdr) (m : MemRef) (s : State) : Host.Outcome State Fault Refusal :=
  s.issue h { reads := memCodes m, deep := memCodes m, mem := true } fun s =>
    let v := s.me.ea m
    let a := v.toNat
    match s.myPart.classOf a 1 with
    | none => .trap cProt 0 v
    | some c =>
      if c = .hbm ∨ c = .view then
        if !(s.myPart.permits c (a / 256 * 256) 256 needR || s.myPart.permits c (a / 256 * 256) 256 needW) then .trap cProt 0 v
        else if s.me.ra.isSome then .wait .confirm
        else .go (s.addOp { Op.plain .flush with addr := a, cntS := true } true)
      else .go s

/-- `vld` (R325). -/
def execVld (h : Hdr) (d : V) (m : MemRef) (s : State) : Host.Outcome State Fault Refusal :=
  s.issue h { reads := memCodes m, writes := [rV d], deep := memCodes m, mem := true, streams := true } fun s =>
    s.loadEff h .ld .load (s.me.ea m).toNat 128 [destOf (rV d) 0 1024 false] [rV d]

/-- `vst` (R325). -/
def execVst (h : Hdr) (m : MemRef) (d : V) (s : State) : Host.Outcome State Fault Refusal :=
  s.issue h { reads := rV d :: memCodes m, deep := memCodes m, mem := true, streams := true } fun s =>
    s.storeEff h .st .store (s.me.ea m).toNat 128 (s.me.vr d).toNat [rV d]

/-- The 32 lane addresses of R326. -/
def Slot.laneAddrs (x : Slot) (a : G) (b : V) (sc : BitVec 2) (disp : BitVec 48) : List Nat :=
  (natsFrom 0 32).map fun i =>
    (x.gr a + (((x.vr b).extractLsb' (32 * i) 32).signExtend 64 <<< sc.toNat) + disp.signExtend 64).toNat

/-- The first lane that R323 refuses: its trap code and TRAPVAL. The check of bound streams is the fourth of each lane, so it
comes after the first lane's others and before every later lane. -/
def laneFault (s : State) (p : Part) (u : Use) (bound : Option Nat) : List Nat → Option (Nat × Nat)
  | [] => none
  | a :: l => match checkAccess s p u a 4, bound with
    | .error c, _ => some (c, a)
    | .ok _, some b => some (cProt, b)
    | .ok _, none => laneFault s p u none l

/-- The pieces of the lanes of a gather or scatter, `near` with those in the tile store, and of remote ones the locations they
stand for (R256). -/
def State.lanePieces (s : State) (near : Bool) (as : List Nat) : List Piece :=
  (as.zipIdx.map fun x => if clsAt x.1 = .store ∧ near = false then [] else
    (s.piecesAt (clsAt x.1) x.1 4).map fun p => { p with pos := p.pos + 4 * x.2 }).flatten

/-- The bytes of far lanes charged to a bucket, then the effect; the first failed page traps (R409, R434). -/
def State.farLanes (s : State) (as : List Nat) (k : State → Eff) : Eff :=
  let far := as.filter fun a => clsAt a == .host || clsAt a == .remote
  let host := 4 * far.countP fun a => clsAt a == .host
  let link := 4 * far.countP fun a => clsAt a == .remote && remoteChip s a != s.chipId
  if far.isEmpty then k s else
  match far.find? (fun a => s.me.failed.any fun f => f.1 = a / 65536) with
  | some a =>
    let info := match s.me.failed.find? (fun f => f.1 = a / 65536) with | some f => f.2.toNat | none => 0
    .trapIn (s.upd fun x => { x with failed := x.failed.filter fun g => g.1 ≠ a / 65536 }) cPage info (w64 a)
  | none =>
    match (if host = 0 then some s.myPart else s.myPart.chargeRate false host) with
    | none => .wait (.rate false host)
    | some p => match (if link = 0 then some p else p.chargeRate true link) with
      | none => .wait (.rate true link)
      | some p' => k (s.setPart s.myTag p')

/-- One address for each host or remote page that the lanes name, in lane order (R326, R430). -/
def farPages : List Nat → List Nat
  | [] => []
  | a :: l => if clsAt a == .host || clsAt a == .remote then a :: (farPages l).filter fun b => b / 65536 != a / 65536 else farPages l

/-- `vgather` (R326). Where D and B are both bound, TRAPVAL names D (log 70, DESIGN CHOICE: R203 names no order). -/
def execVgather (h : Hdr) (d : V) (a : G) (b : V) (sc : BitVec 2) (disp : BitVec 48) (s : State) : Host.Outcome State Fault Refusal :=
  s.issue h { reads := [rG a, rV b], writes := [rV d], deep := [rG a, rV b], mem := true, streams := true } fun s =>
    let as := s.me.laneAddrs a b sc disp
    match laneFault s s.myPart .ld ([rV d, rV b].find? s.me.boundAt) as with
    | some (c, v) => .trap c 0 (w64 v)
    | none =>
      let near := as.any fun a => clsAt a == .store
      if near && s.me.acquiring then .wait .acquire
      else
        let data := as.zipIdx.foldl (fun n x => if clsAt x.1 = .store then n + s.myTile.storeRead x.1 4 * 2 ^ (32 * x.2) else n) 0
        let bad := as.any fun a => clsAt a == .store && s.myTile.storeBad a 4
        let ds := [destOf (rV d) 0 1024 false]
        if as.all fun a => clsAt a == .store then .go (s.upd fun x => x.deliverAll ds data bad)
        else s.farLanes as fun s =>
          let miss := as.filter fun a => s.aheadMiss (clsAt a) a { rd := true, w := false }
          if !miss.isEmpty then .go (miss.foldl (fun s a => s.aheadPage a) (s.upd fun x => x.markAll [rV d]))
          else .go (s.addOp { Op.plain .load with addr := (farPages as).headD 0, far := farPages as, size := 128, pieces := s.lanePieces false as, data,
                                                  bad, dests := ds, cntL := true, conf := (farPages as).isEmpty, hint := h.cache } false)

/-- `vscatter` (R326). While the page of a far lane is still to be found it parks, with its tile-store lanes to be written once the
access is confirmed, since an instruction that faults has no effect (R430, R434). Where D and B are both bound, TRAPVAL names D
(log 70, DESIGN CHOICE: R203 names no order). -/
def execVscatter (h : Hdr) (d : V) (a : G) (b : V) (sc : BitVec 2) (disp : BitVec 48) (s : State) : Host.Outcome State Fault Refusal :=
  s.issue h { reads := [rV d, rG a, rV b], deep := [rG a, rV b], mem := true, streams := true } fun s =>
    let as := s.me.laneAddrs a b sc disp
    match laneFault s s.myPart .st ([rV d, rV b].find? s.me.boundAt) as with
    | some (c, v) => .trap c 0 (w64 v)
    | none =>
      let near := as.any fun a => clsAt a == .store
      let v := (s.me.vr d).toNat
      if near && s.me.ra.isSome then .wait .confirm
      else if near && s.me.acquiring then .wait .acquire
      else
        let put (s : State) : State := as.zipIdx.foldl (fun s x =>
          if clsAt x.1 = .store then s.updTile fun t => t.storeWrite x.1 (bitsAt v (32 * x.2) 32) 4 else s) s
        if as.all fun a => clsAt a == .store then .go (put s)
        else s.farLanes as fun s =>
          let miss := as.filter fun a => s.aheadMiss (clsAt a) a { rd := false, w := true }
          let late := near && !(farPages as).isEmpty
          let s1 := miss.foldl (fun s a => s.aheadPage a) (if late then s else put s)
          let s2 := s1.addOp { Op.plain .store with addr := (farPages as).headD 0, far := farPages as, size := 128,
                                                    pieces := s.lanePieces late as, data := v,
                                                    cntS := true, conf := (farPages as).isEmpty || s.me.ahead, hint := h.cache } true
          if late then .park s2 .confirm else .go s2

/-- The tile-store lanes of a scatter that has been confirmed are written (R326, R430). -/
def State.nearLanes (s : State) (t : TileId) (k : SlotId) (op : Nat) : State :=
  match (s.slot t k).opOf op with
  | none => s
  | some o =>
    let s1 := (o.pieces.filter fun p => clsAt p.addr == .store).foldl (fun s p =>
      s.modTile t fun y => y.storeWrite p.addr (bitsAt o.data (8 * p.pos) (8 * p.size)) p.size) s
    s1.modSlot t k fun x => x.setOp { o with pieces := o.pieces.filter fun p => clsAt p.addr != .store }

/-- `ldacq` (R328). -/
def execLdacq (h : Hdr) (sz : Size) (sco : Scope) (d : G) (m : MemRef) (s : State) : Host.Outcome State Fault Refusal :=
  s.issue h { reads := memCodes m, writes := [rG d], deep := memCodes m, mem := true } fun s =>
    match s.loadEff h .acq (.acq sco) (s.me.ea m).toNat (Size.bytes sz) [destOf (rG d) 0 (8 * Size.bytes sz) false] [] with
    | .go s1 => .go (if clsAt (s.me.ea m).toNat = .store ∧ scopeWide sco then s1.updTile fun t => t.l1Clear (coreOf s.cur.2) else s1)
    | e => e

/-- `strel` (R328). -/
def execStrel (h : Hdr) (sz : Size) (sco : Scope) (m : MemRef) (d : G) (s : State) : Host.Outcome State Fault Refusal :=
  s.issue h { reads := rG d :: memCodes m, deep := memCodes m, mem := true } fun s =>
    s.storeEff h .rel (.rel sco) (s.me.ea m).toNat (Size.bytes sz) ((s.me.gr d).toNat % 2 ^ (8 * Size.bytes sz)) []

/-! ## Class 0x0C -/

/-- A wait to zero orders every later event after the host accesses that its counter counted (R302, R332). -/
def Slot.waited (x : Slot) (counted : HostAccess → Bool) : Slot :=
  { x with hostOrd := { x.hostOrd with all := x.hostOrd.all || x.hostOrd.seen.any counted } }

/-- `waitc.l` (R332). -/
def execWaitcL (h : Hdr) (n : BitVec 16) (s : State) : Host.Outcome State Fault Refusal :=
  s.issue h {} fun s =>
    let s1 := if n = 0 then s.upd (Slot.waited · (·.cntL)) else s
    if s.me.cntl.toNat ≤ n.toNat then .go s1 else .park s1 (.count false n.toNat)

/-- `waitc.s` (R332). -/
def execWaitcS (h : Hdr) (n : BitVec 16) (s : State) : Host.Outcome State Fault Refusal :=
  s.issue h {} fun s =>
    let s1 := if n = 0 then s.upd (Slot.waited · (·.cntS)) else s
    if s.me.cnts.toNat ≤ n.toNat then .go s1 else .park s1 (.count true n.toNat)

/-- `mwait` (R333): its reads are the events MWAIT_POLL. A host stamp is a host access, whose translation is found first (R269,
R430). -/
def execMwait (h : Hdr) (d : P) (a b c : G) (s : State) : Host.Outcome State Fault Refusal :=
  s.issue h { reads := [rG a, rG b, rG c], writes := [rP d], deep := [rG a], mem := true } fun s =>
    let v := s.me.gr a
    let wait (s : State) : Eff := .park s (.mwait d v (s.me.gr b) s.myTile.cycle (s.me.gr c).toNat h.cache)
    if v.toNat % 8 ≠ 0 then .trap cAlign 0 v
    else match s.myPart.classOf v.toNat 8 with
      | some .remote => .trap cProt 0 v
      | some .view => .trap cProt 0 v
      | none => .trap cProt 0 v
      | some .host => s.pageOk v.toNat
          (wait (s.addOp { Op.plain .probe with addr := v.toNat, size := 8, conf := false, far := [v.toNat] } false))
      | some cl => if !s.myPart.permits cl v.toNat 8 needR then .trap cProt 0 v else wait s

/-- Whether an mwait may read its stamp: no ldacq of the slot and no write of it to the stamp is outstanding (R302, R328), and a
host stamp's translation has been found. -/
def Slot.mwaitReady (x : Slot) (a : Nat) : Bool :=
  !x.acquiring && x.ops.all fun o => (o.kind != .probe || o.conf) && !(o.kind.writes && o.pieces.any fun p => p.meets { addr := a, size := 8, pos := 0 })

/-- What an mwait reads, never from L1, with its poison; none while the rate limiter holds back a host read. The hint acts as on a
load (R260), and no older copy of an HBM stamp stays in the core's L1 (R309). -/
def State.mwaitRead (s : State) (t : TileId) (k : SlotId) (a : Nat) (hint : CacheHint) (ext : Word) : Option (State × Nat × Bool) :=
  let tag := (s.tile t).tag.toNat
  match clsAt a with
  | .store => some (s, (s.tile t).storeRead a 8, (s.tile t).storeBad a 8)
  | .host => ((s.part tag).chargeRate false 8).map fun p =>
      let relaxed := (s.slot t k).ops.any fun o => o.kind == .probe && o.relaxed
      ((s.setPart tag p).emit (.hostLoad (s.hostFn tag) (a - hostBase) 8 relaxed), ext.toNat, false)
  | c => let (s1, v, b) := (s.modTile t fun y => y.l1Drop (coreOf k) a).tileRead t c a 8 hint
         some (s1, v, b != 0)

/-- The slot resumes from an mwait with p[D] written; a value that differs is an acquire at system scope (R333), and every later
event is ordered after a host stamp's read (R302). -/
def State.mwaitEnd (s : State) (t : TileId) (k : SlotId) (d : P) (r bad : Bool) : State :=
  let s1 := s.modSlot t k fun x =>
    let host := x.ops.any fun o => o.kind == .probe
    let y := { x.pw d r with park := .none, ops := (x.pw d r).ops.filter fun o => o.kind != .probe,
                             hostOrd := { x.hostOrd with all := x.hostOrd.all || (host && r) } }
    if bad && d != 0 then { y with bad := rP d :: y.bad } else y
  if r then s1.modTile t fun y => y.l1Clear (coreOf k) else s1

/-- An mwait with what it has read: a poisoned stamp ends it with p[D] false and poisoned (R428, log 71). -/
def State.mwaitTest (s : State) (t : TileId) (k : SlotId) (d : P) (w : Word) (last : Bool) (v : Nat) (bad : Bool) : State :=
  if bad then s.mwaitEnd t k d false true
  else if v ≠ w.toNat then s.mwaitEnd t k d true false
  else if last then s.mwaitEnd t k d false false
  else s

/-- A read of an mwait: one that its home slice refuses ends the wait with the protection trap and p[D] as it was (R396). -/
def State.mwaitGo (s : State) (t : TileId) (k : SlotId) (d : P) (a w : Word) (hint : CacheHint) (last : Bool) (ext : Word) : State :=
  if s.refuses (s.tile t).tag.toNat a.toNat 8 then
    (s.modSlot t k fun x => { x with park := .none }).deferTrap t k cProt 0 a
  else match s.mwaitRead t k a.toNat hint ext with
    | none => s
    | some (s1, v, bad) => s1.mwaitTest t k d w last v bad

/-- MWAIT_POLL (R333): a read of the stamp. -/
def execMwaitPoll (t : TileId) (k : SlotId) (ext : Word) (s : State) : Host.Outcome State Fault Refusal :=
  s.happenAt t fun s => match (s.slot t k).park with
    | .mwait d a w t0 lim hint =>
      if !(s.slot t k).mwaitReady a.toNat then s
      else s.mwaitGo t k d a w hint (decide (lim ≤ (s.tile t).cycle - t0)) ext
    | _ => s

/-- MWAIT_LIMIT_EXPIRY (R333): in the cycle of the limit a read that differs still gives true. What a host stamp's last read brings
is the host's to say: a free choice here, where MWAIT_POLL carries it. -/
def execMwaitLimitExpiry (t : TileId) (k : SlotId) (s : State) : Host.Outcome State Fault Refusal :=
  s.happenAt t fun s => match (s.slot t k).park with
    | .mwait d a w t0 lim hint =>
      if (s.tile t).cycle - t0 < lim || !(s.slot t k).mwaitReady a.toNat then s
      else if clsAt a.toNat = .host then
        (let (s1, same) := s.flip
         s1.mwaitGo t k d a w hint true (if same then w else w + 1))
      else s.mwaitGo t k d a w hint true w
    | _ => s

/-! ## Classes 0x0D and 0x0E: issue (R334) -/

/-- An atomic is one piece (R310, R337). -/
def State.atomPieces (s : State) (c : Cls) (a n : Nat) : List Piece :=
  match c with
  | .remote => [s.placed s.myTag { addr := a, size := n, pos := 0 }]
  | _ => [{ addr := a, size := n, pos := 0 }]

/-- An atomic issues: checks, the sector of L1 it invalidates, its operation (R334, R259). -/
def State.atomEff (s : State) (h : Hdr) (hostOk : Bool) (kind : OpKind) (v : Word) (n : Nat) (ds : List Dest) : Eff :=
  let a := v.toNat
  match checkAccess s s.myPart (.amo hostOk) a n with
  | .error c => .trap c 0 v
  | .ok c => s.farAccess c a n fun s1 =>
    let s2 := s1.updTile fun t => t.l1Drop (coreOf s.cur.2) a
    let s3 := if s2.aheadMiss c a { rd := true, w := true } then s2.aheadPage a else s2
    let ahead := s.me.ahead
    let s4 := if ahead then s3.upd fun x => x.markAll (ds.map (·.code)) else s3
    let s5 := s4.addOp { Op.plain kind with addr := a, size := n, pieces := s1.atomPieces c a n,
                                            dests := if ahead then ds.map fun d => { d with code := rNone } else ds,
                                            cntL := !ds.isEmpty, cntS := ds.isEmpty,
                                            conf := !c.isFar || ahead, far := if c.isFar then [a] else [], hint := h.cache } true
    .go (s5.upd fun x => match kind with | .amof _ _ _ _ => { x with fseq := x.fseq + 1 } | _ => x)

/-- An integer atomic of 32 or 64 bits (R335). -/
def State.amo (s : State) (h : Hdr) (o : AmoOp) (w : AmoW) (n : Bool) (a d b : G) (c : Option G) : Host.Outcome State Fault Refusal :=
  let pair := w == .b128
  let regs (g : G) : List Nat := if pair then [rG g, rG (g + 1)] else [rG g]
  let bytes := match w with | .b32 => 4 | .b64 => 8 | .b128 => 16
  s.issue h { reads := rG a :: (regs b ++ (match c with | some c => regs c | none => [])),
              writes := if n then [] else regs d, deep := [rG a], mem := true } fun s =>
    let val (g : G) : Nat := if pair then (s.me.gr (g + 1)).toNat * 2 ^ 64 + (s.me.gr g).toNat else (s.me.gr g).toNat % 2 ^ (8 * bytes)
    let ds := if n then [] else if pair then [destOf (rG d) 0 64 false, destOf (rG (d + 1)) 64 64 false] else [destOf (rG d) 0 (8 * bytes) false]
    s.atomEff h (!pair && (o == .add || o == .swp || o == .cas)) (.amo o w (val b) (match c with | some c => val c | none => 0))
      (s.me.gr a) bytes ds

/-- `amoadd` (R335). -/
def execAmoadd (h : Hdr) (w : AmoW) (n : Bool) (a d b : G) (s : State) : Host.Outcome State Fault Refusal := s.amo h .add w n a d b none
/-- `amoand` (R335). -/
def execAmoand (h : Hdr) (w : AmoW) (n : Bool) (a d b : G) (s : State) : Host.Outcome State Fault Refusal := s.amo h .and w n a d b none
/-- `amoor` (R335). -/
def execAmoor (h : Hdr) (w : AmoW) (n : Bool) (a d b : G) (s : State) : Host.Outcome State Fault Refusal := s.amo h .or w n a d b none
/-- `amoxor` (R335). -/
def execAmoxor (h : Hdr) (w : AmoW) (n : Bool) (a d b : G) (s : State) : Host.Outcome State Fault Refusal := s.amo h .xor w n a d b none
/-- `amomin` (R335). -/
def execAmomin (h : Hdr) (w : AmoW) (n : Bool) (a d b : G) (s : State) : Host.Outcome State Fault Refusal := s.amo h .min w n a d b none
/-- `amomax` (R335). -/
def execAmomax (h : Hdr) (w : AmoW) (n : Bool) (a d b : G) (s : State) : Host.Outcome State Fault Refusal := s.amo h .max w n a d b none
/-- `amominz` (R335). -/
def execAmominz (h : Hdr) (w : AmoW) (n : Bool) (a d b : G) (s : State) : Host.Outcome State Fault Refusal := s.amo h .minz w n a d b none
/-- `amomaxz` (R335). -/
def execAmomaxz (h : Hdr) (w : AmoW) (n : Bool) (a d b : G) (s : State) : Host.Outcome State Fault Refusal := s.amo h .maxz w n a d b none
/-- `amoswp` (R335). -/
def execAmoswp (h : Hdr) (w : AmoW) (n : Bool) (a d b : G) (s : State) : Host.Outcome State Fault Refusal := s.amo h .swp w n a d b none
/-- `amocas` (R335, R336). -/
def execAmocas (h : Hdr) (w : AmoW) (n : Bool) (a d b c : G) (s : State) : Host.Outcome State Fault Refusal := s.amo h .cas w n a d b (some c)

/-- A floating-point atomic (R337). -/
def State.amof (s : State) (h : Hdr) (o : AmofOp) (t : AmoF) (n : Bool) (a : G) (d b : GF) : Host.Outcome State Fault Refusal :=
  s.issue h { reads := [rG a, rGF b], writes := if n then [] else [rGF d], deep := [rG a], mem := true } fun s =>
    s.atomEff h false (.amof o t ((s.me.gfr b).toNat % 2 ^ (8 * amofSize t)) s.me.fseq) (s.me.gr a) (amofSize t)
      (if n then [] else [destOf (rGF d) 0 (8 * amofSize t) false])

/-- `amofadd` (R337). -/
def execAmofadd (h : Hdr) (t : AmoF) (n : Bool) (a : G) (d b : GF) (s : State) : Host.Outcome State Fault Refusal := s.amof h .add t n a d b
/-- `amofmin` (R337). -/
def execAmofmin (h : Hdr) (t : AmoF) (n : Bool) (a : G) (d b : GF) (s : State) : Host.Outcome State Fault Refusal := s.amof h .min t n a d b
/-- `amofmax` (R337). -/
def execAmofmax (h : Hdr) (t : AmoF) (n : Bool) (a : G) (d b : GF) (s : State) : Host.Outcome State Fault Refusal := s.amof h .max t n a d b

/-! ## Atomics at their homes (R310, R316) -/

/-- The number of an atomic in a request, its operand and its compared value. -/
def OpKind.atom : OpKind → Nat × Nat × Nat
  | .amo o _ b c => (o.code, b, c)
  | .amof o t b _ => (amofCode o t, b, 0)
  | _ => (0, 0, 0)

/-- The old value comes back, or the counter is lowered. -/
def State.atomDone (s : State) (t : TileId) (k : SlotId) (o : Op) (old : Nat) (bad : Bool) : State :=
  if o.dests.isEmpty then
    let s1 := s.modSlot t k fun x => x.dropOp o
    if bad then s1.deferTrap t k cSoft 0 (w64 o.addr) else s1
  else s.modSlot t k fun x => x.setOp { o with pieces := [], data := old, bad, ready := true, performed := true }

/-- Applies an atomic as one read-modify-write; a poisoned target is left alone, and so is a view address that no region holds
any more (R165, R310, R428). `log` records one that is applied (R340). -/
def State.atomApply (s : State) (t : TileId) (k : SlotId) (o : Op) (ext : Nat) (log : State → State := id) : State :=
  let tag := (s.tile t).tag.toNat
  let (op, b, c) := o.kind.atom
  let sent := o.pieces.any (·.sent)
  let answer (r : State × Option (Nat × Nat)) : State :=
    match r with
    | (s1, none) => s1.modSlot t k fun x => x.setOp { o with pieces := o.pieces.map fun p => { p with sent := true } }
    | (s1, some (v, st)) => if st ≥ 2 then s1.failOp t k o st o.addr else (if st = 0 then log s1 else s1).atomDone t k o v (st == 1)
  match clsAt o.addr with
  | .host => answer (s.hostAsk sent (.hostAtomic (s.hostFn tag) (o.addr - hostBase) o.size op b c o.relaxed) o.size ext)
  | .remote => answer ((o.pieces.foldl (fun s p => s.aliasDrop t k p) s).remoteAsk t sent { kind := .amo, addr := o.addr, size := o.size, data := b, op, cmp := c } ext)
  | cl =>
    if s.refuses tag o.addr o.size then s.failOp t k o 2 o.addr
    else
      let (s1, old, bad) := s.homeLook tag cl o.addr o.size o.hint
      if bad != 0 then s1.atomDone t k o 0 true
      else ((log s1).homePut tag (dieOf t) cl o.addr (atomicNew op o.size old b c) o.size o.hint).atomDone t k o old false

/-! ## The order log (R338 to R341) -/

/-- The slice that homes a line, by its number in the partition (R339). -/
def Part.sliceOf (p : Part) (a : Nat) : Nat :=
  let h := p.homeAddr a
  4 * (h / 65536 % p.pgroups) + (bitsAt h 8 2 ^^^ bitsAt h 12 2)

def Part.ordMode (p : Part) : Nat := bitsAt p.ordctl.toNat 0 2
def Part.segSize (p : Part) : Nat := 2 ^ bitsAt p.ordseg.toNat 0 5
def Part.segment (p : Part) (sl : Nat) : Nat := bitsAt p.ordbase.toNat 16 23 * 2 ^ 16 + sl * p.segSize

/-- Where in its own partition's memory an atomic is applied, whose slice records or holds it (R339 to R341): through a remote
address that names this module too (R256). None for the host's, another module's or another partition's memory, since a record names
an atomic issued by a slot of the partition. -/
def Op.ordHome (o : Op) : Option Nat :=
  match clsAt o.addr with
  | .hbm | .view => some o.addr
  | .remote => (match o.pieces.head?.bind (·.home) with
    | some h => if h < 2 ^ 39 then some h else none
    | none => none)
  | _ => none

/-- The record of a floating-point atomic. -/
def State.ordRecord (s : State) (t : TileId) (k : SlotId) (a seq : Nat) : Nat :=
  let x := s.tile t
  let tag := x.tag.toNat
  let graph := match x.launch with | some e => (match s.launch tag e with | some l => l.graph | none => 0) | none => 0
  graph % 4096 * 2 ^ 48 + bitsAt a 8 40 * 2 ^ 8 + ((s.part tag).logical t * 2 ^ 48 + k.val * 2 ^ 43 + seq % 2 ^ 40) * 2 ^ 64

/-- Appends a record in record mode; a segment that is full sets FULL and takes nothing more (R340). -/
def State.ordAppend (s : State) (tag sl rec : Nat) : State :=
  let p := s.part tag
  let n := mapGet 0 p.logCount sl
  if n < p.segSize / 16 - 1 then
    ((s.partWrite tag (p.segment sl + 16 + 16 * n) rec 16).partWrite tag (p.segment sl) (n + 1) 8).modPart tag fun q =>
      { q with logCount := mapSet q.logCount sl (n + 1), ordctl := if n + 1 = p.segSize / 16 - 1 then q.ordctl ||| 4 else q.ordctl }
  else s

/-- The unmatched records of a line in a slice's segment, in order. -/
def State.replayList (s : State) (tag sl a : Nat) : List (Nat × Nat) :=
  let p := s.part tag
  let n := Nat.min (s.partRead tag (p.segment sl) 8) (p.segSize / 16 - 1)
  let m := mapGet [] p.logMatched sl
  ((natsFrom 0 n).map fun i => (i, s.partRead tag (p.segment sl + 16 + 16 * i) 16)).filter fun r =>
    bitsAt r.2 8 40 == bitsAt a 8 40 && !m.contains r.1

def State.diverged (s : State) (tag : Nat) : State := s.modPart tag fun q => { q with ordctl := q.ordctl ||| 8 }

/-- Marks a record matched. -/
def State.ordMatch (s : State) (tag sl i : Nat) : State :=
  s.modPart tag fun q => { q with logMatched := mapSet q.logMatched sl (i :: mapGet [] q.logMatched sl) }

/-- Whether a record is the atomic's: equal but for the fields that are zero. -/
def recordIs (r mine : Nat) : Bool := bitsAt r 48 12 == bitsAt mine 48 12 && bitsAt r 107 21 == bitsAt mine 107 21 && bitsAt r 64 40 == bitsAt mine 64 40

/-- A floating-point atomic arrives at its slice in replay mode (R341), for the address `a` of its partition's memory. -/
def State.replayArrive (s : State) (t : TileId) (k : SlotId) (o : Op) (a seq ext : Nat) : State :=
  let tag := (s.tile t).tag.toNat
  let p := s.part tag
  let sl := p.sliceOf a
  let mine := s.ordRecord t k a seq
  match s.replayList tag sl a with
  | [] => (s.diverged tag).atomApply t k o ext
  | r :: l =>
    if recordIs r.2 mine then (s.ordMatch tag sl r.1).atomApply t k o ext
    else if l.any fun q => recordIs q.2 mine then
      s.modPart tag fun q => { q with logHeld := q.logHeld ++ [(sl, t, k, o.id, s.time.tai + Nat.max 1 (bitsAt p.ordctl.toNat 32 32) * 1000)] }
    else (s.diverged tag).atomApply t k o ext

/-- Whether an atomic is held by a slice. -/
def Part.holding (p : Part) (t : TileId) (k : SlotId) (op : Nat) : Option (Nat × Nat) :=
  (p.logHeld.find? fun h => h.2.1 == t && h.2.2.1 == k && h.2.2.2.1 == op).map fun h => (h.1, h.2.2.2.2)

def State.unhold (s : State) (tag : Nat) (t : TileId) (k : SlotId) (op : Nat) : State :=
  s.modPart tag fun q => { q with logHeld := q.logHeld.filter fun h => !(h.2.1 == t && h.2.2.1 == k && h.2.2.2.1 == op) }

/-- ATOMIC_PERFORM (R316, R340, R341): an atomic arrives at its home and is applied, logged in record mode. -/
def execAtomicPerform (t : TileId) (k : SlotId) (op : Nat) (ext : Nat) (s : State) : Host.Outcome State Fault Refusal :=
  s.happenAt t fun s => match (s.slot t k).opOf op with
    | none => s
    | some o => match o.pieces with
      | [pc] =>
        let tag := (s.tile t).tag.toNat
        let p := s.part tag
        if (s.slot t k).sendable o 0 pc ∧ (p.holding t k op).isNone then
          match o.kind with
          | .amo _ _ _ _ => s.atomApply t k o ext
          | .amof _ _ _ seq =>
            match o.ordHome with
            | none => s.atomApply t k o ext
            | some a =>
              let sl := p.sliceOf a
              if p.ordMode = 1 then s.atomApply t k o ext fun s => s.ordAppend tag sl (s.ordRecord t k a seq)
              else if p.ordMode = 2 ∧ p.logLeft.contains sl = false then s.replayArrive t k o a seq ext
              else s.atomApply t k o ext
          | _ => s
        else s
      | _ => s

/-- REPLAY_HOLD_RELEASE (R341): every earlier record of the line has been matched. -/
def execReplayHoldRelease (t : TileId) (k : SlotId) (op : Nat) (s : State) : Host.Outcome State Fault Refusal :=
  s.happenAt t fun s =>
    let tag := (s.tile t).tag.toNat
    match (s.slot t k).opOf op, (s.part tag).holding t k op with
    | some o, some (sl, _) => (match o.kind, s.replayList tag sl (o.ordHome.getD o.addr) with
      | .amof _ _ _ seq, r :: _ =>
        if recordIs r.2 (s.ordRecord t k (o.ordHome.getD o.addr) seq) then ((s.unhold tag t k op).ordMatch tag sl r.1).atomApply t k o 0 else s
      | _, _ => s)
    | _, _ => s

/-- REPLAY_TIMEOUT (R341): the slice leaves replay and applies what it held in arrival order. -/
def execReplayTimeout (t : TileId) (k : SlotId) (op : Nat) (s : State) : Host.Outcome State Fault Refusal :=
  s.happenAt t fun s =>
    let tag := (s.tile t).tag.toNat
    match (s.part tag).holding t k op with
    | none => s
    | some (sl, due) =>
      if s.time.tai < due then s
      else
        let mine := (s.part tag).logHeld.filter fun h => h.1 = sl
        let s1 := (s.diverged tag).modPart tag fun q => { q with logLeft := sl :: q.logLeft, logHeld := q.logHeld.filter fun h => h.1 ≠ sl }
        mine.foldl (fun s h => match (s.slot h.2.1 h.2.2.1).opOf h.2.2.2.1 with
          | some o => s.atomApply h.2.1 h.2.2.1 o 0
          | none => s) s1

end Sys2Proof.Machine
end

