-- ==== Sys2Proof/Machine/Streams.lean ====
section
/-!
DEFINITION. The range-overlap scoreboard (R350, R351); stream bindings (R199 to R206); class 0x09, streams (R207 to
R210), and class 0x08, masks (R198).
-/
namespace Sys2Proof.Machine

/-! ## The scoreboard (R350) -/

/-- Whether two ranges of window addresses share a 64-byte chunk of the store. -/
def chunksMeet (a n b m : Nat) : Bool :=
  if n = 0 || m = 0 then false
  else if decide (a < swzBase) == decide (b < swzBase) then overlap (a / 64) ((a + n - 1) / 64 + 1 - a / 64) (b / 64) ((b + m - 1) / 64 + 1 - b / 64)
  else (chunksOf b m).any (chunksOf a n).contains

/-- The address of chunk o of the store in the window that an address lies in (R242). -/
def chunkNear (a o : Nat) : Nat := if a < swzBase then linBase + 64 * o else swzBase + ((64 * o) ^^^ ((o / 32 % 32) * 64))

/-- Whether a range touches chunk o. -/
def coversChunk (r : Nat × Nat) (o : Nat) : Bool := overlap r.1 r.2 (chunkNear r.1 o) 64

/-- Whether rows of `rb` bytes, `stride` apart from `base`, touch n bytes from a from their byte `done` on in copy order. -/
def rowsTouch (base stride rb nr done a n : Nat) : Bool :=
  let r0 := done / rb
  let hi := Nat.min (nr - 1) ((a + n - 1 - base) / stride)
  let lo := if a < base + rb then 0 else (a - base - rb) / stride + 1
  decide (done < nr * rb ∧ base < a + n) &&
    (decide (Nat.max lo (r0 + 1) ≤ hi) ||
      decide (lo ≤ r0 ∧ r0 ≤ hi ∧ base + r0 * stride + done % rb < a + n ∧ a < base + r0 * stride + rb))

/-- Whether a command has still to access chunk o of the store. -/
def Job.touches (j : Job) (o : Nat) : Bool :=
  let hit (base stride rb nr done : Nat) : Bool := rowsTouch base stride rb nr done (chunkNear base o) 64
  let rows (r : Rows) : Bool := hit r.src r.ss r.rb r.nr (j.done + j.got) || hit r.dst r.ds r.rb r.nr j.done
  let stamp (st : Option (Nat × Scope)) : Bool := match st with | some (a, _) => coversChunk (a, 8) o | none => false
  match j.cmd, j.link with
  | .rows r, _ => rows r || stamp j.stamp
  | .blocks dst table _ nblk rb brows _, _ =>
    let n := nblk * brows * rb
    hit table 4 4 nblk (4 * j.idxs.length) || hit dst n n 1 j.done ||
      hit (dst + ceilDiv n 64 * 64) 8 8 (ceilDiv (nblk * brows) 64) (j.done - n) || stamp j.stamp
  | .chain _, some l => rows l.rows || stamp l.stamp
  | .chain _, none => false

/-- The command that a scoreboard entry belongs to, if it is a copy's. -/
def Tile.boardJob (t : Tile) (id : Nat) : Option Job :=
  (t.channels.toList.map fun c => c.cur.toList ++ c.queue).flatten.find? fun j => j.board == id

/-- Whether the operation of an entry has still to access chunk o: a copy, what it has not moved; a matrix operation, what it has
not read early. -/
def Tile.boardLeft (t : Tile) (x : Board) (o : Nat) : Bool :=
  (x.rd ++ x.wr).any (fun r => coversChunk r o) && (match t.boardJob x.id with | some j => j.touches o | none => !x.got.contains o)

/-- Whether an earlier entry holds back an access to chunk o, which `writes` says the accessing operation writes: it has still to
access the chunk, and one of the two writes it (R350). -/
def Tile.chunkHeld (t : Tile) (x : Board) (o : Nat) (writes : Bool) : Bool :=
  (x.wr.any (fun r => coversChunk r o) || (writes && x.rd.any fun r => coversChunk r o)) && t.boardLeft x o

/-- Whether no earlier entry holds back an access of entry `id` to n bytes from a; 0 names no entry, and bytes outside the store
have no chunk. -/
def Tile.accessFree (t : Tile) (id a n : Nat) : Bool :=
  match t.board.find? fun b => b.id == id with
  | none => true
  | some y => (chunksOf a n).all fun o =>
    t.board.all fun x => decide (y.id ≤ x.id) || !t.chunkHeld x o (y.wr.any fun r => coversChunk r o)

/-- Whether no earlier entry holds back any access of entry `id`. -/
def Tile.boardFree (t : Tile) (id : Nat) : Bool :=
  match t.board.find? fun b => b.id == id with
  | none => true
  | some y => (y.rd ++ y.wr).all fun r => t.accessFree id r.1 r.2

/-- Whether the scoreboard holds back a stream's access to its element (R205). -/
def Tile.streamHeld (t : Tile) (a n : Nat) (write : Bool) : Bool :=
  (chunksOf a n).any fun o => t.board.any fun x => t.chunkHeld x o write

def Tile.retire (t : Tile) (id : Nat) : Tile := { t with board := t.board.filter fun b => b.id ≠ id }

/-- Whether the scoreboard has a place for an operation with ranges (R351). -/
def Tile.boardFull (t : Tile) (rd wr : List (Nat × Nat)) : Bool := !(rd.isEmpty && wr.isEmpty) && decide (t.board.length ≥ 64)

/-- Enters an operation's tile-store ranges for a tile; the entry's number, 0 where it has none. -/
def State.enterBoard (s : State) (t : TileId) (rd wr : List (Nat × Nat)) : State × Nat :=
  if rd.isEmpty && wr.isEmpty then (s, 0)
  else
    let (s1, id) := s.fresh
    (s1.modTile t fun x => { x with board := x.board ++ [{ id, rd, wr, got := [] }] }, id)

/-! ## Bindings (R199 to R201) -/

/-- T. -/
def Binding.total (b : Binding) : Nat := b.b0 * b.b1 * b.b2

/-- addr(e) (R199). -/
def Binding.addr (b : Binding) (e : Nat) : Nat :=
  ((b.base : Int) + (e % b.b0 : Nat) * b.s0 + (e / b.b0 % b.b1 : Nat) * b.s1 + (e / (b.b0 * b.b1) : Nat) * b.s2).toNat

/-- Lowest and highest element addresses. -/
def Binding.lowest (b : Binding) : Int :=
  (b.base : Int) + min 0 (((b.b0 : Int) - 1) * b.s0) + min 0 (((b.b1 : Int) - 1) * b.s1) + min 0 (((b.b2 : Int) - 1) * b.s2)
def Binding.highest (b : Binding) : Int :=
  (b.base : Int) + max 0 (((b.b0 : Int) - 1) * b.s0) + max 0 (((b.b1 : Int) - 1) * b.s1) + max 0 (((b.b2 : Int) - 1) * b.s2)

/-- The limits of R199. -/
def Binding.ok (b : Binding) : Bool :=
  let okB (n : Nat) : Bool := 1 ≤ n && n ≤ 2 ^ 24
  let okS (i : Int) : Bool := i % 64 == 0 && -(2 ^ 21) ≤ i && i ≤ 2 ^ 21
  let win : Nat := if b.base < swzBase then linBase else swzBase
  inAnyWindow b.base && b.base % 64 == 0 && okB b.b0 && okB b.b1 && okB b.b2 && okS b.s0 && okS b.s1 && okS b.s2 &&
    b.total ≤ 2 ^ 28 && (win : Int) ≤ b.lowest && b.highest + 127 < ((win + storeSize : Nat) : Int)

/-- A binding read from the 32 bytes of a descriptor. -/
def Binding.ofBytes (d : Nat) : Binding :=
  { base := bitsAt d 0 64, b0 := bitsAt d 64 32, s0 := sval 32 (bitsAt d 96 32), b1 := bitsAt d 128 32,
    s1 := sval 32 (bitsAt d 160 32), b2 := bitsAt d 192 32, s2 := sval 32 (bitsAt d 224 32), rcur := 0, wcur := 0,
    under := false, overrun := false }

def Slot.binding (x : Slot) (n : Nat) : Option Binding := x.streams[n % 8]'(Nat.mod_lt _ (by decide))
def Slot.setBinding (x : Slot) (n : Nat) (b : Option Binding) : Slot :=
  { x with streams := x.streams.set (n % 8) b (Nat.mod_lt _ (by decide)) }

/-- The binding that a v register stands for, if it is bound. -/
def Slot.streamOf (x : Slot) (v : V) : Option Binding := if v.toNat < 8 then x.binding v.toNat else none

/-- A pop: the read cursor moves on, or UNDER is set (R200, R201). -/
def Binding.pop (b : Binding) : Binding := if b.rcur < b.total then { b with rcur := b.rcur + 1 } else { b with under := true }
def Binding.push (b : Binding) : Binding := if b.wcur < b.total then { b with wcur := b.wcur + 1 } else { b with overrun := true }

/-! ## Streams, class 0x09 -/

/-- `sbind` (R207). -/
def execSbind (h : Hdr) (d : BitVec 3) (a : G) (s : State) : Host.Outcome State Fault Refusal :=
  s.issue h { reads := [rG a], deep := [rG a], outside := true, streams := true } fun s =>
    let v := s.me.gr a
    let n := v.toNat
    if n % 32 ≠ 0 then .trap cAlign 0 v
    else if s.myPart.extent < n + 32 ∨ s.myPart.grants n 32 needR = false then .trap cProt 0 v
    else if s.wordsRefused s.cur.1 (coreOf s.cur.2) n 8 then .trap cProt 0 v
    else
      let (s1, w) := s.fetchWords s.cur.1 (coreOf s.cur.2) n 8
      let b := Binding.ofBytes w
      if !b.ok then .trapIn s1 cProt 0 v
      else .go (s1.upd fun x => (x.vw (d.setWidth 5) 0).setBinding d.toNat (some b))

/-- `sfree` (R208). -/
def execSfree (h : Hdr) (d : BitVec 3) (s : State) : Host.Outcome State Fault Refusal :=
  s.issue h { outside := true, streams := true } fun s =>
    match s.me.binding d.toNat with
    | none => .go s
    | some _ => .go (s.upd fun x => (x.vw (d.setWidth 5) 0).setBinding d.toNat none)

/-- `sstat` (R209). -/
def execSstat (h : Hdr) (d : G) (a : BitVec 3) (s : State) : Host.Outcome State Fault Refusal :=
  s.issue h { writes := [rG d], streams := true } fun s =>
    let v : Nat := match s.me.binding a.toNat with
      | none => 0
      | some b => 2 ^ 63 + bool01 b.under * 2 ^ 62 + bool01 b.overrun * 2 ^ 61 + b.wcur * 2 ^ 29 + b.rcur
    .go (s.upd fun x => x.gw d (w64 v))

/-- The repetitions of R210: the least of what the streams that the fields of Q name have left; none for an instruction
of another class or with no bound register. -/
def Slot.repeats (x : Slot) (q : Instr) : Option Nat :=
  match q.raw with
  | none => none
  | some r => match rowOf r.cls r.fn with
    | none => none
    | some w =>
      if r.cls ≠ 7 then none
      else
        let left (src : Bool) (c : Nat) : Option Nat :=
          if x.boundAt c then (x.binding (c - 64)).map fun b => b.total - (if src then b.rcur else b.wcur) else none
        minOf ((opCodes w.a r.a ++ opCodes w.b r.b ++ opCodes w.c r.c).filterMap (left true) ++ (opCodes w.d r.d).filterMap (left false))

/-- `srep` (R210): its own turn, after which the repetitions are to be counted. A waived trap cause and a retry are those of
the repetition that trapped. -/
def execSrep (h : Hdr) (s : State) : Host.Outcome State Fault Refusal :=
  s.issue h {} fun s =>
    .own (s.upd fun x => s.me.order ({ x with srep := some 0 }.hints h s.me.longs s.serial) h {} false).countAhead

/-- The repetitions are counted once the srep's own marker and hint are done, just before the slot issues again (R210). Where Q
is not repeated it is the next instruction; n = 0 skips it. A word that is no instruction traps as it is issued. -/
def State.countReps (s : State) : State :=
  match s.me.srep with
  | some 0 =>
    let q := s.me.pc + 12
    let once (s : State) (pc : Word) : State := s.upd fun x => { x with srep := none, pc, waive := none, retry := none }
    if (fetchFault s.myPart q.toNat).isSome || s.fetchRefused s.cur.1 (coreOf s.cur.2) q.toNat then once s q
    else (match s.fetchInsn s.cur.1 s.cur.2 q with
      | (s1, .illegal _ _) => once s1 q
      | (s1, .ok i) => match s1.me.repeats i with
        | none => once s1 q
        | some 0 => once s1 (q + 12)
        | some n => s1.upd fun x => { x with srep := some n })
  | _ => s

/-! ## Masks, class 0x08 -/

/-- An operation on masks (R198). -/
def State.maskOp (s : State) (h : Hdr) (d : K) (src : List K) (f : Slot → Word) : Host.Outcome State Fault Refusal :=
  s.issue h { reads := src.map rK, writes := [rK d] } fun s => .go (s.upd fun x => x.kw d (f x))

/-- `kand` (R198). -/
def execKand (h : Hdr) (d a b : K) (s : State) : Host.Outcome State Fault Refusal :=
  s.maskOp h d [a, b] fun x => x.kr a &&& x.kr b

/-- `kor` (R198). -/
def execKor (h : Hdr) (d a b : K) (s : State) : Host.Outcome State Fault Refusal :=
  s.maskOp h d [a, b] fun x => x.kr a ||| x.kr b

/-- `knot` (R198). -/
def execKnot (h : Hdr) (d a : K) (s : State) : Host.Outcome State Fault Refusal :=
  s.maskOp h d [a] fun x => ~~~(x.kr a)

/-- The number of one bits of a word. -/
def onesOf (x : Nat) : Nat := (natsFrom 0 64).countP (bitAt x)

/-- `kpop` (R198). -/
def execKpop (h : Hdr) (d : G) (a : K) (s : State) : Host.Outcome State Fault Refusal :=
  s.issue h { reads := [rK a], writes := [rG d] } fun s => .go (s.upd fun x => x.gw d (w64 (onesOf (x.kr a).toNat)))

end Sys2Proof.Machine
end

