-- ==== Sys2Proof/Machine/Copy.lean ====
section
/-!
DEFINITION. The copy engine: class 0x0F (R342 to R356), and the events of its channels: a command starts, a piece is read
or written, a stamp, a transfer record, a halt, the answer to a page request.
-/
namespace Sys2Proof.Machine

/-! ## Commands (R344, R353, R354) -/

/-- The rows of a command from g[A], g[D], g[B] and the strides (R353). -/
def Rows.of (src dst shape sstr dstr : Nat) : Rows :=
  let nr := bitsAt shape 32 16
  let rb := bitsAt shape 0 32
  { src, dst, nr := if nr = 0 then 1 else nr, rb, ss := if sstr = 0 then rb else 64 * sstr, ds := if dstr = 0 then rb else 64 * dstr }

def Rows.total (r : Rows) : Nat := r.nr * r.rb
def Rows.srcLen (r : Rows) : Nat := (r.nr - 1) * r.ss + r.rb
def Rows.dstLen (r : Rows) : Nat := (r.nr - 1) * r.ds + r.rb

/-- Destination rows and mask words of a block copy (R354). -/
def btRows (nblk brows : Nat) : Nat := nblk * brows
def btMasks (nblk brows : Nat) : Nat := ceilDiv (btRows nblk brows) 64

/-- Bytes of a command in copy order (R346). -/
def Cmd.total : Cmd → Nat
  | .rows r => r.total
  | .blocks _ _ _ nblk rb brows _ => btRows nblk brows * rb + 8 * btMasks nblk brows
  | .chain _ => 0

/-- Whether a whole range lies in one class that accepts it with the permission (R353). -/
def rangeOk (s : State) (p : Part) (a n need : Nat) : Bool :=
  match p.classOf a n with
  | none => false
  | some c => (if c = .remote then (p.link (remoteChip s a)).isSome else true) && p.permits c a n need

/-- A tile-store range as a scoreboard range. -/
def storeRange (a n : Nat) : List (Nat × Nat) := if inAnyWindow a then [(a, n)] else []

/-- The check of a stamp address: none, or the trap code (R353). -/
def stampFault (s : State) (p : Part) (a : Nat) : Option Nat :=
  if a % 8 ≠ 0 then some cAlign
  else match p.classOf a 8 with
    | some .view => some cProt
    | some .remote => some cProt
    | none => some cProt
    | some _ => if rangeOk s p a 8 needW then none else some cProt

/-- The check of a shape (R353). -/
def shapeOk (shape : Nat) : Bool :=
  let nr := bitsAt shape 32 16
  let rb := bitsAt shape 0 32
  bitsAt shape 48 16 == 0 && 1 ≤ rb && rb ≤ 2 ^ 31 && rb * (if nr = 0 then 1 else nr) ≤ 2 ^ 40

/-- The checks of R353 in their order: the trap code and TRAPVAL. -/
def rowsFault (s : State) (p : Part) (shape : Nat) (r : Rows) (stamp : Option Nat) : Option (Nat × Nat) :=
  if !shapeOk shape then some (cProt, shape)
  else if !rangeOk s p r.src r.srcLen needR then some (cProt, r.src)
  else if !rangeOk s p r.dst r.dstLen needW then some (cProt, r.dst)
  else match stamp with
    | none => none
    | some a => (stampFault s p a).map fun c => (c, a)

def stampRange (stamp : Option (Nat × Scope)) : List (Nat × Nat) :=
  match stamp with | some (a, _) => storeRange a 8 | none => []

/-- The tile-store ranges that a command reads and writes (R350). -/
def Cmd.ranges (c : Cmd) (stamp : Option (Nat × Scope)) : List (Nat × Nat) × List (Nat × Nat) :=
  match c with
  | .rows r => (storeRange r.src r.srcLen, storeRange r.dst r.dstLen ++ stampRange stamp)
  | .blocks dst table _ nblk rb brows _ =>
    let rows := ceilDiv (btRows nblk brows * rb) 64 * 64
    (storeRange table (4 * nblk), storeRange dst (rows + 8 * btMasks nblk brows) ++ stampRange stamp)
  | .chain _ => ([], [])

def Tile.channel (t : Tile) (ch : Fin 4) : Channel := t.channels[ch.val]
def Tile.setChannel (t : Tile) (ch : Fin 4) (c : Channel) : Tile := { t with channels := t.channels.set ch.val c }

/-- Copies of a channel that slots hold back until their accesses are confirmed (R430). -/
def Tile.heldCopies (t : Tile) (ch : Fin 4) : Nat :=
  (t.slots.toList.map fun x => x.ops.countP fun o => match o.kind with | .act (.copy c _ _) => c == ch | _ => false).sum

/-- Whether a channel has no room for another command (R343). -/
def Tile.queueFull (t : Tile) (ch : Fin 4) : Bool := decide (16 ≤ (t.channel ch).queue.length + t.heldCopies ch)

/-- A channel accepts a command: its bytes, and its place in the queue. -/
def State.acceptJob (s : State) (t : TileId) (ch : Fin 4) (j : Job) : State :=
  s.modTile t fun x => x.setChannel ch
    { x.channel ch with enq := (x.channel ch).enq + w64 j.cmd.total, queue := (x.channel ch).queue ++ [j] }

/-- The destination rows of a command that lie in host memory: its writes, where a copy issue counts as a store (R302, R319). -/
def Cmd.hostRows : Cmd → List Piece
  | .rows r => if clsAt r.dst = .host then (natsFrom 0 r.nr).map fun i => { addr := r.dst + i * r.ds, size := r.rb, pos := 0 } else []
  | _ => []

/-- Issue of a command (R343, R351, R430): a halted channel discards it. `regs` are the registers it reads. -/
def State.issueJob (s : State) (h : Hdr) (regs : List Nat) (ch : Fin 4) (cmd : Cmd) (stamp : Option (Nat × Scope)) : Eff :=
  let (rd, wr) := cmd.ranges stamp
  if (s.myTile.channel ch).halted then .go s
  else if s.myTile.queueFull ch then .wait (.queue ch)
  else if s.myTile.boardFull rd wr then .wait (.board rd wr)
  else
    let (s1, board) := s.enterBoard s.cur.1 rd wr
    let j : Job := { cmd, stamp, slot := s.cur.2, board, done := 0, link := none, got := 0, buf := 0, idxs := [], old := [],
                     after := (s.me.ops.filter (·.kind.isAcq)).map (·.id), hint := h.cache,
                     relaxed := !s.me.hostOrd.orders (rP h.gp :: regs) { Op.plain .store with pieces := cmd.hostRows }, hosted := false, asked := false }
    let s2 := if stamp.isSome then s1.addOp { Op.plain (.stamp ch) with cntS := true } true else s1
    if s.me.ra.isSome then .go (s2.addOp (Op.plain (.act (.copy ch j 0))) true) else .go (s2.acceptJob s.cur.1 ch j)

/-- `cpy` (R353). -/
def execCpy (h : Hdr) (ch : YZ) (st : Bool) (sco : Scope) (sstr dstr : BitVec 16) (d a b c : G) (s : State) :
    Host.Outcome State Fault Refusal :=
  let regs := [rG d, rG a, rG b] ++ (if st then [rG c] else [])
  s.issue h { reads := regs, deep := regs, mem := true } fun s =>
    let x := s.me
    let shape := (x.gr b).toNat
    let r := Rows.of (x.gr a).toNat (x.gr d).toNat shape sstr.toNat dstr.toNat
    let stamp := if st then some (x.gr c).toNat else none
    match rowsFault s s.myPart shape r stamp with
    | some (t, v) => .trap t 0 (w64 v)
    | none => s.issueJob h regs ⟨ch.toNat, ch.isLt⟩ (.rows r) (stamp.map fun a => (a, sco))

/-- Whether an address is of a class that a pool may lie in, by its bits alone (R255, R354): its bytes are checked block by block. -/
def poolClass (a : Nat) : Bool :=
  match clsAt a with
  | .hbm => true
  | .view => decide (2 ^ 40 ≤ a)
  | .host => decide (a < 2 ^ 50)
  | .remote => bitsAt a 60 3 == 0
  | .store => false

/-- The checks of R354 in their order. -/
def blocksFault (s : State) (p : Part) (geo dst table pool nblk : Nat) (stamp : Option Nat) : Option (Nat × Nat) :=
  let rb := bitsAt geo 0 16
  let brows := bitsAt geo 16 8
  let rows := ceilDiv (btRows nblk brows * rb) 64 * 64
  if rb = 0 ∨ brows = 0 ∨ bitsAt geo 24 8 ≠ 0 ∨ bitsAt geo 48 16 ≠ 0 then some (cProt, geo)
  else if !inAnyWindow dst then some (cProt, dst)
  else if dst % 64 ≠ 0 then some (cAlign, dst)
  else if !inWindow dst (rows + 8 * btMasks nblk brows) then some (cProt, dst)
  else if !(inAnyWindow table || p.classOf table 1 == some .hbm) then some (cProt, table)
  else if table % 4 ≠ 0 then some (cAlign, table)
  else if !rangeOk s p table (4 * nblk) needR then some (cProt, table)
  else if !poolClass pool then some (cProt, pool)
  else match stamp with
    | none => none
    | some a => (stampFault s p a).map fun c => (c, a)

/-- `cpybt` (R354). -/
def execCpybt (h : Hdr) (ch : YZ) (st : Bool) (sco : Scope) (nblk : BitVec 8) (d a b c e : G) (s : State) :
    Host.Outcome State Fault Refusal :=
  let regs := [rG d, rG a, rG b, rG c] ++ (if st then [rG e] else [])
  s.issue h { reads := regs, deep := regs, mem := true } fun s =>
    let x := s.me
    let geo := (x.gr c).toNat
    let stamp := if st then some (x.gr e).toNat else none
    match blocksFault s s.myPart geo (x.gr d).toNat (x.gr a).toNat (x.gr b).toNat nblk.toNat stamp with
    | some (t, v) => .trap t 0 (w64 v)
    | none => s.issueJob h regs ⟨ch.toNat, ch.isLt⟩
        (.blocks (x.gr d).toNat (x.gr a).toNat (x.gr b).toNat nblk.toNat (bitsAt geo 0 16) (bitsAt geo 16 8) (bitsAt geo 32 16))
        (stamp.map fun a => (a, sco))

/-- `cpchain` (R355). A head in HBM needs RD (R264). -/
def execCpchain (h : Hdr) (a b : G) (s : State) : Host.Outcome State Fault Refusal :=
  s.issue h { reads := [rG a, rG b], deep := [rG a, rG b], mem := true } fun s =>
    let c := s.me.gr a
    let v := s.me.gr b
    if c.toNat > 3 then .trap cProt 0 c
    else if v.toNat % 64 ≠ 0 then .trap cAlign 0 v
    else if v = 0 then .trap cProt 0 v
    else
      let go : Eff := s.issueJob h [rG a, rG b] ⟨c.toNat % 4, Nat.mod_lt _ (by decide)⟩ (.chain v.toNat) none
      match s.myPart.classOf v.toNat 64 with
      | some .hbm => if s.myPart.grants v.toNat 64 needR then go else .trap cProt 0 v
      | some .host => go
      | _ => .trap cProt 0 v

/-- `cpwp` (R356): a long result. -/
def execCpwp (h : Hdr) (d a : G) (s : State) : Host.Outcome State Fault Refusal :=
  s.issue h { reads := [rG a], writes := [rG d], deep := [rG a], mem := true } fun s =>
    let v := s.me.gr a
    if v.toNat > 3 then .trap cProt 0 v
    else .go (s.ask (.cpwp ⟨v.toNat % 4, Nat.mod_lt _ (by decide)⟩) [destOf (rG d) 0 64 false] false)

/-- `cpstat` (R356): a long result. -/
def execCpstat (h : Hdr) (d a : G) (s : State) : Host.Outcome State Fault Refusal :=
  s.issue h { reads := [rG a], writes := [rG d], deep := [rG a], mem := true } fun s =>
    let v := s.me.gr a
    if v.toNat > 15 then .trap cProt 0 v
    else .go (s.ask (.cpstat ⟨v.toNat % 4, Nat.mod_lt _ (by decide)⟩ (BitVec.ofNat 2 (v.toNat / 4))) [destOf (rG d) 0 64 false] false)

/-- The value of an item of a channel for which slots hold back `held` commands (R356). -/
def Channel.item (c : Channel) (held : Nat) (item : BitVec 2) : Word :=
  match item.toNat with
  | 0 => w64 (bool01 c.cur.isSome * 2 ^ 63 + bool01 c.halted * 2 ^ 62 + (c.queue.length + held + bool01 c.cur.isSome) * 2 ^ 48 + c.err.toNat)
  | 1 => c.enq
  | 2 => c.seq
  | _ => c.errAddr

/-! ## The channel at work -/

/-- What an access of a channel comes to: not yet, a request that has left, a page without a translation, an error of R348, or
done with data. A charge that was taken stands (R408). -/
inductive Moved where
  | wait
  | sent (s : State)
  | page (s : State)
  | bad (s : State) (code : Nat)
  | done (s : State) (x : Nat)

/-- What an answer of another module or a host comes to: no home of another module asks for a page again (R348). -/
def movedOf (s : State) (x st : Nat) : Moved :=
  match st with
  | 0 => .done s x
  | 2 => .bad s 5
  | 4 => .bad s 5
  | _ => .bad s 3

/-- A channel's request to another module. -/
def State.chAsk (s : State) (t : TileId) (j : Job) (r : RemoteReq) (ext : Nat) : Moved :=
  match (if j.asked then some s else s.chargeFor (s.tile t).tag.toNat .remote r.addr r.size) with
  | none => .wait
  | some s1 => match s1.remoteAsk t j.asked r ext with
    | (s2, none) => .sent s2
    | (s2, some (x, st)) => movedOf s2 x st

/-- A channel's read of n bytes within one granule; a refusal of its own slices is a protection error (R396). -/
def State.chRead (s : State) (t : TileId) (j : Job) (a n ext : Nat) : Moved :=
  let tag := (s.tile t).tag.toNat
  match clsAt a with
  | .store => if (s.tile t).storeBad a n then .bad s 3 else .done s ((s.tile t).storeRead a n)
  | .host =>
    if !(s.part tag).translated ((a - hostBase) / 65536) { rd := true, w := false } then .page s
    else if j.asked then movedOf s (answerOf ext n).1 (answerOf ext n).2
    else (match s.chargeFor tag .host a n with
      | none => .wait
      | some s1 => .sent (s1.emit (.hostLoad (s.hostFn tag) (a - hostBase) n j.relaxed)))
  | .remote => s.chAsk t j { kind := .load, addr := a, size := n, data := 0, op := 0, cmp := 0 } ext
  | c =>
    if s.refuses tag a n then .bad s 1
    else
      let (s1, x, b) := s.tileRead t c a n j.hint
      if b != 0 then .bad s1 3 else .done s1 x

/-- A channel's write of n bytes within one granule; a stamp is never charged (R409). -/
def State.chWrite (s : State) (t : TileId) (j : Job) (stamp : Bool) (a x n ext : Nat) : Moved :=
  let tag := (s.tile t).tag.toNat
  match clsAt a with
  | .store => .done (s.modTile t fun y => y.storeWrite a x n) 0
  | .host =>
    if !(s.part tag).translated ((a - hostBase) / 65536) { rd := false, w := true } then .page s
    else (match (if stamp then some s else s.chargeFor tag .host a n) with
      | none => .wait
      | some s1 => .done (s1.emit (.hostWrite (s.hostFn tag) (a - hostBase) n x (j.relaxed && !j.hosted))) 0)
  | .remote => s.chAsk t j { kind := .store, addr := a, size := n, data := x, op := 0, cmp := 0 } (ext * 2 ^ (8 * n))
  | c => if s.refuses tag a n then .bad s 1 else .done (s.homeWrite tag (dieOf t) c a x n j.hint) 0

def State.setJob (s : State) (t : TileId) (ch : Fin 4) (j : Job) : State :=
  s.modTile t fun x => x.setChannel ch { x.channel ch with cur := some j }

/-- The channel's state after an access at `a`: a page request goes out and is timed (R348), an error is noted. -/
def State.moved (s : State) (t : TileId) (ch : Fin 4) (j : Job) (a : Nat) (m : Moved) (k : State → Job → Nat → State) : State :=
  match m with
  | .wait => s
  | .sent s1 => s1.setJob t ch { j with asked := true }
  | .done s1 x => k s1 { j with asked := false, hosted := j.hosted || clsAt a == .host } x
  | .bad s1 code => s1.modTile t fun x => x.setChannel ch { x.channel ch with fail := some (code, a, 0) }
  | .page s1 =>
    let tag := (s1.tile t).tag
    let due := s1.time.tai + Nat.max 1 (bitsAt (s1.part tag.toNat).fltcfg.toNat 0 32) * 1000
    let group := s1.newGroup
    (s1.modTile t fun x => x.setChannel ch { x.channel ch with page := some (a, due, s1.time.tai, group) }).askPages tag.toNat group [a / 65536]

/-- The command in progress ends: its scoreboard entry retires. -/
def State.endJobOf (s : State) (t : TileId) (ch : Fin 4) (j : Job) : State :=
  s.modTile t fun x => (x.retire j.board).setChannel ch { x.channel ch with cur := none }

/-- After all bytes of a command without a stamp, and not of a chain, it ends. -/
def State.stepJob (s : State) (t : TileId) (ch : Fin 4) (j : Job) : State :=
  match j.cmd with
  | .chain _ => s.setJob t ch j
  | c => if j.done ≥ c.total ∧ j.stamp.isNone then s.endJobOf t ch j else s.setJob t ch j

/-- A byte that a command writes, under one key for both windows; the classes whose bytes are looked at are HBM and the
tile store. -/
def copyKey (a : Nat) : Nat := match storeOff a with | some o => 2 ^ 64 + o | none => a

/-- Whether a row copy's source and destination may share bytes of HBM or of the tile store. -/
def Rows.overlaps (r : Rows) : Bool :=
  match clsAt r.src, clsAt r.dst with
  | .store, .store => chunksMeet r.src r.srcLen r.dst r.dstLen
  | .hbm, .hbm => overlap r.src r.srcLen r.dst r.dstLen
  | _, _ => false

/-- The bytes at `a` before a command writes `m` of them, kept where its source may hold them. -/
def State.keepOld (s : State) (t : TileId) (j : Job) (dst m : Nat) : Map Byte :=
  let shared := match j.cmd, j.link with
    | .rows r, _ => r.overlaps
    | .chain _, some l => l.rows.overlaps
    | _, _ => false
  if shared then
    (natsFrom dst m).foldl (fun o a => match mapFind o (copyKey a) with
      | some _ => o
      | none => mapSet o (copyKey a) (match clsAt a with
        | .store => BitVec.ofNat 8 ((s.tile t).storeRead a 1)
        | _ => BitVec.ofNat 8 (s.readHbm (s.part (s.tile t).tag.toNat) a 1))) j.old
  else j.old

/-- What a command reads of the `n` bytes of a source piece at `a`: those that it has written itself are seen all as they were or
all as they are now, a free choice (R299, R344). -/
def State.eitherBytes (s : State) (j : Job) (a n x : Nat) : State × Nat :=
  let before := (natsFrom 0 n).foldl (fun y i => match mapFind j.old (copyKey (a + i)) with
    | some b => putBits y (8 * i) 8 b.toNat
    | none => y) x
  if before = x then (s, x)
  else let (s1, old) := s.flip
       (s1, if old then before else x)

/-- One read of a source piece or write of a destination piece: `n` bytes of a row lie ahead from `src` to `dst`, of which
`j.got` have been read (R299, R344). A chunk of the store that an earlier entry has still to access is waited for (R350). -/
def State.movePiece (s : State) (t : TileId) (ch : Fin 4) (j : Job) (src dst n ext : Nat) : State :=
  let m := Nat.min n ((clsAt dst).granule - dst % (clsAt dst).granule)
  if j.got < m then
    let a := src + j.got
    let r := Nat.min (n - j.got) ((clsAt a).granule - a % (clsAt a).granule)
    if !(s.tile t).accessFree j.board a r then s
    else s.moved t ch j a (s.chRead t j a r ext) fun s j x =>
      let (s1, y) := s.eitherBytes j a r x
      s1.setJob t ch { j with got := j.got + r, buf := j.buf + y * 2 ^ (8 * j.got) }
  else if !(s.tile t).accessFree j.board dst m then s
  else
    let old := s.keepOld t j dst m
    s.moved t ch j dst (s.chWrite t j false dst (j.buf % 2 ^ (8 * m)) m ext) fun s j _ =>
      let s1 := s.modTile t fun x => x.setChannel ch { x.channel ch with wpos := (x.channel ch).wpos + w64 m }
      s1.stepJob t ch { j with done := j.done + m, got := j.got - m, buf := j.buf / 2 ^ (8 * m), old }

/-- The next piece of rows. -/
def State.moveRows (s : State) (t : TileId) (ch : Fin 4) (j : Job) (r : Rows) (ext : Nat) : State :=
  if j.done ≥ r.total then s
  else
    let row := j.done / r.rb
    let off := j.done % r.rb
    s.movePiece t ch j (r.src + row * r.ss + off) (r.dst + row * r.ds + off) (r.rb - off) ext

/-- Whether row i of a block copy is valid (R354). -/
def btValid (idxs : List Nat) (brows ntok i : Nat) : Bool := idxs.getD (i / brows) 0xFFFFFFFF != 0xFFFFFFFF && decide (i < ntok)

/-- The next act of a block copy: a block index, a row that is not valid, a piece of a row, a mask word. A block lies whole in the
pool's class with the permission when its first row is read, or the channel halts (R354). -/
def State.moveBlocks (s : State) (t : TileId) (ch : Fin 4) (j : Job) (dst table pool nblk rb brows ntok ext : Nat) : State :=
  let rows := btRows nblk brows
  let i := j.done / rb
  let off := j.done % rb
  if j.done < rows * rb then
    if i / brows ≥ j.idxs.length then
      let a := table + 4 * (i / brows)
      if !(s.tile t).accessFree j.board a 4 then s
      else s.moved t ch j a (s.chRead t j a 4 ext) fun s j x => s.setJob t ch { j with idxs := j.idxs ++ [x] }
    else if !btValid j.idxs brows ntok i then s.stepJob t ch { j with done := j.done + (rb - off) }
    else
      let block := pool + j.idxs.getD (i / brows) 0 * brows * rb
      let ok := rangeOk s (s.part (s.tile t).tag.toNat) block (brows * rb) needR && !inAnyWindow block
      if i % brows = 0 ∧ off = 0 ∧ j.got = 0 ∧ ok = false then s.moved t ch j block (.bad s 1) fun s _ _ => s
      else s.movePiece t ch j (block + i % brows * rb + off) (dst + i * rb + off) (rb - off) ext
  else
    let m := (j.done - rows * rb) / 8
    if m < btMasks nblk brows then
      let word := (natsFrom 0 64).foldr (fun b acc =>
        2 * acc + bool01 (decide (64 * m + b < rows) && btValid j.idxs brows ntok (64 * m + b))) 0
      let a := dst + ceilDiv (rows * rb) 64 * 64 + 8 * m
      if !(s.tile t).accessFree j.board a 8 then s
      else s.moved t ch j a (s.chWrite t j false a word 8 ext) fun s j _ =>
        let s1 := s.modTile t fun x => x.setChannel ch { x.channel ch with wpos := (x.channel ch).wpos + 8 }
        s1.stepJob t ch { j with done := j.done + 8 }
    else s

/-- Whether a channel can go on with its command: no page request, no error. -/
def Tile.channelReady (t : Tile) (ch : Fin 4) : Option Job :=
  let c := t.channel ch
  match c.cur with
  | none => none
  | some j => if c.page.isSome || c.fail.isSome then none else some j

/-- COPY_COMMAND_START (R342): the head of the queue, once the acquires before its issue have returned (R302). -/
def execCopyCommandStart (t : TileId) (ch : Fin 4) (s : State) : Host.Outcome State Fault Refusal :=
  s.happenAt t fun s => s.modTile t fun x =>
    let c := x.channel ch
    match c.cur, c.queue with
    | none, j :: q =>
      if c.halted || (x.slot j.slot).ops.any (fun o => j.after.contains o.id) then x
      else x.setChannel ch { c with cur := some j, queue := q }
    | _, _ => x

/-- COPY_PIECE_WRITE (R344, R346): the next read or write of the command in progress. -/
def execCopyPieceWrite (t : TileId) (ch : Fin 4) (ext : Nat) (s : State) : Host.Outcome State Fault Refusal :=
  s.happenAt t fun s => match (s.tile t).channelReady ch with
    | none => s
    | some j => match j.cmd, j.link with
      | .rows r, _ => s.moveRows t ch j r ext
      | .blocks dst table pool nblk rb brows ntok, _ => s.moveBlocks t ch j dst table pool nblk rb brows ntok ext
      | .chain _, some l => s.moveRows t ch j l.rows ext
      | .chain _, none => s

/-- The stamp that a command is ready to write. -/
def Job.stampDue (j : Job) : Option Nat :=
  match j.cmd, j.link with
  | .chain _, some l => if j.done ≥ l.rows.total then l.stamp.map (·.1) else none
  | .chain _, none => none
  | c, _ => if j.done ≥ c.total then j.stamp.map (·.1) else none

/-- The oldest stamp of a channel that a slot is counted for is lowered (R345). -/
def Slot.lowerStamp (x : Slot) (ch : Fin 4) : Slot :=
  match x.ops.find? fun o => o.kind == .stamp ch with
  | some o => x.dropOp o
  | none => x

/-- SEQ is raised after the last element of a command with a stamp has been written (R345). -/
def State.raiseSeq (s : State) (t : TileId) (ch : Fin 4) (j : Job) : State :=
  if j.raised then s
  else s.modTile t fun x => x.setChannel ch { x.channel ch with seq := (x.channel ch).seq + 1, cur := some { j with raised := true } }

/-- COPY_STAMP_WRITE (R345): SEQ is raised, and then written to the stamp once that may be accessed; CNTS is lowered. -/
def execCopyStampWrite (t : TileId) (ch : Fin 4) (s : State) : Host.Outcome State Fault Refusal :=
  s.happenAt t fun s => match (s.tile t).channelReady ch with
    | none => s
    | some j => match j.stampDue with
      | none => s
      | some a =>
        let s0 := s.raiseSeq t ch j
        let j := { j with raised := true }
        if !(s0.tile t).accessFree j.board a 8 then s0
        else s0.moved t ch j a (s0.chWrite t j true a ((s0.tile t).channel ch).seq.toNat 8 0) fun s1 j _ =>
          match j.cmd, j.link with
          | .chain _, some l => s1.setJob t ch { j with link := some { l with stamp := none } }
          | .chain _, none => s1
          | _, _ => (s1.endJobOf t ch j).modSlot t j.slot fun x => x.lowerStamp ch

/-- The fields of a transfer record (R355): none where it is malformed. -/
def recordOf (s : State) (p : Part) (at_ x : Nat) : Option Link :=
  let w (i : Nat) : Nat := bitsAt x (64 * i) 64
  let next := w 0
  let ctl := bitsAt x 384 32
  let r := Rows.of (w 1) (w 2) (w 3) (bitsAt (w 4) 16 16) (bitsAt (w 4) 0 16)
  let stamp := if bitAt ctl 1 then some (w 5) else none
  let okNext := next == 0 || (next % 64 == 0 && (match p.classOf next 64 with | some .hbm => true | some .host => true | _ => false))
  if bitsAt (w 4) 32 32 != 0 || bitsAt ctl 5 27 != 0 || bitsAt ctl 2 3 > 5 || w 7 != 0 || !okNext then none
  else if (rowsFault s p (w 3) r stamp).isSome then none
  else some { at_, next, rows := r, stamp := stamp.map fun a => (a, .sys) }

/-- The scope of a record's stamp, by its code. -/
def recordScope (n : Nat) : Scope := match n with | 0 => .slot | 1 => .core | 2 => .tile | 3 => .die | 4 => .pkg | _ => .sys

/-- A channel's read of a 64-byte transfer record, which needs RD (R264). -/
def State.readRecord (s : State) (t : TileId) (j : Job) (a ext : Nat) : Moved :=
  match clsAt a with
  | .host => s.chRead t j a 64 ext
  | _ =>
    if !(s.part (s.tile t).tag.toNat).grants a 64 needR then .bad s 1
    else match s.chRead t j a 32 0 with
      | .done s1 lo => (match s1.chRead t j (a + 32) 32 0 with
        | .done s2 hi => .done s2 (lo + hi * 2 ^ 256)
        | m => m)
      | m => m

/-- A record has been read: the chain ends, the channel fails, or the record's copy begins (R355). What comes after a record in host
memory is ordered after its read (R319). -/
def State.takeRecord (s0 s : State) (t : TileId) (ch : Fin 4) (j : Job) (a y : Nat) : State :=
  if !bitAt y 384 then s.endJobOf t ch j
  else match recordOf s (s.part (s.tile t).tag.toNat) a y with
    | none => s.modTile t fun x => x.setChannel ch { x.channel ch with fail := some (4, a, 0) }
    | some l =>
      let (rd, wr) := (Cmd.rows l.rows).ranges l.stamp
      if (s.tile t).boardFull rd wr then s0
      else
        let sc : Scope := if bitAt y 385 then recordScope (bitsAt y 386 3) else .sys
        let (s1, board) := s.enterBoard t rd wr
        let s2 := s1.modTile t fun z => z.setChannel ch { z.channel ch with enq := (z.channel ch).enq + w64 l.rows.total }
        s2.setJob t ch { j with link := some { l with stamp := l.stamp.map fun q => (q.1, sc) }, done := 0, got := 0, buf := 0, old := [], raised := false,
                                board, relaxed := j.relaxed && clsAt a != .host }

/-- CHAIN_RECORD_READ (R355): the channel reads the next record, or writes DONE into the one it has performed, which needs W
(R264), and goes on to NEXT. The 8 bytes it writes are the word with CTL, whose ST and SCOPE become zero with OWN (log 70, DESIGN
CHOICE: R355 gives OWN and DONE alone). -/
def execChainRecordRead (t : TileId) (ch : Fin 4) (ext : Nat) (s : State) : Host.Outcome State Fault Refusal :=
  s.happenAt t fun s =>
    match (s.tile t).channelReady ch with
    | none => s
    | some j => match j.cmd, j.link with
      | .chain _, some l =>
        if j.done ≥ l.rows.total ∧ l.stamp.isNone then
          let a := l.at_ + 0x30
          let ok := clsAt a == .host || (s.part (s.tile t).tag.toNat).grants a 8 needW
          s.moved t ch j a (if ok then s.chWrite t j false a (2 ^ 40) 8 0 else .bad s 1) fun s j _ =>
            let j' : Job := { j with cmd := .chain l.next, link := none, done := 0, board := 0 }
            let s1 := s.modTile t fun y => y.retire j.board
            if l.next = 0 then s1.endJobOf t ch j' else s1.setJob t ch j'
        else s
      | .chain a, none => s.moved t ch j a (s.readRecord t j a ext) fun s1 j y => s.takeRecord s1 t ch j a y
      | _, _ => s

/-- The trap cause of an error code (R348). -/
def haltCause (code : Nat) : Nat := match code with | 2 => cPage | 3 => cSoft | _ => cProt

/-- The latency of a channel's page request, from its sending to its end (R410). -/
def State.pageSample (s : State) (t : TileId) (since : Nat) : State :=
  let s1 := s.tileSample t 0x202 (s.time.tai - since)
  { s1 with hubMon := s1.hubMon.map fun m => m.sample true 0x202 (s.time.tai - since) }

/-- A channel halts (R348): commands discarded, counts lowered, the issuing slot's deferred trap. -/
def State.haltChannel (s : State) (t : TileId) (ch : Fin 4) (code a info : Nat) : State :=
  let slot := match ((s.tile t).channel ch).cur with | some j => j.slot | none => 0
  let s1 := s.modTile t fun x =>
    let y := x.dropChannel ch
    y.setChannel ch { y.channel ch with halted := true, err := BitVec.ofNat 8 code, errAddr := w64 a, fail := none }
  s1.deferTrap t slot (haltCause code) info (w64 a)

/-- COPY_CHANNEL_HALT (R348): an error that the channel found, or a page request without an answer in time. -/
def execCopyChannelHalt (t : TileId) (ch : Fin 4) (code : Byte) (s : State) : Host.Outcome State Fault Refusal :=
  s.happenAt t fun s =>
    let c := (s.tile t).channel ch
    match c.fail, c.page with
    | some (n, a, i), _ => if n = code.toNat then s.haltChannel t ch n a i else s
    | none, some (a, due, since, _) => if code = 2 ∧ due ≤ s.time.tai then (s.pageSample t since).haltChannel t ch 2 a 2 else s
    | none, none => s

/-- COPY_PAGE_REQUEST_ANSWER (R348): a translation lets the channel go on, anything else is an unrecoverable fault. -/
def execCopyPageRequestAnswer (t : TileId) (ch : Fin 4) (ans : PageAnswer) (s : State) : Host.Outcome State Fault Refusal :=
  s.happenAt t fun s =>
    let c := (s.tile t).channel ch
    match c.page with
    | none => s
    | some (a, _, since, group) =>
      let s0 := s
      let s := s.pageSample t since
      if ans.page ≠ a / 65536 ∨ ans.group ≠ group then s0
      else if ans.ok then
        let s1 := s.modTile t fun x => x.setChannel ch { x.channel ch with page := none }
        if clsAt a = .host then s1.modPart (s.tile t).tag.toNat fun p => p.learn ((a - hostBase) / 65536) ans.large ans.perm else s1
      else s.modTile t fun x => x.setChannel ch { x.channel ch with page := none, fail := some (2, a, ans.info.toNat) }

end Sys2Proof.Machine
end

