-- ==== Sys2Proof/Machine/Matrix.lean ====
section
/-!
DEFINITION. The matrix array: class 0x0A (R222 to R254), and its events: gangs form, start and complete, a quarter
performs an operation, the fetch unit fetches a line.
-/
namespace Sys2Proof.Machine

/-! ## Kinds and shapes (R222, R232) -/

structure Shape where
  rows : Nat
  n : Nat
  k : Nat
  deriving DecidableEq, Repr

def shapeOf : MKind → Shape
  | .fp64 => ⟨8, 32, 8⟩ | .fp32 => ⟨8, 32, 16⟩ | .wide => ⟨16, 64, 16⟩ | .rns => ⟨16, 64, 64⟩

/-- The format of a float kind's accumulators. -/
def accFmt : MKind → Fmt
  | .fp64 => Fmt.f64 | _ => Fmt.f32

/-- MATCFG (R224). -/
def cfgIscale (w : Word) : Bool := w.getLsbD 6
def cfgRangetrap (w : Word) : Bool := w.getLsbD 7
def cfgGslot (w : Word) : Nat := w.toNat % 8

/-- The kind of an mmac (R246). -/
def mmacKind (ta tb : Ty) (iscale : Bool) : Option MKind :=
  let inQ (t : Ty) : Bool := t.is8 || (iscale && (t == .e3m2 || t == .e2m3 || t == .e2m1))
  let wide (t : Ty) : Bool := (t == .f16 || t == .bf16 || t.isNarrow) && !inQ t
  if ta = .f64 ∧ tb = .f64 then some .fp64
  else if ta = .f32 ∧ tb = .f32 then some .fp32
  else if wide ta && wide tb then some .wide
  else if inQ ta && inQ tb then some .rns
  else none

/-- The width of an input element. -/
def elemBits (t : Ty) (four : Bool) : Nat := if four then 4 else t.width

/-- The bytes of the operands of an mmac (R232). -/
def aBytes (k : MKind) (s : MmacSub) : Nat := (shapeOf k).rows * (shapeOf k).k * elemBits s.ta s.a4 / 8
def bBytes (k : MKind) (s : MmacSub) : Nat := (shapeOf k).n * (shapeOf k).k * elemBits s.tb s.b4 / 8

/-- The integer of an RNS input (R237), and the largest magnitude of its type. -/
def rnsInput (t : Ty) (four : Bool) (x : Nat) : Int :=
  let scaled (f : Fmt) (k : Int) : Int := match FV.decode f x with
    | .num n s e => (if n then -1 else 1) * ((s * 2 ^ (e + k).toNat : Nat) : Int)
    | _ => 0
  match t with
  | .s8 => sval (if four then 4 else 8) x
  | .z8 => (x : Int)
  | .e2m1 => scaled (Fmt.of .e2m1) 1
  | .e2m3 => scaled (Fmt.of .e2m3) 3
  | _ => scaled (Fmt.of .e3m2) 4

def rnsMax (t : Ty) (four : Bool) : Nat :=
  match t, four with
  | .s8, false => 128 | .s8, true => 8 | .z8, false => 255 | .z8, true => 15 | .e2m1, _ => 12 | .e2m3, _ => 60 | _, _ => 448

/-! ## Accumulator tiles (R223) -/

def Tile.accAt (t : Tile) (c : YZ) (q : Fin 4) : Acc := mapGet Acc.reset t.acc (4 * c.toNat + q.val)
def Tile.setAcc (t : Tile) (c : YZ) (q : Fin 4) (a : Acc) : Tile := { t with acc := mapSet t.acc (4 * c.toNat + q.val) a }
def Acc.elem (a : Acc) (i : Nat) : Nat := mapGet 0 a.elems i

/-- Elements listed where they are not zero. -/
def listElems (n : Nat) (f : Nat → Nat) : Map Nat := ((natsFrom 0 n).map fun i => (i, f i)).filter fun x => x.2 != 0

def Acc.zeroed (a : Acc) : Acc := { a with bound := 0, range := false, bad := false, elems := [] }

def boundMax : Nat := 2 ^ 63 - 1
def rangeLimit : Nat := 536870399

/-! ## Sums (R236, R238) -/

/-- One element of a float kind: C + Σ a × b, exact, rounded once. -/
def fmaSum (f : Fmt) (c : Nat) (ab : List (FV × FV)) : Nat :=
  let cv := FV.decode f c
  let nanT := ab.any fun x => x.1.isNan || x.2.isNan || (x.1.isInf && x.2.isZero) || (x.1.isZero && x.2.isInf)
  let infs := (if cv.isInf then [cv.neg] else []) ++ (ab.filter fun x => x.1.isInf || x.2.isInf).map fun x => x.1.neg != x.2.neg
  if cv.isNan || nanT || (infs.contains true && infs.contains false) then f.qnan
  else match infs with
    | n :: _ => (FR.inf f n).bits
    | [] =>
      let sum := ab.foldl (fun acc x => dyAdd acc (x.1.dy.1 * x.2.dy.1, x.1.dy.2 + x.2.dy.2)) cv.dy
      let allNeg := cv.isZero && cv.neg && ab.all fun x => (x.1.isZero || x.2.isZero) && (x.1.neg != x.2.neg)
      (f.roundInt .rne allNeg sum.1 sum.2).bits

/-- One element of the RNS kind: residues of the exact sum. -/
def rnsSum (c : Nat) (sum : Int) : Nat :=
  let r (lo n m : Nat) : Nat := ((((bitsAt c lo n : Nat) : Int) + sum) % (m : Int)).toNat
  r 0 10 1023 + r 10 10 1024 * 2 ^ 10 + r 20 11 1025 * 2 ^ 20

/-- Element numbers of A and B (R232). -/
def aIndex (s : Shape) (i k : Nat) : Nat := i * s.k + k
def bIndex (s : Shape) (bt : Bool) (k j : Nat) : Nat := if bt then k * s.n + j else j * s.k + k

/-- What a quarter's mmac makes of its accumulator tile (R235 to R239, R247): operand bytes a and b; whether KIND changed. -/
def Mac.apply (m : Mac) (acc0 : Acc) (a b : Nat) (poison : Bool) : Acc × Bool :=
  let sh := shapeOf m.kind
  let chg := acc0.kind.isSome && acc0.kind != some m.kind
  let acc := if chg then acc0.zeroed else acc0
  let wa := elemBits m.sub.ta m.sub.a4
  let wb := elemBits m.sub.tb m.sub.b4
  let kOn (k : Nat) : Bool := !(m.sub.ze && m.sub.zk) || bitAt m.z.toNat k
  let rowOn (i : Nat) : Bool := !m.sub.ye || bitAt m.y.toNat (sh.rows * m.q.val + i)
  let colOn (j : Nat) : Bool := !m.sub.ze || m.sub.zk || bitAt m.z.toNat j
  let ks := natsFrom 0 sh.k
  let elA (i k : Nat) : Nat := laneAtBits wa a (aIndex sh i k)
  let elB (k j : Nat) : Nat := laneAtBits wb b (bIndex sh m.sub.bt k j)
  let new (x : Nat) : Nat :=
    let i := x / sh.n
    let j := x % sh.n
    let c := acc.elem x
    if !rowOn i || !colOn j then c
    else match m.kind with
      | .rns => rnsSum c ((ks.filter kOn).foldl (fun s k => s + rnsInput m.sub.ta m.sub.a4 (elA i k) * rnsInput m.sub.tb m.sub.b4 (elB k j)) 0)
      | _ => fmaSum (accFmt m.kind) c (ks.map fun k =>
          if kOn k then (FV.decode (Fmt.of m.sub.ta) (elA i k), FV.decode (Fmt.of m.sub.tb) (elB k j))
          else (FV.num false 0 0, FV.num false 0 0))
  let keff := if m.sub.ze && m.sub.zk then ks.countP kOn else 64
  let bound := if m.kind = .rns then Nat.min boundMax (acc.bound + keff * rnsMax m.sub.ta m.sub.a4 * rnsMax m.sub.tb m.sub.b4) else acc.bound
  ({ kind := some m.kind, bound, range := acc.range || (m.kind == .rns && decide (bound > rangeLimit)), bad := acc.bad || poison,
     elems := listElems (sh.rows * sh.n) new }, chg)
where laneAtBits (w x e : Nat) : Nat := bitsAt x (e * w) w

/-! ## Issue (R226, R231, R234) -/

/-- Whether a slot parked at the drawbar stands for its core. -/
def Tile.arrivalOf (t : Tile) (core : Fin 4) : Option Arrival := t.arrivals.find? fun a => coreOf a.slot == core

/-- The gang slot of a core. -/
def Tile.gangSlot (t : Tile) (core : Fin 4) : SlotId := slotOf (8 * core.val + cfgGslot t.matcfg)

/-- The drawbar check at issue: the gang slot, and no slot of the core parked at the drawbar (R226, R227). -/
def State.gangOk (s : State) : Bool :=
  s.cur.2 == s.myTile.gangSlot (coreOf s.cur.2) && (s.myTile.arrivalOf (coreOf s.cur.2)).isNone

/-- The check of an operand address (R231, R264): the trap code. -/
def operandFault (p : Part) (a n : Nat) (l2 : Bool) : Option Nat :=
  if a % 64 ≠ 0 then some cAlign
  else if l2 then
    match p.classOf a n with
    | some .hbm => if p.permits .hbm a n needR then none else some cProt
    | some .view => if p.permits .view a n needR then none else some cProt
    | _ => some cProt
  else if inWindow a n then none else some cProt

/-- The 256-byte lines that a range touches. -/
def linesOf (a n : Nat) : List Nat := natsFrom (a / 256) ((a + n - 1) / 256 + 1 - a / 256)

/-- The L2 lines of an mmac with operands at a and b. -/
def mmacLines (kind : MKind) (sub : MmacSub) (a b : Nat) : List Nat :=
  ((if sub.sa then linesOf a (aBytes kind sub) else []) ++ (if sub.sb then linesOf b (bBytes kind sub) else [])).eraseDups

/-- An mmac of a slot asks for the lines that are not held; one that an mfetch has asked for already keeps its place (R233). -/
def Tile.askLines (t : Tile) (ls : List Nat) (hint : CacheHint) (slot : SlotId) : Tile :=
  ls.foldl (fun t l =>
    if t.pins.any (fun p => p.line == l) then t
    else if t.fetches.any (fun f => f.line == l) then
      { t with fetches := t.fetches.map fun f => if f.line = l then { f with wanted := true } else f }
    else { t with fetches := t.fetches ++ [{ line := l, byMac := true, wanted := true, hint, slot }] }) t

/-- An arrival at the drawbar. -/
def State.arrive (s : State) (m : Option Mac) : State :=
  let n := s.me.drawCnt + 1
  let s1 := s.upd fun x => { x with drawCnt := n }
  s1.updTile fun t => { t with arrivals := t.arrivals ++ [{ slot := s.cur.2, n, pc := s.me.pc, mac := m }] }

/-- Takes a place in a quarter's order. -/
def State.addQop (s : State) (q : Fin 4) (set : YZ) (what : QWhat) (board : Nat) : State × Nat :=
  let (s1, id) := s.fresh
  (s1.updTile fun t => { t with qops := t.qops ++ [{ id, q, set, what, board }] }, id)

/-- A poisoned y or z register that an mmac samples. -/
def Tile.badSample (t : Tile) (sub : MmacSub) : Option Nat :=
  ((if sub.ye then [120 + sub.ys.toNat] else []) ++ (if sub.ze then [124 + sub.zs.toNat] else [])).find? t.badYZ.contains

/-- Chunks of its tile-store operands that an mmac reads at its issue, those that no earlier entry of the scoreboard holds back; or
none of them: a free choice, R350 leaving their instants open (R234, R392). -/
def State.readEarly (s : State) (bd : Nat) (rd : List (Nat × Nat)) : State × Map (Nat × Bool) :=
  let (s1, now) := s.flip
  let t := s1.myTile
  let as := (rd.map fun r => (natsFrom 0 (ceilDiv r.2 64)).map fun i => r.1 + 64 * i).flatten
  let es := if now then (as.filter fun a => t.accessFree bd a 64).map fun a => ((storeOff a).getD 0 / 64, t.storeRead a 64, t.storeBad a 64)
            else []
  (s1.updTile fun t => { t with board := t.board.map fun b => if b.id = bd then { b with got := es.map (·.1) } else b }, es)

/-- `mmac` (R246, R226, R231, R235): an arrival. -/
def execMmac (h : Hdr) (c : YZ) (a b : G) (sub : MmacSub) (s : State) : Host.Outcome State Fault Refusal :=
  s.issue h { reads := [rG a, rG b], deep := [rG a, rG b], outside := true } fun s =>
    let t := s.myTile
    let va := s.me.gr a
    let vb := s.me.gr b
    if !s.gangOk then .trap cProt 0 1
    else match mmacKind sub.ta sub.tb (cfgIscale t.matcfg) with
      | none => .trap cProt 0 3
      | some kind =>
        match operandFault s.myPart va.toNat (aBytes kind sub) sub.sa, operandFault s.myPart vb.toNat (bBytes kind sub) sub.sb with
        | some e, _ => .trap e 0 va
        | none, some e => .trap e 0 vb
        | none, none =>
          match t.badSample sub with
          | some e => .trap cSoft 1 (w64 e)
          | none =>
            let rd := (if sub.sa then [] else [(va.toNat, aBytes kind sub)]) ++ (if sub.sb then [] else [(vb.toNat, bBytes kind sub)])
            if t.boardFull rd [] then .wait (.board rd [])
            else
              let (s0, bd) := s.enterBoard s.cur.1 rd []
              let (s1, early) := if rd.isEmpty then (s0, []) else s0.readEarly bd rd
              let q := coreOf s.cur.2
              let (s2, id) := s1.addQop q c .mac bd
              let lines := mmacLines kind sub va.toNat vb.toNat
              let m : Mac := { q, slot := s.cur.2, pc := s.me.pc, set := c, kind, sub, a := va.toNat, b := vb.toNat,
                               y := t.y[sub.ys.toNat], z := t.z[sub.zs.toNat], waived := s.me.waive == some cPower,
                               board := bd, qid := id, early, lines, held := t.pins.filter fun p => lines.contains p.line }
              .park ((s2.arrive (some m)).updTile fun t => t.askLines lines h.cache s.cur.2) .drawbar

/-- `dbar` (R254): an arrival without an array operation. -/
def execDbar (h : Hdr) (s : State) : Host.Outcome State Fault Refusal :=
  s.issue h { outside := true } fun s => if !s.gangOk then .trap cProt 0 1 else .park (s.arrive none) .drawbar

/-- `mzero` (R245). -/
def execMzero (h : Hdr) (c : YZ) (kind : MKind) (s : State) : Host.Outcome State Fault Refusal :=
  s.issue h { outside := true } fun s => .go (s.addQop (coreOf s.cur.2) c (.zero kind) 0).1

/-- The check of a tile-store range of a transfer (R248): the trap code. -/
def transferFault (a n : Nat) : Option Nat :=
  if !inAnyWindow a then some cProt else if a % 64 ≠ 0 then some cAlign else if !inWindow a n then some cProt else none

/-- The drain of a slot that waits under RANGETRAP. -/
def Tile.waitingDrain (t : Tile) (k : SlotId) : Option QOp :=
  t.qops.find? fun o => match o.what with | .drain j _ _ _ _ _ w => j == k && w | _ => false

def dropQop (t : Tile) (id : Nat) : Tile := { t with qops := t.qops.filter fun o => o.id ≠ id }

/-- Whether every earlier operation on a queued operation's accumulator tile has completed (R229). -/
def Tile.firstOnTile (t : Tile) (o : QOp) : Bool := t.qops.all fun p => decide (o.id ≤ p.id) || p.q != o.q || p.set != o.set

/-- A drain takes its slot's operation: its results are long. -/
def State.sendDrain (s : State) (o : QOp) (d : G) (p : P) : State :=
  let id := s.serial
  let s1 := s.addOp { Op.plain .load with dests := [destOf (rG d) 0 64 false, destOf (rP p) 64 1 false] } false
  s1.updTile fun t => { t with qops := t.qops.map fun x =>
    if x.id = o.id then { x with what := match x.what with
      | .drain k _ a td zr cfg _ => .drain k id a td zr cfg false
      | w => w } else x }

/-- `mdrain` (R248). Under RANGETRAP it takes its place and waits there for the earlier operations; SLOT_RESUME lets it go on. -/
def execMdrain (h : Hdr) (c : YZ) (d : G) (p : P) (td : Ty) (zr : Bool) (s : State) : Host.Outcome State Fault Refusal :=
  s.issue h { reads := [rG d], writes := [rG d, rP p], deep := [rG d], tokens := 1, outside := true } fun s =>
    let q := coreOf s.cur.2
    let v := s.me.gr d
    let n := 1024 * (td.width / 8)
    match transferFault v.toNat n with
    | some e => .trap e 0 v
    | none =>
      if s.myTile.boardFull [] [(v.toNat, n)] then .wait (.board [] [(v.toNat, n)])
      else
        let (s1, bd) := s.enterBoard s.cur.1 [] [(v.toNat, n)]
        let cfg := s.myTile.matcfg
        let (s2, id) := s1.addQop q c (.drain s.cur.2 0 v.toNat td zr cfg true) bd
        let o : QOp := { id, q, set := c, what := .drain s.cur.2 0 v.toNat td zr cfg true, board := bd }
        if cfgRangetrap cfg then .own ((s2.charge 1).upd fun x => { x with park := .range c h d p })
        else .go (s2.sendDrain o d p)

/-- An mdrain that waited under RANGETRAP goes on in its slot's turn: it takes the range trap, or its place's effect comes in the
quarter's order (R227, R248). Its other checks were made at its issue. -/
def State.resumeDrain (s : State) (t : TileId) (k : SlotId) (h : Hdr) (d : G) (p : P) : State :=
  let s0 : State := { s.modSlot t k fun x => { x with park := .none } with cur := (t, k) }
  match (s.tile t).waitingDrain k with
  | none => s0
  | some o =>
    let acc := (s.tile t).accAt o.set o.q
    let e : Eff := if acc.kind = some .rns ∧ acc.range ∧ (s.slot t k).waive ≠ some cRange then
        .trapIn (s0.updTile fun t => dropQop (t.retire o.board) o.id) cRange 0 (w64 (4 * o.set.toNat + o.q.val))
      else .go (s0.sendDrain o d p)
    { s0.conclude h { reads := [rG d], writes := [rG d, rP p] } e with cur := s.cur }

/-- The bytes an mldt reads. -/
def mldtBytes (kind : MKind) (ts : Ty) : Nat := (shapeOf kind).rows * (shapeOf kind).n * (ts.width / 8)

/-- `mldt` (R249). -/
def execMldt (h : Hdr) (c : YZ) (a : G) (kind : MKind) (ts : Ty) (s : State) : Host.Outcome State Fault Refusal :=
  s.issue h { reads := [rG a], deep := [rG a], outside := true } fun s =>
    let v := s.me.gr a
    let n := mldtBytes kind ts
    match transferFault v.toNat n with
    | some e => .trap e 0 v
    | none =>
      if s.myTile.boardFull [(v.toNat, n)] [] then .wait (.board [(v.toNat, n)] [])
      else
        let (s1, bd) := s.enterBoard s.cur.1 [(v.toNat, n)] []
        .go (s1.addQop (coreOf s.cur.2) c (.load s.cur.2 v.toNat kind ts) bd).1

/-- `mfetch` (R250, R233). -/
def execMfetch (h : Hdr) (a b : G) (s : State) : Host.Outcome State Fault Refusal :=
  s.issue h { reads := [rG a, rG b], deep := [rG a, rG b], outside := true } fun s =>
    let v := s.me.gr a
    let n := (s.me.gr b).toNat
    let ok := 1 ≤ n && n ≤ 229376 && (match s.myPart.classOf v.toNat n with
      | some .hbm => s.myPart.permits .hbm v.toNat n needR
      | some .view => s.myPart.permits .view v.toNat n needR
      | _ => false)
    if !ok then .trap cProt 0 v
    else .go (s.updTile fun t => (linesOf v.toNat n).foldl (fun t l =>
      if t.pins.any (fun p => p.line == l) || t.fetches.any (fun f => f.line == l) then t
      else if (t.pins.countP fun p => !p.byMac) + (t.fetches.countP fun f => !f.byMac) < 896 then
        { t with fetches := t.fetches ++ [{ line := l, byMac := false, wanted := false, hint := h.cache, slot := s.cur.2 }] }
      else { t with matstat := t.matstat ||| 4 }) t)

/-- The shared form of msety and msetz (R251): the value, and the poison of what was read. -/
def State.msetForm (s : State) (h : Hdr) (a : G) (ad : Bool) (put : Tile → Word → Bool → Tile) : Host.Outcome State Fault Refusal :=
  s.issue h { reads := [rG a], deep := if ad then [rG a] else [], outside := true } fun s =>
    let v := s.me.gr a
    if !ad then .go (s.updTile fun t => put t v false)
    else if !inAnyWindow v.toNat then .trap cProt 0 v
    else if v.toNat % 8 ≠ 0 then .trap cAlign 0 v
    else if s.me.acquiring then .wait .acquire
    else
      let bad := s.myTile.storeBad v.toNat 8
      .go (s.updTile fun t => put t (if bad then 0 else w64 (t.storeRead v.toNat 8)) bad)

/-- `msety` (R251). -/
def execMsety (h : Hdr) (d : YZ) (a : G) (ad : Bool) (s : State) : Host.Outcome State Fault Refusal :=
  s.msetForm h a ad fun t v bad =>
    { t with y := t.y.set d.toNat v,
             badYZ := (if bad then [120 + d.toNat] else []) ++ t.badYZ.filter fun c => c ≠ 120 + d.toNat }

/-- `msetz` (R251). -/
def execMsetz (h : Hdr) (d : YZ) (a : G) (ad : Bool) (s : State) : Host.Outcome State Fault Refusal :=
  s.msetForm h a ad fun t v bad =>
    { t with z := t.z.set d.toNat v,
             badYZ := (if bad then [124 + d.toNat] else []) ++ t.badYZ.filter fun c => c ≠ 124 + d.toNat }

/-- `mbound` (R252): a long result. -/
def execMbound (h : Hdr) (c : YZ) (d a : G) (s : State) : Host.Outcome State Fault Refusal :=
  s.issue h { reads := [rG a], writes := [rG d], deep := [rG a], outside := true } fun s =>
    let v := s.me.gr a
    if v.toNat > 3 then .trap cProt 0 v
    else
      let id := s.serial
      let s1 := s.addOp { Op.plain .load with dests := [destOf (rG d) 0 64 false] } false
      .go (s1.addQop ⟨v.toNat % 4, Nat.mod_lt _ (by decide)⟩ c (.bound s.cur.2 id) 0).1

/-- `mcfg` (R253). -/
def execMcfg (h : Hdr) (a : G) (s : State) : Host.Outcome State Fault Refusal :=
  s.issue h { reads := [rG a], outside := true } fun s =>
    .go (s.updTile fun t => { t with matcfg := s.me.gr a &&& 0xFFFFFFFF000000C7 })

/-! ## Gangs (R227 to R230, R247) -/

/-- The participant of a core: its count, and whether it is active (R227). -/
def Tile.participant (t : Tile) (core : Fin 4) : Nat × Bool :=
  match t.arrivalOf core with
  | some a => (a.n, true)
  | none => ((t.slot (t.gangSlot core)).drawCnt, (t.slot (t.gangSlot core)).active)

def allCores : List (Fin 4) := [0, 1, 2, 3]

/-- Whether arrivals numbered n are released, apart from the room in the queue. -/
def Tile.released (t : Tile) (n : Nat) : Bool :=
  allCores.all fun c => let p := t.participant c
                        !p.2 || decide (p.1 ≥ n)

/-- The members of the gang that may form now. -/
def Tile.gangReady (t : Tile) : Option (List Arrival) :=
  match minOf (t.arrivals.map (·.n)) with
  | none => none
  | some n =>
    let ms := t.arrivals.filter fun a => a.n == n
    if t.released n ∧ ((ms.all fun a => a.mac.isNone) ∨ t.gangs.length < 4) then some ms else none

/-- Whether the members are the same instruction (R228). -/
def sameGang (ms : List Arrival) : Bool :=
  (ms.all fun a => a.mac.isNone) ||
    (ms.all fun a => match a.mac, ms.head?.bind (·.mac) with | some m, some m0 => m.kind == m0.kind | _, _ => false)

/-- Takes the members from the drawbar; where they have no effect (`drop`) their places in the quarters' orders go, and what only they
needed in the pin buffer. -/
def Tile.takeArrivals (t : Tile) (ms : List Arrival) (drop : Bool) : Tile :=
  let ids := if drop then ms.filterMap fun a => a.mac.map (·.qid) else []
  let boards := if drop then ms.filterMap fun a => a.mac.map (·.board) else []
  let t1 := { t with arrivals := t.arrivals.filter fun a => !(ms.any fun m => m.slot == a.slot),
                     qops := t.qops.filter fun o => !ids.contains o.id, board := t.board.filter fun b => !boards.contains b.id }
  if drop then t1.tidyPins else t1

/-- GANG_FORM (R227, R228). -/
def execGangForm (t : TileId) (s : State) : Host.Outcome State Fault Refusal :=
  s.happenAt t fun s =>
    let x := s.tile t
    match x.gangReady with
    | none => s
    | some ms =>
      let trapAll (code : Nat) (v : Word) : State :=
        ms.foldl (fun s a => s.takeTrap t a.slot { code, info := 0, pc := a.pc, val := v, precise := true })
          (ms.foldl (fun s a => s.modSlot t a.slot fun y => { y with park := .none }) (s.modTile t fun y => y.takeArrivals ms true))
      let resume (s : State) : State := ms.foldl (fun s a => s.modSlot t a.slot fun y => { y with park := .none }) s
      if !sameGang ms then trapAll cProt 2
      else match ms.filterMap (·.mac) with
        | [] => resume (s.modTile t fun y => y.takeArrivals ms false)
        | macs =>
          let exceeds := decide (x.tokUsed + 4 > x.tokDecl)
          if exceeds && macs.any fun m => (x.slot m.slot).chkPower && !m.waived then
            trapAll cPower (w64 (x.tokDecl * 2 ^ 32 + x.tokUsed * 2 ^ 16 + 4))
          else
            let s1 := s.modTile t fun y =>
              { y.takeArrivals ms false with
                tokUsed := Nat.min 65535 (y.tokUsed + 4), pwrPower := y.pwrPower || exceeds, stretch := y.stretch || exceeds,
                gangs := y.gangs ++ [macs], matstat := if macs.length < 4 then y.matstat ||| 2 else y.matstat }
            let s2 := if x.stretch then ms.foldl (fun s a => s.modSlot t a.slot fun y => { y with forfeit := y.forfeit + 8 }) s1 else s1
            resume s2

/-- Bytes of an operand, and their poison: from the store, where `early` holds the chunks read already, or from the copies `held` of
its lines. -/
def Tile.operand (t : Tile) (early : Map (Nat × Bool)) (held : List Pin) (a n : Nat) (l2 : Bool) : Nat × Bool :=
  if l2 then
    let parts := (linesOf a n).map fun l => match held.find? fun p => p.line == l with
      | some p => (p.data, p.bad)
      | none => (0, false)
    (bitsAt (parts.zipIdx.foldl (fun x p => x + p.1.1 * 2 ^ (2048 * p.2)) 0) (8 * (a % 256)) (8 * n), parts.any (·.2))
  else if early.isEmpty then (t.storeRead a n, t.storeBad a n)
  else
    let parts := (natsFrom 0 (ceilDiv n 64)).map fun i =>
      (mapFind early ((storeOff (a + 64 * i)).getD 0 / 64)).getD (t.storeRead (a + 64 * i) 64, t.storeBad (a + 64 * i) 64)
    (parts.zipIdx.foldl (fun x p => x + p.1.1 * 2 ^ (512 * p.2)) 0, parts.any (·.2))

/-- One member quarter's part (R247). -/
def Tile.doMac (t : Tile) (m : Mac) : Tile :=
  let a := t.operand m.early m.held m.a (aBytes m.kind m.sub) m.sub.sa
  let b := t.operand m.early m.held m.b (bBytes m.kind m.sub) m.sub.sb
  let (acc, chg) := m.apply (t.accAt m.set m.q) a.1 b.1 (a.2 || b.2)
  let t1 := t.setAcc m.set m.q acc
  if chg then { t1 with matstat := t1.matstat ||| 1 } else t1

/-- Whether the first gang may start: the array free, the operands present, its places come (R229, R230, R350). -/
def Tile.gangStartable (t : Tile) (ms : List Mac) : Bool :=
  t.running.isNone && ms.all fun m =>
    m.lines.all (fun l => !m.lacks l) && t.boardFree m.board &&
      t.qops.all fun o => o.id != m.qid || t.firstOnTile o

/-- GANG_START (R230, R247). -/
def execGangStart (t : TileId) (s : State) : Host.Outcome State Fault Refusal :=
  s.happen fun s =>
    let x := s.tile t
    match x.gangs with
    | [] => s
    | ms :: rest =>
      if x.gangStartable ms then
        let d := (ms.map fun m => (m.b, m.sub.sb, m.sub.bt)).eraseDups.length
        s.setTile t { (ms.foldl Tile.doMac x) with gangs := rest, running := some (ms, x.cycle + 16 * d) }
      else s

/-- GANG_COMPLETE (R230, R233): places, scoreboard entries and the lines it has read are given up. A gang behind it that has been
using a copy of such a line since an mmac's issue keeps the copy (log 70, DESIGN CHOICE: R233 says both that the mmac uses the copy
and that the line is released). -/
def execGangComplete (t : TileId) (s : State) : Host.Outcome State Fault Refusal :=
  s.happen fun s =>
    let x := s.tile t
    match x.running with
    | none => s
    | some (ms, c) =>
      if x.cycle < c && !x.halted then s
      else
        let ids := (ms.map fun m => m.held.map (·.id)).flatten
        (s.setTile t { x with running := none, qops := x.qops.filter fun o => !(ms.any fun m => m.qid == o.id),
                              board := x.board.filter fun b => !(ms.any fun m => m.board == b.id),
                              pins := x.pins.filter fun p => !ids.contains p.id }).tileCount t 7 1

/-- A line has been fetched: the buffer holds it, and every mmac that waits for it has its copy (R233). -/
def Tile.gotLine (t : Tile) (p : Pin) : Tile :=
  let take (m : Mac) : Mac := if m.lacks p.line then { m with held := m.held ++ [p] } else m
  { t with pins := t.pins ++ [p], gangs := t.gangs.map fun g => g.map take,
           arrivals := t.arrivals.map fun a => { a with mac := a.mac.map take } }

/-- The slots whose instructions wait for a line: the one that asked, and those of the mmacs. -/
def Tile.lineSlots (t : Tile) (f : Fetch) : List SlotId :=
  (f.slot :: (t.macs.filter fun m => m.lacks f.line).map (·.slot)).eraseDups

/-- PIN_LINE_FETCH (R233, R260): the next line is read from its home slices under its hint. A line that they refuse by then gives
the slots that wait for it a deferred protection trap with its address (R160, R165, R396) and is held as poison (log 70, DESIGN
CHOICE: no rule says what its operand then is). -/
def execPinLineFetch (t : TileId) (s : State) : Host.Outcome State Fault Refusal :=
  s.happen fun s =>
    let x := s.tile t
    match x.fetches with
    | [] => s
    | f :: rest =>
      if f.byMac && decide ((x.pins.countP fun p => p.byMac) ≥ 128) then s
      else
        let a := 256 * f.line
        let refused := (natsFrom 0 4).any fun i => s.refuses x.tag.toNat (a + 64 * i) 64
        let (s0, v, b) := if refused then (s, 0, 1) else s.tileRead t (clsAt a) a 256 f.hint
        let (s1, id) := s0.fresh
        let s2 := s1.modTile t fun y =>
          Tile.gotLine { y with fetches := rest } { line := f.line, data := v, byMac := f.byMac, bad := b != 0, id }
        if refused then (x.lineSlots f).foldl (fun s k => s.deferTrap t k cProt 0 (w64 a)) s2 else s2

/-! ## Quarter operations (R229, R241, R248, R249, R252) -/

/-- The drained value of an element (R241). -/
def drainElem (acc : Acc) (td : Ty) (cfg : Word) (x : Nat) : Nat :=
  let f := Fmt.of td
  match acc.kind with
  | some .rns =>
    if acc.range then (if td = .s32 then 0x80000000 else f.qnan)
    else if td = .s32 then ubits 32 (rnsVal x)
    else
      let v := rnsVal x
      (match FV.decode Fmt.f32 (bitsAt cfg.toNat 32 32) with
      | .nan _ _ => f.qnan
      | .inf n => if v = 0 then f.qnan else (FR.inf f (n != decide (v < 0))).bits
      | .num n s e => (f.round .rne (n != decide (v < 0)) (v.natAbs * s) 1 e).bits)
  | some k => if td = .s32 then (cvtFI (accFmt k) .s32 .rne x).bits else (if f = accFmt k then (match FV.decode f x with | .nan _ _ => f.qnan | _ => x) else (cvtFF (accFmt k) f .rne x).bits)
  | none => 0

/-- A slot's operation has its results. -/
def State.answerOp (s : State) (t : TileId) (k : SlotId) (id data : Nat) : State :=
  s.modSlot t k fun x => match x.opOf id with
    | some o => x.setOp { o with data, ready := true, performed := true }
    | none => x

/-- Performs a drain (R248); one of a poisoned tile takes code 15 and writes nothing (R428). -/
def State.doDrain (s : State) (t : TileId) (o : QOp) (k : SlotId) (id a : Nat) (td : Ty) (zr : Bool) (cfg : Word) : State :=
  let x := s.tile t
  let acc := x.accAt o.set o.q
  if acc.bad then
    (match (x.slot k).opOf id with
    | some op => (s.modSlot t k fun y => y.dropOp op).deferTrap t k cSoft 0 (w64 a)
    | none => s.deferTrap t k cSoft 0 (w64 a))
  else
    let n := match acc.kind with | some kd => (shapeOf kd).rows * (shapeOf kd).n | none => 0
    let w := td.width
    let data := (natsFrom 0 n).foldr (fun i v => v * 2 ^ w + drainElem acc td cfg (acc.elem i)) 0
    let flag := acc.kind == some .rns && acc.range
    let s1 := s.modTile t fun y =>
      let y1 := y.storeWrite a data (n * w / 8)
      if zr then y1.setAcc o.set o.q acc.zeroed else y1
    s1.answerOp t k id ((a + n * w / 8) % 2 ^ 64 + bool01 flag * 2 ^ 64)

/-- An element that mldt loads: its stored form, its magnitude, whether it was clamped (R249). -/
def loadElem (kind : MKind) (ts : Ty) (x : Nat) : Nat × Nat × Bool :=
  match kind, ts with
  | .rns, .rns10 => (rnsCanon x, (rnsVal x).natAbs, false)
  | .rns, _ =>
    let v := sval 32 x
    let c := if v < -536870400 then -536870400 else if v > 536870399 then 536870399 else v
    (rnsOf c, c.natAbs, v != c)
  | _, _ => (x, 0, false)

/-- The accumulator tile that mldt makes of its source. -/
def loadAcc (kind : MKind) (ts : Ty) (src : Nat) (bad : Bool) : Acc :=
  let n := (shapeOf kind).rows * (shapeOf kind).n
  let es := (natsFrom 0 n).map fun i => loadElem kind ts (bitsAt src (i * ts.width) ts.width)
  { kind := some kind, bound := es.foldl (fun m e => Nat.max m e.2.1) 0, range := es.any (·.2.2), bad,
    elems := (es.zipIdx.map fun e => (e.2, e.1.1)).filter fun e => e.2 != 0 }

/-- Performs a quarter's operation, with all its bytes of the tile store at one instant, so that a slot's access that races with a
transfer sees only old bytes or only new ones (log 70, DESIGN CHOICE: R234 leaves each chunk's instant open). -/
def State.doQop (s : State) (t : TileId) (o : QOp) : State :=
  let x := s.tile t
  match o.what with
  | .zero kind => s.setTile t (x.setAcc o.set o.q { Acc.reset with kind := some kind })
  | .mac => s
  | .drain k id a td zr cfg _ => s.doDrain t o k id a td zr cfg
  | .load _ a kind ts => s.setTile t (x.setAcc o.set o.q
      (loadAcc kind ts (x.storeRead a (mldtBytes kind ts)) (x.storeBad a (mldtBytes kind ts))))
  | .bound k id => let a := x.accAt o.set o.q
                   s.answerOp t k id (bool01 a.range * 2 ^ 63 + a.bound)

/-- Whether a queued operation stands before a formed gang's place on the same accumulator tile: it is still performed once the tile
has stopped, since formed gangs are completed (R436). -/
def Tile.beforeGang (t : Tile) (o : QOp) : Bool :=
  t.gangs.any fun g => g.any fun m => m.q == o.q && m.set == o.set && decide (o.id < m.qid)

/-- Whether a queued operation may be performed: not an mmac, not a drain that waits, its place come (R229, R350). -/
def Tile.qopReady (t : Tile) (o : QOp) : Bool :=
  (match o.what with | .mac => false | .drain _ _ _ _ _ _ w => !w | _ => true) && t.firstOnTile o && t.boardFree o.board

/-- Whether a stopped tile has no formed gang that can still be completed (R436). -/
def Tile.gangsDone (t : Tile) : Bool :=
  t.running.isNone && (match t.gangs with
    | [] => true
    | ms :: _ => !t.gangStartable ms && (ms.all fun m => m.lines.all fun l => !m.lacks l) &&
        !t.qops.any fun o => t.qopReady o && t.beforeGang o)

/-- QUARTER_OP_PERFORM (R229): the i-th queued operation of quarter q. -/
def execQuarterOpPerform (t : TileId) (q : Fin 4) (i : Nat) (s : State) : Host.Outcome State Fault Refusal :=
  s.happen fun s =>
    let x := s.tile t
    match (x.qops.filter fun o => o.q == q)[i]? with
    | none => s
    | some o =>
      if x.qopReady o && (!s.frozen t || x.beforeGang o) then (s.doQop t o).modTile t fun y => dropQop (y.retire o.board) o.id else s

end Sys2Proof.Machine
end

