-- ==== Sys2Proof/Machine/Posts.lean ====
section
/-!
DEFINITION. Posts: class 0x10 (R274 to R297), the events POST_COMMIT and POST_SAMPLE, and the watches (R291, R292).
-/
namespace Sys2Proof.Machine

/-- The trap value of a post permission trap (R293). -/
def postVal (reason : Nat) (n : BitVec 32) : Word := w64 (reason * 2 ^ 32 + n.toNat)

/-- Order 1 of R293. -/
def postNumOk (v : Word) : Bool := v.toNat < 2 ^ 32 && v.toNat % 8 == 0

/-- The entries of the tile's post list that name a post (R279). -/
def State.postEntries (s : State) (n : BitVec 32) : List PostEntry := s.myTile.posts.filter fun e => samePost s e.post n

/-- The entry an install needs, or the reason (R279, R293). A list that holds the post with an IN entry alone gives reason 1 (log 70,
DESIGN CHOICE: R293 does not say which). -/
def State.installEntry (s : State) (n : BitVec 32) : Except Nat PostEntry :=
  match (s.postEntries n).filter (·.isOut) with
  | [] => .error 1
  | e :: l => match (e :: l).find? fun x => x.writer.toNat == s.myPart.logical s.cur.1 with
    | some x => .ok x
    | none => .error 2

/-- The checks of a tile-store range of pput and pget (R295): the trap code. -/
def postRange (a n : Nat) : Option Nat :=
  if !inAnyWindow a then some cProt else if a % 64 ≠ 0 then some cAlign else if !inWindow a n then some cProt else none

/-- A request for a post on another module is charged to LINKLIM (R408). -/
def State.postRate (s : State) (n : BitVec 32) (bytes : Nat) (k : State → Eff) : Eff :=
  if postChip s n = s.chipId then k s
  else match s.myPart.chargeRate true bytes with
    | none => .wait (.rate true bytes)
    | some p => k (s.setPart s.myTag p)

/-- An install issues (R295). -/
def State.sendInstall (s : State) (n : BitVec 32) (e : PostEntry) (value : Nat) : Eff :=
  s.postRate n (256 * e.lines) fun s =>
    .go (s.addOp { Op.plain (.install n) with size := 256 * e.lines, data := value, cntS := true } true)

/-- Orders 1 and 2 of R293 for an install, then the rest. -/
def State.installForm (s : State) (a : G) (k : BitVec 32 → PostEntry → Eff) : Eff :=
  let v := s.me.gr a
  if !postNumOk v then .trap cProt 0 v
  else
    let n : BitVec 32 := v.setWidth 32
    match s.installEntry n with
    | .error r => .trap cPost 0 (postVal r n)
    | .ok e => k n e

/-- The 64-byte chunks of a range of the store whose poison an instruction would read, by address. -/
def Tile.badIn (t : Tile) (a n : Nat) : List Nat :=
  ((natsFrom (a / 64) ((a + n - 1) / 64 + 1 - a / 64)).map fun i => 64 * i).filter fun x => t.storeBad x 64

/-- An instruction reads a range of the store: poison traps at its first chunk (R428, R429), and under ignore it reads as zero and
is cleared (R424). -/
def State.softRead (s : State) (a n : Nat) (k : State → Eff) : Eff :=
  match (if n = 0 then [] else s.myTile.badIn a n) with
  | [] => k s
  | x :: l =>
    if s.me.waive = some cSoft then k (s.updTile fun t => (x :: l).foldl (fun t c => t.storeWrite c 0 64) t)
    else .trap cSoft 0 (w64 x)

/-- `pput` (R295). -/
def execPput (h : Hdr) (a b : G) (s : State) : Host.Outcome State Fault Refusal :=
  s.issue h { reads := [rG a, rG b], deep := [rG a, rG b], mem := true } fun s =>
    s.installForm a fun n e =>
      let v := s.me.gr b
      match postRange v.toNat (256 * e.lines) with
      | some c => .trap c 0 v
      | none =>
        if s.me.acquiring then .wait .acquire
        else s.softRead v.toNat (256 * e.lines) fun s => s.sendInstall n e (s.myTile.storeRead v.toNat (256 * e.lines))

/-- `pputv` (R295). Where only the odd register of a pair is a bound stream, TRAPVAL holds its code (log 70, DESIGN CHOICE: R203
speaks of an operand, and the pair is named by its even code). -/
def execPputv (h : Hdr) (a : G) (b : V) (s : State) : Host.Outcome State Fault Refusal :=
  s.issue h { reads := [rG a, rV b, rV (b + 1)], deep := [rG a], mem := true } fun s =>
    s.installForm a fun n e =>
      if e.lines ≠ 1 then .trap cPost 0 (postVal 3 n)
      else s.sendInstall n e ((s.me.vr b).toNat + (s.me.vr (b + 1)).toNat * 2 ^ 1024)

/-- `pputg` (R295). -/
def execPputg (h : Hdr) (a b : G) (s : State) : Host.Outcome State Fault Refusal :=
  s.issue h { reads := [rG a, rG b], deep := [rG a], mem := true } fun s =>
    s.installForm a fun n e => s.sendInstall n e (s.me.gr b).toNat

/-- A read of `bytes` bytes from byte `lo` of a post (R296): orders 1 and 2, the checks `k` of the entry, then the read,
whose freshness lies above the bytes in its data. During run-ahead it is not sent and its results are marked (R431). -/
def State.postRead (s : State) (a : G) (chk : BitVec 32 → PostEntry → Option Eff) (store : Option Nat) (lo : Nat)
    (bytes : PostEntry → Nat) (ds : Nat → List Dest) : Eff :=
  let v := s.me.gr a
  if !postNumOk v then .trap cProt 0 v
  else
    let n : BitVec 32 := v.setWidth 32
    match s.postEntries n with
    | [] => .trap cPost 0 (postVal 1 n)
    | e :: _ => match chk n e with
      | some eff => eff
      | none =>
        let m := bytes e
        if s.me.ahead then .go (s.upd fun x => x.markAll ((ds m).map (·.code)))
        else if store.isSome ∧ s.me.ra.isSome then .wait .confirm
        else s.postRate n m fun s =>
          .go (s.addOp { Op.plain (.sample n store lo m) with size := 256 * e.lines, dests := ds m, cntL := true } false)

/-- `pget` (R296). -/
def execPget (h : Hdr) (d a b : G) (s : State) : Host.Outcome State Fault Refusal :=
  s.issue h { reads := [rG a, rG b], writes := [rG d], deep := [rG a, rG b], mem := true } fun s =>
    let v := s.me.gr b
    s.postRead a (fun _ e => (postRange v.toNat (256 * e.lines)).map fun c => .trap c 0 v) (some v.toNat) 0 (fun e => 256 * e.lines)
      fun m => [destOf (rG d) (8 * m) 64 false]

/-- `pgetv` (R296). TRAPVAL of a pair as in pputv (log 70). -/
def execPgetv (h : Hdr) (d : V) (a c : G) (line : BitVec 6) (s : State) : Host.Outcome State Fault Refusal :=
  s.issue h { reads := [rG a], writes := [rV d, rV (d + 1), rG c], deep := [rG a], mem := true } fun s =>
    s.postRead a (fun n e => if line.toNat < e.lines then none else some (.trap cPost 0 (postVal 4 n))) none (256 * line.toNat)
      (fun _ => 256) fun m => [destOf (rV d) 0 1024 false, destOf (rV (d + 1)) 1024 1024 false, destOf (rG c) (8 * m) 64 false]

/-- `pgetg` (R296). -/
def execPgetg (h : Hdr) (d a c : G) (quad : BitVec 11) (s : State) : Host.Outcome State Fault Refusal :=
  s.issue h { reads := [rG a], writes := [rG d, rG c], deep := [rG a], mem := true } fun s =>
    s.postRead a (fun n e => if quad.toNat < 32 * e.lines then none else some (.trap cPost 0 (postVal 4 n))) none (8 * quad.toNat)
      (fun _ => 8) fun m => [destOf (rG d) 0 64 false, destOf (rG c) (8 * m) 64 false]

/-- `pfresh` (R296). -/
def execPfresh (h : Hdr) (d a : G) (s : State) : Host.Outcome State Fault Refusal :=
  s.issue h { reads := [rG a], writes := [rG d], deep := [rG a], mem := true } fun s =>
    s.postRead a (fun _ _ => none) none 0 (fun _ => 0) fun m => [destOf (rG d) (8 * m) 64 false]

/-- `pwatch` (R297). -/
def execPwatch (h : Hdr) (a b : G) (s : State) : Host.Outcome State Fault Refusal :=
  s.issue h { reads := [rG a, rG b], deep := [rG a, rG b], outside := true } fun s =>
    let v := s.me.gr a
    let w := s.me.gr b
    let n : BitVec 32 := v.setWidth 32
    if !postNumOk v then .trap cProt 0 v
    else if (s.postEntries n).isEmpty then .trap cPost 0 (postVal 1 n)
    else if w &&& ~~~0xFF0F ≠ 0 then .trap cProt 0 w
    else
      let i := w.toNat % 16
      let lim := bitsAt w.toNat 8 8
      .go (s.updTile fun t =>
        { t with watch := t.watch.set i (w64 (n.toNat * 2 ^ 32 + lim * 2 ^ 24 + s.cur.2.val * 2 ^ 11 + bool01 (lim != 0)))
                            (Nat.mod_lt _ (by decide)),
                 watchF := t.watchF.set i 0 (Nat.mod_lt _ (by decide)) })

/-! ## Watches (R291, R292) -/

/-- A read returned freshness f for a post to a tile. -/
def State.watchSee (s : State) (t : TileId) (n : BitVec 32) (f : Nat) : State :=
  s.modTile t fun x => (natsFrom 0 16).foldl (fun x i =>
    let w := x.watch[i % 16]'(Nat.mod_lt _ (by decide))
    if w.getLsbD 0 && samePost s (w.extractLsb' 32 32) n && decide (f > (x.watchF[i % 16]'(Nat.mod_lt _ (by decide))).toNat) then
      { x with watch := x.watch.set (i % 16) (w ||| 2) (Nat.mod_lt _ (by decide)),
               watchF := x.watchF.set (i % 16) (w64 f) (Nat.mod_lt _ (by decide)) }
    else x) x

/-- The update of one watch at a new round's start; whether it trips. -/
def watchStep (w : Word) : Word × Bool :=
  if !w.getLsbD 0 then (w, false)
  else
    let lim := bitsAt w.toNat 24 8
    let c := if w.getLsbD 1 then 0 else Nat.min (bitsAt w.toNat 16 8 + 1) 255
    let trip := decide (c ≥ lim)
    (w64 (putBits (putBits w.toNat 1 1 0) 16 8 (if trip then 0 else c)), trip)

/-- The slot that a watch's trap is raised in: its own, or the lowest-numbered active one. -/
def Tile.watchSlot (x : Tile) (w : Word) : SlotId :=
  let k := slotOf (bitsAt w.toNat 11 5)
  if (x.slot k).active then k
  else slotOf ((minOf ((allSlots.filter fun j => (x.slot j).active).map (·.val))).getD k.val)

/-- The watches at the start of a new round: their traps wait for the slots' first issue, in increasing n within each slot, while
different slots take theirs independently (log 70, DESIGN CHOICE: R292 speaks of one slot's). -/
def State.watchRound (s : State) (t : TileId) : State :=
  (natsFrom 0 16).foldl (fun s i =>
    let x := s.tile t
    let w := x.watch[i % 16]'(Nat.mod_lt _ (by decide))
    let (w', trip) := watchStep w
    let s1 := s.modTile t fun y => { y with watch := y.watch.set (i % 16) w' (Nat.mod_lt _ (by decide)) }
    if trip then
      let tr : TrapRec := { code := cStale, info := 0, pc := 0, val := w64 (i * 2 ^ 32 + bitsAt w.toNat 32 32), precise := false }
      s1.modSlot t (x.watchSlot w) fun y => { y with deferred := y.deferred ++ [tr] }
    else s1) s

/-! ## Commit and sample (R281 to R283) -/

/-- Whether every earlier operation of the slot on a post has reached it or is on its way there (R283). -/
def Slot.postFirst (x : Slot) (s : State) (o : Op) (n : BitVec 32) : Bool :=
  x.ops.all fun q => decide (o.id ≤ q.id) || q.ready || q.sent ||
    (match q.kind with | .install m => !samePost s m n | .sample m _ _ _ => !samePost s m n | _ => true)

/-- A deferred post permission trap (R293). -/
def State.postTrap (s : State) (t : TileId) (k : SlotId) (reason : Nat) (n : BitVec 32) : State :=
  s.deferTrap t k cPost 0 (postVal reason n)

/-- A request to a post of another module leaves the slot. -/
def State.sendPost (s : State) (t : TileId) (k : SlotId) (o : Op) (n : BitVec 32) (r : RemoteReq) : State :=
  let tag := (s.tile t).tag.toNat
  let tt := ((s.part tag).link (postChip s n)).getD 0
  (s.modSlot t k fun x => x.setOp { o with sent := true }).sendMsg tag (postChip s n) (.access tt { r with addr := n.toNat, size := o.size })

/-- The slice acknowledges an install: CNTS is lowered, and a refusal (5 exhausted, else at home) traps (R293, R295). -/
def State.installDone (s : State) (t : TileId) (k : SlotId) (o : Op) (n : BitVec 32) (st : Nat) : State :=
  let s1 := s.modSlot t k fun y => y.dropOp o
  if st = 0 then s1.tileSample t 0x200 ((s.tile t).cycle - o.t0) else s1.postTrap t k (if st = 5 then 5 else 6) n

/-- POST_COMMIT (R281, R282, R295): an install commits or is refused, and CNTS is lowered. An install to another module leaves
first, and once it has left `ext` is the answer: 0 committed, 5 exhausted, else refused. -/
def execPostCommit (t : TileId) (k : SlotId) (op : Nat) (ext : Nat) (s : State) : Host.Outcome State Fault Refusal :=
  s.happenAt t fun s =>
    let x := s.slot t k
    match x.opOf op with
    | none => s
    | some o => match o.kind with
      | .install n =>
        if o.sent then s.installDone t k o n ext
        else if !(x.free o && x.postFirst s o n) then s
        else if postChip s n = s.chipId then
          let (s1, st) := s.commitPost (postKey n) o.data
          s1.installDone t k o n st
        else s.sendPost t k o n { kind := .install, addr := 0, size := 0, data := o.data, op := 0, cmp := 0 }
      | _ => s

/-- A read has its value and freshness: the tile-store bytes of pget are written (R296), with the poison of each chunk. All its
chunks change in this one event (log 70, DESIGN CHOICE: R296 lets each be old or new before the result is written). -/
def State.sampleDone (s : State) (t : TileId) (k : SlotId) (o : Op) (store : Option Nat) (m v f mask : Nat) : State :=
  let s1 := match store with
    | none => s
    | some a => s.modTile t fun x =>
        let y := x.storeWrite a v m
        { y with badChunks := (((natsFrom 0 (m / 64)).filter fun i => bitsAt mask (2 * i) 2 != 0).map fun i => chunksOf (a + 64 * i) 64).flatten ++ y.badChunks }
  s1.modSlot t k fun x => x.setOp { o with data := v + f * 2 ^ (8 * m), ready := true, performed := true, bad := store.isNone && mask != 0 }

/-- A refused read: the trap takes the place of its long result, at the read (R293). Containment treats it as precise, so that
under ignore the read's registers become zero and the slot goes on after the read (log 70, DESIGN CHOICE: R420 lists its reason
among those deferred, R293 puts TRAPPC at the read). In an inactive slot it is deferred. -/
def State.sampleRefused (s : State) (t : TileId) (k : SlotId) (o : Op) (n : BitVec 32) : State :=
  let s1 := s.modSlot t k fun x => x.dropOp o
  if (s.slot t k).active then s1.modSlot t k fun x =>
    { x with deferred := x.deferred ++ [{ code := cPost, info := 0, pc := o.pc, val := postVal 6 n, precise := true }] }
  else s1.postTrap t k 6 n

/-- POST_SAMPLE (R281, R296): a read samples its post. A read of another module's post leaves first, and once it has left the answer
is refused, or F in `extF` and in `extV` the bytes asked for, with the poisoned granules among them above. -/
def execPostSample (t : TileId) (k : SlotId) (op : Nat) (extF : Word) (extV : Nat) (refused : Bool) (s : State) :
    Host.Outcome State Fault Refusal :=
  s.happenAt t fun s =>
    let x := s.slot t k
    match x.opOf op with
    | none => s
    | some o => match o.kind with
      | .sample n store lo m =>
        if o.ready then s
        else if o.sent then
          if refused then s.sampleRefused t k o n
          else s.sampleDone t k o store m (bitsAt extV 0 (8 * m)) extF.toNat (extV / 2 ^ (8 * m))
        else if !(x.free o && x.postFirst s o n) then s
        else if postChip s n = s.chipId then
          match mapFind s.posts (postKey n) with
          | none => s.sampleRefused t k o n
          | some p => s.sampleDone t k o store m (Memory.readN p.val lo m) p.f.toNat (p.badMask lo m)
        else s.sendPost t k o n { kind := .sample, addr := 0, size := 0, data := 0, op := lo, cmp := m }
      | _ => s

end Sys2Proof.Machine
end

