-- ==== Sys2Proof/Machine/Waybills.lean ====
section
/-!
DEFINITION. Waybills: the table and grants (R357 to R362), the dispatcher (R363 to R371), bindings and results (R372 to
R375), class 0x11 (R376 to R380), and their events.
-/
namespace Sys2Proof.Machine

/-! ## Waybills and the table (R357 to R359) -/

def wbSlotNo (w : Word) : Nat := bitsAt w.toNat 32 20
def wbGen (w : Word) : Nat := bitsAt w.toNat 8 24
def wbFailed (w : Word) : Bool := w.getLsbD 1

/-- A FAILED waybill with a cause. -/
def failedWb (chip : Chip) (code : Nat) : Word := w64 (chip.toNat * 2 ^ 52 + code * 2 ^ 32 + 3)

/-- Malformed values (R357). -/
def wbMalformed (w : Word) : Bool :=
  !w.getLsbD 0 || bitsAt w.toNat 2 6 != 0 || (!wbFailed w && (wbGen w == 0 || bitsAt w.toNat 52 12 == 0xFFF)) ||
    (wbFailed w && (bitsAt w.toNat 40 12 != 0 || wbGen w != 0))

/-- A slot of the table; one that was never granted holds generation 1. -/
def State.wbAt (s : State) (n : Nat) : WbSlot := mapGet { gen := 1, st := .free, binds := [], asked := [], freed := 0 } s.waybills n
def State.setWb (s : State) (n : Nat) (x : WbSlot) : State := { s with waybills := mapSet s.waybills n x }

/-- The range of a partition (R397). -/
def Part.wbFirst (p : Part) : Nat := bitsAt p.wayb.toNat 0 20
def Part.wbLast (p : Part) : Nat := bitsAt p.wayb.toNat 32 20

/-- The slot that a waybill matches within a partition's range (R358). -/
def State.wbMatch (s : State) (tag : Nat) (w : Word) : Option WbSlot :=
  let p := s.part tag
  let n := wbSlotNo w
  let x := s.wbAt n
  if p.wbFirst ≤ n ∧ n ≤ p.wbLast ∧ x.gen.toNat = wbGen w ∧ x.st ≠ .free then some x else none

/-- The partition that a partition's own accesses to a chip reach there (R270, R369). -/
def State.reach (s : State) (tag : Nat) (chip : Chip) : Option Tag := (s.part tag).link chip

/-- The generation after one (R359). -/
def genNext (g : BitVec 24) : BitVec 24 := if g = 0xFFFFFF then 1 else g + 1

/-- A slot becomes free (R359). -/
def State.freeWb (s : State) (n : Nat) : State :=
  let (s1, q) := s.fresh
  s1.setWb n { gen := genNext (s.wbAt n).gen, st := .free, binds := [], asked := [], freed := q }

/-! ## Grants (R361) -/

/-- The free slot of a range that was freed longest ago; those not granted since the enable come first, in slot order. -/
def State.oldestFree (s : State) (p : Part) : Option Nat :=
  let lo := p.wbFirst
  let hi := p.wbLast
  let never : Nat → Bool := fun n => n ≤ hi && (s.wbAt n).st == .free && (s.wbAt n).freed == 0
  match (natsFrom lo (s.waybills.length + 1)).find? never with
  | some n => some n
  | none =>
    let fr := s.waybills.filter fun x => lo ≤ x.1 && x.1 ≤ hi && x.2.st == .free
    match minOf (fr.map (·.2.freed)) with
    | none => none
    | some f => (fr.find? fun x => x.2.freed == f).map (·.1)

/-- Grants up to n slots of a partition's range. -/
def State.grant (s : State) (tag : Nat) : Nat → State × List (BitVec 20 × BitVec 24)
  | 0 => (s, [])
  | n + 1 => match s.oldestFree (s.part tag) with
    | none => (s, [])
    | some i =>
      let x := s.wbAt i
      let (s1, l) := State.grant (s.setWb i { x with st := .pending, binds := [], asked := [] }) tag n
      (s1, (BitVec.ofNat 20 i, x.gen) :: l)

def Part.pool (p : Part) (chip : Chip) : List (BitVec 20 × BitVec 24) := mapGet [] p.pools chip.toNat
def Part.setPool (p : Part) (chip : Chip) (l : List (BitVec 20 × BitVec 24)) : Part :=
  { p with pools := mapSet p.pools chip.toNat (l.take 64) }

/-- A pool that holds fewer than 16 grants asks for 32 more; this module's own table answers at once (R361). -/
def State.refill (s : State) (tag : Nat) (chip : Chip) : State :=
  let p := s.part tag
  match s.reach tag chip with
  | none => s
  | some tt =>
    if (p.pool chip).length ≥ 16 ∨ p.poolAsked.contains chip.toNat then s
    else if chip = s.chipId then
      let (s1, l) := if (s.part tt.toNat).en then s.grant tt.toNat 32 else (s, [])
      s1.modPart tag fun q => q.setPool chip (q.pool chip ++ l)
    else (s.emit (.grantRequest chip tt 32)).modPart tag fun q => { q with poolAsked := chip.toNat :: q.poolAsked }

/-- The oldest grant of a pool. -/
def State.takeGrant (s : State) (tag : Nat) (chip : Chip) : State × Option (BitVec 20 × BitVec 24) :=
  match (s.part tag).pool chip with
  | [] => (s, none)
  | g :: l => ((s.modPart tag fun q => q.setPool chip l).refill tag chip, some g)

/-! ## What is known of a waybill (R369, R371) -/

/-- What a slot came to, if it is settled. -/
def WbSlot.outcome (x : WbSlot) : Option WbOutcome :=
  match x.st with
  | .resolved v len a => some (.resolved v len a)
  | .broken r c sv d _ => some (.broken r c sv d)
  | _ => none

/-- What a FAILED waybill reads as (R378). -/
def failedOutcome (w : Word) : WbOutcome := .broken w (w.extractLsb' 32 8) 0 0

/-- What the dispatcher of a partition knows of a named waybill. -/
def State.wbKnown (s : State) (tag : Nat) (q : QInv) (w : Word) : Option WbOutcome :=
  if wbFailed w then some (failedOutcome w)
  else match q.known.find? (fun k => k.1 == w) with
    | some k => some k.2
    | none =>
      if wbChip w = s.chipId then
        (match s.wbMatch tag w with
        | none => some .stale
        | some x => x.outcome)
      else none

/-- The waybills an invocation names: its target, then its arguments in increasing i. -/
def invNamed (i : Inv) : List Word :=
  i.target.toList ++ ((i.args.zipIdx.filter fun a => i.warg.getLsbD a.2).map (·.1))

/-- The break that the first deciding named waybill brings (R371). -/
def State.deciding (s : State) (tag : Nat) (q : QInv) : List Word → Option WbState
  | [] => none
  | w :: l => match s.wbKnown tag q w with
    | some (.broken r c sv d) => some (.broken r c sv (Nat.min (d + 1) 65535) w)
    | some .dropped => some (.broken q.inv.wb 6 0 0 w)
    | some .stale => some (.broken q.inv.wb 7 0 0 w)
    | _ => State.deciding s tag q l

/-! ## Settling a slot (R360, R368, R372) -/

/-- The partition whose range holds a slot. -/
def State.wbOwner (s : State) (n : Nat) : Nat :=
  match s.parts.find? fun p => p.2.en && p.2.wbFirst ≤ n && n ≤ p.2.wbLast with
  | some p => p.1
  | none => 0

/-- Tells the dispatchers of other chips that wait for a waybill what it came to (R369). -/
def State.tellValue (s : State) (tag : Nat) (x : WbSlot) (w : Word) (o : WbOutcome) : State :=
  x.asked.foldl (fun s c => s.sendMsg tag c.1 (.value c.2 w o)) s

/-- An invocation's waybill resolves or breaks, if it still matches its slot and is pending. -/
def State.settleWb (s : State) (tag : Nat) (w : Word) (st : WbState) : State :=
  match s.wbMatch tag w with
  | none => s
  | some x =>
    if x.st ≠ .pending then s
    else
      let x' := { x with st }
      let s1 := s.setWb (wbSlotNo w) x'
      match x'.outcome with
      | some o => s1.tellValue tag x w o
      | none => s1

/-- Takes an invocation off a queue, by its waybill. -/
def State.dequeue (s : State) (tag : Nat) (w : Word) : State :=
  s.modPart tag fun p => { p with queue := p.queue.filter fun q => q.inv.wb ≠ w }

/-- Acts on a tile that a saved context holds as on one in place. -/
def State.inSaved (s : State) (key : Nat) (t : TileId) (f : State → State) : State :=
  match mapFind s.saved key with
  | none => s
  | some c => match c.tiles.find? fun x => x.1 == t with
    | none => s
    | some x =>
      let s1 := f (s.setTile t x.2)
      { s1.setTile t (s.tile t) with saved := mapSet s1.saved key { c with tiles := c.tiles.map fun y => if y.1 = t then (t, s1.tile t) else y } }

/-- Acts on a tile while it runs a launch, in place or in a saved context. -/
def State.whereRuns (s : State) (tag e : Nat) (t : TileId) (f : State → State) : State :=
  let runs : Tile → Bool := fun x => x.tag.toNat == tag && x.launch == some e
  if runs (s.tile t) then f s
  else match s.saved.find? fun c => c.2.tiles.any fun x => x.1 == t && runs x.2 with
    | some c => s.inSaved c.1 t f
    | none => s

/-- The deferred stale-waybill trap (R376). -/
def State.staleTrap (s : State) (t : TileId) (k : SlotId) (w : Word) : State := s.deferTrap t k cWaybill 0 w

/-- The report that an invocation of a slot of this module names a stale waybill of another module traps that slot (R376). -/
def State.staleReport (s : State) (tag : Nat) (inv w : Word) : State :=
  match (s.part tag).named.find? fun n => n.1 == inv with
  | none => s
  | some n =>
    (s.modPart tag fun p => { p with named := p.named.filter fun m => m.1 ≠ inv }).whereRuns tag n.2.1 n.2.2.1
      fun s => s.staleTrap n.2.2.1 n.2.2.2 w

/-- A named waybill of a module other than its sender's that does not match at its home is reported to the sender (R376). -/
def State.reportStale (s : State) (tag : Nat) (i : Inv) (st : WbState) : State :=
  match st with
  | .broken root code _ 0 w =>
    if root ≠ i.wb ∨ code ≠ 7 ∨ wbChip w = i.sndChip then s
    else if i.sndChip = s.chipId then s.staleReport i.sndTag.toNat i.wb w
    else s.sendMsg tag i.sndChip (.stale i.sndTag i.wb w)
  | _ => s

/-- One invocation that is neither eligible nor handed out: it breaks, or becomes eligible with the values it carries. -/
def State.judge (s : State) (tag : Nat) (q : QInv) : State :=
  let ws := (invNamed q.inv)
  match s.deciding tag q ws with
  | some st => ((s.dequeue tag q.inv.wb).settleWb tag q.inv.wb st).reportStale tag q.inv st
  | none =>
    let os := ws.map fun w => (w, s.wbKnown tag q w)
    if os.all (fun o => o.2.isSome) then
      let (s1, n) := s.fresh
      let q' := { q with elig := some n, known := os.filterMap fun o => o.2.map fun x => (o.1, x) }
      s1.modPart tag fun p => { p with queue := p.queue.map fun z => if z.inv.wb = q.inv.wb then q' else z }
    else s

/-- The dispatcher acts on all it knows; breaks break their dependants in turn (R371). -/
def State.dispatch (s : State) (tag : Nat) : Nat → State
  | 0 => s
  | n + 1 =>
    let todo := (s.part tag).queue.filter fun q => q.elig.isNone && q.handed.isNone
    let s1 := todo.foldl (fun s q => s.judge tag q) s
    if (s1.part tag).queue.length < (s.part tag).queue.length then State.dispatch s1 tag n else s1

def State.dispatchAll (s : State) (tag : Nat) : State := s.dispatch tag ((s.part tag).queue.length + 1)

/-- A waybill breaks with a cause of its own (R360). -/
def State.breakWb (s : State) (tag : Nat) (w : Word) (code svcst : Byte) : State :=
  (s.settleWb tag w (.broken w code svcst 0 0)).dispatchAll tag

/-- A dispatcher learns what a waybill of another chip came to. -/
def State.learn (s : State) (tag : Nat) (w : Word) (o : WbOutcome) : State :=
  (s.modPart tag fun p => { p with queue := p.queue.map fun q =>
    if q.elig.isNone && (invNamed q.inv).contains w && (q.known.find? fun k => k.1 == w).isNone then { q with known := (w, o) :: q.known } else q }).dispatchAll tag

/-- A slot is dropped (R375, R380): what waits for it while it is pending, on any chip, breaks with code 6, the rest finds a
mismatch. -/
def State.dropWb (s : State) (tag : Nat) (w : Word) : State :=
  let x := s.wbAt (wbSlotNo w)
  let pend := x.st == .pending
  let tell (q : QInv) : QInv :=
    if pend && q.elig.isNone && (invNamed q.inv).contains w then { q with known := (w, .dropped) :: q.known } else q
  let s1 := s.modPart tag fun p => { p with queue := p.queue.map tell }
  ((if pend then s1.tellValue tag x w .dropped else s1).freeWb (wbSlotNo w)).dispatchAll tag

/-! ## Class 0x11: issue -/

/-- The check of a waybill operand at issue, a FAILED one included (R376). -/
def State.wbIssueBad (s : State) (w : Word) : Bool := wbMalformed w || (s.reach s.myTag (wbChip w)).isNone

/-- A dispatcher post of the tile's post list on this module (R364). -/
def State.dispatcherPost (s : State) (n : BitVec 32) : Bool :=
  n.toNat % 8 == 0 && postChip s n == s.chipId && (s.postEntries n).any fun e => e.writer == 0xFFFF && e.isIn && !e.isOut

/-- Bytes of the tile store as doublewords. -/
def Tile.words (t : Tile) (a n : Nat) : List Word := (natsFrom 0 n).map fun i => w64 (t.storeRead (a + 8 * i) 8)

/-- The checks of invoke on its arguments and target (R377, orders 1 and 2): the trap code and value. -/
def State.invokeBad (s : State) (tw : Bool) (ga gb : Word) (narg : Nat) : Option (Nat × Word) :=
  if narg > 0 ∧ (!inAnyWindow gb.toNat || gb.toNat % 8 != 0) then some (cAlign, gb)
  else if narg > 0 ∧ !inWindow gb.toNat (8 * narg) then some (cProt, gb)
  else if tw then (if s.wbIssueBad ga then some (cProt, ga) else none)
  else if ga.toNat ≥ 4096 then some (cProt, ga)
  else
    let c : Chip := if ga.toNat = 0xFFF then s.chipId else ga.setWidth 12
    if (s.reach s.myTag c).isNone then some (cProt, ga) else none

/-- The check of invoke on its result post (R377, order 4): code and value. -/
def State.resultPostBad (s : State) (v : Word) : Option (Nat × Word) :=
  if !postNumOk v then some (cProt, v)
  else
    let n : BitVec 32 := v.setWidth 32
    if (s.postEntries n).isEmpty then some (cPost, postVal 1 n)
    else if s.dispatcherPost n then none else some (cPost, postVal 2 n)

/-- `invoke` (R377). -/
def execInvoke (h : Hdr) (d a b c : G) (svc : BitVec 12) (narg : BitVec 4) (warg : BitVec 8) (tw rp : Bool) (s : State) :
    Host.Outcome State Fault Refusal :=
  s.issue h { reads := [rG a] ++ (if narg = 0 then [] else [rG b]) ++ (if rp then [rG c] else []), writes := [rG d],
              deep := [rG a] ++ (if narg = 0 then [] else [rG b]) ++ (if rp then [rG c] else []), mem := true } fun s =>
    let ga := s.me.gr a
    let gb := s.me.gr b
    let n := narg.toNat
    match s.invokeBad tw ga gb n with
    | some (code, v) => .trap code 0 v
    | none =>
      if n > 0 ∧ s.me.acquiring then .wait .acquire
      else s.softRead gb.toNat (8 * n) fun s =>
          let args := s.myTile.words gb.toNat n
          match (args.zipIdx.filter fun x => warg.getLsbD x.2).find? (fun x => s.wbIssueBad x.1) with
          | some x => .trap cProt 0 x.1
          | none => match (if rp then s.resultPostBad (s.me.gr c) else none) with
            | some (code, v) => .trap code 0 v
            | none =>
              let chip := if tw then wbChip ga else if ga.toNat = 0xFFF then s.chipId else ga.setWidth 12
              let inv : Inv := { wb := 0, svc, target := if tw then some ga else none, args, warg,
                                 post := if rp then some ((s.me.gr c).setWidth 32) else none, sndChip := s.chipId,
                                 sndTile := BitVec.ofNat 16 (s.myPart.logical s.cur.1), sndSlot := BitVec.ofNat 5 s.cur.2.val,
                                 sndTag := BitVec.ofNat 8 s.myTag, after := (s.me.ops.filter (·.cntS)).map (·.id) }
              .go (s.ask (.invoke inv chip) [destOf (rG d) 0 64 false] true)

/-- A query of a slot (R378). -/
def State.wbQuery (s : State) (h : Hdr) (d a : G) (q : Word → Query) : Host.Outcome State Fault Refusal :=
  s.issue h { reads := [rG a], writes := [rG d], deep := [rG a], mem := true } fun s =>
    let w := s.me.gr a
    if s.wbIssueBad w then .trap cProt 0 w else .go (s.ask (q w) [destOf (rG d) 0 64 false] false)

/-- `wbstate` (R378). -/
def execWbstate (h : Hdr) (d a : G) (item : BitVec 2) (s : State) : Host.Outcome State Fault Refusal :=
  s.wbQuery h d a fun w => .wbstate w item

/-- `wbcause` (R378). -/
def execWbcause (h : Hdr) (d a : G) (item : BitVec 2) (s : State) : Host.Outcome State Fault Refusal :=
  s.wbQuery h d a fun w => .wbcause w item

/-- `wbbind` (R379). -/
def execWbbind (h : Hdr) (a b : G) (s : State) : Host.Outcome State Fault Refusal :=
  s.issue h { reads := [rG a, rG b], deep := [rG a, rG b], mem := true } fun s =>
    let w := s.me.gr a
    let v := s.me.gr b
    if s.wbIssueBad w then .trap cProt 0 w
    else if v.toNat % 8 ≠ 0 then .trap cAlign 0 v
    else if !inWindow v.toNat 16 then .trap cProt 0 v
    else if s.me.acquiring then .wait .acquire
    else s.softRead v.toNat 16 fun s =>
        let post : BitVec 32 := BitVec.ofNat 32 (s.myTile.storeRead v.toNat 4)
        let limit := s.myTile.storeRead (v.toNat + 4) 4
        let buf := s.myTile.storeRead (v.toNat + 8) 8
        if !s.dispatcherPost post then .trap cPost 0 (postVal 2 post)
        else if buf ≠ 0 ∧ (s.myPart.extent < buf + Nat.max limit 1 ∨ s.myPart.grants buf limit needW = false) then .trap cProt 0 (w64 buf)
        else .go (s.addOp { Op.plain (.bind w post limit buf) with cntS := true } true)

/-- `wbdrop` (R380). -/
def execWbdrop (h : Hdr) (a : G) (s : State) : Host.Outcome State Fault Refusal :=
  s.issue h { reads := [rG a], deep := [rG a], mem := true } fun s =>
    let w := s.me.gr a
    if s.wbIssueBad w then .trap cProt 0 w
    else if wbFailed w then .go s
    else .go (s.addOp { Op.plain (.drop w) with cntS := true } true)

/-! ## The invocation leaves (R361, R362, R376) -/

/-- The instance of the job of the launch a tile runs. -/
def State.jobOf (s : State) (t : TileId) : Nat :=
  match (s.tile t).launch with
  | none => 0
  | some e => match s.launch (s.tile t).tag.toNat e with
    | some l => l.up.getD 2 0
    | none => 0

/-- The stale waybills of this module that an invocation names: the first traps its slot (R376). -/
def State.staleNamed (s : State) (tag : Nat) (inv : Inv) : Option Word :=
  match s.reach tag s.chipId with
  | none => none
  | some tt => (invNamed inv).find? fun w => !wbFailed w && wbChip w == s.chipId && (s.wbMatch tt.toNat w).isNone

/-- Whether the sender's operations that an invocation waits for have been lowered; those of a saved context are still counted
(R374, R437). -/
def State.afterDone (s : State) (inv : Inv) : Bool :=
  let through : Tile → Bool := fun t => t.slots.all fun x => x.ops.all fun o => !inv.after.contains o.id
  inv.sndChip != s.chipId || ((s.tiles.all fun t => through t.2) && s.saved.all fun c => c.2.tiles.all fun t => through t.2)

/-- One invocation message of the hub die: it leaves once its sender's earlier operations have been lowered and the bucket holds its
charge, after every earlier one of its slot to that chip (R307, R374, R409). -/
def State.sendOne (s : State) (tag : Nat) (m : Chip × Tag × Inv) : State :=
  let same (n : Chip × Tag × Inv) : Bool := n.1 == m.1 && n.2.2.sndTile == m.2.2.sndTile && n.2.2.sndSlot == m.2.2.sndSlot
  let keep := s.modPart tag fun p => { p with outbox := p.outbox ++ [m] }
  if (s.part tag).outbox.any same || !s.afterDone m.2.2 then keep
  else match (s.part tag).chargeRate true (64 + 8 * m.2.2.args.length) with
    | none => keep
    | some p => (s.setPart tag p).sendMsg tag m.1 (.invocation m.2.1 m.2.2)

/-- The hub die sends what it may of a partition's invocation messages to other modules. -/
def State.sendOut (s : State) (tag : Nat) : State :=
  (s.part tag).outbox.foldl (fun s m => s.sendOne tag m) (s.modPart tag fun p => { p with outbox := [] })

/-- The result record (R372). -/
def resultRecord (w value : Word) (code svcst : Byte) (bytes : Nat) (root : Word) : Nat :=
  w.toNat + value.toNat * 2 ^ 64 + code.toNat * 2 ^ 128 + svcst.toNat * 2 ^ 136 + bytes % 2 ^ 32 * 2 ^ 160 + root.toNat * 2 ^ 192

/-- The record of an outcome. -/
def outcomeRecord (w : Word) (bytes : Nat) : WbOutcome → Nat
  | .resolved v _ _ => resultRecord w v 0 0 bytes 0
  | .broken r c sv _ => resultRecord w 0 c sv 0 r
  | _ => resultRecord w 0 0 0 0 0

/-- A FAILED waybill's binding is served at once, from its own cause (R372, R379). -/
def State.serveFailed (s : State) (w : Word) (post : BitVec 32) : State :=
  (s.commitPost (postKey post) (outcomeRecord w 0 (failedOutcome w))).1

/-- The result of an invoke: its waybill, and with a grant the invocation goes towards its chip. Without one the waybill is FAILED,
and a result post is served from it (R362, R377, R379). -/
def State.sendInvoke (s : State) (t : TileId) (k : SlotId) (o : Op) (inv : Inv) (chip : Chip) (g : Option (BitVec 20 × BitVec 24)) : State :=
  let tag := (s.tile t).tag.toNat
  let s0 := match s.staleNamed tag inv with | some w => s.staleTrap t k w | none => s
  let ready (s : State) (w : Word) : State := s.modSlot t k fun x => x.setOp { o with data := w.toNat, ready := true, performed := true }
  match g with
  | none =>
    let s1 := ready s0 (failedWb chip 4)
    match inv.post with
    | some p => s1.serveFailed (failedWb chip 4) p
    | none => s1
  | some (n, gen) =>
    let w := waybill chip n gen
    let chips := (((invNamed inv).filter fun x => !wbFailed x).map wbChip).eraseDups
    let inv' := { inv with wb := w, tags := chips.filterMap fun c => (s.reach tag c).map fun tt => (c, tt) }
    let s1 := (ready s0 w).modPart tag fun p =>
      { p with taken := (w, s.jobOf t) :: p.taken,
               named := if chips.all (· == s.chipId) then p.named else (w, (s.tile t).launch.getD 0, t, k) :: p.named }
    match s1.reach tag chip with
    | none => s1
    | some tt =>
      if chip = s1.chipId then s1.event (.dispatcherInvocationArrive tt inv')
      else (s1.modPart tag fun p => { p with outbox := p.outbox ++ [(chip, tt, inv')] }).sendOut tag

/-- An invoke reaches the hub die (R361, R362): it takes the oldest grant, or waits for the answer to the pool's request,
which this module's own table gives at once. -/
def State.invokeReturn (s : State) (t : TileId) (k : SlotId) (o : Op) (inv : Inv) (chip : Chip) : State :=
  let tag := (s.tile t).tag.toNat
  let s1 := s.refill tag chip
  match s1.takeGrant tag chip with
  | (s2, some g) => s2.sendInvoke t k o inv chip (some g)
  | (s2, none) =>
    if chip = s2.chipId then s2.sendInvoke t k o inv chip none
    else s2.modSlot t k fun x => x.setOp { o with performed := true }

/-! ## Reading a slot (R378) -/

/-- What wbstate or wbcause reads of an outcome; none is a pending slot. -/
def wbItem (cause : Bool) (item : Nat) (parent : Word) (o : Option WbOutcome) : Word :=
  match cause, item, o with
  | false, 0, none => 1#64 <<< 62
  | false, 0, some (.resolved _ len _) => w64 (2 * 2 ^ 62 + len)
  | false, 0, some (.broken _ c _ _) => w64 (3 * 2 ^ 62 + c.toNat)
  | false, 1, some (.resolved v _ _) => v
  | true, 0, some (.broken r _ _ _) => r
  | true, 1, some (.broken _ c sv d) => w64 (d * 2 ^ 16 + sv.toNat * 2 ^ 8 + c.toNat)
  | true, 2, some (.broken _ _ _ _) => parent
  | _, _, _ => 0

/-- What a slot of this module's table answers to a query, or none when the generation does not match (R378). -/
def State.wbRead (s : State) (tag : Nat) (w : Word) (cause : Bool) (item : BitVec 2) : Option Word :=
  (s.wbMatch tag w).map fun x => wbItem cause item.toNat (match x.st with | .broken _ _ _ _ p => p | _ => 0) x.outcome

/-- The answer of the table comes back, or none and the stale-waybill trap in place of the result, at the instruction (R376). -/
def State.wbReturn (s : State) (t : TileId) (k : SlotId) (o : Op) (w : Word) (v : Option Word) : State :=
  match v with
  | some v => s.modSlot t k fun x => x.setOp { o with data := v.toNat, ready := true, performed := true }
  | none => s.modSlot t k fun x =>
      let y := x.dropOp o
      { y with deferred := y.deferred ++ [{ code := cWaybill, info := 0, pc := o.pc, val := w, precise := true }] }

/-- A request about a waybill leaves for its module. -/
def State.askTable (s : State) (t : TileId) (k : SlotId) (o : Op) (w : Word) (m : Msg) : State :=
  (s.modSlot t k fun x => x.setOp { o with sent := true }).sendMsg (s.tile t).tag.toNat (wbChip w) m

/-- wbstate and wbcause (R378): a FAILED waybill and this module's own are read at once; a request for another module's leaves, and
once it has left `ext` is the answer, the value with 1 above it for a mismatch. -/
def State.wbQueried (s : State) (t : TileId) (k : SlotId) (o : Op) (w : Word) (cause : Bool) (item : BitVec 2) (ext : Nat) : State :=
  let tag := (s.tile t).tag.toNat
  if wbFailed w then s.wbReturn t k o w (some (wbItem cause item.toNat 0 (some (failedOutcome w))))
  else match s.reach tag (wbChip w) with
    | none => s.wbReturn t k o w none
    | some tt =>
      if wbChip w = s.chipId then s.wbReturn t k o w (s.wbRead tt.toNat w cause item)
      else if o.sent then s.wbReturn t k o w (if ext / 2 ^ 64 = 0 then some (w64 ext) else none)
      else s.askTable t k o w (.query tt w cause item)

/-! ## Binding and dropping at the table (R375, R379, R380) -/

/-- A binding reaches the table of the slot: 0 accepted, 2 no match, 3 four bindings. -/
def State.bindWb (s : State) (tag : Nat) (w : Word) (b : WbBind) : State × Nat :=
  match s.wbMatch tag w with
  | none => (s, 2)
  | some x =>
    if x.binds.length ≥ 4 then (s, 3)
    else (s.setWb (wbSlotNo w) { x with binds := x.binds ++ [b] }, 0)

/-- wbbind is performed (R379); once its request has left for another module `ext` is the answer. -/
def State.bindDone (s : State) (t : TileId) (k : SlotId) (o : Op) (w : Word) (post : BitVec 32) (limit buf ext : Nat) : State :=
  let tag := (s.tile t).tag
  let s1 := s.modSlot t k fun x => x.dropOp o
  let refused (s : State) (st : Nat) : State := if st = 2 then s.staleTrap t k w else if st = 3 then s.postTrap t k 7 post else s
  if wbFailed w then s1.serveFailed w post
  else match s.reach tag.toNat (wbChip w) with
    | none => s1
    | some tt =>
      if wbChip w = s.chipId then
        let (s2, st) := s1.bindWb tt.toNat w { post, limit, buf, sent := 0, done := false, chip := s.chipId, tag }
        refused s2 st
      else if o.sent then refused s1 ext
      else s.askTable t k o w (.bind tt tag w post limit buf)

/-- wbdrop is performed (R380); once its request has left for another module `ext` is the answer. -/
def State.dropDone (s : State) (t : TileId) (k : SlotId) (o : Op) (w : Word) (ext : Nat) : State :=
  let s1 := s.modSlot t k fun x => x.dropOp o
  match s.reach (s.tile t).tag.toNat (wbChip w) with
  | none => s1
  | some tt =>
    if wbChip w = s.chipId then
      (match s1.wbMatch tt.toNat w with
      | some _ => s1.dropWb tt.toNat w
      | none => s1.staleTrap t k w)
    else if o.sent then (if ext = 2 then s1.staleTrap t k w else s1)
    else s.askTable t k o w (.drop tt w)

/-! ## The dispatcher (R363 to R370) -/

/-- Places of the queue in use. -/
def Part.waiting (p : Part) : Nat := p.queue.countP fun q => q.handed.isNone

/-- Whether a chip is lost to a partition: no route to it is left, or its train has evicted it (R360). -/
def State.gone (s : State) (tag : Nat) (c : Chip) : Bool := s.lost.contains c || (s.part tag).evicted.contains c

/-- The waybills of other chips that an invocation names, whose values its dispatcher asks for (R369), in the partitions that the
sender's link window reaches there (R358); a chip that the sender did not reach, or that is lost, is unreachable (R360). -/
def State.askNamed (s : State) (tag : Nat) (inv : Inv) : State :=
  (((invNamed inv).filter fun w => !wbFailed w && wbChip w != s.chipId).eraseDups).foldl (fun s w =>
    match (if s.gone tag (wbChip w) then none else inv.tags.find? fun x => x.1 == wbChip w) with
    | some x => s.sendMsg tag (wbChip w) (.ask x.2 (BitVec.ofNat 8 tag) w)
    | none => s.learn tag w (.broken w 8 0 0)) s

/-- An invocation arrives at a dispatcher: its result post is bound, and it takes a place or breaks (R365, R377). -/
def State.takeIn (s : State) (tag : Nat) (inv : Inv) : State :=
  let s1 := match inv.post with
    | none => s
    | some p => (s.bindWb tag inv.wb { post := p, limit := 0, buf := 0, sent := 0, done := false, chip := inv.sndChip, tag := inv.sndTag }).1
  if (s1.part tag).waiting ≥ 16384 then s1.breakWb tag inv.wb 3 0
  else ((s1.modPart tag fun p => { p with queue := p.queue ++ [{ inv, known := [], elig := none, handed := none }] }).dispatchAll tag).askNamed tag inv

/-- DISPATCHER_INVOCATION_ARRIVE (R365, R369, R371): at a partition that is not enabled the waybill breaks as unreachable (R360). -/
def execDispatcherInvocationArrive (tag : Tag) (inv : Inv) (s : State) : Host.Outcome State Fault Refusal :=
  s.happen fun s => if (s.part tag.toNat).en then s.takeIn tag.toNat inv else s.breakWb tag.toNat inv.wb 8 0

/-- The service tiles of an entry (R363): argument and done posts, or none where it breaks the invocation. A post number whose bits
[2:0] are not zero is taken as that post's and does not make the entry malformed (log 70, DESIGN CHOICE: R363 names no such limit). -/
def State.service (s : State) (tag : Nat) (svc : Nat) : Option (List (BitVec 32 × BitVec 32)) :=
  let p := s.part tag
  let a := bitsAt p.svcbase.toNat 7 32 * 128 + 128 * svc
  if !p.svcbase.getLsbD 0 || p.extent < a + 128 then none
  else
    let ctl := s.partRead tag a 16
    let nt := bitsAt ctl 4 4
    if !bitAt ctl 0 || bitsAt ctl 1 3 != 0 || ctl / 256 != 0 || nt == 0 || nt == 15 then none
    else some ((natsFrom 0 nt).map fun i =>
      let w := s.partRead tag (a + 16 + 8 * i) 8
      (BitVec.ofNat 32 w, BitVec.ofNat 32 (w / 2 ^ 32)))

/-- A post of this module that the partition binds. -/
def State.boundPost (s : State) (tag : Nat) (n : BitVec 32) : Option Post :=
  if postChip s n ≠ s.chipId then none
  else match mapFind s.posts (postKey n) with
    | some p => if p.binders.any (fun b => b.1 == tag) then some p else none
    | none => none

/-- From the stop instant until the next context has been restored post accesses from outside and the dispatcher's installs wait at the
hub die (R437): during a stop and a restore, and while a halted train has left no context in place. -/
def Part.held (p : Part) : Bool :=
  p.stopped || (p.resident.isNone && (p.restoring.isSome || match p.train with | some t => t.halted | none => false))

/-- Whether a service tile is free (R366); a tile whose context is saved takes nothing (R460). -/
def State.tileFree (s : State) (tag : Nat) (ad : BitVec 32 × BitVec 32) : Bool :=
  let p := s.part tag
  match s.boundPost tag ad.1, s.boundPost tag ad.2 with
  | some a, some d =>
    a.writer == 0xFFFF && (d.binders.all fun b => !s.isSaved b.1 b.2.1) && p.queue.all (fun q => match q.handed with | some h => postKey h.1 != postKey ad.1 | none => true) &&
      (match mapFind p.lastHanded (postKey ad.1) with
      | some w => Memory.readN d.val 0 8 == w.1.toNat
      | none => true)
  | _, _ => false

/-- R370: no earlier invocation of the same sender slot on the same target waybill is still queued or running. -/
def Part.inOrder (p : Part) (q : QInv) : Bool :=
  match q.inv.target with
  | none => true
  | some w => (p.queue.takeWhile fun z => z.inv.wb != q.inv.wb).all fun z =>
      !(z.inv.target == some w && z.inv.sndChip == q.inv.sndChip && z.inv.sndTile == q.inv.sndTile &&
        z.inv.sndSlot == q.inv.sndSlot && z.inv.sndTag == q.inv.sndTag)

/-- What the hand-out of an invocation would do: nothing now, break it, or give it to a tile. -/
inductive Hand where
  | hold
  | noService
  | to (ad : BitVec 32 × BitVec 32)
  deriving DecidableEq, Repr

def State.handFor (s : State) (tag : Nat) (q : QInv) : Hand :=
  if q.elig.isNone || q.handed.isSome || !(s.part tag).inOrder q || !s.afterDone q.inv then .hold
  else match s.service tag q.inv.svc.toNat with
    | none => .noService
    | some l => match l.find? (s.tileFree tag) with
      | some ad => .to ad
      | none => .hold

/-- The value that a record carries for a named waybill. -/
def QInv.valueOf (q : QInv) (w : Word) : Nat :=
  match q.known.find? (fun k => k.1 == w) with
  | some (_, .resolved v _ _) => v.toNat
  | _ => 0

/-- The argument record (R367). -/
def QInv.argRecord (q : QInv) : Nat :=
  let i := q.inv
  let t := match i.target with | some w => q.valueOf w | none => 0
  let head := i.wb.toNat + t * 2 ^ 64 + (i.svc.toNat + i.args.length * 2 ^ 16 + bool01 i.target.isSome * 2 ^ 24) * 2 ^ 128 +
    (i.sndChip.toNat * 2 ^ 52 + i.sndTile.toNat * 2 ^ 16 + i.sndSlot.toNat) * 2 ^ 192
  i.args.zipIdx.foldl (fun n a => n + (if i.warg.getLsbD a.2 then q.valueOf a.1 else a.1.toNat) * 2 ^ (256 + 64 * a.2)) head

/-- Hands an invocation to a service tile (R366). -/
def State.handOut (s : State) (tag : Nat) (q : QInv) (ad : BitVec 32 × BitVec 32) : State :=
  let s1 := (s.commitPost (postKey ad.1) q.argRecord).1
  s1.modPart tag fun p =>
    { p with queue := p.queue.map (fun z => if z.inv.wb = q.inv.wb then { z with handed := some ad } else z),
             lastHanded := mapSet p.lastHanded (postKey ad.1) (q.inv.wb, postKey ad.2) }

/-- DISPATCHER_HAND_OUT (R363, R366 to R370): the i-th queued invocation, if none that became eligible before it could be
handed out now. From the stop instant to the restore nothing is installed (R437). -/
def execDispatcherHandOut (tag : Tag) (i : Nat) (s : State) : Host.Outcome State Fault Refusal :=
  s.happen fun s =>
    let p := s.part tag.toNat
    match p.queue[i]? with
    | none => s
    | some q =>
      let before := p.queue.filter fun z => match z.elig, q.elig with | some a, some b => decide (a < b) | _, _ => false
      if p.held || before.any (fun z => s.handFor tag.toNat z != .hold) then s
      else match s.handFor tag.toNat q with
        | .hold => s
        | .noService => (s.dequeue tag.toNat q.inv.wb).breakWb tag.toNat q.inv.wb 1 0
        | .to ad => s.handOut tag.toNat q ad

/-- The report of a done record (R368). -/
def State.report (s : State) (tag : Nat) (q : QInv) (rec : Nat) : State :=
  let st : Byte := BitVec.ofNat 8 (bitsAt rec 128 8)
  let len := bitsAt rec 160 32
  let s1 := s.dequeue tag q.inv.wb
  if st ≠ 0 then s1.breakWb tag q.inv.wb 2 st
  else if len > 2 ^ 24 then s1.breakWb tag q.inv.wb 2 0
  else (s1.settleWb tag q.inv.wb (.resolved (w64 (bitsAt rec 64 64)) len (bitsAt rec 192 64))).dispatchAll tag

/-- The record in the done post of a handed-out invocation, when it names it. -/
def State.doneRecord (s : State) (tag : Nat) (q : QInv) : Option Nat :=
  match q.handed with
  | none => none
  | some h => match s.boundPost tag h.2 with
    | none => none
    | some d => let r := Memory.readN d.val 0 32
                if r % 2 ^ 64 = q.inv.wb.toNat then some r else none

/-- DONE_POST_SCAN (R366, R368). From the stop instant to the restore nothing is read (R437). -/
def execDonePostScan (tag : Tag) (s : State) : Host.Outcome State Fault Refusal :=
  s.happen fun s =>
    if (s.part tag.toNat).held then s
    else (s.part tag.toNat).queue.foldl (fun s q => match s.doneRecord tag.toNat q with
      | some r => s.report tag.toNat q r
      | none => s) s

/-- Service tiles lose their posts, argument or done, by key: one that holds an invocation without having reported breaks it (R360,
R368). -/
def State.leavePosts (s : State) (tag : Nat) (keys : List Nat) : State :=
  let s1 := (s.part tag).queue.foldl (fun s q => match q.handed with
    | none => s
    | some h =>
      if keys.contains (postKey h.1) || keys.contains (postKey h.2) then
        (match s.doneRecord tag q with
        | some r => s.report tag q r
        | none => (s.dequeue tag q.inv.wb).breakWb tag q.inv.wb 5 0)
      else s) s
  s1.modPart tag fun p => { p with lastHanded := p.lastHanded.filter fun x => !keys.contains x.1 && !keys.contains x.2.2 }

/-! ## Results (R372, R373) -/

/-- Bytes of payload a binding receives. -/
def WbBind.total (b : WbBind) (x : WbSlot) : Nat :=
  match x.st with
  | .resolved _ len _ => if b.buf = 0 then 0 else Nat.min len b.limit
  | _ => 0

/-- One piece of payload from the slot's partition to the binder's buffer, or to its module. -/
def State.sendPiece (s : State) (own : Nat) (a : Nat) (b : WbBind) (n : Nat) : State :=
  let v := s.partRead own (a + b.sent) n
  if b.chip = s.chipId then s.partWrite b.tag.toNat (b.buf + b.sent) v n
  else s.sendMsg own b.chip (.payload b.tag (b.buf + b.sent) n v)

/-- RESULT_TRANSFER (R372, R373), to the binder's chip and partition whatever the link window there says: the next piece of payload
of binding i, and after the last one its record, whose install waits while the binder's partition is stopped (R437). The record goes
to the post by its number, as it is bound then, even where it has another writer now (both log 70, DESIGN CHOICE: R372 does not
say). -/
def execResultTransfer (slot : BitVec 20) (i : Nat) (s : State) : Host.Outcome State Fault Refusal :=
  s.happen fun s =>
    let x := s.wbAt slot.toNat
    match x.outcome, x.binds[i]? with
    | some o, some b =>
      let own := s.wbOwner slot.toNat
      let w := waybill s.chipId slot x.gen
      let put (b' : WbBind) (s : State) : State := s.setWb slot.toNat { x with binds := x.binds.set i b' }
      if b.done then s
      else if b.sent < b.total x then
        let n := Nat.min (b.total x - b.sent) (32 - (b.buf + b.sent) % 32)
        let a := match x.st with | .resolved _ _ a => a | _ => 0
        put { b with sent := b.sent + n } (s.sendPiece own a b n)
      else if b.chip = s.chipId && (s.part b.tag.toNat).held then s
      else
        let s1 := put { b with done := true } s
        if b.chip = s.chipId then (s1.commitPost (postKey b.post) (outcomeRecord w b.sent o)).1
        else s1.sendMsg own b.chip (match o with
          | .resolved v _ _ => .result b.tag b.post w v 0 0 b.sent 0
          | .broken r c sv _ => .result b.tag b.post w 0 c sv 0 r
          | _ => .result b.tag b.post w 0 0 0 0 0)
    | _, _ => s

/-! ## Messages of other modules -/

/-- What a waybill of another chip came to (R369, R371). -/
def State.valueArrive (s : State) (tag : Nat) (wb : Word) (o : WbOutcome) : State :=
  if wbChip wb = s.chipId then s else s.learn tag wb o

/-- A dispatcher of another chip asks for the value of a waybill (R369): it has it at once, or when the slot settles. -/
def State.askedValue (s : State) (tag : Nat) (src : Chip) (back : Tag) (w : Word) : State :=
  match s.wbMatch tag w with
  | none => s.sendMsg tag src (.value back w .stale)
  | some x => match x.outcome with
    | some o => s.sendMsg tag src (.value back w o)
    | none => s.setWb (wbSlotNo w) { x with asked := x.asked ++ [(src, back)] }

/-- WAYBILL_VALUE_ARRIVE (R369, R371, R376). -/
def execWaybillValueArrive (tag : Tag) (wb : Word) (o : WbOutcome) (s : State) : Host.Outcome State Fault Refusal :=
  s.happen fun s => s.valueArrive tag.toNat wb o

/-- The waybills of a lost or evicted chip are broken with code 8 for the dispatcher of a partition (R360, R463). -/
def State.loseChip (s : State) (tag : Nat) (chip : Chip) : State :=
  let ws := ((s.part tag).queue.map fun q => (invNamed q.inv).filter fun w => !wbFailed w && wbChip w == chip).flatten
  ws.eraseDups.foldl (fun s w => s.learn tag w (.broken w 8 0 0)) s

/-- An invoke that waits for an answer to a grant request (R362): operation, tile, slot, and the saved context that holds it. -/
abbrev Waiting := Nat × TileId × SlotId × Option Nat

/-- A tile's invokes that wait for a grant of a chip. -/
def Tile.waitingInvokes (x : Tile) (chip : Chip) (t : TileId) (at_ : Option Nat) : List Waiting :=
  (allSlots.map fun k => ((x.slot k).ops.filter fun o => match o.kind with
    | .query (.invoke _ c) => c == chip && o.performed && !o.ready
    | _ => false).map fun o => (o.id, t, k, at_)).flatten

/-- Those of a partition, of its saved contexts too. -/
def State.waitingInvokes (s : State) (tag : Nat) (chip : Chip) : List Waiting :=
  ((s.part tag).tileList.map fun t => (s.tile t).waitingInvokes chip t none).flatten ++
    (s.saved.map fun c => ((c.2.tiles.filter fun x => x.2.tag.toNat == tag).map fun x =>
      x.2.waitingInvokes chip x.1 (some c.1)).flatten).flatten

/-- The first of some waiting invokes by issue. -/
def firstWaiting (l : List Waiting) : Option Waiting :=
  match minOf (l.map (·.1)) with
  | none => none
  | some m => l.find? fun x => x.1 == m

/-- A waiting invoke goes on with a grant, or fails with none. -/
def State.goOn (s : State) (t : TileId) (k : SlotId) (id : Nat) (g : Option (BitVec 20 × BitVec 24)) : State :=
  match (s.slot t k).opOf id with
  | some o => (match o.kind with
    | .query (.invoke inv chip) => s.sendInvoke t k o inv chip g
    | _ => s)
  | none => s

/-- Serves the invokes that wait for grants, oldest first; without a grant they fail. -/
def State.serveWaiting (s : State) (tag : Nat) (chip : Chip) (failing : Bool) : Nat → State
  | 0 => s
  | n + 1 => match firstWaiting (s.waitingInvokes tag chip) with
    | none => s
    | some (id, t, k, at_) =>
      let (s1, g) := s.takeGrant tag chip
      if g.isNone && !failing then s1.refill tag chip
      else
        let s2 := match at_ with
          | none => s1.goOn t k id g
          | some key => s1.inSaved key t fun s => s.goOn t k id g
        State.serveWaiting s2 tag chip failing n

/-- GRANT_ARRIVE (R361, R362): an answer to the pool's request; with no grant the invokes that wait fail with code 4. A pool that
is still short asks again, and once the partition's last job has completed the grants go back. -/
def execGrantArrive (tag : Tag) (chip : Chip) (grants : List (BitVec 20 × BitVec 24)) (s : State) : Host.Outcome State Fault Refusal :=
  s.happen fun s =>
    if (s.part tag.toNat).poolAsked.contains chip.toNat then
      let s1 := s.modPart tag.toNat fun p =>
        { (p.setPool chip (p.pool chip ++ grants)) with poolAsked := p.poolAsked.filter (· ≠ chip.toNat) }
      if (s.part tag.toNat).jobs.isEmpty then s1.returnGrants tag.toNat
      else
        let s2 := s1.serveWaiting tag.toNat chip grants.isEmpty ((s1.waitingInvokes tag.toNat chip).length)
        if grants.isEmpty then s2 else s2.refill tag.toNat chip
    else s

/-- GRANT_REQUEST_RECEIVE (R361): another module's request is answered from the partition's free slots. -/
def execGrantRequestReceive (src : Chip) (tag : Tag) (n : Nat) (s : State) : Host.Outcome State Fault Refusal :=
  s.happen fun s =>
    let (s1, l) := if (s.part tag.toNat).en then s.grant tag.toNat (Nat.min n 32) else (s, [])
    s1.emit (.grants src tag l)

/-- JOB_END_REPORT (R359): slots still granted to a job become free. -/
def execJobEndReport (_chip : Chip) (wbs : List Word) (s : State) : Host.Outcome State Fault Refusal :=
  s.happen fun s => wbs.foldl (fun s w =>
    if wbChip w ≠ s.chipId then s
    else
      let own := s.wbOwner (wbSlotNo w)
      match s.wbMatch own w with
      | some _ => s.dropWb own w
      | none => s) s

end Sys2Proof.Machine
end

