-- ==== Sys2Proof/Machine/Launch.lean ====
section
/-!
DEFINITION. Rounds (R94 to R98, R425), launch records and their checks (R100 to R103, R109, R112 to R115, R276 to R278),
the launch processor's turn and the start of a launch (R104 to R108, R116, R120 to R122), the completion of launches and
the instants of phases (R109, R110).
-/
namespace Sys2Proof.Machine

/-! ## Rounds -/

/-- Whether an expiry finds the tile busy: in a round, or with the handling of an abandoned round or its long results
still under way (R96, R97, R425). -/
def Tile.busy (x : Tile) : Bool := x.inRound || x.slots.any fun y => y.active || y.longs != 0 || y.ra.isSome

/-- A declared slot at a round's start: its entry state (R95). -/
def Slot.roundBegin (x : Slot) (t : Tile) (k : SlotId) (round pc : Word) : Slot :=
  { x.begin t k round pc with sbarCnt := 0 }

/-- Traps that wait for this round (R420): in the slot they were raised on, or in the lowest-numbered active one. -/
def Tile.wakeTraps (t : Tile) : Tile :=
  t.pendingTraps.foldl (fun (x : Tile) (p : SlotId × TrapRec) =>
    let k := if (x.slot p.1).active then p.1
      else slotOf ((minOf ((allSlots.filter fun j => (x.slot j).active).map (·.val))).getD p.1.val)
    x.setSlot k { x.slot k with deferred := (x.slot k).deferred ++ [p.2] }) { t with pendingTraps := [] }

/-- A round begins with g4 = n (R95): every declared slot becomes active, every arrival count is zero (R226), what slots recorded of
failed pages goes (R434), and a halted copy channel goes on (R348). -/
def Tile.startRound (t : Tile) (n : Word) : Tile :=
  let t1 := { t with inRound := true, roundNo := n, roundAt := t.cycle, tokUsed := 0, stretch := false, inRerun := false,
                     slots := t.slots.map fun (x : Slot) => { x with drawCnt := 0, failed := [], faults := [] },
                     channels := t.channels.map fun (c : Channel) => { c with halted := false } }
  (t1.entries.foldl (fun x e => x.setSlot e.1 ((x.slot e.1).roundBegin t1 e.1 n e.2)) t1).wakeTraps

/-- An expiry that begins no round (R97). -/
def State.overrunAt (s : State) (t : TileId) (overran : Bool) : State :=
  let s1 := s.modTile t fun x => { x with overruns := x.overruns + 1 }
  if overran then s1.tileCount t 5 1 else s1

/-- The fault policy (R97): the round is abandoned and the overrun trap taken. -/
def State.abandonRound (s : State) (t : TileId) : State :=
  let r := (s.tile t).roundNo
  let s1 := (s.tileSample t 0x203 0).modTile t Tile.abandonRound
  s1.tileTrap t cOverrun 0 r

/-- Whether a tile has begun its last budgeted round (R98). -/
def State.budgetBegun (s : State) (t : TileId) : Bool :=
  match (s.tile t).launch with
  | none => false
  | some e => match s.launch (s.tile t).tag.toNat e with
    | some l => (match l.budget with | some b => decide (b ≤ (s.tile t).begun) | none => false)
    | none => false

/-- ROUND_TIMER_EXPIRY (R94 to R98, R425). Of a tile in a round it comes after the turns of its tile cycle, so that a round which
completes in that cycle is complete (R96). -/
def execRoundTimerExpiry (t : TileId) (s : State) : Host.Outcome State Fault Refusal :=
  s.happen fun s =>
    let x := s.tile t
    if x.launch.isNone || x.toExpiry ≠ 0 || x.halted || (!x.going && s.time.tai < x.s0) || (x.inRound && !x.due.isEmpty) then s
    else
      let n : Word := if x.going then x.round + 1 else 0
      let s1 := s.modTile t fun y => { y with round := n, going := true, toExpiry := y.period.toNat }
      if x.busy then
        let s2 := s1.overrunAt t x.inRound
        if x.inRound && x.overFault then s2.abandonRound t else s2
      else if x.roundsOver then (s1.overrunAt t false).modTile t fun y => { y with rerun := none }
      else if x.rerun.isNone && s.budgetBegun t then (s1.overrunAt t false).modTile t fun y => { y with roundsOver := true }
      else match x.rerun with
        | some r => s1.modTile t fun y => { y.startRound r with rerun := none, inRerun := true }
        | none =>
          ((s1.modTile t fun y => { y.startRound n with begun := y.begun + 1 }).tileCount t 4 1).watchRound t

/-! ## The program header (R39, R48) and the record (R100) -/

/-- The fields of a program header that the launch processor uses. -/
structure Header where
  handler : Word
  period : Nat
  budget : Nat
  tokens : Nat
  overFault : Bool
  idem : Bool
  entries : List (SlotId × Word)
  deriving DecidableEq, Repr

/-- Slot and entry address by pairs. -/
def pairUp : List Nat → List (SlotId × Word)
  | k :: a :: l => (slotOf k, w64 a) :: pairUp l
  | _ => []

/-- The header at IMAGE (log 4): none when no header is there. An IMAGE less than 8 bytes below the end of the extent holds
none, and near the end fewer than 4,096 bytes are read (log 70, DESIGN CHOICE: the spec states neither). -/
def State.header (s : State) (p : Part) (image : Nat) : Option Header :=
  if p.extent < image + 8 then none
  else match Config.headerFields (s.readHbm p image (Nat.min 4096 (p.extent - image))) with
    | some (h :: pe :: b :: t :: o :: i :: es) =>
      some { handler := w64 h, period := pe, budget := b, tokens := t, overFault := o == 1, idem := i == 1, entries := pairUp es }
    | _ => none

/-- A stamp address (R100): zero, or 8 aligned bytes in the extent or in host memory. -/
def Part.doneOk (p : Part) (a : Nat) : Bool :=
  a == 0 || (a % 8 == 0 && (a + 8 ≤ p.extent || (2 ^ 49 ≤ a && a + 8 ≤ 2 ^ 50)))

/-- One period per tile (R100), or none when one is out of its limits. A PERTAB that is no multiple of 4, or whose table runs
beyond the extent, gives status 2 (log 70, DESIGN CHOICE: the spec is silent). -/
def State.periods (s : State) (p : Part) (base pertab n : Nat) : Option (List Nat) :=
  let one (x : Nat) : Option Nat := if 256 ≤ x then some x else none
  if pertab = 0 then (one base).map fun b => List.replicate n b
  else if pertab % 4 ≠ 0 ∨ p.extent < pertab + 4 * n then none
  else (natsFrom 0 n).foldr (fun i acc => match acc with
    | none => none
    | some l => let x := s.readHbm p (pertab + 4 * i) 4
                (one (if x = 0 then base else x)).map fun y => y :: l) (some [])

/-! ## Buffer handles (R112 to R114) -/

/-- A buffer of a launch: handle, writes, VIEW, base, size. -/
def State.bufferOf (s : State) (p : Part) (x : Nat) : Option (Nat × Bool × Bool × Nat × Nat) :=
  let mode := bitsAt x 12 2
  let hd := bitsAt x 0 10
  let e := s.readHbm p (bitsAt p.hier.toNat 16 23 * 2 ^ 16 + 0x54000 + 32 * hd) 32
  let base := bitsAt e 0 64
  let size := bitsAt e 64 64
  if bitsAt x 14 18 != 0 || bitsAt x 10 2 != 0 || mode == 0 || !bitAt e 128 || bitsAt e 130 30 != 0 || bitsAt e 160 96 != 0 ||
    base % 256 != 0 || !(base < 2 ^ 39 || (2 ^ 40 ≤ base && base < 2 ^ 48)) || size == 0 || size % 256 != 0 then none
  else some (hd, mode ≥ 2, bitAt e 129, base, size)

/-- The buffers a launch names (R114). A BUFFERS address that is no multiple of 4, or whose list runs beyond the extent, gives
status 2 (log 70, DESIGN CHOICE: the spec is silent). -/
def State.buffers (s : State) (p : Part) (addr n : Nat) : Option (List (Nat × Bool × Bool × Nat × Nat)) :=
  if n = 0 then some []
  else if addr % 4 ≠ 0 ∨ p.extent < addr + 4 * n then none
  else (natsFrom 0 n).foldr (fun i acc => match acc, s.bufferOf p (s.readHbm p (addr + 4 * i) 4) with
    | some l, some b => some (b :: l)
    | _, _ => none) (some [])

/-! ## Bindings (R276 to R278) -/

/-- A binding entry within its limits. -/
def State.bindEntry (s : State) (p : Part) (tile0 n : Nat) (det : Bool) (x : Nat) : Option PostEntry :=
  let post := BitVec.ofNat 32 x
  let wch := bitsAt x 80 16
  let e : PostEntry := { post, lines := bitsAt x 32 8, isOut := bitAt x 40, isIn := bitAt x 41, lossy := bitAt x 42, exact := bitAt x 43,
                         decl := BitVec.ofNat 16 (bitsAt x 48 16), writer := BitVec.ofNat 16 (bitsAt x 64 16),
                         wchip := if wch = 0xFFF then s.chipId.setWidth 16 else BitVec.ofNat 16 wch }
  let w := e.writer.toNat
  if bitsAt x 96 32 != 0 || bitsAt x 44 4 != 0 || (!e.isOut && !e.isIn) || e.lines == 0 || e.lines > 64 || x % 8 != 0 ||
    bitsAt x 3 6 + e.lines > 64 || wch > 0xFFF then none
  else if e.isOut && (e.wchip != s.chipId.setWidth 16 || w < tile0 || tile0 + n ≤ w) then none
  else if w == 0xFFFF && (e.isOut || !e.isIn) then none
  else if w != 0xFFFF && e.wchip == s.chipId.setWidth 16 && p.ptiles ≤ w then none
  else if det && e.isIn && !e.lossy && !e.exact then none
  else some e

/-- Whether two entries agree on a post (R278). -/
def PostEntry.fits (x y : PostEntry) : Bool :=
  y.post != x.post || (y.lines == x.lines && y.writer == x.writer && y.wchip == x.wchip)

/-- Whether an entry for a post of another module agrees with the launch's entries before it and with those of the partition's live
launches, none of which has OUT too (R278). -/
def Part.farFits (p : Part) (x : PostEntry) (l : List PostEntry) : Bool :=
  l.all x.fits && p.launches.all fun q => !q.2.live || q.2.binds.all fun y => x.fits y && !(y.post == x.post && x.isOut && y.isOut)

/-- Binds one entry after those of a list, or refuses it (R278); the home of a post of another module checks on first access. -/
def State.bindPost (s : State) (tag e : Nat) (l : List PostEntry) (x : PostEntry) : Option State :=
  let p := s.part tag
  if postChip s x.post ≠ s.chipId then (if (p.link (postChip s x.post)).isSome && p.farFits x l then some s else none)
  else
    let key := postKey x.post
    if !((natsFrom 0 p.pgroups).any fun i => (mapGet 0 p.groups i).toNat % 512 == key / 256) then none
    else match mapFind s.posts key with
      | some q =>
        if q.lines != x.lines || q.wchip != x.wchip || q.writer != x.writer || !(q.binders.all fun b => b.1 == tag) ||
          (x.isOut && q.binders.any fun b => b.2.2 && b.2.1 != e) then none
        else some { s with posts := mapSet s.posts key { q with binders := q.binders ++ [(tag, e, x.isOut)] } }
      | none =>
        if s.posts.any fun q => q.1 / 64 == key / 64 && overlap (q.1 % 64) q.2.lines (key % 64) x.lines then none
        else some { s with posts := mapSet s.posts key { lines := x.lines, wchip := x.wchip, writer := x.writer, f := 0, val := [],
                                                         bad := [], binders := [(tag, e, x.isOut)] } }

/-- All the entries of a table, and the state with them bound. -/
def State.bindAll (s : State) (tag e tile0 n : Nat) (det : Bool) (addr : Nat) (count : Nat) : Option (State × List PostEntry) :=
  let p := s.part tag
  if count = 0 then some (s, [])
  else if addr % 16 ≠ 0 ∨ p.extent < addr + 16 * count then none
  else (natsFrom 0 count).foldl (fun acc i => match acc with
    | none => none
    | some (s1, l) => match s.bindEntry p tile0 n det (s.readHbm p (addr + 16 * i) 16) with
      | none => none
      | some x => (s1.bindPost tag e l x).map fun s2 => (s2, l ++ [x])) (some (s, []))

/-! ## The levels (R109) -/

/-- Index limits and record places: graph, phase, job. -/
def recordAt (level i : Nat) : Nat :=
  match level with
  | 2 => 64 * i
  | 3 => 0x40000 + 64 * i
  | _ => 0x50000 + 64 * i

/-- The record of an object, if it is VALID and well formed. -/
def State.objRecord (s : State) (p : Part) (level i : Nat) : Option Obj :=
  let e := s.readHbm p (bitsAt p.hier.toNat 16 23 * 2 ^ 16 + recordAt level i) 64
  let parent := bitsAt e 32 32
  let start := bitsAt e 128 64
  let fin := bitsAt e 192 64
  if !bitAt e 0 || bitsAt e 3 29 != 0 || bitsAt e 320 192 != 0 || !p.doneOk (bitsAt e 256 64) || (level != 3 && (start != 0 || fin != 0)) ||
    parent > (match level with | 2 => 1023 | 3 => 255 | _ => 65535) then none
  else some { inst := 0, up := [], policy := BitVec.ofNat 2 (bitsAt e 1 2), parent, expect := w64 (bitsAt e 64 64), start, finish := fin,
              doneAddr := bitsAt e 256 64, counter := 0, started := decide (start ≤ s.time.tai), ending := none }

/-- A live object that still accepts launches, or its record. -/
def State.objFor (s : State) (p : Part) (level i : Nat) (live : Map Obj) : Option Obj :=
  match mapFind live i with
  | some o => if o.ending.isNone then some o else none
  | none => s.objRecord p level i

/-- The graph that a launch names, and the phase and job that its record leads to where no instance of it is live: of a live graph
nothing is read (R109). -/
def State.chain (s : State) (p : Part) (g : Nat) : Option (Obj × Option (Obj × Obj)) :=
  match mapFind p.graphs g with
  | some a => if a.ending.isNone then some (a, none) else none
  | none => match s.objRecord p 2 g with
    | none => none
    | some a => match s.objFor p 3 a.parent p.phases with
      | none => none
      | some b => match s.objFor p 4 b.parent p.jobs with
        | none => none
        | some c => some (a, some (b, c))

/-! ## Power demand (R120 to R122) -/

def addFrac (a b : Nat × Nat) : Nat × Nat := (a.1 * b.2 + b.1 * a.2, a.2 * b.2)

/-- Demand in tokens per reference microsecond, as a fraction. -/
def Launch.demand (l : Launch) : Nat × Nat := l.periods.foldl (fun q p => addFrac q (l.tokens * 2400, p)) (0, 1)

/-- Whether the running launches and these demands stay within a share. -/
def withinShare (share : Nat) (ds : List (Nat × Nat)) : Bool :=
  let q := ds.foldl addFrac (0, 1); q.1 ≤ share * q.2

/-! ## Accepting a record (R102, R103, R107) -/

/-- The entry an accepted launch takes: the lowest-numbered free one. -/
def Part.freeEntry (p : Part) : Option Nat :=
  (natsFrom 0 256).find? fun e => match mapFind p.launches e with | some l => !l.live | none => true

/-- The launch that a record describes, from its header. -/
def launchOf (r : Nat) (h : Header) (fn : FnId) (gen : BitVec 24) (order : Nat) (periods : List Nat) (binds : List PostEntry)
    (bufs : List (Nat × Bool × Bool × Nat × Nat)) : Launch :=
  let b := bitsAt r 192 48
  let fl := bitsAt r 280 8
  { gen, fn, param := w64 (bitsAt r 64 64), period := 0, periods, tile0 := bitsAt r 176 16, n := bitsAt r 160 16,
    budget := if b = 0 then (if h.budget = 0 then none else some h.budget) else if b = 2 ^ 48 - 1 then none else some b,
    tokens := if bitsAt r 256 16 = 0xFFFF then h.tokens else bitsAt r 256 16, queue := bitsAt r 272 8,
    policy := BitVec.ofNat 2 fl, overFault := bitAt fl 2 || h.overFault, idem := bitAt fl 3 || h.idem,
    chk := (bitAt fl 5, bitAt fl 6), graph := bitsAt r 288 32, up := [], start := bitsAt r 320 64, doneAddr := bitsAt r 576 64,
    handler := h.handler, entries := h.entries, binds, buffers := bufs, order, live := true, started := false, counter := 0,
    fin := none, ending := none }

/-- The limits of R100 that need no other memory. -/
def recordOk (p : Part) (r : Nat) : Bool :=
  bitsAt r 480 32 == 0 && bitsAt r 704 320 == 0 && bitsAt r 240 16 == 0 && !bitAt r 287 &&
    (bitsAt r 128 32 == 0 || 256 ≤ bitsAt r 128 32) && 1 ≤ bitsAt r 160 16 && bitsAt r 160 16 ≤ 512 && bitsAt r 272 8 < 64 &&
    bitsAt r 288 32 < 4096 && bitsAt r 464 16 ≤ 64 && p.doneOk (bitsAt r 576 64)

/-- A phase and its job with their instances: those that begin now take the numbers from n on (R109). -/
def instances (b c : Obj) (n : Nat) : Obj × Obj :=
  let j := if c.inst = 0 then { c with inst := n } else c
  (if b.inst = 0 then { b with inst := n + 1, up := [j.inst] } else b, j)

/-- The objects of a chain that begin now go on the live lists; with the instances of the graph, phase and job. -/
def Part.begin (p : Part) (g n : Nat) (c : Obj × Option (Obj × Obj)) : Part × List Nat :=
  match c.2 with
  | none => (p, c.1.inst :: c.1.up)
  | some (b, d) =>
    let (ph, j) := instances b d n
    let gr := { c.1 with inst := n + 2, up := [ph.inst, j.inst] }
    ({ p with graphs := mapSet p.graphs g gr, phases := mapSet p.phases gr.parent ph, jobs := mapSet p.jobs ph.parent j },
      gr.inst :: gr.up)

/-- The length of a function's slice in ns (R406). -/
def State.sliceLen (s : State) (fn : FnId) : Nat :=
  let w := (s.func fn).vfbind.toNat
  (if bitsAt w 8 8 = 0 then bitsAt w 16 20 else bitsAt w 8 8 * bitsAt w 16 20) * 1000

/-- A launch record is submitted for a function: status and identifier (R102, R103, R387). -/
def State.submit (s : State) (tag : Nat) (addr : Nat) (fn : FnId) (pf : Bool) : State × Nat × Nat :=
  let p := s.part tag
  if pf && tag != 0 && (natsFrom 1 256).any fun v => bitsAt (mapGet Func.reset s.funcs v).vfbind.toNat 0 8 == tag then (s, 8, 0)
  else if !p.en || p.extent < addr + 128 then (s, 2, 0)
  else
    let r := s.readHbm p addr 128
    let q := bitsAt r 272 8
    let n := bitsAt r 160 16
    let tile0 := bitsAt r 176 16
    let hd := s.header p (bitsAt r 0 64)
    let base := if bitsAt r 128 32 = 0 then (match hd with | some h => h.period | none => 256) else bitsAt r 128 32
    let e := p.freeEntry
    if q < 64 && bitsAt (s.qcfg[q % 64]'(Nat.mod_lt _ (by decide))).toNat 0 8 != tag then (s, 7, 0)
    else if !recordOk p r then (s, 2, 0)
    else match s.periods p base (bitsAt r 640 64) n, s.bindAll tag (e.getD 256) tile0 n (bitAt r 284) (bitsAt r 384 64) (bitsAt r 448 16),
               s.buffers p (bitsAt r 512 64) (bitsAt r 464 16) with
      | some periods, some (s1, binds), some bufs =>
        if p.ptiles < tile0 + n then (s, 5, 0)
        else match hd with
          | none => (s, 6, 0)
          | some h => match s.chain p (bitsAt r 288 32) with
            | none => (s, 4, 0)
            | some c =>
              let gen : BitVec 24 := match e with
                | some i => (match mapFind p.launches i with | some l => genNext l.gen | none => 1)
                | none => 1
              let l := launchOf r h fn gen p.accepted periods binds bufs
              if !withinShare p.share.toNat [l.demand] then (s, 3, 0)
              else match e with
                | none => (s, 1, 0)
                | some i =>
                  let res := match p.resident with
                    | some f => some f
                    | none => if fn.val = 0 ∨ p.stopping.isSome ∨ p.restoring.isSome then none else some fn
                  let till := if p.resident = none then s.time.tai + s.sliceLen fn else p.sliceEnd
                  let s2 := State.modPart { s1 with serial := s1.serial + 3 } tag fun p =>
                    let (p1, up) := p.begin l.graph s1.serial c
                    { p1 with launches := mapSet p.launches i { l with up }, accepted := p.accepted + 1, resident := res, sliceEnd := till }
                  ({ s2 with queues := s2.queues.set (q % 64) ((s2.queues[q % 64]'(Nat.mod_lt _ (by decide))) ++ [(tag, i)]) (Nat.mod_lt _ (by decide)) },
                    0, i + gen.toNat * 256)
      | _, _, _ => (s, 2, 0)

/-! ## Cache maintenance (R116) -/

/-- Whether a line at `a` is one of a handle's lines, under its storage or its view address. -/
def Part.handleLine (p : Part) (base size a : Nat) : Bool :=
  overlap a 256 base size ||
    match clsAt a with
    | .view => (match p.findRegion a 256 with
      | some r => overlap (r.storage a 256).1 (r.storage a 256).2 base size
      | none => false)
    | _ => p.allRegions.any fun r =>
      let lo := Nat.max base r.viewLo
      let hi := Nat.min (base + size) r.viewHi
      r.en && decide (lo < hi) && overlap (r.storage lo (hi - lo)).1 (r.storage lo (hi - lo)).2 a 256

/-- The address of a line that a cache holds for a partition, by the line's key. -/
def State.lineAt (s : State) (tag key : Nat) : Option Nat :=
  if key < 2 ^ 64 then (s.part tag).guestOf (key * 256)
  else if (key - 2 ^ 64) / 2 ^ 50 = tag then some ((key - 2 ^ 64) % 2 ^ 50 * 256) else none

/-- Writes back and drops a handle's lines from the slices and the remote-data caches. -/
def State.maintain (s : State) (tag base size : Nat) : State :=
  let keys := s.views.map (2 ^ 64 + ·.1) ++ (s.l2.map fun d => d.2.map (·.key)).flatten ++ (s.rdc.map fun d => d.2.map (·.key)).flatten
  (keys.eraseDups.filterMap (s.lineAt tag)).foldl (fun s a =>
    if (s.part tag).handleLine base size a then s.dropLine tag a else s) s

/-! ## The launch processor's turn (R105, R106, R108) -/

/-- The demands of the running launches. -/
def Part.running (p : Part) : List (Nat × Nat) := (p.launches.filter fun l => l.2.live && l.2.started).map (·.2.demand)

/-- Whether two launches may not overlap on a handle (R115). -/
def Launch.conflicts (l e : Launch) : Bool :=
  l.buffers.any fun b => e.buffers.any fun c => b.1 == c.1 && (b.2.1 || c.2.1)

/-- Whether the launch of an entry is eligible (R105, R99, R406). A phase that has completed on its count has started, and no
END has ended its launches. -/
def State.eligible (s : State) (tag e : Nat) : Bool :=
  let p := s.part tag
  match s.launch tag e with
  | none => false
  | some l =>
    !s.noStart && !p.stopped && !(p.restoring.isSome && p.resident.isNone) && (l.fn.val == 0 || p.resident == some l.fn) &&
    (match p.phases.find? fun o => o.2.inst == l.up.getD 1 0 with | some o => o.2.started && o.2.ending.isNone | none => true) &&
    ((p.tileList.drop l.tile0).take l.n).all (fun t => (s.tile t).launch.isNone) &&
    (p.launches.all fun x => !x.2.live || l.order ≤ x.2.order || !l.conflicts x.2) &&
    withinShare p.share.toNat (l.demand :: p.running)

/-- The head of a queue when it is eligible. -/
def State.head (s : State) (q : Nat) : Option (Nat × Nat) :=
  match s.queues[q % 64]'(Nat.mod_lt _ (by decide)) with
  | [] => none
  | h :: _ => if s.eligible h.1 h.2 then some h else none

def State.prio (s : State) (q : Nat) : Nat := bitsAt (s.qcfg[q % 64]'(Nat.mod_lt _ (by decide))).toNat 8 3

/-- The queue served: the highest priority with an eligible head, the first one after the queue last served there. -/
def State.choose (s : State) : Option Nat :=
  let ready := (natsFrom 0 64).filter fun q => (s.head q).isSome
  match (natsFrom 0 8).foldl (fun (b : Option Nat) pr => if ready.any fun q => s.prio q == pr then some pr else b) none with
  | none => none
  | some pr =>
    let last := s.lastServed[pr % 8]'(Nat.mod_lt _ (by decide))
    ((natsFrom (last + 1) 64).map (· % 64)).find? fun q => ready.contains q && s.prio q == pr

/-- A tile at launch start (R108): its registers, store and watches zero, the launch-level registers as the launch gives. -/
def Tile.load (x : Tile) (l : Launch) (e i s0 : Nat) : Tile :=
  { Tile.reset with
    slots := x.slots.map fun y => { Slot.reset with ctxGen := y.ctxGen }, monitors := x.monitors, tag := x.tag,
    tokDecl := l.tokens, trapvec := (l.handler &&& ~~~3) ||| 3, tileIdx := BitVec.ofNat 16 i,
    period := BitVec.ofNat 32 (l.periods[i]?.getD 256), lparam := l.param, launchId := BitVec.ofNat 32 (e + l.gen.toNat * 256),
    idem := l.idem, overFault := l.overFault, nTiles := l.n, posts := l.binds, entries := l.entries, launch := some e,
    chkInit := l.chk, s0 }

/-- Order-log registers that waited for a launch start, and the counts of record mode (R338, R340). -/
def State.ordStart (s : State) (tag : Nat) : State :=
  let p := s.part tag
  let s1 := match p.ordNext with
    | some (c, b, g) =>
      if p.running.isEmpty then
        let s1 := s.modPart tag fun q => { q with ordctl := maskIn 3 q.ordctl c, ordbase := b, ordseg := g, ordNext := none }
        if bitsAt c.toNat 0 2 = p.ordMode then s1 else s1.modPart tag fun q => { q with logCount := [], logMatched := [], logLeft := [] }
      else s
    | none => s
  let p1 := s1.part tag
  if p1.ordMode = 1 ∧ p1.logCount = [] then
    let s2 := (natsFrom 0 (4 * p1.pgroups)).foldl (fun s i => s.partWrite tag (p1.segment i) 0 8) s1
    s2.modPart tag fun q => { q with logCount := (natsFrom 0 (4 * p1.pgroups)).map fun i => (i, 0) }
  else s1

/-- Starts a launch (R108). -/
def State.startLaunch (s : State) (tag e : Nat) (l : Launch) : State :=
  let s0 := Nat.max l.start (s.time.tai + 1000)
  let s1 := (l.buffers.filter fun b => b.2.2.1).foldl (fun s b => s.maintain tag b.2.2.2.1 b.2.2.2.2) (s.ordStart tag)
  let ts := (((s1.part tag).tileList.drop l.tile0).take l.n).zipIdx
  let s2 := ts.foldl (fun s t => s.modTile t.1 fun x => x.load l e t.2 s0) s1
  let s3 := s2.setLaunch tag e { l with started := true }
  (s3.part tag).window.foldl (fun s c => s.refill tag (BitVec.ofNat 12 c.1)) s3

/-- LAUNCH_PROCESSOR_TURN (R106): one every 40 reference ns. -/
def execLaunchProcessorTurn (s : State) : Host.Outcome State Fault Refusal :=
  s.happen fun s =>
    if s.time.tai < s.nextTurn then s else
    let s : State := { s with nextTurn := s.nextTurn + 40 }
    match (if s.power = .packageIdle then none else s.choose) with
    | none => s
    | some q => match s.head q with
      | none => s
      | some (tag, e) => match s.launch tag e with
        | none => s
        | some l =>
          let pr := s.prio q
          let s1 := { s with queues := s.queues.set (q % 64) ((s.queues[q % 64]'(Nat.mod_lt _ (by decide))).drop 1) (Nat.mod_lt _ (by decide)),
                             lastServed := s.lastServed.set (pr % 8) q (Nat.mod_lt _ (by decide)) }
          s1.startLaunch tag e l

/-! ## Completion (R98, R110, R277) -/

/-- Unbinds the posts of a completing launch. A service tile is that of the launch that binds its done post with OUT; one that held
an invocation breaks it, as does one whose argument post no other launch binds (R364, R368). -/
def State.unbindPosts (s : State) (tag e : Nat) (l : Launch) : State :=
  let only (key : Nat) : Bool := match mapFind s.posts key with
    | some q => q.binders.all fun b => b.1 == tag && b.2.1 == e
    | none => false
  let keys := (l.binds.filter fun x => x.isOut || (x.writer == 0xFFFF && only (postKey x.post))).filterMap fun x =>
    if postChip s x.post = s.chipId then some (postKey x.post) else none
  let s1 := s.leavePosts tag keys
  { s1 with posts := (s1.posts.map fun q => (q.1, { q.2 with binders := q.2.binders.filter fun b => !(b.1 == tag && b.2.1 == e) })).filter
              fun q => !q.2.binders.isEmpty }

/-- Whether a tile has nothing of its launch left to do. -/
def Tile.drained (x : Tile) : Bool :=
  x.roundsOver && !x.busy && x.rerun.isNone && x.slots.all (fun y => y.cnts == 0 && y.ops.isEmpty) &&
    x.channels.all fun c => c.queue.isEmpty && c.cur.isNone && c.fail.isNone

/-- The status of a launch that can complete now. -/
def State.launchDue (s : State) (tag e : Nat) (l : Launch) : Option Byte :=
  if l.started then
    (if (s.part tag).stopped || s.isSaved tag e || !(s.launchTiles tag e).all fun t => (s.tile t).drained then none
     else some (l.ending.getD (if l.fin.isSome then 2 else 1)))
  else l.ending

/-- A launch completes with a status (R110): the stamp, the maintenance of R116, the posts, the tiles, and the parent's
count. -/
def State.completeLaunch (s : State) (tg en : Nat) (l : Launch) (st : Byte) : State :=
  let s1 := if l.started then (l.buffers.filter fun b => b.2.1 && b.2.2.1).foldl (fun s b => s.maintain tg b.2.2.2.1 b.2.2.2.2) s else s
  let s2 := (s1.launchTiles tg en).foldl (fun s t => s.modTile t fun x => { x with launch := none, halted := false, going := false }) s1
  let s3 := s2.unbindPosts tg en l
  let s4 := s3.stampTo tg l.doneAddr (stampVal st (l.fin.getD 0) l.counter)
  let s5 := s4.modPart tg fun p =>
    { p with launches := mapSet p.launches en { l with live := false },
             batches := p.batches.filter fun b => b.launchId.toNat ≠ en + l.gen.toNat * 256,
             named := p.named.filter fun n => n.2.1 ≠ en,
             graphs := countChild p.graphs l.up }
  s5.settle tg

/-- With no launch in any partition and no invasive session, the package may go idle, a free choice (R418). -/
def State.mayIdle (s : State) : State :=
  if s.power = .active && !(s.parts.any fun p => p.2.launches.any fun l => l.2.live) && !(s.dbg.any fun d => d.2.1 == 2) then
    let (s1, b) := s.flip
    if b then { s1 with power := .packageIdle } else s1
  else s

/-- LAUNCH_COMPLETE (R110). -/
def execLaunchComplete (tag : Tag) (e : Byte) (s : State) : Host.Outcome State Fault Refusal :=
  s.happen fun s =>
    match s.launch tag.toNat e.toNat with
    | none => s
    | some l => match s.launchDue tag.toNat e.toNat l with
      | none => s
      | some st => (s.completeLaunch tag.toNat e.toNat l st).mayIdle

/-! ## Phases (R109, R110) -/

/-- PHASE_START_INSTANT (R109). -/
def execPhaseStartInstant (tag : Tag) (i : BitVec 10) (s : State) : Host.Outcome State Fault Refusal :=
  s.happen fun s => match mapFind (s.part tag.toNat).phases i.toNat with
    | some o => if o.start ≤ s.time.tai then s.modPart tag.toNat fun p => { p with phases := mapSet p.phases i.toNat { o with started := true } } else s
    | none => s

/-- PHASE_END (R110): what is below the phase ends with status 5, then the phase. -/
def execPhaseEnd (tag : Tag) (i : BitVec 10) (s : State) : Host.Outcome State Fault Refusal :=
  s.happen fun s => match mapFind (s.part tag.toNat).phases i.toNat with
    | some o => if o.finish ≠ 0 ∧ o.finish ≤ s.time.tai then (s.endInst tag.toNat o.inst 5).settle tag.toNat else s
    | none => s

/-- A phase starts by a timetable action (R457), with its job if neither is live. -/
def State.startPhase (s : State) (tag job phase : Nat) : State :=
  let p := s.part tag
  match s.objFor p 3 phase p.phases, s.objFor p 4 job p.jobs with
  | some ph, some jb =>
    let jb1 := if jb.inst = 0 then { jb with inst := s.serial } else jb
    let ph1 := if ph.inst = 0 then { ph with inst := s.serial + 1, up := [jb1.inst] } else ph
    State.modPart { s with serial := s.serial + 2 } tag fun q =>
      { q with phases := mapSet q.phases phase { ph1 with started := true }, jobs := mapSet q.jobs job jb1 }
  | _, _ => s

end Sys2Proof.Machine
end

