-- ==== Sys2Proof/Machine/Links.lean ====
section
/-!
DEFINITION. What arrives over Damfold Link: accesses of other modules (R270, R437), messages, train flits sorted by epoch
(R459), and the loss of a route (R360).
-/
namespace Sys2Proof.Machine

/-- The event by which the answer to a slot's remote operation takes effect, by the operation's kind. The answer to a post read holds
the bytes asked for, F, a status (1 poison, from 2 refused) and above it the poisoned granules among the bytes. -/
def State.replyEvent (s : State) (t : TileId) (k : SlotId) (op ext : Nat) : State :=
  match (s.slot t k).opOf op with
  | none => s
  | some o => s.event (match o.kind with
    | .store | .rel _ => .storePerformed t k op 0 (ext / 2 ^ (8 * o.size))
    | .bind _ _ _ _ | .drop _ => .storePerformed t k op 0 ext
    | .amo _ _ _ _ | .amof _ _ _ _ => .atomicPerform t k op ext
    | .install _ => .postCommit t k op ext
    | .sample _ _ _ m =>
      let st := bitsAt ext (8 * m + 64) 8
      .postSample t k op (w64 (bitsAt ext (8 * m) 64)) (bitsAt ext 0 (8 * m) + (if st = 1 then ext / 2 ^ (8 * m + 72) else 0) * 2 ^ (8 * m)) (decide (2 ≤ st))
    | _ => .longResultReturn t k op 0 ext)

/-- A reply of a partition to another module's request, with its status, data and epoch (R270, R454). -/
def State.answer (s : State) (src : Chip) (tt : Tag) (st v : Nat) : State := s.emit (.remoteAnswer src tt (s.part tt.toNat).epoch st v)

/-- A message is delivered. -/
def State.deliverMsg (s : State) (src : Chip) (m : Msg) : State :=
  match m with
  | .access tt r => let (s1, v, st) := s.remoteServe tt.toNat r; s1.answer src tt st v
  | .reply t k op ext => s.replyEvent t k op ext
  | .invocation tt inv => s.event (.dispatcherInvocationArrive tt inv)
  | .value tt wb o => s.valueArrive tt.toNat wb o
  | .result _ post wb v code sv n root => (s.commitPost (postKey post) (resultRecord wb v code sv n root)).1
  | .payload tt a n v => s.partWrite tt.toNat a v n
  | .bind tt back wb post limit buf =>
    let (s1, st) := s.bindWb tt.toNat wb { post, limit, buf, sent := 0, done := false, chip := src, tag := back }
    s1.answer src tt st 0
  | .drop tt wb => (match s.wbMatch tt.toNat wb with
    | some _ => (s.dropWb tt.toNat wb).answer src tt 0 0
    | none => s.answer src tt 2 0)
  | .stale tt inv wb => s.staleReport tt.toNat inv wb
  | .ask tt back wb => s.askedValue tt.toNat src back wb
  | .query tt wb cause item => (match s.wbRead tt.toNat wb cause item with
    | some v => s.answer src tt 0 v.toNat
    | none => s.answer src tt 2 0)
  | .jobKill tt train => (match (s.part tt.toNat).jobs.find? fun j => j.2.parent == train with
    | some j => (s.endInst tt.toNat j.2.inst 4).settle tt.toNat
    | none => s)

/-- Whether a message is a post access or a dispatcher's install, which wait at the hub die while the partition is stopped
(R437). -/
def postMsg : Msg → Bool
  | .access _ r => r.kind == .install || r.kind == .sample
  | .result _ _ _ _ _ _ _ _ => true
  | _ => false

/-- Whether the partition waits for the first action of a train. -/
def Part.awaits (p : Part) : Bool := p.timetable.any fun e => e.2.state == 1 && bitsAt e.2.record 96 8 == 1

/-- Whether a message is the reply to an operation of a slot that is stopped or saved: it waits for the restore (R437). -/
def State.replyWaits (s : State) (m : Msg) : Bool :=
  match m with
  | .reply t k op _ => (s.frozen t && ((s.slot t k).opOf op).isSome) ||
      s.saved.any fun c => c.2.tiles.any fun x => x.1 == t && ((x.2.slot k).opOf op).isSome
  | _ => false

/-- Whether a flit is sorted by its epoch against a train's (R454, R459): epoch 0 is that of a partition outside any train, but for a
member's flit when the train's epochs have come to 0 again (log 47). -/
def Train.sorts (tr : Train) (f : Flit) : Bool :=
  f.epoch != 0 || (tr.members.contains f.src && (tr.epoch == 255 || tr.epoch == 0 || tr.epoch == 1))

/-- Whether a train's flits wait at the ports for the saved ones, which come first (R461). -/
def Part.replaying (p : Part) : Bool :=
  match p.train, p.restoring with
  | some tr, some r => r.train.isSome && !tr.halted
  | _, _ => false

/-- Whether a flit waits at its port whatever its epoch, for the restore of a context. -/
def State.mustWait (s : State) (f : Flit) : Bool :=
  let p := s.part f.tag.toNat
  (p.held && postMsg f.msg) || s.replyWaits f.msg || (p.replaying && match p.train with | some tr => tr.sorts f | none => false)

/-- Whether a waiting flit can be delivered now. -/
def State.deliverable (s : State) (f : Flit) : Bool :=
  let p := s.part f.tag.toNat
  (match p.train with
    | some tr => !tr.sorts f || f.epoch == tr.epoch || (!tr.halted && f.epoch == tr.epoch - 1)
    | none => !(f.epoch == 1 && p.awaits)) && !s.mustWait f

/-- Delivers what waits at the ports for a partition, port by port in order (R459, R461). -/
def State.releaseHolds (s : State) (tag : Nat) : State :=
  let due : Flit → Bool := fun f => f.tag.toNat == tag && s.deliverable f
  let l := (s.ports.toList.map fun p => p.hold.filter due).flatten
  let s1 : State := { s with ports := s.ports.map fun p => { p with hold := p.hold.filter fun f => !due f } }
  l.foldl (fun s f => s.deliverMsg f.src f.msg) s1

def State.modPort (s : State) (i : Nat) (f : Port → Port) : State :=
  { s with ports := s.ports.set (i % 12) (f (s.ports[i % 12]'(Nat.mod_lt _ (by decide)))) (Nat.mod_lt _ (by decide)) }

/-- A message is delivered, or waits at its port. -/
def State.deliverOrHold (s : State) (port : Nat) (f : Flit) : State :=
  if s.mustWait f then s.modPort port fun p => { p with hold := p.hold ++ [f] }
  else s.deliverMsg f.src f.msg

/-- Logs a fault with no tile of its own, at the partition's first tile. -/
def State.logOnly (s : State) (tag code info policy level : Nat) (val : Word) : State :=
  match (s.part tag).tileList with
  | t :: _ => s.faultLog t (s.tile t).firstDeclared code info level policy 0 val
  | [] => s

/-- Bytes of a context image (R405). -/
def Part.imageSize (p : Part) : Nat := 2359296 * p.ptiles + 67584 * p.pgroups

/-- Little-endian bytes of a list, as a number. -/
def natOfBytes : List Nat → Nat
  | [] => 0
  | b :: l => b + 256 * natOfBytes l

/-- n opaque bytes of region k of an image (log 4). -/
def opaqueBytes (k n : Nat) : Nat := natOfBytes ((natsFrom 0 n).map fun i => (Config.imageByte k i).toNat)

/-- A port region after a train's image, with its count and n flits from number i on (R461). -/
def State.writePort (s : State) (tag region seed i n : Nat) : State :=
  (natsFrom i n).foldl (fun s j => s.partWrite tag (region + 320 * (j + 1)) (opaqueBytes (seed + j) 320) 320)
    (s.partWrite tag region (i + n) 320)

/-- A flit that comes after its train's context has been saved joins the saved ones in memory too (R461). -/
def State.saveLate (s : State) (port : Nat) (f : Flit) : State :=
  let tag := f.tag.toNat
  match mapFind s.saved (1000 + tag) with
  | none => s
  | some c =>
    let (s1, seed) := s.fresh
    let n := (c.ports.countP fun x => x.1 == port % 12) + (s.ports[port % 12]'(Nat.mod_lt _ (by decide))).save.countP fun x => x.tag == f.tag
    s1.writePort tag (c.base + (s.part tag).imageSize + 82240 * (port % 12)) (seed * 2 ^ 20) n 1

/-- A flit goes into its port's save or holding buffer of 256 places; with none free the sender's link stalls, and it does not arrive
(R459). -/
def State.keepFlit (s : State) (port : Nat) (save : Bool) (f : Flit) : State :=
  let p := s.ports[port % 12]'(Nat.mod_lt _ (by decide))
  if 256 ≤ (if save then p.save else p.hold).length then s
  else if save then (s.saveLate port f).modPort port fun q => { q with save := q.save ++ [f] }
  else s.modPort port fun q => { q with hold := q.hold ++ [f] }

/-- A flit is discarded and logged (R459). -/
def State.dropFlit (s : State) (tag : Nat) : State := s.logOnly tag cStraggler 6 0 7 0

/-- A partition's flits that a condition picks leave the ports' buffers, each logged where `log` says so (R454, R459). -/
def State.purge (s : State) (tag : Nat) (log : Bool) (which : Flit → Bool) : State :=
  let out : Flit → Bool := fun f => f.tag.toNat == tag && which f
  let n := (s.ports.toList.map fun p => p.save.countP out + p.hold.countP out).sum
  let s1 : State := { s with ports := s.ports.map fun p => { save := p.save.filter fun f => !out f, hold := p.hold.filter fun f => !out f } }
  if log then (natsFrom 0 n).foldl (fun s _ => s.dropFlit tag) s1 else s1

/-- TRAIN_FLIT_RECEIVE (R454, R459). -/
def execTrainFlitReceive (port : Fin 12) (tag : Tag) (src : Chip) (epoch : Byte) (msg : Msg) (s : State) :
    Host.Outcome State Fault Refusal :=
  s.happen fun s =>
    let p := s.part tag.toNat
    let f : Flit := { tag, src, epoch, msg }
    match p.train with
    | some tr =>
      if !tr.sorts f then s.deliverOrHold port.val f
      else if p.evicted.contains src then s.dropFlit tag.toNat
      else if epoch = tr.epoch then s.deliverOrHold port.val f
      else if epoch = tr.epoch - 1 then
        (if tr.halted then s.keepFlit port.val true f else s.deliverOrHold port.val f)
      else if epoch = tr.epoch + 1 then s.keepFlit port.val false f
      else s.dropFlit tag.toNat
    | none =>
      if epoch ≠ 0 ∧ p.discard.contains src then s
      else if epoch = 1 ∧ p.awaits then s.keepFlit port.val false f
      else s.deliverOrHold port.val f

/-- REMOTE_ACCESS_RECEIVE (R270, R271): the access is performed at its home or refused; a post access waits while the
partition is stopped (R437). -/
def execRemoteAccessReceive (src : Chip) (tag : Tag) (req : RemoteReq) (s : State) : Host.Outcome State Fault Refusal :=
  s.happen fun s => s.deliverOrHold 0 { tag, src, epoch := (s.part tag.toNat).epoch, msg := .access tag req }

/-- LINK_ROUTE_LOSS (R360, R397): RLAT shows no route, and waybills of the chip break with code 8. -/
def execLinkRouteLoss (chip : Chip) (s : State) : Host.Outcome State Fault Refusal :=
  s.happen fun s => s.parts.foldl (fun s p => s.loseChip p.1 chip) { s with lost := if s.lost.contains chip then s.lost else chip :: s.lost }

end Sys2Proof.Machine
end

