-- ==== Sys2Proof/Machine/Preempt.lean ====
section
/-!
DEFINITION. Time-slicing, the synchronised stop, the context image, restore, and function-level reset (R405 to R407, R436
to R442).
-/
namespace Sys2Proof.Machine

/-! ## Which function runs (R406) -/

def fnOf (n : Nat) : FnId := ⟨n % 257, Nat.mod_lt _ (by decide)⟩

/-- A function's binding: its partition and weight (R403). -/
def State.fnTag (s : State) (f : FnId) : Nat := bitsAt (s.func f).vfbind.toNat 0 8
def State.fnWeight (s : State) (f : FnId) : Nat := bitsAt (s.func f).vfbind.toNat 8 8

/-- The partition whose registers a function reaches (R397, R401, R402). -/
def State.regTag (s : State) (f : FnId) : Nat := if f.val = 0 then s.psel.toNat % 256 else s.fnTag f

/-- Whether a function may write partition registers (R401). -/
def State.mayWrite (s : State) (f : FnId) : Bool := f.val == 0 || (s.fnTag f != 0 && (s.func f).vfbind.getLsbD 37)

/-- An access discarded and logged in AER as an unsupported request. -/
def State.logUr (s : State) (f : FnId) (a : Nat) : State := s.modFunc f fun x => { x with aer := x.aer ++ [a] }

/-- A write of a partition register at an offset, under R401; with PSEL = 0 the physical function's is ignored (R397). -/
def State.partReg (s : State) (f : FnId) (off : Nat) (k : Nat → State → State) : State :=
  if s.mayWrite f then (if s.regTag f = 0 then s else k (s.regTag f) s) else s.logUr f off

/-! ## Register writes (R318, R387, R413) -/

/-- Bytes of a register of BAR 0: 2 of a table entry, else 8. -/
def regBytes (off : Nat) : Nat := if 0x81000 ≤ off ∧ off < 0x81800 then 2 else 8

/-- Whether BAR 0 answers at an offset: in recovery the physical function's management mailbox alone, PSEL and PCTL (R413;
log 70). -/
def State.answers (s : State) (fn : FnId) (off : Nat) : Bool :=
  s.booted || (fn.val == 0 && (off == 0x80000 || off == 0x80008))

/-- A register write that arrives: it has its effect at once where the function's ordering point is empty, and stands behind
the earlier posted writes otherwise (R387); a full one withholds credits, so that it does not arrive (R386). -/
def State.barWrite (s : State) (fn : FnId) (off : Nat) (v : Word) (k : State → State) : State :=
  let f := s.func fn
  if !s.answers fn off ∨ f.posted.length ≥ 64 then s
  else if f.posted.isEmpty then k s
  else
    let bytes := (natsFrom 0 (regBytes off)).map fun i => v.extractLsb' (8 * i) 8
    s.modFunc fn fun f => { f with posted := f.posted ++ [{ bar := .bar0, addr := off, bytes, sent := false, tag := 0, left := [] }] }

/-- A bound function is runnable when it has a live launch or a saved context. -/
def State.runnable (s : State) (tag : Nat) (f : FnId) : Bool :=
  f.val != 0 && s.fnTag f == tag && (((s.part tag).launches.any fun l => l.2.live && l.2.fn == f) || (mapFind s.saved f.val).isSome)

/-- The next function after one, in increasing number, first of nonzero weight and then of weight 0. -/
def State.nextFn (s : State) (tag : Nat) (after : FnId) : Option FnId :=
  let order := (natsFrom 0 255).map fun i => fnOf ((after.val + i) % 256 + 1)
  let ready := order.filter fun f => f != after && s.runnable tag f
  match ready.find? fun f => s.fnWeight f != 0 with
  | some f => some f
  | none => ready.head?

/-- The first whole microsecond at or after an instant. -/
def wholeUs (t : Nat) : Nat := ceilDiv t 1000 * 1000

/-- A function becomes the resident one, after the restore of its context if it has one. -/
def State.resideFn (s : State) (tag : Nat) (f : FnId) : State :=
  match mapFind s.saved f.val with
  | some c => s.modPart tag fun p => { p with resident := none, restoring := some { fn := f, base := c.base, at_ := wholeUs s.time.tai, train := none } }
  | none => s.modPart tag fun p => { p with resident := some f, sliceEnd := s.time.tai + s.sliceLen f }

/-- The function after one takes over; if none is runnable, none is resident. -/
def State.takeNext (s : State) (tag : Nat) (after : FnId) : State :=
  match s.nextFn tag after with
  | some f => s.resideFn tag f
  | none => s.modPart tag fun p => { p with resident := none }

/-! ## The stop (R436) -/

/-- Whether an invasive debugger holds a tile of the partition halted (R407). -/
def State.debugHeld (s : State) (tag : Nat) : Bool := (s.part tag).tileList.any fun t => (s.tile t).dbgHalt

/-- Live launches of a function. -/
def Part.launchesOf (p : Part) (f : FnId) : List Nat := (p.launches.filter fun l => l.2.live && l.2.fn == f).map (·.1)

/-- TIME_SLICE_END (R406, R407, R441, R466). -/
def execTimeSliceEnd (tag : Tag) (s : State) : Host.Outcome State Fault Refusal :=
  s.happen fun s =>
    let tg := tag.toNat
    let p := s.part tg
    match p.resident with
    | none => s
    | some f =>
      if s.time.tai < p.sliceEnd || f.val == 0 || p.stopping.isSome || p.restoring.isSome || s.debugHeld tg ||
        (match p.train with | some t => !t.halted | none => false) then s
      else match s.nextFn tg f with
        | none => s.modPart tg fun q => { q with sliceEnd := s.time.tai + s.sliceLen f }
        | some _ =>
          let base := bitsAt (s.func f).ctxbase.toNat 16 23 * 2 ^ 16
          if base + p.imageSize ≤ p.extent then
            s.modPart tg fun q => { q with stopping := some { at_ := wholeUs (Nat.max p.sliceEnd s.time.tai), fn := f, base, train := none, done := false } }
          else ((p.launchesOf f).foldl (fun s e => s.endLaunch tg e 3) s).takeNext tg f

/-- PREEMPT_STOP (R436, R462): every tile of the partition stops issuing, and its round timer with it; after a train's
pre-empt its halt beacons are due. While a debugger holds a tile halted no switch occurs: the stop of one moves on (R407). -/
def execPreemptStop (tag : Tag) (s : State) : Host.Outcome State Fault Refusal :=
  s.happen fun s =>
    let p := s.part tag.toNat
    match p.stopping with
    | none => s
    | some st =>
      if st.done || s.time.tai < st.at_ then s
      else if st.train.isNone && s.debugHeld tag.toNat then
        s.modPart tag.toNat fun q => { q with stopping := some { st with at_ := wholeUs (s.time.tai + 1) } }
      else
        let s1 := (p.tileList.foldl (fun s t => s.modTile t fun x => { x with halted := true }) s).modPart tag.toNat
          fun q => { q with stopping := some { st with done := true } }
        match st.train with
        | some n => s1.event (.haltBeaconSend tag (BitVec.ofNat 8 n))
        | none => s1

/-! ## The image (R439) -/

def wordsNat (l : List Word) : Nat := l.foldr (fun w n => w.toNat + 2 ^ 64 * n) 0
def vwordsNat (l : List VWord) : Nat := l.foldr (fun w n => w.toNat + 2 ^ 1024 * n) 0

/-- A slot's 5,120 bytes. -/
def Slot.image (x : Slot) (k : Nat) : Nat :=
  wordsNat x.g.toList + wordsNat x.f.toList * 2 ^ 2048 + vwordsNat x.v.toList * 2 ^ 4096 + opaqueBytes k 512 * 2 ^ 36864

/-- The pieces of an image: offset, bytes, size. -/
def tileImage (seed i : Nat) (x : Tile) : List (Nat × Nat × Nat) :=
  let o := 2359296 * i
  (o, Memory.readN x.store 0 (2 ^ 21), 2 ^ 21) ::
    ((natsFrom 0 32).map fun k => (o + 0x200000 + 5120 * k, (x.slot (slotOf k)).image (seed + 64 * i + k), 5120)) ++
    [(o + 0x228000, opaqueBytes (seed + 64 * i + 32) 65536, 65536), (o + 0x238000, opaqueBytes (seed + 64 * i + 33) 32768, 32768)]

/-- One post line and one freshness counter of a slice group's post slot. -/
def postLine (ps : Map Post) (key : Nat) : Nat :=
  match ps.find? fun q => q.1 ≤ key && key < q.1 + q.2.lines with
  | some q => Memory.readN q.2.val (256 * (key - q.1)) 256
  | none => 0
def postFresh (ps : Map Post) (key : Nat) : Nat := match mapFind ps key with | some q => q.f.toNat | none => 0

/-- A slice group's posts. -/
def groupImage (o phys : Nat) (ps : Map Post) : List (Nat × Nat × Nat) :=
  ((natsFrom 0 256).map fun j => (o + 256 * j, postLine ps (256 * phys + j), 256)) ++
    (natsFrom 0 256).map fun j => (o + 65536 + 8 * j, postFresh ps (256 * phys + j), 8)

/-- Posts of a partition. -/
def State.partPosts (s : State) (tag : Nat) : Map Post := s.posts.filter fun q => q.2.binders.any fun b => b.1 == tag

/-- Writes the image of a partition's tiles and posts. -/
def State.writeImage (s : State) (tag base seed : Nat) : State :=
  let p := s.part tag
  let ts := (p.tileList.zipIdx.map fun t => tileImage seed t.2 (s.tile t.1)).flatten
  let gs := ((natsFrom 0 p.pgroups).map fun g =>
    groupImage (2359296 * p.ptiles + 67584 * g) ((mapGet 0 p.groups g).toNat % 512) (s.partPosts tag)).flatten
  (ts ++ gs).foldl (fun s c => s.partWrite tag (base + c.1) c.2.1 c.2.2) s

/-- Flits saved at the ports for a partition (R459). -/
def State.savedFlits (s : State) (tag : Nat) : List (Nat × Flit) :=
  ((natsFrom 0 12).map fun i => ((s.ports[i % 12]'(Nat.mod_lt _ (by decide))).save.filter fun f => f.tag.toNat == tag).map fun f => (i, f)).flatten

/-- The port regions after a train's image (R461). -/
def State.writePorts (s : State) (tag base seed : Nat) (l : List (Nat × Flit)) : State :=
  (natsFrom 0 12).foldl (fun s i => s.writePort tag (base + 82240 * i) (seed + 512 * i) 0 (l.countP fun f => f.1 == i)) s

/-- Takes a partition's flits out of the save buffers. -/
def State.clearPortSave (s : State) (tag : Nat) : State :=
  { s with ports := s.ports.map fun p => { p with save := p.save.filter fun f => f.tag.toNat != tag } }

/-- A tile as a context holds it: a repetition stops at its srep (R210, R436). -/
def Tile.toSave (x : Tile) : Tile := { x with halted := false, slots := x.slots.map fun y => { y with srep := none } }

/-- A tile left behind by a saved context. -/
def Tile.vacant (x : Tile) : Tile := { Tile.reset with tag := x.tag, monitors := x.monitors }

/-- The key of a saved context. -/
def savedKey (tag : Nat) (f : FnId) (train : Bool) : Nat := if train then 1000 + tag else f.val

/-- CONTEXT_SAVE_COMPLETE (R437 to R441, R461): once the formed gangs are complete the image is written, and the next
function takes over, or a train's restore that waits for its place. -/
def execContextSaveComplete (tag : Tag) (s : State) : Host.Outcome State Fault Refusal :=
  s.happen fun s =>
    let tg := tag.toNat
    let p := s.part tg
    match p.stopping with
    | none => s
    | some st =>
      if !st.done || p.tileList.any (fun t => !(s.tile t).gangsDone) then s
      else
        let (s1, seed) := s.fresh
        let flits := if st.train.isSome then s1.savedFlits tg else []
        let s2 := s1.writeImage tg st.base (seed * 2 ^ 20)
        let s3 := if st.train.isSome then (s2.writePorts tg (st.base + p.imageSize) (seed * 2 ^ 20 + 2 ^ 19) flits).clearPortSave tg else s2
        let c : Saved := { fn := st.fn, base := st.base, stopAt := st.at_, tiles := p.tileList.map fun t => (t, (s.tile t).toSave),
                           posts := s.partPosts tg, image := s3.partRead tg st.base p.imageSize, ports := flits }
        let s4 := { s3 with saved := mapSet s3.saved (savedKey tg st.fn st.train.isSome) c }
        let s5 := p.tileList.foldl (fun s t => s.modTile t Tile.vacant) s4
        let s6 := s5.modPart tg fun q => { q with stopping := none, resident := none,
                                                  batches := q.batches.filter fun b => !(p.tileList.contains b.tile) }
        if p.restoring.isSome then s6 else s6.takeNext tg st.fn

/-! ## Restore (R440) -/

/-- Registers and store of a tile read back from an image. -/
def State.readTile (s : State) (tag base i : Nat) (x : Tile) : Tile :=
  let o := base + 2359296 * i
  let word (a : Nat) : Word := w64 (s.partRead tag a 8)
  let slotBack (k : Nat) (y : Slot) : Slot :=
    let b := o + 0x200000 + 5120 * k
    { y with g := Vector.ofFn fun j : Fin 32 => word (b + 8 * j.val), f := Vector.ofFn fun j : Fin 32 => word (b + 256 + 8 * j.val),
             v := Vector.ofFn fun j : Fin 32 => BitVec.ofNat 1024 (s.partRead tag (b + 512 + 128 * j.val) 128) }
  { x with store := Memory.writeN [] 0 (s.partRead tag o (2 ^ 21)) (2 ^ 21),
           slots := Vector.ofFn fun k : Fin 32 => slotBack k.val (x.slot k) }

/-- A tile starts again: a new context generation, and an expiry 0 that was still to come moves on by the stop. -/
def Tile.resume (x : Tile) (gap : Nat) : Tile :=
  { x with halted := false, s0 := if x.going then x.s0 else x.s0 + gap,
           slots := x.slots.map fun y => { y with ctxGen := y.ctxGen + 1 } }

/-- The posts of a context come back, where they are still bound. -/
def State.restorePosts (s : State) (ps : Map Post) : State :=
  ps.foldl (fun s q => match mapFind s.posts q.1 with
    | some now => { s with posts := mapSet s.posts q.1 { now with f := q.2.f, val := q.2.val, bad := q.2.bad } }
    | none => s) s

/-- The posts of an image that was altered. -/
def State.readPosts (s : State) (tag base : Nat) (ps : Map Post) : Map Post :=
  let p := s.part tag
  ps.map fun q =>
    let g := ((natsFrom 0 p.pgroups).find? fun i => (mapGet 0 p.groups i).toNat % 512 == q.1 / 256).getD 0
    let o := base + 2359296 * p.ptiles + 67584 * g
    (q.1, { q.2 with f := w64 (s.partRead tag (o + 65536 + 8 * (q.1 % 256)) 8),
                     val := Memory.writeN [] 0 (s.partRead tag (o + 256 * (q.1 % 256)) (256 * q.2.lines)) (256 * q.2.lines) })

/-- The image is refused (R439): the function's launches are killed with code 15. -/
def State.refuseImage (s : State) (tag : Nat) (c : Saved) : State :=
  ((s.part tag).launchesOf c.fn).foldl (fun s e =>
    let s1 := match c.tiles.find? fun t => t.2.launch == some e with
      | some t => (s.modTile t.1 fun x => { x with launchId := t.2.launchId }).faultLog t.1 0 cSoft 0 2 2 0 0
      | none => s
    s1.endLaunch tag e 4) s

/-- Puts a context back, an altered one from the image at `base`. -/
def State.putBack (s : State) (tag base : Nat) (c : Saved) (altered : Bool) : State :=
  let p := s.part tag
  let s1 := c.tiles.foldl (fun s t =>
    let x := if altered then s.readTile tag base (p.logical t.1) t.2 else t.2
    s.setTile t.1 (x.resume (s.time.tai - c.stopAt))) s
  s1.restorePosts (if altered then s.readPosts tag base c.posts else c.posts)

/-- A function that is resident where a train is to resume is stopped first, at the first whole microsecond at least 990 ns later, or
its launches cancelled where its image does not fit (R436, R441, R457). -/
def State.makeRoom (s : State) (tag : Nat) (f : FnId) : State :=
  let p := s.part tag
  let base := bitsAt (s.func f).ctxbase.toNat 16 23 * 2 ^ 16
  if f.val ≠ 0 ∧ base + p.imageSize ≤ p.extent then
    s.modPart tag fun q => { q with stopping := some { at_ := wholeUs (s.time.tai + 990), fn := f, base, train := none, done := false } }
  else ((p.launchesOf f).foldl (fun s e => s.endLaunch tag e 3) s).modPart tag fun q => { q with resident := none }

/-- The saved requests of an image that is refused are answered as protection faults, the other saved flits go (R461). -/
def State.refuseFlits (s : State) (l : List (Nat × Flit)) : State :=
  l.foldl (fun s f => match f.2.msg with
    | .access tt _ | .bind tt _ _ _ _ _ | .drop tt _ | .query tt _ _ _ => s.answer f.2.src tt 2 0
    | _ => s) s

/-- The ports re-inject saved flits before what waits there, under the train's epoch; those of a member evicted since are discarded
(R459, R461). -/
def State.reinject (s : State) (tag : Nat) (epoch : Byte) (l : List (Nat × Flit)) : State :=
  let out : Nat × Flit → Bool := fun f => (s.part tag).evicted.contains f.2.src
  let s1 : State := { s with ports := s.ports.zipIdx.map fun x =>
    { x.1 with hold := (l.filter fun f => f.1 == x.2 && !out f).map (fun f => { f.2 with epoch }) ++ x.1.hold } }
  (l.filter out).foldl (fun s _ => s.dropFlit tag) s1

/-- CONTEXT_RESTORE (R439, R440): at J the image is back and every tile restarts; a train's restore waits for its action. Of an image
that was altered in memory the checksum fails or not, a free choice. -/
def execContextRestore (tag : Tag) (s : State) : Host.Outcome State Fault Refusal :=
  s.happen fun s =>
    let tg := tag.toNat
    let p := s.part tg
    match p.restoring with
    | none => s
    | some r =>
      if s.time.tai < r.at_ || p.stopping.isSome || (r.train.isSome && match p.train with | some tr => tr.halted | none => false) then s
      else if let some f := p.resident then (if r.train.isSome then s.makeRoom tg f else s)
      else
        let key := savedKey tg r.fn r.train.isSome
        match mapFind s.saved key with
        | none => s.modPart tg fun q => { q with restoring := none }
        | some c =>
          let s0 := { s with saved := mapErase s.saved key }
          let same := s.partRead tg r.base p.imageSize == c.image
          let (s1, refuse) := if same then (s0, false) else s0.flip
          let s2 := s1.modPart tg fun q =>
            { q with restoring := none, resident := some r.fn, sliceEnd := s.time.tai + s.sliceLen r.fn }
          if refuse then
            (((((s2.refuseImage tg c).refuseFlits (c.ports ++ s.savedFlits tg)).clearPortSave tg).settle tg)).releaseHolds tg
          else
            let s3 := s2.putBack tg r.base c (!same)
            match r.train, p.train with
            | some n, some tr =>
              let late : TEntry → TEntry := fun e => { e with late := e.late || decide (r.at_ < s.time.tai) }
              let s4 := (s3.clearPortSave tg).modPart tg fun q =>
                { q with timetable := q.timetable.map fun e => if e.1 = n then (e.1, late e.2) else e }
              (s4.reinject tg tr.epoch (c.ports ++ s.savedFlits tg)).releaseHolds tg
            | _, _ => s3.releaseHolds tg

/-! ## Function-level reset (R442) -/

/-- A tile zeroed by a reset: what it has outstanding drains (R438, R399). -/
def Tile.zeroed (x : Tile) : Tile :=
  { Tile.reset with
    tag := x.tag, launch := x.launch, roundsOver := true, halted := true,
    slots := x.slots.map fun y => { Slot.reset with
      ops := y.ops.map fun o => { o with dests := o.dests.map fun d => { d with code := rNone } },
      cntl := y.cntl, cnts := y.cnts, ctxGen := y.ctxGen } }

/-- Zeroes the posts that the launches of a function bind. -/
def State.zeroPosts (s : State) (tag : Nat) (f : FnId) : State :=
  let es := (s.part tag).launchesOf f
  { s with posts := s.posts.map fun q =>
      if q.2.binders.any fun b => b.1 == tag && es.contains b.2.1 then (q.1, { q.2 with f := 0, val := [], bad := [] }) else q }

/-- Whether a saved context of a function exists, a train's included. -/
def State.hasSaved (s : State) (f : FnId) : Bool := s.saved.any fun c => c.2.fn == f

/-- What a reset meets: the code of FLRSTAT, and whether the function is resident, saving or restoring. -/
def State.flrCase (s : State) (tag : Nat) (f : FnId) : Nat × Bool :=
  let p := s.part tag
  if p.resident = some f then (bool01 p.stopped, true)
  else if p.resident.isNone && (match p.restoring with | some r => r.fn == f | none => false) then (2, true)
  else ((if s.hasSaved f then 3 else 0), false)

/-- The reset of a function within its partition. -/
def State.flr (s : State) (tag : Nat) (f : FnId) : State × Nat :=
  let (code, here) := s.flrCase tag f
  let s1 := if here then s.zeroPosts tag f else s
  let s2 := ((s1.part tag).launchesOf f).foldl (fun s e => s.endLaunch tag e 4) s1
  let s3 := { s2 with saved := s2.saved.filter fun c => c.2.fn != f }
  let s4 := if here then (s3.part tag).tileList.foldl (fun s t => s.modTile t Tile.zeroed) s3 else s3
  let mine : Restore → Bool := fun r => r.fn == f
  let next (s : State) : State := if (s.part tag).restoring.isSome then s.modPart tag fun p => { p with resident := none } else s.takeNext tag f
  let s5 := s4.modPart tag fun p =>
    { p with stopping := match p.stopping with | some st => if st.fn = f then none else some st | none => none,
             restoring := match p.restoring with | some r => if mine r then none else some r | none => none }
  ((if here then next s5 else s5).settle tag, code)

/-- FUNCTION_LEVEL_RESET (R442). -/
def execFunctionLevelReset (fn : FnId) (s : State) : Host.Outcome State Fault Refusal :=
  s.happen fun s =>
    let s0 := s.modFunc fn fun f => { f with ctxbase := 0 }
    if fn.val = 0 then
      let s1 := s0.parts.foldl (fun s p => ((p.2.launchesOf fn).foldl (fun s e => s.endLaunch p.1 e 4) s).settle p.1) s0
      s1.emit (.flrDone fn)
    else
      let tag := s.fnTag fn
      let (s1, code) := if tag = 0 then (s0, 0) else s0.flr tag fn
      (s1.modFunc fn fun f => { f with flrstat := w64 (0x100 + code) }).emit (.flrDone fn)

/-- A read of FLRSTAT clears DONE (R442). -/
def State.readFlrstat (s : State) (vf : Nat) : State × Word :=
  let f := fnOf (vf + 1)
  (s.modFunc f fun x => { x with flrstat := x.flrstat &&& ~~~0x100 }, (s.func f).flrstat)

/-- FLRSTAT_READ (R442), a read of BAR 0 as any other (R318, R413). -/
def execFlrstatRead (vf : BitVec 8) (s : State) : Host.Outcome State Fault Refusal :=
  s.happen fun s =>
    if !s.booted || !(s.func 0).posted.isEmpty then s
    else (s.readFlrstat vf.toNat).1.emit (.hostRead 0 (s.readFlrstat vf.toNat).2.toNat false)

end Sys2Proof.Machine
end

