-- ==== Sys2Proof/Machine/Trains.lean ====
section
/-!
DEFINITION. The time unit (R449 to R453), trains and the timetable (R454 to R458, R462 to R466), and class 0x12 (R467 to
R469).
-/
namespace Sys2Proof.Machine

/-! ## The time base (R451, R452, R453) -/

/-- E in reference ns. -/
def State.errE (s : State) : Nat :=
  match s.time.clock with
  | .locked => Nat.min 65535 s.time.e
  | .holdover => Nat.min 65535 (s.time.e0 + (s.time.tai - s.time.since) / 2000)
  | .lost => 65535

def State.lostLim (s : State) : Nat := Nat.max 1 (bitsAt s.time.tbcfg.toNat 32 16)

/-- Whether a tile runs a launch of a train job. -/
def State.inTrain (s : State) (tag : Nat) (x : Tile) : Bool :=
  match x.launch with
  | none => false
  | some e => match s.launch tag e with
    | some l => (s.part tag).jobs.any fun j => j.2.inst == l.up.getD 2 0 && j.2.parent != 0
    | none => false

def State.trainTiles (s : State) (tag : Nat) : List TileId := (s.part tag).tileList.filter fun t => s.inTrain tag (s.tile t)

/-- Where the lowest-numbered declared slot takes a tile trap: at its next instruction, an inactive one at its entry address (R420). -/
def Tile.trapPc (x : Tile) : Word :=
  let k := x.firstDeclared
  if (x.slot k).active then (x.slot k).pc else match x.entries.find? fun e => e.1 == k with | some e => e.2 | none => 0

/-- A tile trap raised in a tile whose context is saved: its slot takes it at its next issue after the restore (R420, R436). -/
def Tile.raise (x : Tile) (code info : Nat) (val : Word) : Tile :=
  let k := x.firstDeclared
  let y := x.slot k
  let z := if y.active then y else { y with active := true, trapOnly := true, tm := false, pc := x.trapPc }
  let tr : TrapRec := { code, info, pc := 0, val, precise := false }
  x.setSlot k { z with deferred := z.deferred ++ [tr] }

/-- A notification in the tiles that a halted train has saved. -/
def State.notifySaved (s : State) (tag code info level policy : Nat) (val : Word) : State :=
  match mapFind s.saved (1000 + tag) with
  | none => s
  | some c =>
    let s1 := (c.tiles.filter fun t => s.inTrain tag t.2).foldl (fun s t =>
      s.faultLogOf t.1 t.2 t.2.firstDeclared code info level policy t.2.trapPc val) s
    let c1 := { c with tiles := c.tiles.map fun t => if s.inTrain tag t.2 then (t.1, t.2.raise code info val) else t }
    { s1 with saved := mapSet s1.saved (1000 + tag) c1 }

/-- A notification in the train's tiles of a partition, with its fault-log records (R420, R426). -/
def State.notify (s : State) (tag code info level policy : Nat) (val : Word) : State :=
  ((s.trainTiles tag).foldl (fun s t =>
    (s.faultLog t (s.tile t).firstDeclared code info level policy (s.tile t).trapPc val).tileTrap t code info val) s).notifySaved tag code info level policy val

/-- A change of clock state raises the clock-loss notification (R453). -/
def State.clockChange (s : State) (c : Clock) (info : Nat) : State :=
  let s1 := { s with time := { s.time with clock := c } }
  let e := s1.errE
  s1.parts.foldl (fun s p => s.notify p.1 cClock info 7 0 (w64 e)) s1

/-- Enters holdover (R452). -/
def State.enterHoldover (s : State) : State :=
  let e := s.errE
  State.clockChange { s with time := { s.time with e0 := e, since := s.time.tai } } .holdover 1

/-- HOLDOVER_ENTRY (R452): locked, and no valid Sync for three Sync intervals. -/
def execHoldoverEntry (s : State) : Host.Outcome State Fault Refusal :=
  s.happen fun s => if s.time.clock = .locked then s.enterHoldover else s

/-- CLOCK_LOST (R452): holdover with E at LOSTLIM. -/
def execClockLost (s : State) : Host.Outcome State Fault Refusal :=
  s.happen fun s => if s.time.clock = .holdover ∧ s.lostLim ≤ s.errE then s.clockChange .lost 2 else s

/-- The unit locks with an offset (R452). -/
def State.lock (s : State) (mag : Nat) : State :=
  let s1 := { s with time := { s.time with e := mag + 20, isSet := true } }
  if s.time.clock = .locked then s1 else s1.clockChange .locked 0

/-- Thirds of the time base's unit in a ns (R449). -/
def tickNs : Nat := 3 * 2 ^ 16

/-- The servo has an offset to correct: it slews toward TAI by a rate of at most 200 ppm, a free choice (R449): 16 thirds of a unit
in a nominal cycle of 81,920. -/
def State.servo (s : State) (offset : Int) : State :=
  { s with time := { s.time with owed := offset * tickNs, slew := Config.freeLevel s.free % 17 }, free := s.free + 1 }

/-- The first lock sets the time base forward to TAI, and the launch processor's turns go on from there (R106, R449). -/
def State.setForward (s : State) (n : Nat) : State :=
  { s with time := { s.time with tai := (s.time.tai + n) % 2 ^ 64 }, nextTurn := s.nextTurn + n }

/-- PTP_SYNC (R449, R450, R452): an offset measured by the PTP profile, with a Delay_Req of its own, or by the PPS input, if that is
enabled. The first lock sets the time base forward to TAI; later offsets only slew it. -/
def execPtpSync (pps : Bool) (offset : Int) (s : State) : Host.Outcome State Fault Refusal :=
  s.happen fun s =>
    let cfg := s.time.tbcfg
    if (if pps then !cfg.getLsbD 17 || !s.time.isSet else !cfg.getLsbD 16) then s
    else
      let s := if pps then s else s.emit (.delayReq (cfg.extractLsb' 0 8))
      if s.time.isSet then
        (let s1 := s.servo offset
         if offset.natAbs ≤ 50 then s1.lock offset.natAbs
         else if s.time.clock = .locked then s1.enterHoldover else s1)
      else if 0 ≤ offset then (s.setForward offset.natAbs).lock 0
      else if offset.natAbs ≤ 50 then (s.servo offset).lock offset.natAbs
      else s

/-- A write of TBCFG: ignored while any partition holds an armed entry (R451). -/
def State.writeTbcfg (s : State) (v : Word) : State :=
  if s.parts.any fun p => p.2.timetable.any fun e => e.2.state == 1 then s
  else { s with time := { s.time with tbcfg := maskIn 0x0000FFFF000300FF s.time.tbcfg v } }

/-- TBCFG_WRITE (R451). -/
def execTbcfgWrite (v : Word) (s : State) : Host.Outcome State Fault Refusal :=
  s.happen fun s => s.barWrite 0 0x92000 v fun s => s.writeTbcfg v

/-! ## Timetable entries (R455, R456) -/

def TEntry.instant (e : TEntry) : Nat := bitsAt e.record 0 64
def TEntry.w (e : TEntry) : Nat := if bitsAt e.record 64 32 = 0 then 4000 else bitsAt e.record 64 32
def TEntry.action (e : TEntry) : Nat := bitsAt e.record 96 8
def TEntry.spol (e : TEntry) : Nat := bitsAt e.record 104 2
def TEntry.num (e : TEntry) : Nat := bitsAt e.record 112 16
def TEntry.phaseIdx (e : TEntry) : Nat := bitsAt e.record 128 16
def TEntry.jobIdx (e : TEntry) : Nat := bitsAt e.record 144 16
def TEntry.leadChip (e : TEntry) : Chip := BitVec.ofNat 12 (bitsAt e.record 176 12)
def TEntry.ctx (e : TEntry) : Nat := bitsAt e.record 192 64

def Part.entry (p : Part) (n : Nat) : TEntry := mapGet TEntry.empty p.timetable n
def State.setEntry (s : State) (tag n : Nat) (e : TEntry) : State :=
  s.modPart tag fun p => { p with timetable := mapSet p.timetable n e }

/-- The member list of a record. -/
def State.memberList (s : State) (p : Part) (r : Nat) : List Nat :=
  (natsFrom 0 (bitsAt r 160 16)).map fun i => s.readHbm p (bitsAt r 256 64 + 2 * i) 2

/-- ERR 1: zero fields and limits. -/
def Part.recordFine (p : Part) (r : Nat) : Bool :=
  let a := bitsAt r 96 8
  let w := bitsAt r 64 32
  let c := bitsAt r 192 64
  let m := bitsAt r 256 64
  let nm := bitsAt r 160 16
  a ≤ 4 && (w == 0 || (1000 ≤ w && w ≤ 1000000)) && bitsAt r 104 8 ≤ 2 && bitsAt r 112 16 != 0 &&
    (if a = 1 then bitsAt r 128 16 ≤ 1023 else bitsAt r 128 16 == 0) && bitsAt r 144 16 ≤ 255 && 1 ≤ nm && nm ≤ 4096 &&
    bitsAt r 188 4 == 0 && (if a = 2 ∨ a = 3 then c % 65536 == 0 && decide (c < p.extent) else c == 0) &&
    m % 8 == 0 && decide (m + 2 * nm ≤ p.extent) && bitsAt r 320 192 == 0

/-- ERR 4: the record of a job is VALID and its PARENT is a train (R109, R456). -/
def State.jobNames (s : State) (p : Part) (job train : Nat) : Bool :=
  let e := s.readHbm p (bitsAt p.hier.toNat 16 23 * 2 ^ 16 + recordAt 4 job) 8
  bitAt e 0 && bitsAt e 32 32 == train

/-- The first failing check of R456, or 0. -/
def State.recordErr (s : State) (tag n : Nat) (r : Nat) : Nat :=
  let p := s.part tag
  let a := bitsAt r 96 8
  let now := s.time.tai + 10000
  let i := bitsAt r 0 64
  if !p.recordFine r then 1
  else if i < now ∨ (a = 3 ∧ (i - now) * 125 * p.pgroups < 2 * p.imageSize) then 2
  else
    let ms := s.memberList p r
    if !ms.contains s.chipId.toNat || !ms.contains (bitsAt r 176 12) || ms.eraseDups.length != ms.length then 3
    else if !s.jobNames p (bitsAt r 144 16) (bitsAt r 112 16) then 4
    else if (a = 2 ∨ a = 3) ∧ p.extent < bitsAt r 192 64 + p.imageSize + 986880 then 5
    else if p.timetable.any fun e => e.1 != n && e.2.state == 1 && e.2.num != bitsAt r 112 16 then 6
    else 0

/-- A restore prepared for an entry that is discarded unfired is given up (R440, R466). -/
def State.unprepare (s : State) (tag n : Nat) : State :=
  let p := s.part tag
  match p.restoring, p.train with
  | some r, some tr =>
    if r.train = some n ∧ tr.halted = true then
      let s1 := s.modPart tag fun q => { q with restoring := none }
      if p.resident.isNone then s1.takeNext tag r.fn else s1
    else s
  | _, _ => s

/-- The timetable accepts a record (R455, R456, R466, R468). -/
def State.acceptRecord (s : State) (tag n r : Nat) : State :=
  let s := s.unprepare tag n
  let old := (s.part tag).entry n
  if bitsAt r 96 8 = 0 then s.setEntry tag n { TEntry.empty with window := old.window }
  else
    let err := s.recordErr tag n r
    s.setEntry tag n { TEntry.empty with
      record := r % 2 ^ 448, state := if err = 0 then 1 else 4, err := BitVec.ofNat 4 err, window := old.window,
      members := (s.memberList (s.part tag) r).map (BitVec.ofNat 12) }

/-- A write to offset 0x38 of a window commits its other bytes (R455). -/
def State.commitWindow (s : State) (fn : FnId) (n : Nat) : State :=
  s.partReg fn (0x41000 + 64 * n + 0x38) fun tag s => s.acceptRecord tag n (((s.part tag).entry n).window % 2 ^ 448)

/-- TIMETABLE_WINDOW_COMMIT (R455). -/
def execTimetableWindowCommit (fn : FnId) (n : Byte) (s : State) : Host.Outcome State Fault Refusal :=
  s.happen fun s => s.barWrite fn (0x41038 + 64 * n.toNat) 0 fun s => s.commitWindow fn n.toNat

/-! ## Firing (R457, R458, R465) -/

/-- An entry is timed by this module's own time base (R457, R465). -/
def State.selfTimed (s : State) (e : TEntry) : Bool :=
  e.leadChip == s.chipId || (match s.time.clock with
    | .locked => true
    | .holdover => decide (2 * s.errE < e.w)
    | .lost => false)

/-- No armed entry comes before entry n (R457). -/
def Part.firstArmed (p : Part) (n : Nat) (e : TEntry) : Bool :=
  p.timetable.all fun x => x.2.state != 1 || x.1 == n || decide (e.instant < x.2.instant) || (e.instant == x.2.instant && decide (n < x.1))

/-- The members of an entry that have not been evicted (R463). -/
def Part.membersOf (p : Part) (e : TEntry) : List Chip := e.members.filter fun c => !p.evicted.contains c

/-- A beacon of an entry to a chip: kind 0 halt, 1 leave, 2 action, 3 free-running action. -/
def State.beacon (s : State) (c : Chip) (e : TEntry) (kind : Nat) : State :=
  s.emit (.beacon c s.chipId e.num e.instant e.epoch kind)

/-- The beacons of an entry to its other members. -/
def State.beacons (s : State) (tag : Nat) (e : TEntry) (kind : Nat) : State :=
  ((s.part tag).membersOf e).foldl (fun s c => if c = s.chipId then s else s.beacon c e kind) s

/-- T_sr in reference ns (R405). -/
def Part.switchTime (p : Part) : Nat := 4000 + ceilDiv (4 * p.imageSize) (125 * p.pgroups)

/-- Whether the train's state allows an action (R457). -/
def Part.actionOk (p : Part) (e : TEntry) : Bool :=
  let mine := match p.train with | some t => t.num == e.num | none => false
  let halted := match p.train with | some t => t.halted | none => false
  match e.action with
  | 1 => (mine && !halted) || (p.train.isNone && !(mapGet (0, false) p.epochs e.num).2)
  | 2 => mine && !halted
  | 3 => mine && halted
  | _ => mine

/-- The effect of an action at its instant. -/
def State.act (s : State) (tag n : Nat) (e : TEntry) (ep : Byte) : State :=
  let p := s.part tag
  let fn := p.resident.getD 0
  match e.action with
  | 1 =>
    let tr : Train := match p.train with
      | some t => { t with epoch := ep }
      | none => { num := e.num, epoch := ep, halted := false, members := e.members, lead := e.leadChip }
    (s.modPart tag fun q => { q with train := some tr, discard := [] }).startPhase tag e.jobIdx e.phaseIdx
  | 2 =>
    (s.modPart tag fun q => { q with train := q.train.map fun t => { t with epoch := ep, halted := true },
                                     stopping := some { at_ := s.time.tai, fn, base := e.ctx, train := some n, done := false } }).event
      (.preemptStop (BitVec.ofNat 8 tag))
  | 3 =>
    let f := match mapFind s.saved (1000 + tag) with | some c => c.fn | none => fn
    (s.modPart tag fun q => { q with train := q.train.map fun t => { t with epoch := ep, halted := false },
                                     restoring := some { fn := f, base := e.ctx, at_ := if e.bt then s.time.tai else e.instant, train := some n } }).event
      (.contextRestore (BitVec.ofNat 8 tag))
  | _ =>
    let s1 := ((s.modPart tag fun q => { q with train := none, discard := e.members,
                                                epochs := q.epochs.map fun x => if x.1 = e.num then (x.1, (x.2.1, true)) else x }).clearPortSave
      tag).purge tag false fun f => f.epoch != 0 && e.members.contains f.src
    let s2 := ((s1.endAt tag (s1.part tag).jobs e.jobIdx 3).settle tag)
    let s3 := { s2 with saved := mapErase s2.saved (1000 + tag) }
    let ours : Restore → Bool := fun r => r.train.isSome
    let s4 := s3.modPart tag fun q => { q with stopping := match q.stopping with | some st => if st.train.isSome then none else some st | none => none,
                                               restoring := match q.restoring with | some r => if ours r then none else some r | none => none }
    let s5 := if p.resident.isNone && (match p.restoring with | some r => ours r | none => false) then s4.takeNext tag fn else s4
    s5.event (.haltBeaconSend (BitVec.ofNat 8 tag) (BitVec.ofNat 8 n))

/-- What waits at the ports follows the partition's epoch from one to the next: it has been sorted already (R459, R460). -/
def State.relabel (s : State) (tag : Nat) (tr : Train) (ep : Byte) : State :=
  let old : Flit → Bool := fun f => f.tag.toNat == tag && tr.sorts f && (f.epoch == tr.epoch || f.epoch == tr.epoch - 1)
  { s with ports := s.ports.map fun p => { p with hold := p.hold.map fun f => if old f then { f with epoch := ep } else f } }

/-- An entry fires (R457): the epoch, the action, the status; the lead sends its action beacons (R465). -/
def State.fire (s : State) (tag n : Nat) (bt : Bool) : State :=
  let p := s.part tag
  let e := p.entry n
  let (ep0, was) := mapGet (0, false) p.epochs e.num
  let ep := ep0 + 1
  let late := decide (e.w < 2 * (s.time.tai - e.instant))
  let skew := BitVec.ofInt 32 ((s.time.tai : Int) - (e.instant : Int))
  let saving := match p.stopping with | some st => st.train.isSome | none => false
  let okay := p.actionOk e && (e.action != 3 || (mapFind s.saved (1000 + tag)).isSome || saving)
  let s0 := match p.train with | some tr => if tr.num = e.num then s.relabel tag tr ep else s | none => s
  let s1 := s0.modPart tag fun q => { q with epochs := mapSet q.epochs e.num (ep, was || okay),
                                             evicted := if p.train.isNone && okay then [] else q.evicted,
                                             train := q.train.map fun t => if t.num = e.num then { t with epoch := ep } else t }
  let e1 : TEntry := { e with epoch := ep, skew, late, bt, state := if okay then 3 else 4, err := if okay then e.err else 7 }
  let s2 := s1.setEntry tag n e1
  let s3 := if e.leadChip = s.chipId then s2.beacons tag e1 (if s.time.clock = .lost then 3 else 2) else s2
  if okay then (s3.act tag n e1 ep).releaseHolds tag
  else (State.beacons (s3.setEntry tag n { e1 with left := s.chipId :: e1.left }) tag e1 1).releaseHolds tag

/-- Whether the restore of a resume has to be prepared now (R440): no other stop or restore is under way, and its instant is no further
than a save and a restore take (log 45). -/
def Part.prepares (p : Part) (tai n : Nat) (e : TEntry) : Bool :=
  e.state == 1 && e.action == 3 && p.firstArmed n e && p.actionOk e && p.stopping.isNone && p.restoring.isNone &&
    decide (tai < e.instant) && decide (e.instant ≤ tai + p.switchTime)

/-- The place of a train that resumes is made free before its instant, so that issue restarts exactly then (R440). -/
def State.prepare (s : State) (tag n : Nat) (e : TEntry) : State :=
  match mapFind s.saved (1000 + tag) with
  | none => s
  | some c =>
    let s1 := s.modPart tag fun q => { q with restoring := some { fn := c.fn, base := e.ctx, at_ := e.instant, train := some n } }
    match (s.part tag).resident with
    | some f => s1.makeRoom tag f
    | none => s1

/-- TIMETABLE_FIRE (R440, R457, R466): the next armed entry fires when its time base reads its instant, or waits from then on for the
lead's beacon; before that a resume is prepared. -/
def execTimetableFire (tag : Tag) (n : Byte) (s : State) : Host.Outcome State Fault Refusal :=
  s.happen fun s =>
    let p := s.part tag.toNat
    let e := p.entry n.toNat
    if e.state = 1 ∧ e.instant ≤ s.time.tai ∧ e.waits = false ∧ p.firstArmed n.toNat e = true then
      (if s.selfTimed e then s.fire tag.toNat n.toNat false else s.setEntry tag.toNat n.toNat { e with waits := true })
    else if p.prepares s.time.tai n.toNat e then s.prepare tag.toNat n.toNat e
    else s

/-- ACTION_BEACON_RECEIVE (R465): a beacon-timed entry fires; a free-running lead raises code 13. -/
def execActionBeaconReceive (tag : Tag) (n : Byte) (free : Bool) (s : State) : Host.Outcome State Fault Refusal :=
  s.happen fun s =>
    let p := s.part tag.toNat
    let e := p.entry n.toNat
    if e.state = 1 ∧ (e.waits = true ∨ s.selfTimed e = false) ∧ p.firstArmed n.toNat e = true then
      let s1 := s.fire tag.toNat n.toNat true
      if free ∧ s.time.clock = .lost then s1.notify tag.toNat cClock 3 7 0 (w64 s.errE) else s1
    else s

/-! ## Halt beacons, verdicts, failover (R462 to R464) -/

/-- HALT_BEACON_SEND (R462): once the tiles have stopped. -/
def execHaltBeaconSend (tag : Tag) (n : Byte) (s : State) : Host.Outcome State Fault Refusal :=
  s.happen fun s =>
    let p := s.part tag.toNat
    let e := p.entry n.toNat
    let still := (s.trainTiles tag.toNat).all fun t => (s.tile t).halted
    if e.state = 3 ∧ (e.action = 2 ∨ e.action = 4) ∧ still = true ∧ e.beacons.contains s.chipId = false then
      (s.setEntry tag.toNat n.toNat { e with beacons := s.chipId :: e.beacons }).beacons tag.toNat e 0
    else s

/-- HALT_BEACON_RECEIVE (R462): a leave beacon makes its sender a straggler. -/
def execHaltBeaconReceive (tag : Tag) (n : Byte) (src : Chip) (leave : Bool) (s : State) : Host.Outcome State Fault Refusal :=
  s.happen fun s =>
    let e := (s.part tag.toNat).entry n.toNat
    if leave then s.setEntry tag.toNat n.toNat { e with left := src :: e.left }
    else s.setEntry tag.toNat n.toNat { e with beacons := src :: e.beacons }

/-- Whether an entry's action has fired: done, or failed then (R457). -/
def TEntry.fired (e : TEntry) : Bool := e.state == 3 || (e.state == 4 && e.err == 7)

/-- Whether an action halts the train, so that its members confirm it: a pre-empt or a cancel (R462). -/
def TEntry.halts (e : TEntry) : Bool := e.action == 2 || e.action == 4

/-- The stragglers of an entry: its members that have sent a leave beacon, and where they confirm a halt those without a halt beacon
(R462, R463, R466). -/
def Part.missing (p : Part) (e : TEntry) : List Chip :=
  (p.membersOf e).filter fun c => (e.halts && !e.beacons.contains c) || e.left.contains c

/-- Kills the train's job on this module and tells its tiles (R463, R464). -/
def State.killSelf (s : State) (tag : Nat) (e : TEntry) (val : Word) : State :=
  let s1 := s.notify tag cStraggler 4 5 e.spol val
  (s1.endAt tag (s1.part tag).jobs e.jobIdx 4).settle tag

/-- Members leave the train: their waybills break, their flits are discarded, those at the ports too (R459, R463). -/
def State.evict (s : State) (tag : Nat) (l : List Chip) : State :=
  let theirs : Flit → Bool := fun f => l.contains f.src && match (s.part tag).train with | some tr => tr.sorts f | none => false
  (l.foldl (fun s c => s.loseChip tag c) (s.modPart tag fun p => { p with evicted := l ++ p.evicted, train := p.train.map fun t =>
    { t with members := t.members.filter fun c => !l.contains c } })).purge tag true theirs

/-- A member acts on a verdict (R463): it tells its tiles; under wait a first verdict does no more, a straggler that is evicted kills its
own job, and the others drop it. -/
def State.onVerdict (s : State) (tag n : Nat) (missing : List Chip) : State :=
  let e := (s.part tag).entry n
  let second := e.verdicts != 0
  let e1 := { e with verdicts := e.verdicts + 1, strag := e.strag || !missing.isEmpty }
  let s1 := s.setEntry tag n e1
  match missing with
  | [] => s1
  | c :: _ =>
    let val := w64 (c.toNat + n * 2 ^ 16 + Nat.min 255 missing.length * 2 ^ 24)
    let s2 := s1.notify tag cStraggler (e.spol + 1) 5 e.spol val
    if e.spol = 2 then (s2.endAt tag (s2.part tag).jobs e.jobIdx 4).settle tag
    else if e.spol = 0 ∧ second = false then s2
    else if missing.contains s.chipId then (s2.setEntry tag n { e1 with evicted := true }).killSelf tag e1 val
    else s2.evict tag missing

/-- The chips that act as lead one after another: LEAD, then those after it in the member list that have not been evicted (R464). -/
def Part.leadOrder (p : Part) (e : TEntry) : List Chip :=
  e.leadChip :: ((e.members.drop ((e.members.findIdx? fun c => c == e.leadChip).getD 0)).drop 1).filter fun c => !p.evicted.contains c

/-- The chip that acts as lead after some leads have been given up. -/
def Part.actingLead (p : Part) (e : TEntry) : Option Chip := (p.leadOrder e)[e.leads]?

/-- Whether the acting lead's verdict is due (R462 to R464): LEAD's at I + W, and under wait once more at I + 2W; a new lead's as soon
as it holds the beacons of every member not counted missing. An action that halts nothing has one only where members have left. -/
def Part.verdictDue (p : Part) (chip : Chip) (tai : Nat) (e : TEntry) : Bool :=
  let miss := p.missing e
  let due := if e.leads = 0 then decide (e.instant + (e.verdicts + 1) * e.w ≤ tai)
    else miss.all fun c => ((p.leadOrder e).take e.leads).contains c
  e.fired && (e.halts || !miss.isEmpty) && p.actingLead e == some chip && due &&
    (e.verdicts == 0 || (e.verdicts == 1 && e.spol == 0 && e.strag))

/-- VERDICT_SEND (R462 to R464): to every other member, the missing members up to 255 with the action of R463. -/
def execVerdictSend (tag : Tag) (n : Byte) (s : State) : Host.Outcome State Fault Refusal :=
  s.happen fun s =>
    let p := s.part tag.toNat
    let e := p.entry n.toNat
    if p.verdictDue s.chipId s.time.tai e then
      let named := (p.missing e).take 255
      ((p.membersOf e).foldl (fun s c => if c = s.chipId then s else s.emit (.verdict c e.num e.instant e.spol named)) s).onVerdict
        tag.toNat n.toNat named
    else s

/-- VERDICT_RECEIVE (R463). -/
def execVerdictReceive (tag : Tag) (n : Byte) (missing : List Chip) (s : State) : Host.Outcome State Fault Refusal :=
  s.happen fun s =>
    let e := (s.part tag.toNat).entry n.toNat
    if e.fired then s.onVerdict tag.toNat n.toNat missing else s

/-- Whether a lead is to be given up (R464): an action that halts the train has brought no verdict by I + 2W, or by a further W for each
lead that followed. -/
def TEntry.failoverDue (e : TEntry) (tai : Nat) : Bool :=
  e.fired && e.halts && e.verdicts == 0 && decide (e.instant + (2 + e.leads) * e.w ≤ tai)

/-- LEAD_FAILOVER (R464): the next chip of the list leads, and this module's beacon goes to it once more, if it has sent one: its halt
beacon, or its leave beacon where its action failed. -/
def execLeadFailover (tag : Tag) (n : Byte) (s : State) : Host.Outcome State Fault Refusal :=
  s.happen fun s =>
    let p := s.part tag.toNat
    let e := p.entry n.toNat
    if e.failoverDue s.time.tai ∧ p.actingLead e ≠ some s.chipId then
      let e1 := { e with leads := e.leads + 1 }
      let s1 := s.setEntry tag.toNat n.toNat e1
      match p.actingLead e1 with
      | none => (s1.setEntry tag.toNat n.toNat { e1 with verdicts := 1, evicted := true }).killSelf tag.toNat e1 (w64 (s.chipId.toNat + n.toNat * 2 ^ 16))
      | some c =>
        let s2 := s1.modPart tag.toNat fun p => { p with train := p.train.map fun t => { t with lead := c } }
        if c = s.chipId then s2
        else if e.left.contains s.chipId then s2.beacon c e 1
        else if e.beacons.contains s.chipId then s2.beacon c e 0 else s2
    else s

/-! ## Class 0x12 -/

/-- `time` (R467). -/
def execTime (h : Hdr) (d : G) (s : State) : Host.Outcome State Fault Refusal :=
  s.issue h { writes := [rG d], mem := true } fun s => .go (s.ask .time [destOf (rG d) 0 64 false] false)

/-- `ttab` (R468). -/
def execTtab (h : Hdr) (a b : G) (s : State) : Host.Outcome State Fault Refusal :=
  s.issue h { reads := [rG a, rG b], deep := [rG a, rG b], outside := true } fun s =>
    let n := s.me.gr a
    let v := s.me.gr b
    if n.toNat > 255 then .trap cProt 0 n
    else if v.toNat % 64 ≠ 0 then .trap cAlign 0 v
    else match s.myPart.classOf v.toNat 64 with
      | some .store =>
        if s.me.acquiring then .wait .acquire
        else s.softRead v.toNat 64 fun s => .go (s.addOp { Op.plain (.ttab (n.setWidth 8) (s.myTile.storeRead v.toNat 64)) with cntS := true } true)
      | some .hbm =>
        if !s.myPart.grants v.toNat 64 needR then .trap cProt 0 v
        else if s.me.cnts ≠ 0 then .wait .stores
        else .go (s.addOp { Op.plain (.ttab (n.setWidth 8) (s.partRead s.myTag v.toNat 64)) with cntS := true } true)
      | _ => .trap cProt 0 v

/-- `tstat` (R469). -/
def execTstat (h : Hdr) (d a : G) (s : State) : Host.Outcome State Fault Refusal :=
  s.issue h { reads := [rG a], writes := [rG d], deep := [rG a], mem := true } fun s =>
    let v := s.me.gr a
    if v.toNat ≥ 1024 then .trap cProt 0 v else .go (s.ask (.tstat v) [destOf (rG d) 0 64 false] false)

/-- The status of an entry (R458). -/
def TEntry.status (e : TEntry) : Nat :=
  e.skew.toNat * 2 ^ 32 + e.epoch.toNat * 2 ^ 24 + bool01 e.evicted * 2 ^ 15 + bool01 e.strag * 2 ^ 14 + bool01 e.late * 2 ^ 13 +
    bool01 e.bt * 2 ^ 12 + e.err.toNat * 2 ^ 8 + e.state.toNat

def Clock.code : Clock → Nat
  | .locked => 0 | .holdover => 1 | .lost => 2

/-- What tstat returns (R469). -/
def State.tstatValue (s : State) (tag : Nat) (a : Word) : Nat :=
  let p := s.part tag
  let e := p.entry (a.toNat % 256)
  match bitsAt a.toNat 8 2 with
  | 0 => e.status
  | 1 => e.instant
  | 2 => if e.state = 0 then 0 else (mapGet (0, false) p.epochs e.num).1.toNat + e.num * 2 ^ 8
  | _ => s.time.clock.code + bool01 s.time.isSet * 4 + s.errE * 2 ^ 16 + (match p.train with | some t => t.lead.toNat | none => 0) * 2 ^ 32

end Sys2Proof.Machine
end

