-- ==== Sys2Proof/Machine/Pages.lean ====
section
/-!
DEFINITION. Page faults of host and remote accesses: confirmation, run-ahead, batches and their answers (R430 to R434),
the page requests of other modules (R435), and the completion timeout of a host request (R272).
-/
namespace Sys2Proof.Machine

/-! ## Confirmation (R430) -/

/-- Once every access of a slot is confirmed, the checkpoints go, the tile-store lanes of scatters are written and the held
operations are sent in order (R326, R430). -/
def State.sendHeld (s : State) (t : TileId) (k : SlotId) : State :=
  let x := s.slot t k
  if x.ops.all (fun o => o.conf) && !x.ahead then
    let ids := (x.ops.filter (·.held)).map (·.id)
    let near := (x.ops.filter fun o => o.pieces.any fun p => clsAt p.addr == .store).map (·.id)
    near.foldl (fun s i => s.nearLanes t k i)
      ((s.setSlot t k { x with ra := none, ops := x.ops.map fun o => { o with held := false } }).sendActs t k ids)
  else s

/-- An access of a slot with no page left to find is confirmed: its pieces have their locations (R256), its checkpoint goes. A
translation that an mwait no longer waits for ends with it. -/
def Slot.confirm (x : Slot) (s : State) (tag : Nat) (o : Op) : Slot :=
  let waits := match x.park with | .mwait _ _ _ _ _ _ => true | _ => false
  { x with
    ops := (x.ops.map fun q => if q.id = o.id then { q with conf := true, far := [], pieces := q.pieces.map (s.placed tag) } else q).filter
      fun q => q.id != o.id || q.kind != .probe || waits,
    ra := x.ra.map fun r => { r with ckpts := r.ckpts.filter fun c => c.1 ≠ o.id } }

/-- ACCESS_CONFIRMED (R269, R270, R430): the translation of the next page of a host or remote access is found; a host page's is
kept with its permissions, and the count of successive faults of its page begins again (R434). The access is confirmed with its
last page. -/
def execAccessConfirmed (t : TileId) (k : SlotId) (op : Nat) (large : Bool) (perm : PagePerm) (s : State) : Host.Outcome State Fault Refusal :=
  s.happenAt t fun s =>
    let x := s.slot t k
    match x.opOf op with
    | none => s
    | some o =>
      match o.far with
      | [] => s
      | a :: rest =>
        let tag := (s.tile t).tag.toNat
        if (clsAt a == .host && ((o.kind.writes && !perm.w) || (o.kind.reads && !perm.rd))) || s.ownMissing tag a then s
        else
          let s1 := if clsAt a = .host then s.modPart tag fun p => p.learn ((a - hostBase) / 65536) large perm else s
          let s2 := s1.modSlot t k fun y =>
            let z := { y with faults := y.faults.filter fun f => f.1 ≠ a / 65536 }
            if rest.isEmpty then z.confirm s tag o
            else { z with ops := z.ops.map fun q => if q.id = op then { q with far := rest } else q }
          s2.sendHeld t k

/-! ## Run-ahead (R431 to R433) -/

/-- How often an access's page has faulted in succession, this fault included. -/
def Slot.faultCount (x : Slot) (pg : Nat) : Nat :=
  (match x.faults.find? fun f => f.1 == pg with | some f => f.2 | none => 0) + 1

/-- The INFO of a page that has failed already when its access faults: a page smaller than 64 KiB, or a third successive
fault (R434). -/
def Slot.knownFailed (x : Slot) (pg : Nat) (small : Bool) : List (Nat × Byte) :=
  if small then [(pg, 4)] else if x.faultCount pg ≥ 3 then [(pg, 5)] else []

/-- A later access without a translation joins the batch with each page it lacks, and a load of it returns marks; so do the other pages of
the faulting access itself. -/
def State.joinBatch (s : State) (t : TileId) (k : SlotId) (o : Op) : State :=
  let tag := (s.tile t).tag.toNat
  let mine := ((s.slot t k).ra.bind (·.fault)) == some o.id
  let l := o.far.filter fun a => if mine then s.lacks tag o.kind.perm a else s.lacksNow tag o.kind.perm a
  if l.isEmpty then s
  else s.modSlot t k fun x =>
    let y := l.foldl (fun x a => x.addPage (a / 65536)) x
    if o.kind.writes || mine then y else y.markAll (o.dests.map (·.code))

/-- RUN_AHEAD_START (R431): the oldest unconfirmed access of a slot is found to fault at its first page without a translation, `small`
when its translation is for a host page smaller than 64 KiB. A slot that is parked ends its run-ahead at once; of an earlier activity only the operations that
are held or unconfirmed go (R127). -/
def execRunAheadStart (t : TileId) (k : SlotId) (small : Bool) (s : State) : Host.Outcome State Fault Refusal :=
  s.happenAt t fun s =>
    let x := s.slot t k
    match x.ra, x.ops.find? fun o => !o.conf with
    | some r, some o =>
      let tag := (s.tile t).tag.toNat
      let miss := o.far.filter (s.lacks tag o.kind.perm)
      match (if small then miss.filter fun a => clsAt a == .host else miss) with
      | [] => s
      | a :: _ =>
      if r.fault.isSome then s
      else if o.id < r.since then (s.modTile t fun y => y.giveUp k (x.dropOlder r.since)).sendHeld t k
      else
        let s1 := s.setSlot t k { x with
          ra := some { r with fault := some o.id, pre := x.knownFailed (a / 65536) small },
          ops := x.ops.map fun q => if q.id = o.id then { q with addr := a } else q }
        let s2 := (x.ops.filter fun q => o.id ≤ q.id && !q.conf).foldl (fun s q => s.joinBatch t k q) s1
        if !x.active || x.park == .ending || x.park == .halting then s.modTile t fun y => y.giveUp k x.dropUnconfirmed
        else if x.park != .none || x.sPark || x.yPark.isSome || r.issued - o.idx ≥ 64 then s2.rollBack t k else s2
    | _, _ => s

/-! ## Answers (R433, R434) -/

/-- Takes a batch off, with the sample of its latency (R410). -/
def State.endBatch (s : State) (b : Batch) : State :=
  let s1 := s.tileSample b.tile 0x202 (s.time.tai - b.since)
  State.modPart { s1 with hubMon := s1.hubMon.map fun m => m.sample true 0x202 (s.time.tai - b.since) } (s.tile b.tile).tag.toNat fun p => { p with batches := p.batches.filter fun c => c != b }

/-- A failed page of a slot. -/
def Slot.failPage (x : Slot) (pg : Nat) (info : Byte) : Slot :=
  { x with failed := (pg, info) :: x.failed.filter fun f => f.1 ≠ pg }

/-- The answer for one page of a batch, none where the time has passed. -/
def State.pageDone (s : State) (b : Batch) (pg : Nat) (a : Option PageAnswer) : State :=
  match a with
  | none => s.modSlot b.tile b.slot fun x => x.failPage pg 2
  | some a =>
    if a.ok then
      (if clsAt (pg * 65536) = .host then
        s.modPart (s.tile b.tile).tag.toNat fun p => p.learn (pg - hostBase / 65536) a.large a.perm
      else s)
    else s.modSlot b.tile b.slot fun x => x.failPage pg a.info

/-- The batch of a slot that an answer's tag names. -/
def State.batchOf (s : State) (t : TileId) (k : SlotId) (g : BitVec 9) : Option Batch :=
  (s.part (s.tile t).tag.toNat).batches.find? fun b => b.tile == t && b.slot == k && b.group == g

/-- Whether the slot of a batch is still the one that asked. -/
def State.batchAlive (s : State) (b : Batch) : Bool :=
  (s.tile b.tile).launchId == b.launchId && (s.slot b.tile b.slot).ctxGen == b.ctxGen && (s.tile b.tile).launch.isSome

/-- PAGE_BATCH_ANSWERED (R433, R434): every request has its answer, or its time has passed. Answers whose tag names no batch of
the slot, or that no longer match, are dropped. -/
def execPageBatchAnswered (t : TileId) (k : SlotId) (launch : BitVec 32) (ctx : BitVec 16) (answers : List PageAnswer) (s : State) :
    Host.Outcome State Fault Refusal :=
  s.happenAt t fun s =>
    match answers.findSome? fun a => s.batchOf t k a.group with
    | none => s
    | some b =>
      let ans (pg : Nat) : Option PageAnswer := answers.find? fun a => a.page == pg && a.group == b.group
      if b.launchId ≠ launch ∨ b.ctxGen ≠ ctx then s
      else if !s.batchAlive b then s.endBatch b
      else if s.time.tai < b.due ∧ b.pages.any (fun g => (ans g).isNone) then s
      else b.pages.foldl (fun s g => s.pageDone b g (ans g)) (s.endBatch b)

/-- PAGE_REQUEST_TIMEOUT (R434): no answer within PRTMO fails every page of the batch with INFO 2. -/
def execPageRequestTimeout (t : TileId) (k : SlotId) (s : State) : Host.Outcome State Fault Refusal :=
  s.happenAt t fun s =>
    match (s.part (s.tile t).tag.toNat).batches.find? fun b => b.tile == t && b.slot == k && decide (b.due ≤ s.time.tai) with
    | none => s
    | some b =>
      if !s.batchAlive b then s.endBatch b
      else b.pages.foldl (fun s g => s.pageDone b g none) (s.endBatch b)

/-! ## Page requests of other modules (R271, R435) -/

/-- MSI-X vector 1 of the physical function and of every function bound to a partition. -/
def State.signal (s : State) (tag : Nat) : State :=
  ((natsFrom 1 256).map fnOf).foldl (fun s f => if s.fnTag f = tag then s.emit (.msix f 1) else s) (s.emit (.msix 0 1))

/-- REMOTE_PAGE_REQUEST_RECEIVE (R435). -/
def execRemotePageRequestReceive (tag : Tag) (src : Chip) (ptag : BitVec 16) (addr : Word) (w : Bool) (s : State) :
    Host.Outcome State Fault Refusal :=
  s.happen fun s =>
    let tg := tag.toNat
    let p := s.part tg
    if p.rempfq.getLsbD 0 then
      let a := bitsAt p.rempfq.toNat 12 27 * 2 ^ 12 + 32 * (p.rempfhead.toNat % 128)
      let rec_ := ptag.toNat + src.toNat * 2 ^ 16 + addr.toNat * 2 ^ 64 + bool01 w * 2 ^ 128
      ((s.partWrite tg a rec_ 32).modPart tg fun q =>
        { q with rempfhead := q.rempfhead + 1, rempf := q.rempf ++ [(ptag, src)] }).signal tg
    else s.emit (.pageAnswer src tag p.epoch ptag 1)

/-- HOST_COMPLETION_TIMEOUT (R272): a host load or atomic that has had no completion for 50,000 ns ends as one that the
host does not complete (R257; log 21). -/
def execHostCompletionTimeout (t : TileId) (k : SlotId) (op : Nat) (s : State) : Host.Outcome State Fault Refusal :=
  s.happenAt t fun s =>
    match (s.slot t k).opOf op with
    | none => s
    | some o =>
      let waits := match o.kind with | .load | .acq _ | .amo _ _ _ _ => true | _ => false
      if waits && clsAt o.addr == .host && !o.ready && (s.slot t k).free o && decide (o.ns + 50000 ≤ s.time.tai) then
        s.failOp t k o 3 o.addr
      else s

end Sys2Proof.Machine
end

