-- ==== Sys2Proof/Machine/System.lean ====
section
/-!
DEFINITION. Class 0x00, system: nop, trap, brk, eret, ifence (R444 to R448), and the control registers (R443, R447)
with their fields.
-/
namespace Sys2Proof.Machine

/-- `nop` (R444). -/
def execNop (h : Hdr) (s : State) : Host.Outcome State Fault Refusal := s.issue h {} fun s => .go s

/-- A breakpoint trap with TRAPPC = P + 12 (R445). -/
def State.breakTrap (s : State) (info : Nat) (val : Word) : Eff :=
  if s.me.ahead then .trap cBreak info val
  else .own (s.takeTrap s.cur.1 s.cur.2 { code := cBreak, info, pc := s.me.pc + 12, val, precise := true })

/-- `trap` (R445, R422); in trap mode it waits for the confirmation of the slot's accesses, as a trap does (R430). -/
def execTrap (h : Hdr) (imm : BitVec 12) (s : State) : Host.Outcome State Fault Refusal :=
  s.issue h {} fun s =>
    if !s.me.tm then s.breakTrap 1 (imm.setWidth 64)
    else if s.me.ra.isSome then .wait .confirm
    else .own (s.passUp s.cur.1 s.cur.2)

/-- Whether an invasive session holds the partition with breakpoints armed (R418, R445). -/
def State.brkArmed (s : State) : Bool := s.dbg.any fun d => d.1 == s.myTag && d.2.1 == 2 && d.2.2

/-- `brk` (R445). -/
def execBrk (h : Hdr) (imm : BitVec 16) (s : State) : Host.Outcome State Fault Refusal :=
  s.issue h {} fun s =>
    if s.brkArmed then .own ((s.updTile fun t => { t with dbgHalt := true }).emit (.debugHalt s.cur.1))
    else if s.me.tm then .go s else s.breakTrap 0 (imm.setWidth 64)

/-- `eret` (R446). -/
def execEret (h : Hdr) (s : State) : Host.Outcome State Fault Refusal :=
  s.issue h { outside := true } fun s =>
    if !s.me.tm then .trap cProt 0 s.me.pc
    else if s.me.trapOnly then .own s.endSelf
    else .jump (s.leaveTrap s.cur.1 s.cur.2) s.me.trappc

/-- `ifence` (R448): once CNTS is zero, the core's instruction cache is invalidated. -/
def execIfence (h : Hdr) (s : State) : Host.Outcome State Fault Refusal :=
  s.issue h {} fun s =>
    if s.me.cnts ≠ 0 then .wait .stores
    else .go (s.updTile fun t => { t with icache := t.icache.set (coreOf s.cur.2).val [] })

/-! ## Control registers (R443) -/

/-- CAPS_GEOM (R17). -/
def State.capsGeom (s : State) : Word :=
  let p := s.myPart
  w64 (s.chipId.toNat * 2 ^ 52 + p.ptiles * 2 ^ 42 + p.pgroups % 1024 * 2 ^ 32 + 3 * 2 ^ 30 + 128 * 2 ^ 21 + 512 * 2 ^ 11 +
    4 * 2 ^ 8 + 8 * 2 ^ 4 + 12)

/-- CAPS_TIME (R19): f0 in MHz, the drift bound in ppm, the jitter bound in 0.1 percent, the drift window in reference ns, and the shortest
period in tile cycles, to which R100 holds every launch. -/
def capsTime : Word := w64 (2400 * 2 ^ 48 + 4000 * 2 ^ 32 + 20 * 2 ^ 24 + 1000 * 2 ^ 12 + 256)

/-- TRAPCAUSE (R419). -/
def Slot.trapcause (x : Slot) : Word := w64 (bool01 x.tm * 2 ^ 63 + x.tinfo.toNat * 2 ^ 8 + x.tcode.toNat)

/-- PWRST (R93). -/
def State.pwrst (s : State) : Word :=
  let t := s.myTile
  w64 (s.myPart.theta.toNat * 2 ^ 48 + t.tokDecl * 2 ^ 32 + t.tokUsed * 2 ^ 16 + bool01 t.pwrPower)

/-- A register of a monitor; a denied one reads zero, with DENIED set in its CFG if its source is one of the table's there (R410 to
R412). -/
def Monitor.get (m : Monitor) (ok listed : Bool) (r : Nat) : Word :=
  if r = 0 then (if !ok && listed && m.cfg.getLsbD 16 then m.cfg ||| 0x20000 else m.cfg)
  else if !ok && m.cfg.getLsbD 16 then 0
  else if r = 1 then m.min else if r = 2 then m.max else m.bins[(r - 3) % 16]'(Nat.mod_lt _ (by decide))

/-- Fields a write of CFG changes: RW and W1C (R412). -/
def cfgRw : Word := 0xFFFFFFFF1F0103FF

/-- The monitor and register of a control-register number (R412). -/
def monAt (n : Nat) : Option (Nat × Nat) :=
  if 0x80 ≤ n ∧ n < 0x100 ∧ n % 32 < 19 then some ((n - 0x80) / 32, n % 32) else none

/-- The value of a control register as the issuing slot reads it; none for an unassigned number. -/
def State.csrGet (s : State) (n : Nat) : Option Word :=
  let x := s.me
  let t := s.myTile
  match n with
  | 0x008 => some s.capsGeom
  | 0x009 => some 0x00000040_40C6553F
  | 0x00A => some capsTime
  | 0x010 => some (w64 s.cur.2.val)
  | 0x011 => some (w64 (coreOf s.cur.2).val)
  | 0x012 => some (t.tileIdx.setWidth 64)
  | 0x013 => some t.round
  | 0x014 => some (t.period.setWidth 64)
  | 0x015 => some (w64 (bool01 t.idem * 2 + bool01 t.overFault))
  | 0x016 => some t.overruns
  | 0x017 => some (w64 (bool01 x.chkPower * 2 + bool01 x.chkHazard))
  | 0x018 => some t.lparam
  | 0x019 => some (t.launchId.setWidth 64)
  | 0x01A => some s.pwrst
  | 0x01B => some (t.tag.setWidth 64)
  | 0x020 => some x.fcsr
  | 0x021 => some x.normturns
  | 0x022 => some x.cntl
  | 0x023 => some x.cnts
  | 0x030 => some t.matcfg
  | 0x031 => some t.matstat
  | 0x068 => some (if s.tileDenied t then t.pmstat ||| 1 else t.pmstat)
  | 0x100 => some x.trapcause
  | 0x101 => some x.trappc
  | 0x102 => some x.trapval
  | 0x103 => some t.trapvec
  | _ =>
    if 0x104 ≤ n ∧ n < 0x108 then some (x.save[(n - 0x104) % 4]'(Nat.mod_lt _ (by decide)))
    else if 0x040 ≤ n ∧ n < 0x060 then
      (if n % 2 = 0 then some (t.watch[(n - 0x40) / 2 % 16]'(Nat.mod_lt _ (by decide)))
       else some (t.watchF[(n - 0x40) / 2 % 16]'(Nat.mod_lt _ (by decide))))
    else if 0x070 ≤ n ∧ n < 0x080 then
      (let sel := t.pmsel[(n - 0x70) / 2 % 8]'(Nat.mod_lt _ (by decide))
       if n % 2 = 0 then some sel
       else if sel.getLsbD 16 && !s.allowed s.myTag (bitsAt sel.toNat 0 16) then some 0
       else some (t.pmcnt[(n - 0x70) / 2 % 8]'(Nat.mod_lt _ (by decide))))
    else match monAt n with
      | some (m, r) => let mo := t.monitors[m % 4]'(Nat.mod_lt _ (by decide))
                       some (mo.get (s.allowed s.myTag (bitsAt mo.cfg.toNat 0 10)) (tileSource (bitsAt mo.cfg.toNat 0 10)) r)
      | none => none

/-- The RW and the W1C fields of a control register; the rest is RO or reserved (R447). -/
def csrMasks (n : Nat) : Word × Word :=
  match n with
  | 0x017 => (3, 0)
  | 0x01A => (0, 1)
  | 0x020 => (0x31F1F, 0)
  | 0x021 => (BitVec.allOnes 64, 0)
  | 0x031 => (0, 7)
  | 0x068 => (0, 1)
  | 0x101 => (BitVec.allOnes 64, 0)
  | 0x103 => (BitVec.allOnes 64, 0)
  | _ =>
    if 0x104 ≤ n ∧ n < 0x108 then (BitVec.allOnes 64, 0)
    else if 0x070 ≤ n ∧ n < 0x080 ∧ n % 2 = 0 then (0x1FFFF, 0)
    else match monAt n with
      | some (_, 0) => (cfgRw, 0x20000)
      | _ => (0, 0)

/-- The registers of the tile that instructions write (R443): PWRST, MATSTAT, PMSTAT, TRAPVEC, PMSELn and the monitors' CFG. -/
def tileCsr (n : Nat) : Bool :=
  n == 0x01A || n == 0x031 || n == 0x068 || n == 0x103 || (decide (0x070 ≤ n ∧ n < 0x080) && n % 2 == 0) ||
    match monAt n with | some (_, 0) => true | _ => false

/-- The value that a register of a tile holds, in the fields that a write can change. -/
def Tile.csr (x : Tile) (n : Nat) : Word :=
  match n with
  | 0x01A => w64 (bool01 x.pwrPower)
  | 0x031 => x.matstat
  | 0x068 => x.pmstat
  | 0x103 => x.trapvec
  | _ => match monAt n with
    | some (m, _) => (x.monitors[m % 4]'(Nat.mod_lt _ (by decide))).cfg
    | none => x.pmsel[(n - 0x70) / 2 % 8]'(Nat.mod_lt _ (by decide))

/-- A register of a tile takes a value; a write of CFG resets its monitor (R412). -/
def Tile.putCsr (x : Tile) (n : Nat) (v : Word) : Tile :=
  match n with
  | 0x01A => { x with pwrPower := v.getLsbD 0 }
  | 0x031 => { x with matstat := v }
  | 0x068 => { x with pmstat := v }
  | 0x103 => { x with trapvec := v }
  | _ => match monAt n with
    | some (m, _) => { x with monitors := x.monitors.set (m % 4) { Monitor.reset with cfg := v } (Nat.mod_lt _ (by decide)) }
    | none => { x with pmsel := x.pmsel.set ((n - 0x70) / 2 % 8) v (Nat.mod_lt _ (by decide)) }

/-- The writes of tile registers that the tile cycle before asked for, in order (R447). -/
def State.csrCommit (s : State) (t : TileId) : State :=
  if (s.tile t).csrNext.isEmpty then s
  else (s.modTile t fun x =>
    { x.csrNext.foldl (fun x w => x.putCsr w.1 ((x.csr w.1 &&& ~~~w.2.1) ||| w.2.2)) x with csrNext := [] }).noteDenied t

/-- Puts a control register's new value: a slot's register, or at once one of its tile; only registers with RW or W1C fields change. -/
def State.csrPut (s : State) (n : Nat) (v : Word) : State :=
  match n with
  | 0x017 => s.upd fun x => { x with chkPower := v.getLsbD 1, chkHazard := v.getLsbD 0 }
  | 0x020 => s.upd fun x => { x with fcsr := v }
  | 0x021 => s.upd fun x => { x with normturns := v }
  | 0x101 => s.upd fun x => { x with trappc := v }
  | _ =>
    if 0x104 ≤ n ∧ n < 0x108 then s.upd fun x => { x with save := x.save.set ((n - 0x104) % 4) v (Nat.mod_lt _ (by decide)) }
    else if tileCsr n then (s.updTile fun t => t.putCsr n v).noteDenied s.cur.1
    else s

/-- `csrr` (R447). -/
def execCsrr (h : Hdr) (d : G) (csr : BitVec 12) (s : State) : Host.Outcome State Fault Refusal :=
  s.issue h { writes := [rG d] } fun s =>
    match s.csrGet csr.toNat with
    | none => .trap cProt 0 (csr.setWidth 64)
    | some v => .go (s.upd fun x => x.gw d v)

/-- The shared form of csrw, csrs and csrc: the bits cleared and those set, from the masks and g[A]; what D receives. A tile's register
changes with the next tile cycle, before the slot issues again (R447). -/
def State.csrRmw (s : State) (h : Hdr) (d : G) (csr : BitVec 12) (a : G) (f : Word → Word → Word → Word × Word) (old : Bool) :
    Host.Outcome State Fault Refusal :=
  s.issue h { reads := [rG a], writes := [rG d], outside := true } fun s =>
    match s.csrGet csr.toNat with
    | none => .trap cProt 0 (csr.setWidth 64)
    | some v =>
      let (rw, w1c) := csrMasks csr.toNat
      let (clr, set) := f rw w1c (s.me.gr a)
      let n := (v &&& ~~~clr) ||| set
      let s1 := if tileCsr csr.toNat then s.updTile fun t => { t with csrNext := t.csrNext ++ [(csr.toNat, clr, set)] }
        else s.csrPut csr.toNat n
      .go (s1.upd fun x => x.gw d (if old then v else n))

/-- `csrw`: RW fields take g[A], W1C bits clear where g[A] holds 1; D receives the old value (R447). -/
def execCsrw (h : Hdr) (d : G) (csr : BitVec 12) (a : G) (s : State) : Host.Outcome State Fault Refusal :=
  s.csrRmw h d csr a (fun rw w1c g => (rw ||| (g &&& w1c), g &&& rw)) true

/-- `csrs`: RW fields ORed with g[A]; D receives the updated value (R447). -/
def execCsrs (h : Hdr) (d : G) (csr : BitVec 12) (a : G) (s : State) : Host.Outcome State Fault Refusal :=
  s.csrRmw h d csr a (fun rw _ g => (0, g &&& rw)) false

/-- `csrc`: RW fields cleared where g[A] holds 1; D receives the updated value (R447). -/
def execCsrc (h : Hdr) (d : G) (csr : BitVec 12) (a : G) (s : State) : Host.Outcome State Fault Refusal :=
  s.csrRmw h d csr a (fun rw _ g => (g &&& rw, 0)) false

end Sys2Proof.Machine
end

