-- ==== Sys2Proof/Machine/Returns.lean ====
section
/-!
DEFINITION. Long results and performed operations of the slots (R85 to R88, R322), the resume of a parked slot (R83), and
deferred traps (R420).
-/
namespace Sys2Proof.Machine

/-! ## Answers to queries (R85) -/

/-- A query has its answer. -/
def State.answered (s : State) (t : TileId) (k : SlotId) (o : Op) (v : Nat) : State :=
  s.modSlot t k fun x => x.setOp { o with data := v, ready := true, performed := true }

/-- The function whose context issues a launch: that of the launch its tile runs (R406). -/
def State.tileFn (s : State) (t : TileId) : FnId :=
  match (s.tile t).launch with
  | none => 0
  | some e => match s.launch (s.tile t).tag.toNat e with | some l => l.fn | none => 0

/-- A query reaches what it asks (R129, R132, R356, R376, R378, R467, R469). What cpwp returns is an acquire at tile scope, so that
the core's L1 is cleared (R259, R347). -/
def State.performQuery (s : State) (t : TileId) (k : SlotId) (o : Op) (q : Query) (ext : Nat) : State :=
  let tag := (s.tile t).tag.toNat
  match q with
  | .cpwp ch => (s.answered t k o ((s.tile t).channel ch).wpos.toNat).modTile t fun x => x.l1Clear (coreOf k)
  | .cpstat ch item => s.answered t k o (((s.tile t).channel ch).item ((s.tile t).heldCopies ch) item).toNat
  | .invoke inv chip => if o.performed then s else s.invokeReturn t k o inv chip
  | .wbstate w item => s.wbQueried t k o w false item ext
  | .wbcause w item => s.wbQueried t k o w true item ext
  | .launch a =>
    let (s1, st, id) := s.submit tag a (s.tileFn t) false
    s1.answered t k o ((if st = 0 then id * 2 ^ 8 + 2 ^ 64 else 0) + st)
  | .ccount level id => s.answered t k o (s.counterOf tag level id).toNat
  | .time => s.answered t k o s.time.tai
  | .tstat a => s.answered t k o (s.tstatValue tag a)
  | .drain => s

/-! ## Long results (R85) -/

/-- A post read's results are written together: poison marks its value's registers, and its freshness is seen by the
tile's watches (R291, R428). -/
def State.deliverSample (s : State) (t : TileId) (k : SlotId) (o : Op) (n : BitVec 32) (m : Nat) : State :=
  let s1 := s.modSlot t k fun x =>
    let y := o.dests.foldl (fun x d => x.land o.id d.code (d.value o.data) (o.bad && decide (d.lo < 8 * m))) x
    let z := { y with yPark := match y.yPark with | some (b, c) => if o.id < b then none else some (b, c) | none => none }
    z.dropOp o
  s1.watchSee t n (o.data / 2 ^ (8 * m))

/-- The latency of a load, from its issue to its long result (R410). -/
def State.loadSample (s : State) (t : TileId) (o : Op) : State :=
  match o.kind with
  | .load | .acq _ => if o.cntL ∧ o.dests.length ≤ 1 then s.tileSample t 0x201 ((s.tile t).cycle - o.t0) else s
  | _ => s

/-- LONG_RESULT_RETURN (R85, R88): a piece of a load returns, a query is answered, or a result that is ready is written to
its register. `part` is the piece or destination; `ext` is what the outside world answers. -/
def execLongResultReturn (t : TileId) (k : SlotId) (op : Nat) (part : Nat) (ext : Nat) (s : State) : Host.Outcome State Fault Refusal :=
  s.happenAt t fun s =>
    let x := s.slot t k
    match x.opOf op with
    | none => s
    | some o =>
      if o.mark then s.modSlot t k fun y => y.dropOp o
      else if o.ready then
        (match o.kind with
        | .sample n _ _ m => s.deliverSample t k o n m
        | _ => (s.loadSample t o).deliverDest t k o part)
      else match o.kind with
        | .load | .acq _ => s.returnPiece t k o part ext
        | .query q => if x.free o then s.performQuery t k o q ext else s
        | _ => s

/-! ## Operations performed (R322) -/

/-- A held command acts at last (R430). -/
def State.performAct (s : State) (t : TileId) (k : SlotId) (o : Op) (a : Act0) : State :=
  let s1 := s.modSlot t k fun x => x.dropOp o
  match a with
  | .copy ch j _ =>
    if ((s1.tile t).channel ch).halted then
      let s2 := s1.modTile t fun x => x.retire j.board
      if j.stamp.isSome then s2.modSlot t k fun x => x.dropStamps ch else s2
    else s1.acceptJob t ch j
  | .lfin code => s1.lfinDo t code
  | .cancel level id => s1.endObject (s.tile t).tag.toNat level id 3

/-- STORE_PERFORMED (R302, R322, R328, R330, R379, R380, R468): a piece of a store, a flush, a binding or drop of a
waybill, a timetable record, or a held command is performed, and CNTS is lowered with the last of it. -/
def execStorePerformed (t : TileId) (k : SlotId) (op : Nat) (part : Nat) (ext : Nat) (s : State) : Host.Outcome State Fault Refusal :=
  s.happenAt t fun s =>
    let x := s.slot t k
    match x.opOf op with
    | none => s
    | some o => match o.kind with
      | .store | .rel _ => s.performPiece t k o part ext
      | .flush => s.performFlush t k o
      | .bind w p l b => if x.free o then s.bindDone t k o w p l b ext else s
      | .drop w => if x.free o then s.dropDone t k o w ext else s
      | .ttab n r => if x.free o then (s.modSlot t k fun y => y.dropOp o).acceptRecord (s.tile t).tag.toNat n.toNat r else s
      | .act a => if x.free o then s.performAct t k o a else s
      | _ => s

/-! ## Resuming (R83) -/

/-- Whether a slot's batch of page requests with a tag is under way. -/
def Part.asking (p : Part) (t : TileId) (k : SlotId) (g : BitVec 9) : Bool :=
  p.batches.any fun b => b.tile == t && b.slot == k && b.group == g

/-- Whether the condition of a slot's park holds. -/
def State.parkOver (s : State) (t : TileId) (k : SlotId) : Bool :=
  let x := s.slot t k
  let y := s.tile t
  let p := s.part y.tag.toNat
  match x.park with
  | .none => true
  | .count sel n => decide ((if sel then x.cnts else x.cntl).toNat ≤ n)
  | .mwait _ _ _ _ _ _ => false
  | .sbar mask => y.sbarOk k mask
  | .drawbar => false
  | .page g => !p.asking t k g
  | .confirm => x.ra.isNone
  | .acquire => !x.acquiring
  | .release => x.counted.isEmpty
  | .stores => x.cnts == 0
  | .queue ch => !y.queueFull ch
  | .board rd wr => !y.boardFull rd wr
  | .element rd wr => !(rd.any (fun a => y.streamHeld a 128 false) || wr.any fun a => y.streamHeld a 128 true)
  | .rate link n => (p.chargeRate link n).isSome
  | .range _ _ _ _ => y.qops.all fun o => match o.what with | .drain j _ _ _ _ _ w => !(j == k && w) || y.firstOnTile o | _ => true
  | .ending | .halting => x.longs == 0
  | .trap _ => x.longs == 0 && x.ra.isNone

/-- Whether a parked slot resumes now: its park is over, and with a marker every long result has been written, or the
yield's wait is over (R84, R86). -/
def State.resumable (s : State) (t : TileId) (k : SlotId) : Bool :=
  let x := s.slot t k
  x.active && (x.park != .none || x.sPark || x.yPark.isSome) && s.parkOver t k && (!x.sPark || x.longs == 0) &&
    (match x.yPark with | some (_, n) => n == 0 | none => true)

/-- A slot that was to end by rdone becomes inactive, or takes the trap that a refused read has brought in place of its long result
(R126, R293). -/
def State.resumeEnd (s : State) (t : TileId) (k : SlotId) : State :=
  match (s.slot t k).deferred.find? (·.precise) with
  | some tr => State.deliver (s.modSlot t k fun x => { x with deferred := x.deferred.erase tr }) t k tr
  | none => s.finishSlot t k

/-- The park ends: a slot that was to end becomes inactive, a trap is delivered, a drain goes on, as does any other slot (R83, R126,
R248, R421). -/
def State.resume (s : State) (t : TileId) (k : SlotId) : State :=
  let s1 := s.modSlot t k fun x => { x with park := .none, sPark := false, yPark := none }
  match (s.slot t k).park with
  | .ending => s1.resumeEnd t k
  | .halting => s1.finishSlot t k
  | .trap tr => s1.deliver t k tr
  | .range _ h d p => s1.resumeDrain t k h d p
  | _ => s1

/-- SLOT_RESUME (R83). -/
def execSlotResume (t : TileId) (k : SlotId) (s : State) : Host.Outcome State Fault Refusal :=
  s.happenAt t fun s => if s.resumable t k then s.resume t k else s

/-! ## Deferred traps (R420) -/

/-- DEFERRED_TRAP: at the slot's next issue, with TRAPPC at the instruction it was about to issue, or at the instruction
whose result was refused. -/
def execDeferredTrap (t : TileId) (k : SlotId) (s : State) : Host.Outcome State Fault Refusal :=
  s.happenAt t fun s =>
    let x := s.slot t k
    match x.nextTrap with
    | none => s
    | some (tr, l) =>
      if !x.active || x.park != .none || x.sPark || x.yPark.isSome then s
      else if x.ahead then s.rollBack t k
      else (s.setSlot t k { x with deferred := l }).takeTrap t k (if tr.precise then tr else { tr with pc := x.pc })

end Sys2Proof.Machine
end

