-- ==== Sys2Proof/Machine/Host.lean ====
section
/-!
DEFINITION. The host interface: the ordering point (R386), BAR 0 registers and who may write them (R384 to R387, R397,
R401, R402), format regions (R158), partitions (R398 to R400), virtual functions (R403, R404), monitors (R412),
attestation and debug requests (R415, R417), and the events of each.
-/
namespace Sys2Proof.Machine

/-! ## Format regions and protection ranges (R157, R158, R165, R264) -/

def Part.setRegion (p : Part) (n w : Nat) (v : Word) : Part :=
  { p with regions := p.regions.set ((4 * n + w) % 64) v (Nat.mod_lt _ (by decide)) }

/-- Scale entries of a region in bytes. -/
def Region.scaleBytes (r : Region) : Nat := 4 * ceilDiv r.size (2 ^ r.blk)

def storeTypes : List Ty := [.e4m3, .e5m2, .e3m2, .e2m3, .e2m1, .f16, .bf16]
def chipTypes : List Ty := [.f32, .f16, .bf16]

/-- The first failing check of an enabling write, or 0 (R158). -/
def Part.regionErr (p : Part) (r : Region) : Nat :=
  let others := p.allRegions.filter fun q => q.en && q.idx != r.idx
  let unit := if r.st = .e3m2 ∨ r.st = .e2m3 then 768 else 256
  if r.size = 0 ∨ r.size % unit ≠ 0 then 1
  else if p.extent < r.base + r.size then 2
  else if !storeTypes.contains r.st || !chipTypes.contains r.oc || decide ((Fmt.of r.oc).width ≤ (Fmt.of r.st).width) then 3
  else if r.blk < 10 ∨ 16 < r.blk then 4
  else if !r.noScale && (decide (p.extent < r.scaleBase + r.scaleBytes) || overlap r.scaleBase r.scaleBytes r.base r.size ||
      others.any fun q => overlap r.scaleBase r.scaleBytes q.base q.size) then 5
  else if others.any fun q => overlap r.base r.size q.base q.size || (!q.noScale && overlap r.base r.size q.scaleBase q.scaleBytes) then 6
  else if others.any fun q => overlap r.viewLo (r.viewHi - r.viewLo) q.viewLo (q.viewHi - q.viewLo) then 7
  else 0

/-- Writes back and drops every view line of a region, and every copy of one (R165, R267). -/
def State.drainRegion (s : State) (tag : Nat) (r : Region) : State :=
  let copies := (s.rdc.map fun d => (d.2.map (·.key)).filter (2 ^ 64 ≤ ·)).flatten.map (· - 2 ^ 64)
  let keys := (s.views.map (·.1) ++ copies).eraseDups
  (keys.filter fun k => k / 2 ^ 50 = tag && r.viewLo ≤ k % 2 ^ 50 * 256 && k % 2 ^ 50 * 256 < r.viewHi).foldl
    (fun s k => s.viewWriteBack tag (k % 2 ^ 50 * 256)) s

/-- A write of a region's control word, at 0x10 (R157, R158, R165). Ones that clear sticky bits in the write that clears EN also clear
what its own drain has just set (log 70, DESIGN CHOICE: R165 gives no order between the two). -/
def State.writeRegionCtl (s : State) (tag n : Nat) (v : Word) : State :=
  let p := s.part tag
  let old := p.regions[(4 * n + 2) % 64]'(Nat.mod_lt _ (by decide))
  let cleared := old &&& ~~~(v &&& 0xE0000)
  if old.getLsbD 0 then
    (if v.getLsbD 0 then s.modPart tag fun q => q.setRegion n 2 cleared
     else (s.drainRegion tag (p.region n)).modPart tag fun q =>
       q.setRegion n 2 (((q.regions[(4 * n + 2) % 64]'(Nat.mod_lt _ (by decide))) &&& ~~~(v &&& 0xE0000)) &&& ~~~1))
  else
    let w := maskIn 0x1FFFC cleared v
    if v.getLsbD 0 then
      let q := p.setRegion n 2 w
      let e := q.regionErr (q.region n)
      s.setPart tag (q.setRegion n 2 (maskIn 0xF00001 w (w64 (e * 2 ^ 20 + bool01 (e == 0)))))
    else s.setPart tag (p.setRegion n 2 w)

/-- A write of another word of a region: ignored while it is enabled (R158). -/
def State.writeRegion (s : State) (tag n w : Nat) (v : Word) : State :=
  let p := s.part tag
  let mask : Word := match w with | 0 => 0x7FFFFF0000 | 1 => 0xFFFFFFFFFF | _ => 0x7FFFFFFFFC
  if p.regWord n 2 % 2 = 1 then s else s.setPart tag (p.setRegion n w (v &&& mask))

/-- A write of a protection range's word (R264). -/
def State.writeRange (s : State) (tag n : Nat) (hi : Bool) (v : Word) : State :=
  s.modPart tag fun p =>
    { p with ranges := p.ranges.set ((2 * n + bool01 hi) % 16) (v &&& (if hi then 0x7FFFFF0000 else 0x7FFFFF000F)) (Nat.mod_lt _ (by decide)) }

/-! ## The order log (R338) -/

/-- The values of ORDCTL, ORDBASE and ORDSEG after a write of register r among them; only MODE of ORDCTL changes here. -/
def ordWrite (r : Nat) (v : Word) (x : Word × Word × Word) : Word × Word × Word :=
  (if r = 0 ∧ bitsAt v.toNat 0 2 ≠ 3 then maskIn 3 x.1 v else x.1, if r = 1 then v &&& 0x7FFFFF0000 else x.2.1,
    if r = 2 ∧ 12 ≤ bitsAt v.toNat 0 5 ∧ bitsAt v.toNat 0 5 ≤ 30 then v &&& 31 else x.2.2)

/-- A write of ORDCTL, ORDBASE or ORDSEG (R338): TIMEOUT and the sticky bits at once; the rest at once too if no launch runs, and else
at the next launch start after all of them have completed. -/
def State.writeOrd (s : State) (tag r : Nat) (v : Word) : State :=
  let p := s.part tag
  let ctl := if r = 0 then maskIn 0xFFFFFFFF00000000 (p.ordctl &&& ~~~(v &&& 0xC)) v else p.ordctl
  if p.running.isEmpty then
    let (c, b, g) := ordWrite r v (ctl, p.ordbase, p.ordseg)
    let fresh := bitsAt ctl.toNat 0 2 ≠ bitsAt c.toNat 0 2
    s.setPart tag { p with
      ordctl := c, ordbase := b, ordseg := g, ordNext := p.ordNext.map (ordWrite r v),
      logCount := if fresh then [] else p.logCount, logMatched := if fresh then [] else p.logMatched,
      logLeft := if fresh then [] else p.logLeft }
  else s.setPart tag { p with ordctl := ctl, ordNext := some (ordWrite r v (p.ordNext.getD (p.ordctl, p.ordbase, p.ordseg))) }

/-! ## Launch submission (R387) -/

/-- A write of LSUBMIT: the record is checked, LSTAT written; an accepted launch wakes an idle package (R418). -/
def State.writeLsubmit (s : State) (fn : FnId) (v : Word) : State :=
  if fn.val ≠ 0 ∧ s.fnTag fn = 0 then s.logUr fn 0x40600
  else
    let (s1, st, id) := s.submit (s.regTag fn) (bitsAt v.toNat 7 32 * 2 ^ 7) fn (fn.val == 0)
    let s2 := s1.modFunc fn fun f =>
      { f with lstat := w64 (2 ^ 63 + (if st = 0 then id else bitsAt f.lstat.toNat 8 32) * 2 ^ 8 + st) }
    if st = 0 ∧ s2.power = .packageIdle then s2.event .packageWake else s2

/-! ## Partitions (R397 to R399) -/

/-- The leading valid entries of a table, if no later entry is valid. -/
def tableCount (m : Map (BitVec 16)) : Option Nat :=
  let n := ((natsFrom 0 512).takeWhile fun i => (mapGet 0 m i).getLsbD 15).length
  if (m.any fun e => decide (n ≤ e.1) && e.2.getLsbD 15) then none else some n

/-- The first n entries of a table, each a die and an index. -/
def tableNames (m : Map (BitVec 16)) (n : Nat) : List Nat := (natsFrom 0 n).map fun i => (mapGet 0 m i).toNat % 512

/-- What the other enabled or clearing partitions own. -/
def State.ownedBy (s : State) (tag : Nat) (f : Part → List Nat) : List Nat :=
  ((s.parts.filter fun p => p.1 != tag && (p.2.en || p.2.clearing)).map fun p => f p.2).flatten

/-- Whether a table names something twice or something that is owned. -/
def namesBad (l owned : List Nat) : Bool := l.eraseDups.length != l.length || l.any owned.contains

/-- The first failing check of an EN write, or 0, with the two counts (R398); a module in recovery gives 9 to every EN
write (R413). -/
def State.enableErr (s : State) (tag : Nat) : Nat × Nat × Nat :=
  let p := s.part tag
  let err : Nat → Nat × Nat × Nat := fun c => (c, 0, 0)
  if !s.booted then err 9
  else match tableCount p.groups with
    | none => err 1
    | some g =>
      if g = 0 then err 1
      else if namesBad (tableNames p.groups g) (s.ownedBy tag fun q => tableNames q.groups q.pgroups) then err 2
      else match tableCount p.tiles with
        | none => err 3
        | some t =>
          if t = 0 then err 3
          else if namesBad (tableNames p.tiles t) (s.ownedBy tag fun q => tableNames q.tiles q.ptiles) then err 4
          else if g * 2 ^ 30 < bitsAt p.hier.toNat 16 23 * 2 ^ 16 + 0x5C000 then err 5
          else if p.wbLast < p.wbFirst ∨ s.parts.any (fun q => q.1 != tag && q.2.en && decide (q.2.wbFirst ≤ p.wbLast) && decide (p.wbFirst ≤ q.2.wbLast)) then err 6
          else if p.thmax.toNat < 256 then err 7
          else (0, g, t)

/-- CFGERR of a partition. -/
def State.setCfgErr (s : State) (tag c : Nat) : State := s.modPart tag fun p => { p with cfgerr := BitVec.ofNat 4 c }

/-- A write of EN = 1 (R398): waybill slots of the range count as freed at once, in slot order (R359). -/
def State.enablePart (s : State) (tag : Nat) : State :=
  let p := s.part tag
  if tag = 0 ∨ p.en ∨ p.clearing then s
  else
    let (c, g, t) := s.enableErr tag
    if c ≠ 0 then s.setCfgErr tag c
    else
      let s1 := s.setPart tag { p with en := true, cfgerr := 0, pgroups := g, ptiles := t }
      let s2 := (s1.part tag).tileList.foldl (fun s u => s.modTile u fun x => { x with tag := BitVec.ofNat 8 tag }) s1
      { s2 with waybills := s2.waybills.map fun w => if p.wbFirst ≤ w.1 ∧ w.1 ≤ p.wbLast then (w.1, { w.2 with freed := 0 }) else w }

/-- BUSY of a partition (R397). -/
def State.busy (s : State) (tag : Nat) : Bool :=
  let p := s.part tag
  (p.launches.any fun l => l.2.live) ||
    (s.saved.any fun c => (decide (c.1 < 1000) && s.fnTag c.2.fn == tag) || c.1 == 1000 + tag) ||
    (s.waybills.any fun w => decide (p.wbFirst ≤ w.1) && decide (w.1 ≤ p.wbLast) && w.2.st != .free) ||
    p.tileList.any fun t => (s.tile t).channels.any fun c => !c.queue.isEmpty || c.cur.isSome

/-- The channels of a partition. -/
def Part.channelList (p : Part) : List Nat := tableNames p.groups p.pgroups

/-- Zeroes what a partition owned (R399, steps 1, 2 and 4); its waybill slots become free. -/
def State.wipe (s : State) (tag : Nat) : State :=
  let p := s.part tag
  let chs := p.channelList
  let s1 := p.tileList.foldl (fun s t => s.setTile t Tile.reset) s
  let s2 := (s1.waybills.filter fun w => decide (p.wbFirst ≤ w.1) && decide (w.1 ≤ p.wbLast) && w.2.st != .free).foldl
    (fun s w => s.freeWb w.1) s1
  { s2 with views := s2.views.filter fun v => v.1 / 2 ^ 50 ≠ tag,
            l2 := s2.l2.filter fun d => !chs.contains (d.1 / 4),
            rdc := s2.rdc.filter fun d => d.1 / 4 ≠ tag,
            dirs := s2.dirs.filter fun d => !chs.contains d.1,
            posts := s2.posts.filter fun q => !chs.contains (q.1 / 256),
            clearMap := chs.foldl (fun m c => mapSet m c [(0, 16384)]) s2.clearMap,
            queues := s2.queues.map fun q => q.filter fun x => x.1 != tag }

/-- Unbinds every function of a partition; its LSTAT returns to zero (R399). -/
def State.unbindAll (s : State) (tag : Nat) : State :=
  { s with funcs := s.funcs.map fun f => if bitsAt f.2.vfbind.toNat 0 8 = tag then (f.1, { f.2 with vfbind := f.2.vfbind &&& ~~~0xFF, lstat := 0 }) else f }

/-- The end of a debug session: its tiles go on (R417). -/
def State.endSession (s : State) (tag : Nat) : State :=
  (s.part tag).tileList.foldl (fun s t => s.modTile t fun x => { x with dbgHalt := false, dbgStep := none })
    { s with dbg := s.dbg.filter fun d => d.1 != tag }

/-- The teardown of a partition (R399): its tables stand until it finishes, for they say what it still owns. -/
def State.tearDown (s : State) (tag : Nat) : State :=
  let p := s.part tag
  let s1 := (s.reportFree tag (p.taken.map (·.1))).returnGrants tag
  let s2 := ((s1.endSession tag).unbindAll tag).wipe tag
  { s2.setPart tag { Part.reset with clearing := true, groups := p.groups, tiles := p.tiles, pgroups := p.pgroups, ptiles := p.ptiles } with
    saved := s2.saved.filter fun c => c.1 != 1000 + tag }

/-- A write of EN = 0 (R399). -/
def State.disablePart (s : State) (tag : Nat) : State :=
  if tag = 0 ∨ (s.part tag).en = false then s
  else if s.busy tag then s.setCfgErr tag 8
  else s.tearDown tag

/-! ## Virtual functions (R403, R404) -/

/-- Whether a function holds a context. -/
def State.holdsContext (s : State) (f : FnId) : Bool :=
  s.hasSaved f || s.parts.any fun p => p.2.resident == some f ||
    (match p.2.stopping with | some st => st.fn == f | none => false) || (match p.2.restoring with | some r => r.fn == f | none => false)

/-- The first failing check of a binding, or 0 (R404): T_sr is 4,000 + 2S / (62.5 G) ns. -/
def State.bindErr (s : State) (f : FnId) (v : Word) : Nat :=
  let q := bitsAt v.toNat 16 20
  let tag := bitsAt v.toNat 0 8
  let p := s.part tag
  if q = 0 then 1
  else if q * 1000 * 125 * p.pgroups < 4000 * 125 * p.pgroups + 4 * p.imageSize then 2
  else if !p.en then 3
  else if tag ≠ s.fnTag f ∧ s.holdsContext f then 4
  else 0

/-- A write of VFBIND. -/
def State.writeVfbind (s : State) (vf : Nat) (v : Word) : State :=
  let f := fnOf (vf + 1)
  let c := if bitsAt v.toNat 0 8 = 0 then 0 else s.bindErr f v
  if c ≠ 0 then { s with binderr := w64 (vf + c * 2 ^ 8) } else s.modFunc f fun x => { x with vfbind := v &&& 0x2FFFFFFFFF }

/-- The physical function's write of a virtual function's CTXBASE (R402). -/
def State.writeVfCtxbase (s : State) (vf : Nat) (v : Word) : State :=
  let f := fnOf (vf + 1)
  if (mapFind s.saved f.val).isSome then s else s.modFunc f fun x => { x with ctxbase := v &&& 0x7FFFFF0000 }

/-- A write of QCFG (R397). -/
def State.writeQcfg (s : State) (q : Fin 64) (v : Word) : State :=
  let on (t : Nat) : Bool := (s.part t).en
  if on (bitsAt s.qcfg[q].toNat 0 8) || on (bitsAt v.toNat 0 8) then s else { s with qcfg := s.qcfg.set q.val (v &&& 0x7FF) }

/-! ## Monitors (R412) -/

/-- A write of a monitor's CFG: MIN, MAX and the bins start again; DENIED is cleared by 1. -/
def Monitor.write (m : Monitor) (v : Word) : Monitor :=
  { Monitor.reset with cfg := maskIn cfgRw (m.cfg &&& ~~~(v &&& 0x20000)) v }

def State.writeHubMon (s : State) (h : Fin 16) (v : Word) : State := { s with hubMon := s.hubMon.set h.val (s.hubMon[h].write v) }

/-- The slice monitor MONSEL selects. -/
def Part.sliceMonAt (p : Part) : Monitor := mapGet Monitor.reset p.sliceMon p.monsel.toNat
def State.writeSliceMon (s : State) (tag : Nat) (v : Word) : State :=
  s.modPart tag fun p => { p with sliceMon := mapSet p.sliceMon p.monsel.toNat (p.sliceMonAt.write v) }

/-! ## Attestation and debug (R415, R417) -/

/-- Whether a function may write its own function registers: an unbound virtual function may not (R401). -/
def State.ownReg (s : State) (fn : FnId) (off : Nat) (k : State → State) : State :=
  if fn.val ≠ 0 ∧ s.fnTag fn = 0 then s.logUr fn off else k s

def State.writeAttreq (s : State) (fn : FnId) (v : Word) : State :=
  s.ownReg fn 0x40720 fun s => s.modFunc fn fun f => { f with attreq := v, attstat := 0, attBusy := true }

/-- The debug level of a partition: Development permits every level without an unlock (R416). -/
def State.debugLevel (s : State) (tag : Nat) : Nat :=
  if s.security = 2 then 2 else match s.dbg.find? fun d => d.1 == tag with | some d => d.2.1 | none => 0

/-- A write of DBGREQ (R416, R417): level 0 ends the session; in state 1 a request brings a challenge. A virtual function
may name only its own partition. -/
def State.writeDbgreq (s : State) (fn : FnId) (v : Word) : State :=
  s.ownReg fn 0x40740 fun s =>
    let tag := bitsAt v.toNat 0 8
    if fn.val ≠ 0 ∧ tag ≠ s.fnTag fn then s
    else
      let s1 := s.modFunc fn fun f => { f with dbgreq := v &&& 0x3FF }
      if bitsAt v.toNat 8 2 = 0 then s1.endSession tag
      else if s.security ≠ 1 ∨ bitsAt v.toNat 8 2 = 3 then s1
      else
        let (s2, n) := s1.fresh
        let c := Config.debugNonce n
        s2.modFunc fn fun f => { f with dbgOpen := true, dbgchal := Vector.ofFn fun i : Fin 4 => c.extractLsb' (64 * i.val) 64 }

/-- A signed response to the outstanding challenge: granted when both signatures verify, for an enabled partition that is still
the virtual function's own, and while no other partition has a session (R416, R417; log 70). -/
def State.writeDbgresp (s : State) (fn : FnId) (ecdsa lms : Bool) : State :=
  s.ownReg fn 0x40780 fun s =>
    let r := (s.func fn).dbgreq.toNat
    let tag := bitsAt r 0 8
    let lv := bitsAt r 8 2
    let open_ := (s.func fn).dbgOpen
    let s1 := s.modFunc fn fun f => { f with dbgOpen := false }
    let own := (s.part tag).en && (fn.val = 0 || tag = s.fnTag fn)
    if open_ ∧ s.security = 1 ∧ ecdsa ∧ lms ∧ (lv = 1 ∨ lv = 2) ∧ own ∧ s.dbg.all (fun d => d.1 == tag) then
      { s1 with dbg := (tag, lv, false) :: s.dbg.filter fun d => d.1 != tag }
    else s1

/-- Little-endian pieces of a report put one after another: (size, value). -/
def layBytes : List (Nat × Nat) → Nat
  | [] => 0
  | (n, v) :: l => v % 2 ^ (8 * n) + 2 ^ (8 * n) * layBytes l

/-- n bytes of a digest or signature (free values). -/
def freeBytes (f : Nat → BitVec 8) (n : Nat) : Nat := natOfBytes ((natsFrom 0 n).map fun i => (f i).toNat)

/-- What the digest of a partition's configuration covers, as one number. -/
def Part.configNat (p : Part) : Nat :=
  layBytes (((tableNames p.groups p.pgroups ++ tableNames p.tiles p.ptiles).map fun x => (2, x)) ++
    [(2, p.thmax.toNat), (4, p.share.toNat), (8, p.hostlim.toNat), (8, p.linklim.toNat)] ++
    (p.ranges.toList ++ p.regions.toList).map fun w => (8, w.toNat)) + 2 ^ 20000

/-- Whether an invasive session holds a partition (R417). -/
def State.invasive (s : State) (tag : Nat) : Bool := s.dbg.any fun d => d.1 == tag && d.2.1 == 2

/-- Whether a tile is unpowered: it has no launch, and no invasive session suspends the gating of its partition's tiles (R418). -/
def State.gated (s : State) (t : TileId) : Bool := (s.tile t).launch.isNone && !s.invasive (s.tile t).tag.toNat

/-- The power state a report gives: active 0, tile-gated 1, package-idle 2 (log 14). -/
def State.powerCode (s : State) : Nat :=
  if s.power = .packageIdle then 2
  else if s.parts.any fun p => p.2.en && p.2.tileList.any s.gated then 1 else 0

/-- The report's LMS signature: its length, and its bytes, which depend on the leaf it consumes (R413). -/
def State.lmsSignature (s : State) (body : Nat) : Nat × Nat :=
  (Config.lmsLength, freeBytes (fun i => Config.signatureByte (body + s.lmsLeaf * 2 ^ 1664) (96 + i)) Config.lmsLength)

/-- An attestation report and its length (R415). -/
def State.attestation (s : State) (fn : FnId) : Nat × Nat :=
  let tag := s.fnTag fn
  let p := s.part tag
  let part := fn.val != 0
  let body := layBytes [
    (32, wordsNat (s.func fn).attnonce.toList), (8, 1),
    (8, s.security.toNat + (if part then s.debugLevel tag else 0) * 4 + s.powerCode * 16),
    (48, freeBytes (Config.digestByte (3 * s.firmware)) 48), (48, freeBytes (Config.digestByte (3 * s.config + 1)) 48), (8, s.cfgVersion),
    (48, if part then freeBytes (Config.digestByte (3 * p.configNat + 2)) 48 else 0),
    (8, s.chipId.toNat + (if part then tag else 0) * 2 ^ 16)]
  let (n, x) := s.lmsSignature body
  (layBytes [(0xD0, body), (96, freeBytes (Config.signatureByte body) 96), (4, n), (n, x)], 0x134 + n)

/-- Writes n bytes to host memory in requests of at most 512 bytes (R385). -/
def State.hostBlock (s : State) (fn : FnId) (a d n : Nat) : State :=
  (natsFrom 0 (ceilDiv n 512)).foldl (fun s i =>
    s.emit (.hostWrite fn (a + 512 * i) (Nat.min 512 (n - 512 * i)) (bitsAt d (4096 * i) (8 * Nat.min 512 (n - 512 * i))) false)) s

/-- ATTESTATION_REPORT_DONE (R413, R415): a report consumes a leaf of the module's key, and none is made once all 2^15 are used. -/
def execAttestationReportDone (fn : FnId) (s : State) : Host.Outcome State Fault Refusal :=
  s.happen fun s =>
    let f := s.func fn
    if f.attBusy && s.lmsLeaf < 2 ^ 15 then
      let (d, n) := s.attestation fn
      let s1 := { s with lmsLeaf := s.lmsLeaf + 1 }
      (s1.hostBlock fn f.attreq.toNat d n).modFunc fn fun f => { f with attstat := 1, attBusy := false }
    else s

/-! ## Registers without a behaviour of their own (R397, R401, R402) -/

/-- Partition registers at an offset: the write. -/
def State.writePartReg (s : State) (tag off : Nat) (v : Word) : State :=
  let put (f : Part → Part) : State := s.modPart tag f
  if 0x40000 ≤ off ∧ off < 0x40200 then (if off % 32 = 0x10 then s else s.writeRegion tag (off % 0x200 / 32) (off % 32 / 8) v)
  else if 0x41000 ≤ off ∧ off < 0x45000 ∧ off % 64 ≠ 0x38 then
    let n := (off - 0x41000) / 64
    put fun p => { p with timetable := mapSet p.timetable n { p.entry n with window := putBits (p.entry n).window (8 * (off % 64)) 64 v.toNat } }
  else match off with
    | 0x40300 => put fun p => { p with remroot := v &&& 0x7FFFFFF001 }
    | 0x40310 => put fun p => { p with rempfq := v &&& 0x7FFFFFF001 }
    | 0x40500 => put fun p => { p with svcbase := v &&& 0x7FFFFFFF81 }
    | 0x40800 => put fun p => { p with fltlog := v &&& 0x7FFFFFE001,
                                       flthead := if v.getLsbD 0 && !p.fltlog.getLsbD 0 then 0 else p.flthead }
    | 0x40810 => put fun p => { p with fltcfg := v &&& 0xFFFFFFFF }
    | _ => s

/-- Function registers at an offset: the write. -/
def State.writeFnReg (s : State) (fn : FnId) (off : Nat) (v : Word) : State :=
  if off = 0x40818 then (if fn.val = 0 then s else s.modFunc fn fun f => { f with ctxbase := v &&& 0x7FFFFF0000 })
  else if 0x40700 ≤ off ∧ off < 0x40720 then
    s.modFunc fn fun f => { f with attnonce := f.attnonce.set ((off - 0x40700) / 8 % 4) v (Nat.mod_lt _ (by decide)) }
  else s

/-- The block of R397 at an offset, for the partition that PSEL selects: the write. HOSTLIM and LINKLIM always; the
others while it is neither enabled nor clearing. -/
def State.writeBlock (s : State) (off : Nat) (v : Word) : State :=
  let tag := s.psel.toNat % 256
  let p := s.part tag
  let put (f : Part → Part) : State := if p.en || p.clearing then s else s.modPart tag f
  if off = 0x80000 then { s with psel := v &&& 0xFF }
  else if 0xC0000 ≤ off ∧ off < 0xC8000 then
    { s with allow := (natsFrom 0 8).foldl (fun m i => mapSet m (off - 0xC0000 + i) (v.extractLsb' (8 * i) 8)) s.allow }
  else if tag = 0 then s
  else if off = 0x80028 then s.modPart tag fun q => { q with hostlim := v, hostBucket := Nat.min q.hostBucket (bitsAt v.toNat 32 32) }
  else if off = 0x80030 then s.modPart tag fun q => { q with linklim := v, linkBucket := Nat.min q.linkBucket (bitsAt v.toNat 32 32) }
  else if 0x81000 ≤ off ∧ off < 0x81400 then put fun q => { q with groups := mapSet q.groups ((off - 0x81000) / 2) (v.setWidth 16 &&& 0x81FF) }
  else if 0x81400 ≤ off ∧ off < 0x81800 then put fun q => { q with tiles := mapSet q.tiles ((off - 0x81400) / 2) (v.setWidth 16 &&& 0x81FF) }
  else if 0x88000 ≤ off ∧ off < 0x90000 then
    let c := (off - 0x88000) / 8
    put fun q => { q with window := mapSet q.window c (maskIn 0xFF01 (mapGet 0 q.window c) v) }
  else match off with
    | 0x80010 => put fun q => { q with thmax := v.extractLsb' 32 16, share := v.setWidth 32 }
    | 0x80018 => put fun q => { q with hier := v &&& 0x7FFFFF0000 }
    | 0x80020 => put fun q => { q with wayb := v &&& 0xFFFFF000FFFFF }
    | _ => s

/-- Offsets of function registers. -/
def fnOffset (off : Nat) : Bool :=
  off == 0x40600 || off == 0x40608 || (0x40700 ≤ off && off < 0x40800) || off == 0x40818 || off == 0x40820

/-- A write of a register without a behaviour of its own, under the function's rights. -/
def State.plainWrite (s : State) (fn : FnId) (off : Nat) (v : Word) : State :=
  if 0x80000 ≤ off then (if fn.val = 0 then s.writeBlock off v else s)
  else if fnOffset off then s.ownReg fn off fun s => s.writeFnReg fn off v
  else s.partReg fn off fun tag s => s.writePartReg tag off v

/-! ## Every write of BAR 0 (R387) -/

/-- A write of EN while the module has not booted (R413). -/
def State.recoveryEn (s : State) (tag : Nat) : State := if tag = 0 then s else s.setCfgErr tag 9

/-- A write of 8 bytes (2 of a table entry) at an offset takes effect under its register's own rule. DBGRESP's signed
block comes with the event DBGRESP or in a posted write. -/
def State.regWrite (s : State) (fn : FnId) (off : Nat) (v : Word) : State :=
  if !s.answers fn off ∨ off % regBytes off ≠ 0 then s
  else if 0x80000 ≤ off then
    if fn.val ≠ 0 then s
    else if off = 0x80008 then
      (if !s.booted then s.recoveryEn (s.psel.toNat % 256)
       else if v.getLsbD 0 then s.enablePart (s.psel.toNat % 256) else s.disablePart (s.psel.toNat % 256))
    else if 0x80800 ≤ off ∧ off < 0x80A00 then s.writeQcfg ⟨(off - 0x80800) / 8 % 64, Nat.mod_lt _ (by decide)⟩ v
    else if 0x82000 ≤ off ∧ off < 0x82800 then s.writeVfbind ((off - 0x82000) / 8) v
    else if 0x84000 ≤ off ∧ off < 0x85000 ∧ off % 16 = 0 then s.writeVfCtxbase ((off - 0x84000) / 16) v
    else if 0x90000 ≤ off ∧ off < 0x91000 ∧ off % 0x100 = 0 then s.writeHubMon ⟨(off - 0x90000) / 0x100 % 16, Nat.mod_lt _ (by decide)⟩ v
    else if off = 0x92000 then s.writeTbcfg v
    else s.plainWrite fn off v
  else if off < 0x40200 ∧ 0x40000 ≤ off ∧ off % 32 = 0x10 then s.partReg fn off fun tag s => s.writeRegionCtl tag (off % 0x200 / 32) v
  else if 0x40200 ≤ off ∧ off < 0x40280 then s.partReg fn off fun tag s => s.writeRange tag (off % 0x80 / 16) (off % 16 == 8) v
  else if 0x40400 ≤ off ∧ off ≤ 0x40410 then s.partReg fn off fun tag s => s.writeOrd tag ((off - 0x40400) / 8) v
  else if off = 0x40308 then s.partReg fn off fun tag s => s.modPart tag fun p => { p with remCache := [] }
  else if off = 0x40320 then s.partReg fn off fun tag s =>
    ((s.part tag).rempf.filter fun r => r.1 == v.setWidth 16).foldl (fun s r =>
      (s.emit (.pageAnswer r.2 (BitVec.ofNat 8 tag) (s.part tag).epoch r.1 (bitsAt v.toNat 16 2))).modPart tag fun p => { p with rempf := p.rempf.filter fun q => q != r }) s
  else if off = 0x40600 then s.writeLsubmit fn v
  else if off = 0x40720 then s.writeAttreq fn v
  else if off = 0x40740 then s.writeDbgreq fn v
  else if 0x41000 ≤ off ∧ off < 0x45000 ∧ off % 64 = 0x38 then s.commitWindow fn ((off - 0x41000) / 64)
  else if off = 0x47000 then s.partReg fn off fun tag s => s.modPart tag fun p => { p with monsel := v &&& 0x1FFF }
  else if off = 0x47100 then s.partReg fn off fun tag s => s.writeSliceMon tag v
  else s.plainWrite fn off v

/-! ## Reads of BAR 0 -/

/-- Partition registers at an offset: the read (R402). The physical function sees every monitor source (R411). -/
def State.readPartReg (s : State) (pf : Bool) (tag off : Nat) : Word :=
  let p := s.part tag
  if 0x40000 ≤ off ∧ off < 0x40200 then p.regions[(off - 0x40000) / 8 % 64]'(Nat.mod_lt _ (by decide))
  else if 0x40200 ≤ off ∧ off < 0x40280 then p.ranges[(off - 0x40200) / 8 % 16]'(Nat.mod_lt _ (by decide))
  else if 0x41000 ≤ off ∧ off < 0x45000 then
    let e := p.entry ((off - 0x41000) / 64)
    if e.state = 0 ∨ off % 64 = 0x38 then 0 else w64 (bitsAt e.record (8 * (off % 64)) 64)
  else if 0x47100 ≤ off ∧ off < 0x47198 then
    let src := bitsAt p.sliceMonAt.cfg.toNat 0 10
    p.sliceMonAt.get (pf || s.allowed tag src) (src == 0x213) ((off - 0x47100) / 8)
  else match off with
    | 0x40300 => p.remroot | 0x40310 => p.rempfq | 0x40318 => p.rempfhead
    | 0x40400 => p.ordctl | 0x40408 => p.ordbase | 0x40410 => p.ordseg | 0x40500 => p.svcbase
    | 0x40800 => p.fltlog | 0x40808 => p.flthead | 0x40810 => p.fltcfg | 0x47000 => p.monsel
    | _ => 0

/-- CTXSTAT of a function (R441). -/
def State.ctxstat (s : State) (f : FnId) : Word :=
  w64 (bool01 (s.parts.any fun p => p.2.resident == some f) * 2 + bool01 (mapFind s.saved f.val).isSome)

/-- Function registers at an offset: the read. -/
def State.readFnReg (s : State) (fn : FnId) (off : Nat) : Word :=
  let f := s.func fn
  if 0x40748 ≤ off ∧ off < 0x40768 then f.dbgchal[(off - 0x40748) / 8 % 4]'(Nat.mod_lt _ (by decide))
  else match off with
    | 0x40608 => f.lstat | 0x40720 => f.attreq | 0x40728 => f.attstat | 0x40740 => f.dbgreq
    | 0x40818 => if fn.val = 0 then 0 else f.ctxbase
    | 0x40820 => if fn.val = 0 then 0 else s.ctxstat fn
    | _ => 0

/-- The physical function's block: the read. -/
def State.readBlock (s : State) (off : Nat) : Word :=
  let tag := s.psel.toNat % 256
  let p := if tag = 0 then { Part.reset with thmax := 0 } else s.part tag
  let entries (m : Map (BitVec 16)) (o : Nat) : Word :=
    w64 (layBytes ((natsFrom (o / 2) 4).map fun i => (2, (mapGet 0 m i).toNat)))
  if 0x80800 ≤ off ∧ off < 0x80A00 then s.qcfg[(off - 0x80800) / 8 % 64]'(Nat.mod_lt _ (by decide))
  else if 0x81000 ≤ off ∧ off < 0x81400 then entries p.groups (off - 0x81000)
  else if 0x81400 ≤ off ∧ off < 0x81800 then entries p.tiles (off - 0x81400)
  else if 0x82000 ≤ off ∧ off < 0x82800 then (s.func (fnOf ((off - 0x82000) / 8 + 1))).vfbind
  else if 0x84000 ≤ off ∧ off < 0x85000 then
    let f := fnOf ((off - 0x84000) / 16 + 1)
    if off % 16 = 0 then (s.func f).ctxbase else s.ctxstat f
  else if 0x88000 ≤ off ∧ off < 0x90000 then
    let c := (off - 0x88000) / 8
    if tag = 0 then 0 else mapGet 0 p.window c ||| w64 (s.rlat (BitVec.ofNat 12 c) * 2 ^ 16)
  else if 0x90000 ≤ off ∧ off < 0x91000 ∧ off % 0x100 < 0x98 then
    (s.hubMon[(off - 0x90000) / 0x100 % 16]'(Nat.mod_lt _ (by decide))).get true true (off % 0x100 / 8)
  else if 0xC0000 ≤ off ∧ off < 0xC8000 then w64 (layBytes ((natsFrom (off - 0xC0000) 8).map fun i => (1, (mapGet 0 s.allow i).toNat)))
  else match off with
    | 0x80000 => s.psel
    | 0x80008 => if tag = 0 then 0 else w64 (p.cfgerr.toNat * 16 + bool01 p.clearing * 4 + bool01 (s.busy tag) * 2 + bool01 p.en)
    | 0x80010 => w64 (p.thmax.toNat * 2 ^ 32 + p.share.toNat)
    | 0x80018 => p.hier | 0x80020 => p.wayb | 0x80028 => p.hostlim | 0x80030 => p.linklim
    | 0x82800 => s.binderr | 0x92000 => s.time.tbcfg
    | _ => 0

/-- A read of 8 bytes at an offset of BAR 0 (R401): an unbound virtual function reads zero. -/
def State.regRead (s : State) (fn : FnId) (off : Nat) : State × Word :=
  if !s.answers fn off then (s, 0)
  else if 0x80000 ≤ off then
    (if fn.val ≠ 0 then (s, 0)
     else if 0x82C00 ≤ off ∧ off < 0x83400 then s.readFlrstat ((off - 0x82C00) / 8)
     else (s, s.readBlock off))
  else if fn.val ≠ 0 ∧ s.fnTag fn = 0 then (s, 0)
  else if fnOffset off then (s, s.readFnReg fn off)
  else if s.regTag fn = 0 then (s, 0)
  else (s, s.readPartReg (fn.val == 0) (s.regTag fn) off)

/-! ## Events of single registers (R387) -/

/-- The host writes a register: at once, or behind the function's earlier posted writes. -/
def State.hostReg (s : State) (fn : FnId) (off : Nat) (v : Word) : State := s.barWrite fn off v fun s => s.regWrite fn off v

/-- REGION_ENABLE (R158). -/
def execRegionEnable (fn : FnId) (n : Fin 16) (v : Word) (s : State) : Host.Outcome State Fault Refusal :=
  s.happen fun s => if v.getLsbD 0 then s.hostReg fn (0x40010 + 32 * n.val) v else s

/-- REGION_DISABLE (R165). -/
def execRegionDisable (fn : FnId) (n : Fin 16) (v : Word) (s : State) : Host.Outcome State Fault Refusal :=
  s.happen fun s => if v.getLsbD 0 then s else s.hostReg fn (0x40010 + 32 * n.val) v

/-- PROTECTION_RANGE_WRITE (R264). -/
def execProtectionRangeWrite (fn : FnId) (n : Fin 8) (hi : Bool) (v : Word) (s : State) : Host.Outcome State Fault Refusal :=
  s.happen fun s => s.hostReg fn (0x40200 + 16 * n.val + (if hi then 8 else 0)) v

/-- REMINV (R271). -/
def execReminv (fn : FnId) (s : State) : Host.Outcome State Fault Refusal := s.happen fun s => s.hostReg fn 0x40308 0

/-- REMPFRSP (R435). -/
def execRempfrsp (fn : FnId) (v : Word) (s : State) : Host.Outcome State Fault Refusal := s.happen fun s => s.hostReg fn 0x40320 v

/-- ORDER_LOG_CONFIG_WRITE (R338). -/
def execOrderLogConfigWrite (fn : FnId) (r : Fin 3) (v : Word) (s : State) : Host.Outcome State Fault Refusal :=
  s.happen fun s => s.hostReg fn (0x40400 + 8 * r.val) v

/-- LSUBMIT (R387). -/
def execLsubmit (fn : FnId) (v : Word) (s : State) : Host.Outcome State Fault Refusal := s.happen fun s => s.hostReg fn 0x40600 v

/-- PARTITION_ENABLE (R398): PCTL with EN = 1, of the partition that PSEL selects. -/
def execPartitionEnable (s : State) : Host.Outcome State Fault Refusal := s.happen fun s => s.hostReg 0 0x80008 1

/-- PARTITION_DISABLE (R399). -/
def execPartitionDisable (s : State) : Host.Outcome State Fault Refusal := s.happen fun s => s.hostReg 0 0x80008 0

/-- TEARDOWN_COMPLETE (R399). -/
def execTeardownComplete (tag : Tag) (s : State) : Host.Outcome State Fault Refusal :=
  s.happen fun s => if (s.part tag.toNat).clearing then s.setPart tag.toNat Part.reset else s

/-- CLEAR_MAP_SCRUB (R400): the first block whose bit is set is zeroed. -/
def execClearMapScrub (ch : Fin 512) (s : State) : Host.Outcome State Fault Refusal :=
  s.happen fun s => match mapGet [] s.clearMap ch.val with
    | [] => s
    | (lo, _) :: _ => s.touchBlock (ch.val * 2 ^ 30 + lo * 65536)

/-- QCFG_WRITE (R397). -/
def execQcfgWrite (q : Fin 64) (v : Word) (s : State) : Host.Outcome State Fault Refusal :=
  s.happen fun s => s.hostReg 0 (0x80800 + 8 * q.val) v

/-- VFBIND_WRITE (R404). -/
def execVfbindWrite (vf : BitVec 8) (v : Word) (s : State) : Host.Outcome State Fault Refusal :=
  s.happen fun s => s.hostReg 0 (0x82000 + 8 * vf.toNat) v

/-- VF_CTXBASE_WRITE (R402). -/
def execVfCtxbaseWrite (vf : BitVec 8) (v : Word) (s : State) : Host.Outcome State Fault Refusal :=
  s.happen fun s => s.hostReg 0 (0x84000 + 16 * vf.toNat) v

/-- MONITOR_CFG_WRITE (R412): a hub monitor belongs to the physical function. -/
def execMonitorCfgWrite (fn : FnId) (m : MonSel) (v : Word) (s : State) : Host.Outcome State Fault Refusal :=
  s.happen fun s => match m with
    | .hub h => s.hostReg fn (0x90000 + 0x100 * h.val) v
    | .slice => s.hostReg fn 0x47100 v

/-- MONSEL (R412). -/
def execMonsel (fn : FnId) (v : Word) (s : State) : Host.Outcome State Fault Refusal := s.happen fun s => s.hostReg fn 0x47000 v

/-- ATTREQ (R415). -/
def execAttreq (fn : FnId) (v : Word) (s : State) : Host.Outcome State Fault Refusal := s.happen fun s => s.hostReg fn 0x40720 v

/-- DBGREQ (R417). -/
def execDbgreq (fn : FnId) (v : Word) (s : State) : Host.Outcome State Fault Refusal := s.happen fun s => s.hostReg fn 0x40740 v

/-- DBGRESP (R417): whether each signature of the block verifies comes with the event. -/
def execDbgresp (fn : FnId) (ecdsa lms : Bool) (s : State) : Host.Outcome State Fault Refusal :=
  s.happen fun s => if s.answers fn 0x40780 && (s.func fn).posted.isEmpty then s.writeDbgresp fn ecdsa lms else s

/-- BAR0_REGISTER_WRITE (R387, R401). -/
def execBar0RegisterWrite (fn : FnId) (off : BitVec 20) (v : Word) (s : State) : Host.Outcome State Fault Refusal :=
  s.happen fun s => s.hostReg fn off.toNat v

/-! ## The ordering point (R386) -/

/-- HOST_POSTED_WRITE (R385, R386): a full ordering point withholds credits, so the write does not arrive; nor does one above the
largest payload. -/
def execHostPostedWrite (fn : FnId) (bar : Bar) (addr : Nat) (bytes : List Byte) (s : State) : Host.Outcome State Fault Refusal :=
  s.happen fun s =>
    if (s.func fn).posted.length ≥ 64 ∨ bytes.length > 512 then s
    else s.modFunc fn fun f => { f with posted := f.posted ++ [{ bar, addr, bytes, sent := false, tag := 0, left := [] }] }

/-- The register writes that the bytes of a BAR 0 write hold: whole 8-byte registers, 2-byte table entries. The bytes from
DBGRESP on are a response (log 70). -/
def State.bar0Write (s : State) (fn : FnId) (a x : Nat) : Nat → Nat → State
  | 0, _ => s
  | f + 1, n =>
    let u := regBytes a
    if a = 0x40780 ∧ 0 < n then
      let ok := Config.responseOk (wordsNat (s.func fn).dbgchal.toList) x
      if s.answers fn a then s.writeDbgresp fn ok.1 ok.2 else s
    else if n < u then s
    else if a % u ≠ 0 then State.bar0Write s fn (a + 1) (x / 256) f (n - 1)
    else State.bar0Write (s.regWrite fn a (w64 (x % 2 ^ (8 * u)))) fn (a + u) (x / 2 ^ (8 * u)) f (n - u)

def bytesNat (l : List Byte) : Nat := natOfBytes (l.map (·.toNat))

/-- Performs a piece of an inbound write at its home, or logs it where the slice refuses the tag it was sent with (R396). -/
def State.hostPiece (s : State) (fn : FnId) (w : Posted) (c : Nat × Nat × Nat) : State :=
  let tag := w.tag.toNat
  match (s.part tag).guestOf c.1 with
  | some a => if s.refuses tag a c.2.1 then s.logUr fn w.addr else s.homeWrite tag 4 .hbm a c.2.2 c.2.1
  | none => s.logUr fn w.addr

/-- The head of an ordering point changes. -/
def Func.setHead (f : Func) (w : Posted) : Func :=
  match f.posted with
  | [] => f
  | _ :: l => { f with posted := w :: l }
def Func.dropHead (f : Func) : Func := { f with posted := f.posted.drop 1, routes := [] }

/-- Some of the sent pieces are performed, a free choice of each. -/
def State.someMore (s : State) (fn : FnId) (w : Posted) : List (Nat × Nat × Nat) → State × List (Nat × Nat × Nat)
  | [] => (s, [])
  | c :: l =>
    let (s1, now) := s.flip
    let (s2, rest) := State.someMore (if now then s1.hostPiece fn w c else s1) fn w l
    (s2, if now then rest else c :: rest)

/-- The compute die of a place in HBM (R15). -/
def placeDie (a : Nat) : Fin 4 := ⟨a / 2 ^ 30 / 128 % 4, Nat.mod_lt _ (by decide)⟩

/-- The pieces of an inbound write of a partition: the place of each, its size and data (R273). -/
def hostPieces (p : Part) (w : Posted) : List (Nat × Nat × Nat) :=
  (piecesOf .hbm w.addr w.bytes.length).map fun c => (p.phys c.addr, c.size, bitsAt (bytesNat w.bytes) (8 * c.pos) (8 * c.size))

/-- ORDERING_POINT_SEND (R384, R386, R387): the head write is sent; a BAR 0 write takes effect and leaves. While its
routes are unacknowledged, pieces are performed in any order. -/
def execOrderingPointSend (fn : FnId) (s : State) : Host.Outcome State Fault Refusal :=
  s.happen fun s =>
    let f := s.func fn
    let tag := s.fnTag fn
    match f.posted with
    | [] => s
    | w :: _ =>
      let n := w.bytes.length
      if w.sent then
        let (s1, rest) := s.someMore fn w w.left
        s1.modFunc fn fun f => f.setHead { w with left := rest }
      else if w.bar = .bar0 then (s.modFunc fn Func.dropHead).bar0Write fn w.addr (bytesNat w.bytes) (n + 1) n
      else if tag = 0 ∨ (s.part tag).extent < w.addr + n then (s.modFunc fn Func.dropHead).logUr fn w.addr
      else
        let cs := hostPieces (s.part tag) w
        if cs.isEmpty then s.modFunc fn Func.dropHead
        else s.modFunc fn fun f => { f.setHead { w with sent := true, tag := BitVec.ofNat 8 tag, left := cs } with
                                     routes := (cs.map fun c => placeDie c.1).eraseDups }

/-- ROUTE_ACKNOWLEDGE (R386): every piece on the route has been performed; after the last route the write leaves. -/
def execRouteAcknowledge (fn : FnId) (die : Fin 4) (s : State) : Host.Outcome State Fault Refusal :=
  s.happen fun s =>
    let f := s.func fn
    match f.posted with
    | [] => s
    | w :: _ =>
      if !f.routes.contains die then s
      else
        let mine : Nat × Nat × Nat → Bool := fun c => placeDie c.1 == die
        let s1 := (w.left.filter mine).foldl (fun s c => s.hostPiece fn w c) s
        let rest := f.routes.filter (· != die)
        s1.modFunc fn fun f => if rest.isEmpty then f.dropHead
          else { f.setHead { w with left := w.left.filter fun c => !mine c } with routes := rest }

/-- Reads of BAR 0 one register after another. -/
def State.bar0Read (s : State) (fn : FnId) (a : Nat) : Nat → State × Nat
  | 0 => (s, 0)
  | n + 1 =>
    let (s1, v) := s.regRead fn (a / 8 * 8)
    let (s2, r) := State.bar0Read s1 fn (a + 8) n
    (s2, v.toNat + 2 ^ 64 * r)

/-- A read of BAR 2 (R384, R396, R401, R428). -/
def State.bar2Read (s : State) (fn : FnId) (addr n : Nat) : State :=
  let tag := s.fnTag fn
  let p := s.part tag
  if tag = 0 ∨ p.extent < addr + n then s.emit (.unsupported fn)
  else if s.refuses tag addr 1 || s.refuses tag (addr + n - 1) 1 then (s.emit (.unsupported fn)).logUr fn addr
  else s.emit (.hostRead fn (s.readHbm p addr n) (s.badHbmAt p addr n))

/-- HOST_READ (R318, R385): it completes once the function's posted writes have been acknowledged; one above the largest
request size does not arrive. -/
def execHostRead (fn : FnId) (bar : Bar) (addr : Nat) (n : Nat) (s : State) : Host.Outcome State Fault Refusal :=
  s.happen fun s =>
    if !(s.func fn).posted.isEmpty ∨ n > 4096 then s
    else match bar with
      | .bar0 =>
        let (s1, v) := s.bar0Read fn addr (ceilDiv (addr % 8 + n) 8)
        s1.emit (.hostRead fn (v / 2 ^ (8 * (addr % 8)) % 2 ^ (8 * n)) false)
      | .bar2 => s.bar2Read fn addr n

/-- HOST_ATOMICOP_INBOUND (R385). -/
def execHostAtomicopInbound (fn : FnId) (s : State) : Host.Outcome State Fault Refusal := s.happen fun s => s.emit (.unsupported fn)

end Sys2Proof.Machine
end

