-- ==== Sys2Proof/Machine/Secure.lean ====
section
/-!
DEFINITION. Soft errors (R427, R428), boot (R413, R416), power and throttling (R99, R418), and invasive debug access
(R418).
-/
namespace Sys2Proof.Machine

/-! ## Soft errors -/

/-- A place in a partition's own memory is recorded at the first declared slot of its first tile (log 12). -/
def State.firstSlot (s : State) (tag : Nat) (a : Word) : Option (TileId × SlotId × Word) :=
  (s.part tag).tileList.head?.map fun t => (t, (s.tile t).firstDeclared, a)

/-- The record of a corrected error: the partition, tile and slot it concerns, and its address (R427; log 12). -/
def State.softAt (s : State) : SoftTarget → Option (TileId × SlotId × Word)
  | .hbm g off => (s.owner g.val).bind fun tag =>
    ((s.part tag).guestOf (g.val * 2 ^ 30 + off % 2 ^ 30)).bind fun a => s.firstSlot tag (w64 a)
  | .store t off => some (t, (s.tile t).firstDeclared, w64 (linBase + off % storeSize))
  | .reg t k c => some (t, k, c.setWidth 64)
  | .post n _ => (s.owner (postKey n / 256)).bind fun tag => s.firstSlot tag (n.setWidth 64)
  | .pin t line => some (t, (s.tile t).firstDeclared, w64 line)
  | .view tag a => s.firstSlot tag.toNat (w64 a)
  | .rdc tag _ a => s.firstSlot tag.toNat (w64 a)

/-- CORRECTED_SOFT_ERROR (R427): repaired in place and logged as code 14; no slot sees it. -/
def execCorrectedSoftError (tgt : SoftTarget) (s : State) : Host.Outcome State Fault Refusal :=
  s.happen fun s => match s.softAt tgt with
    | some (t, k, a) => s.faultLog t k 14 0 7 0 0 a
    | none => s

/-- The post whose value holds a byte of a post slot. -/
def State.postHolding (s : State) (key : Nat) : Option (Nat × Post) := s.posts.find? fun q => q.1 ≤ key && key < q.1 + q.2.lines

/-- A held line of a tile's pin buffer is poisoned, for the mmacs that use its copy too (R233, R428). -/
def Tile.poisonPin (x : Tile) (line : Nat) : Tile :=
  let hit : Pin → Pin := fun p => if p.line = line then { p with bad := true } else p
  let hits : Mac → Mac := fun m => { m with held := m.held.map hit }
  { x with pins := x.pins.map hit, arrivals := x.arrivals.map fun a => { a with mac := a.mac.map hits },
           gangs := x.gangs.map (·.map hits), running := x.running.map fun r => (r.1.map hits, r.2) }

/-- UNCORRECTED_SOFT_ERROR (R428): the granule is poisoned. -/
def execUncorrectedSoftError (tgt : SoftTarget) (s : State) : Host.Outcome State Fault Refusal :=
  s.happen fun s => match tgt with
    | .hbm g off => { s with badHbm := (g.val * 2 ^ 30 + off % 2 ^ 30) / 32 :: s.badHbm }
    | .store t off => s.modTile t fun x => { x with badChunks := off % storeSize / 64 :: x.badChunks }
    | .reg t k c =>
      let n := c.toNat
      if n = 0 ∨ n = 96 then s
      else if n < 120 then s.modSlot t k fun x => { x with bad := n :: x.bad }
      else s.modTile t fun x => { x with badYZ := n :: x.badYZ }
    | .post n off => (match s.postHolding (postKey n) with
      | some (key, p) => { s with posts := mapSet s.posts key { p with bad := (256 * (postKey n - key) + off % 256) / 32 :: p.bad } }
      | none => s)
    | .pin t line => s.modTile t fun x => x.poisonPin line
    | .view tag a => (match mapFind s.views (viewKey tag.toNat a) with
      | some l => { s with views := mapSet s.views (viewKey tag.toNat a) { l with bad := l.bad ||| granuleBits a 1 } }
      | none => s)
    | .rdc tag die a =>
      let d := 4 * tag.toNat + die.val
      let key := (s.part tag.toNat).lineKey tag.toNat a
      let mark : RLine → RLine := fun l => if l.key = key then { l with bad := l.bad ||| granuleBits a 1 } else l
      { s with rdc := mapSet s.rdc d ((mapGet [] s.rdc d).map mark) }

/-! ## Boot (R413, R414, R416) -/

/-- An object is accepted when both signatures verify and its version is at least the counter. -/
def objAccepted (o : BootObj) (counter : Nat) : Bool := o.ecdsa && o.lms && decide (counter ≤ o.version)

/-- Objects in boot order: whether each is accepted, and the counter after them. -/
def bootChain (counter : Nat) : List BootObj → Bool × Nat
  | [] => (true, counter)
  | o :: l =>
    if objAccepted o counter then bootChain (if o.marked then Nat.max counter o.version else counter) l else (false, counter)

/-- One number for two (R415). -/
def pairNat (a b : Nat) : Nat := (a + b) * (a + b + 1) / 2 + b

/-- The bytes of the firmware images, in boot order, as one number. -/
def imagesNat (l : List BootObj) : Nat := l.foldl (fun n o => pairNat n (o.content + 1)) 0

/-- Every partition is torn down, and every saved context goes (R399, R416). -/
def State.zeroParts (s : State) : State :=
  (s.parts.filter fun p => p.2.en).foldl (fun s p => s.tearDown p.1) { s with dbg := [], saved := [] }

/-- BOOT: every image, then the configuration record, or the module stays in recovery. A change of the security state ends
every session and zeroes every partition. The model's choices (log 70): a record with another CHIPID zeroes every partition
too, so that no launch sees the number change (R16); and CHIPID 0xFFF, which is never assigned (R17), is taken like another. -/
def execBoot (images : List BootObj) (record : BootObj) (chip : Chip) (sec : BitVec 2) (s : State) : Host.Outcome State Fault Refusal :=
  s.happen fun s =>
    let (ok, c) := bootChain s.rollback (images ++ [record])
    let s1 : State := { s with rollback := c }
    if !ok || sec == 3 then { s1 with booted := false }
    else
      let s2 := if sec = s.security ∧ chip = s.chipId then s1 else s1.zeroParts
      { s2 with booted := true, chipId := chip, security := sec, cfgVersion := record.version,
                firmware := imagesNat images, config := record.content }

/-! ## Power and throttling (R99, R418) -/

/-- PACKAGE_WAKE (R418). -/
def execPackageWake (s : State) : Host.Outcome State Fault Refusal :=
  s.happen fun s => if s.power = .packageIdle then { s with power := .active } else s

/-- THROTTLE_CHANGE (R99): θ becomes the factor that the limits need, kept within 256 and THMAX, at most once in 10 µs.
While some partition's would have to pass its THMAX with every partition at its own, no launch starts. -/
def execThrottleChange (tag : Tag) (theta : BitVec 16) (s : State) : Host.Outcome State Fault Refusal :=
  s.happen fun s =>
    let tg := tag.toNat
    let p := s.part tg
    let soon := match p.thetaAt with | some a => decide (s.time.tai < a + 10000) | none => false
    if !p.en || soon || decide (theta.toNat < 256) then s
    else
      let s1 := s.setPart tg { p with theta := if p.thmax.toNat < theta.toNat then p.thmax else theta, thetaAt := some s.time.tai }
      let full := s1.parts.all fun q => !q.2.en || q.2.theta == q.2.thmax
      { s1 with noStart := decide (p.thmax.toNat < theta.toNat) && full }

/-- THERMAL_SHUTDOWN (R99, R417): every launch completes with status 4, sessions end, and the module is off. -/
def execThermalShutdown (s : State) : Host.Outcome State Fault Refusal :=
  s.happen fun s =>
    let s1 := s.parts.foldl (fun s p =>
      (p.2.launches.filter fun l => l.2.live).foldl (fun s l =>
        match (s.endLaunch p.1 l.1 4).launch p.1 l.1 with
        | some x => (s.endLaunch p.1 l.1 4).completeLaunch p.1 l.1 x 4
        | none => s) s) s
    { s1 with power := .off, dbg := [] }

/-! ## Debug (R418) -/

/-- Whether a debugger of a level may act on a tile of a partition. -/
def State.mayDebug (s : State) (level tag : Nat) (t : TileId) : Bool :=
  tag != 0 && decide (level ≤ s.debugLevel tag) && (s.tile t).tag.toNat == tag

/-- Arms or disarms the breakpoints of a partition; in Development the session begins with it. -/
def State.armBreaks (s : State) (tag : Nat) (on : Bool) : State :=
  if s.debugLevel tag = 2 ∧ tag ≠ 0 then { s with dbg := (tag, 2, on) :: s.dbg.filter fun d => d.1 != tag } else s

/-- In Development an invasive act begins a session where none stands (R416; log 70). -/
def State.openSession (s : State) (tag : Nat) : State :=
  if s.invasive tag then s else { s with dbg := (tag, 2, false) :: s.dbg.filter fun d => d.1 != tag }

/-- Whether tile state reads as zero: the package is idle, or the tile is gated. -/
def State.dark (s : State) (t : TileId) : Bool := s.power != .active || s.gated t

/-- A register of a slot or its tile by operand code. -/
def Tile.regBy (x : Tile) (k : SlotId) (c : Nat) : Nat :=
  let y := x.slot k
  if c < 32 then (y.gr (BitVec.ofNat 5 c)).toNat
  else if c < 64 then (y.fr (BitVec.ofNat 5 c)).toNat
  else if c < 96 then (y.vr (BitVec.ofNat 5 c)).toNat
  else if c < 112 then bool01 (y.pr (BitVec.ofNat 4 c))
  else if c < 120 then (y.kr (BitVec.ofNat 3 c)).toNat
  else if c < 124 then (x.y[(c - 120) % 4]'(Nat.mod_lt _ (by decide))).toNat
  else (x.z[(c - 124) % 4]'(Nat.mod_lt _ (by decide))).toNat

/-- Writes one. -/
def State.putRegBy (s : State) (t : TileId) (k : SlotId) (c v : Nat) : State :=
  let s1 := s.zeroReg t k c
  if c < 120 then s1.modSlot t k fun x => x.cw c v
  else if c < 124 then s1.modTile t fun x => { x with y := x.y.set ((c - 120) % 4) (w64 v) (Nat.mod_lt _ (by decide)) }
  else s1.modTile t fun x => { x with z := x.z.set ((c - 124) % 4) (w64 v) (Nat.mod_lt _ (by decide)) }

/-- A control register as the slot itself would read it, and a write of its RW and W1C fields. -/
def State.csrBy (s : State) (t : TileId) (k : SlotId) (n : Nat) : Word := (State.csrGet { s with cur := (t, k) } n).getD 0
def State.putCsrBy (s : State) (t : TileId) (k : SlotId) (n : Nat) (v : Word) : State :=
  let m := csrMasks n
  { State.csrPut { s with cur := (t, k) } n (maskIn m.1 (s.csrBy t k n) v &&& ~~~(v &&& m.2)) with cur := s.cur }

/-- INVASIVE_DEBUG_ACCESS. Registers are written, and a slot is stepped, while its tile is halted; registers, counters and
monitors are read at either level. -/
def execInvasiveDebugAccess (tag : Tag) (act : DbgAct) (s : State) : Host.Outcome State Fault Refusal :=
  s.happen fun s =>
    let tg := tag.toNat
    let at_ (t : TileId) (f : State → State) : State := if s.mayDebug 2 tg t then f (s.openSession tg) else s
    let held (t : TileId) (f : State → State) : State := at_ t fun s => if (s.tile t).dbgHalt then f s else s
    let look (t : TileId) (v : Nat) : State :=
      if s.mayDebug 1 tg t then s.emit (.debugRead tag (if s.dark t then 0 else v)) else s
    match act with
    | .halt t => at_ t fun s => (s.modTile t fun x => { x with dbgHalt := true }).emit (.debugHalt t)
    | .release t => at_ t fun s => s.modTile t fun x => { x with dbgHalt := false, dbgStep := none }
    | .step t k => held t fun s =>
      let s1 := s.modTile t fun x => { x with dbgStep := some k }
      { s1 with agenda := s1.agenda ++ [.turn t k] }
    | .writeG t k n v => held t fun s => s.modSlot t k fun x => x.gw n v
    | .writePc t k v => held t fun s => s.modSlot t k fun x => { x with pc := v }
    | .arm on => s.armBreaks tg on
    | .write t k c v => held t fun s => s.putRegBy t k c.toNat v
    | .writeCsr t k n v => held t fun s => s.putCsrBy t k n.toNat v
    | .read t k c => look t ((s.tile t).regBy k c.toNat)
    | .readCsr t k n => look t (s.csrBy t k n.toNat).toNat

end Sys2Proof.Machine
end

