-- ==== Sys2Proof/Machine/Clock.lean ====
section
/-!
DEFINITION. The passage of time: tile cycles under throttling (R4, R80, R94, R99), what falls due at an instant, token
buckets (R408) and level samples (R412).
-/
namespace Sys2Proof.Machine

/-! ## Tiles (R80, R94, R99) -/

/-- Whether a tile's round timer runs: it has a launch, and no stop, kill or cancel has halted it. -/
def State.running (s : State) (t : TileId) (x : Tile) : Bool := x.launch.isSome && !x.halted && !s.frozen t

/-- One nominal cycle at a throttle factor θ: a tile cycle begins each time 256 ths of it have passed θ / 256 times. -/
def Tile.tick (x : Tile) (theta tai : Nat) : Tile :=
  if !x.going then { x with due := if x.s0 ≤ tai then [0, 1, 2, 3] else [], cycle := 0 }
  else
    let ph := x.phase + 256
    if ph ≥ theta then { x with phase := ph - theta, cycle := x.cycle + 1, toExpiry := x.toExpiry - 1, due := [0, 1, 2, 3] }
    else { x with phase := ph, due := [] }

def tileOf (n : Nat) : TileId := ⟨n % 512, Nat.mod_lt _ (by decide)⟩

/-- Every tile of a launch advances, but for those whose clocks stand this time: each tile has its own clock (R4). -/
def State.tickTiles (s : State) (slow : List TileId) : State :=
  { s with tiles := s.tiles.map fun p =>
      if s.running (tileOf p.1) p.2 && !slow.contains (tileOf p.1) then (p.1, p.2.tick (s.part p.2.tag.toNat).theta.toNat s.time.tai) else p }

/-- Tiles whose cycle has begun and whose turns are still to come, in order. -/
def State.tickedTiles (s : State) : List TileId := (s.tiles.filter fun p => !p.2.due.isEmpty).map fun p => tileOf p.1

/-- Cycles in power stretch are counted (R410). -/
def State.countStretch (s : State) : State :=
  s.tickedTiles.foldl (fun s t => if (s.tile t).stretch then s.tileCount t 6 1 else s) s

/-- Expiries of tiles that are in no round come before the turns of their cycle, the others after them (R96). -/
def State.expiries (s : State) : State :=
  s.tickedTiles.foldl (fun s t => if (s.tile t).toExpiry = 0 ∧ (s.tile t).inRound = false then s.event (.roundTimerExpiry t) else s) s

/-! ## What falls due -/

/-- Events of a partition that are due. -/
def Part.dueNow (p : Part) (tag : Tag) (chip : Chip) (tai : Nat) : List Instr :=
  ((p.phases.filter fun o => !o.2.started && decide (o.2.start ≤ tai)).map fun o => Instr.phaseStartInstant tag (BitVec.ofNat 10 o.1)) ++
  ((p.phases.filter fun o => o.2.finish != 0 && decide (o.2.finish ≤ tai)).map fun o => Instr.phaseEnd tag (BitVec.ofNat 10 o.1)) ++
  (match p.stopping with | some st => if !st.done && decide (st.at_ ≤ tai) then [Instr.preemptStop tag] else [] | none => []) ++
  (match p.restoring with | some r => if r.at_ ≤ tai then [Instr.contextRestore tag] else [] | none => []) ++
  (match p.resident with | some f => if f.val != 0 && decide (p.sliceEnd ≤ tai) then [Instr.timeSliceEnd tag] else [] | none => []) ++
  ((p.timetable.filter fun e => (e.2.state == 1 && !e.2.waits && decide (e.2.instant ≤ tai)) || p.prepares tai e.1 e.2).map
    fun e => Instr.timetableFire tag (BitVec.ofNat 8 e.1)) ++
  ((p.timetable.filter fun e => p.verdictDue chip tai e.2).map fun e => Instr.verdictSend tag (BitVec.ofNat 8 e.1)) ++
  ((p.timetable.filter fun e => e.2.failoverDue tai).map fun e => Instr.leadFailover tag (BitVec.ofNat 8 e.1)) ++
  ((p.batches.filter fun b => decide (b.due ≤ tai)).map fun b => Instr.pageRequestTimeout b.tile b.slot) ++
  ((p.logHeld.filter fun h => decide (h.2.2.2.2 ≤ tai)).map fun h => Instr.replayTimeout h.2.1 h.2.2.1 h.2.2.2.1)

/-- Everything that is due goes on the agenda. -/
def State.pushDue (s : State) : State :=
  let l := (s.parts.map fun p => p.2.dueNow (BitVec.ofNat 8 p.1) s.chipId s.time.tai).flatten
  let lost := match s.time.clock with | .holdover => decide (s.lostLim ≤ s.errE) | _ => false
  l.foldl State.event (if lost then s.event .clockLost else s)

/-- The launch processor's turn every 40 ns (R106). -/
def State.processorTurn (s : State) : State := if s.nextTurn ≤ s.time.tai then s.event .launchProcessorTurn else s

/-- The dispatcher reads the done posts of its service tiles every 500 ns (R368). -/
def State.donePosts (s : State) (before : Nat) : State :=
  if s.time.tai / 500 = before / 500 then s
  else (s.parts.filter fun p => p.2.queue.any fun q => q.handed.isSome).foldl (fun s p => s.event (.donePostScan (BitVec.ofNat 8 p.1))) s

/-! ## Once in a microsecond (R408, R412) -/

/-- A bucket refills at RATE up to BURST. -/
def refilled (b : Nat) (lim : Word) : Nat := Nat.min (bitsAt lim.toNat 32 32) (b + bitsAt lim.toNat 0 32)

/-- One sample of a level that the spec does not determine. -/
def State.level (s : State) : State × Nat := ({ s with free := s.free + 1 }, Config.freeLevel s.free)

/-- Level sources: launch and dispatcher queues, scoreboards, slices, temperature. -/
def State.sampleLevels (s : State) : State :=
  let (s1, temp) := s.level
  let (s2, slice) := s1.level
  let lq := (s.queues.toList.map (·.length)).sum
  let dq := (s.parts.map fun p => p.2.waiting).sum
  let s3 : State := { s2 with
    hubMon := s2.hubMon.map fun m => ((m.sample true 0x210 lq).sample true 0x211 dq).sample true 0x214 temp,
    parts := s2.parts.map fun p => (p.1, { p.2 with sliceMon := p.2.sliceMon.map fun m => (m.1, m.2.sample (s2.allowed p.1 0x213) 0x213 slice) }) }
  (s3.tiles.map fun p => tileOf p.1).foldl (fun s t => (s.tileSample t 0x212 (s.tile t).board.length).tileSample t 0x214 temp) s3

/-- What happens as each whole microsecond passes. -/
def State.microsecond (s : State) (before : Nat) : State :=
  if s.time.tai / 1000 = before / 1000 then s
  else State.sampleLevels { s with parts := s.parts.map fun p =>
    (p.1, { p.2 with hostBucket := refilled p.2.hostBucket p.2.hostlim, linkBucket := refilled p.2.linkBucket p.2.linklim }) }

/-! ## The tick -/

/-- The time base advances by a nominal tile cycle, 1 / 2.4 ns, and by the step that the servo adds or takes (R4, R449). -/
def State.advanceTime (s : State) : State :=
  let m := s.time
  let step := Int.sign m.owed * Nat.min m.slew m.owed.natAbs
  let f := 3 * m.frac.toNat + m.third + (81920 + step).toNat
  { s with time := { m with tai := (m.tai + f / tickNs) % 2 ^ 64, frac := BitVec.ofNat 16 (f % tickNs / 3), third := f % 3, owed := m.owed - step } }

/-- Completion stamps that wait for a translation leave once they may (R269). -/
def State.sendStamps (s : State) : State :=
  (s.parts.filter fun p => !p.2.stamps.isEmpty).foldl (fun s p => s.stampOut p.1) s

/-- Writes of tile registers take effect as a tile cycle begins (R447). -/
def State.csrCommits (s : State) : State := s.tickedTiles.foldl State.csrCommit s

/-- Invocation messages that wait at the hub die leave once they may (R374, R409). -/
def State.sendAll (s : State) : State :=
  (s.parts.filter fun p => !p.2.outbox.isEmpty).foldl (fun s p => s.sendOut p.1) s

/-- Flits at the ports that nothing holds back any more are delivered (R437, R459). -/
def State.releaseAll (s : State) : State :=
  if s.ports.all fun p => p.hold.isEmpty then s else s.parts.foldl (fun s p => s.releaseHolds p.1) s

/-- One nominal cycle passes. -/
def State.tick (s : State) (slow : List TileId) : State :=
  let s1 := s.advanceTime
  let s2 := (((((((s1.tickTiles slow).csrCommits).countStretch).microsecond s.time.tai).sendAll).sendStamps).releaseAll).expiries
  if s1.time.tai = s.time.tai then s2 else ((s2.pushDue).processorTurn).donePosts s.time.tai

end Sys2Proof.Machine
end

