-- ==== Sys2Proof/Machine/Integer.lean ====
section
/-!
DEFINITION. The integer instructions with register operands (class 0x03), with immediates and lea (class 0x04), and the
predicate instructions (class 0x05): R166 to R180. None raises a flag.
-/
namespace Sys2Proof.Machine

/-- The width that W selects (R166). -/
def wid (w : Bool) : Nat := if w then 32 else 64

/-- A source read as its low w bits (R166). -/
def srcW (w : Bool) (x : Word) : Nat := x.toNat % 2 ^ wid w

/-- A w-bit result pattern, zero-extended (R166). -/
def resW (w : Bool) (n : Nat) : Word := w64 (n % 2 ^ wid w)

/-- A signed result's pattern. -/
def resI (w : Bool) (i : Int) : Word := w64 (ubits (wid w) i)

/-- An operation on two g registers (R168 to R171). -/
def State.alu2 (s : State) (h : Hdr) (w : Bool) (d a b : G) (f : Nat → Nat → Word) : Host.Outcome State Fault Refusal :=
  s.issue h { reads := [rG a, rG b], writes := [rG d] } fun s =>
    .go (s.upd fun x => x.gw d (f (srcW w (x.gr a)) (srcW w (x.gr b))))

/-- An operation on one g register (R172). -/
def State.alu1 (s : State) (h : Hdr) (w : Bool) (d a : G) (f : Nat → Word) : Host.Outcome State Fault Refusal :=
  s.issue h { reads := [rG a], writes := [rG d] } fun s => .go (s.upd fun x => x.gw d (f (srcW w (x.gr a))))

/-- A comparison of two g registers into a predicate (R175). -/
def State.cmp2 (s : State) (h : Hdr) (w : Bool) (d : P) (a b : G) (f : Nat → Nat → Bool) : Host.Outcome State Fault Refusal :=
  s.issue h { reads := [rG a, rG b], writes := [rP d] } fun s =>
    .go (s.upd fun x => x.pw d (f (srcW w (x.gr a)) (srcW w (x.gr b))))

/-- A comparison with an immediate (R178). -/
def State.cmpImm (s : State) (h : Hdr) (d : P) (a : G) (imm : BitVec 52) (f : Nat → Nat → Bool) :
    Host.Outcome State Fault Refusal :=
  s.issue h { reads := [rG a], writes := [rP d] } fun s =>
    .go (s.upd fun x => x.pw d (f (x.gr a).toNat (imm.signExtend 64).toNat))

/-- An operation with an immediate (R176). -/
def State.aluImm (s : State) (h : Hdr) (w : Bool) (d a : G) (f : Nat → Word) : Host.Outcome State Fault Refusal :=
  s.issue h { reads := [rG a], writes := [rG d] } fun s => .go (s.upd fun x => x.gw d (f (srcW w (x.gr a))))

/-- An operation on predicates (R180). -/
def State.pred2 (s : State) (h : Hdr) (d a b : P) (f : Bool → Bool → Bool) : Host.Outcome State Fault Refusal :=
  s.issue h { reads := [rP a, rP b], writes := [rP d] } fun s => .go (s.upd fun x => x.pw d (f (x.pr a) (x.pr b)))

def State.pred1 (s : State) (h : Hdr) (d a : P) (f : Bool → Bool) : Host.Outcome State Fault Refusal :=
  s.issue h { reads := [rP a], writes := [rP d] } fun s => .go (s.upd fun x => x.pw d (f (x.pr a)))

/-! ## The results -/

def shaW (w : Bool) (a n : Nat) : Word := resI w (sval (wid w) a / ((2 ^ n : Nat) : Int))
def divW (w : Bool) (a b : Nat) : Word := if b = 0 then resW w (2 ^ wid w - 1) else resI w ((sval (wid w) a).tdiv (sval (wid w) b))
def remW (w : Bool) (a b : Nat) : Word := if b = 0 then resW w a else resI w ((sval (wid w) a).tmod (sval (wid w) b))

/-- The number of zero bits above the highest one bit (R172). -/
def clzN (w a : Nat) : Nat := if a = 0 then w else w - 1 - Nat.log2 a

/-- The number of zero bits below the lowest one bit, counting from bit `i`. -/
def ctzN : Nat → Nat → Nat
  | 0, _ => 0
  | n + 1, a => if a % 2 = 1 then 0 else 1 + ctzN n (a / 2)

/-- The number of one bits among the low n. -/
def popN : Nat → Nat → Nat
  | 0, _ => 0
  | n + 1, a => a % 2 + popN n (a / 2)

/-- The n bytes of a number in reverse order (R172). -/
def bswapN : Nat → Nat → Nat
  | 0, _ => 0
  | n + 1, a => a % 256 * 256 ^ n + bswapN n (a / 256)

/-- A clamped field (R173): position and length. -/
def clampField (w pos len : Nat) : Nat × Nat := let p := Nat.min pos w; (p, Nat.min len (w - p))

/-- `add`: g[D] := (a + b) mod 2^w (R168). -/
def execAdd (h : Hdr) (w : Bool) (d a b : G) (s : State) : Host.Outcome State Fault Refusal :=
  s.alu2 h w d a b fun a b => resW w (a + b)

/-- `sub`: g[D] := (a − b) mod 2^w (R168). -/
def execSub (h : Hdr) (w : Bool) (d a b : G) (s : State) : Host.Outcome State Fault Refusal :=
  s.alu2 h w d a b fun a b => resI w ((a : Int) - (b : Int))

/-- `mul`: g[D] := (a × b) mod 2^w (R170). -/
def execMul (h : Hdr) (w : Bool) (d a b : G) (s : State) : Host.Outcome State Fault Refusal :=
  s.alu2 h w d a b fun a b => resW w (a * b)

/-- `mulh`: g[D] := the high half of the signed product (R170). -/
def execMulh (h : Hdr) (w : Bool) (d a b : G) (s : State) : Host.Outcome State Fault Refusal :=
  s.alu2 h w d a b fun a b => resI w (sval (wid w) a * sval (wid w) b / ((2 ^ wid w : Nat) : Int))

/-- `mulhz`: g[D] := the high half of the unsigned product (R170). -/
def execMulhz (h : Hdr) (w : Bool) (d a b : G) (s : State) : Host.Outcome State Fault Refusal :=
  s.alu2 h w d a b fun a b => resW w (a * b / 2 ^ wid w)

/-- `div`: g[D] := the signed quotient (R171). -/
def execDiv (h : Hdr) (w : Bool) (d a b : G) (s : State) : Host.Outcome State Fault Refusal :=
  s.alu2 h w d a b fun a b => divW w a b

/-- `divz`: g[D] := the unsigned quotient (R171). -/
def execDivz (h : Hdr) (w : Bool) (d a b : G) (s : State) : Host.Outcome State Fault Refusal :=
  s.alu2 h w d a b fun a b => if b = 0 then resW w (2 ^ wid w - 1) else resW w (a / b)

/-- `rem`: g[D] := the signed remainder (R171). -/
def execRem (h : Hdr) (w : Bool) (d a b : G) (s : State) : Host.Outcome State Fault Refusal :=
  s.alu2 h w d a b fun a b => remW w a b

/-- `remz`: g[D] := the unsigned remainder (R171). -/
def execRemz (h : Hdr) (w : Bool) (d a b : G) (s : State) : Host.Outcome State Fault Refusal :=
  s.alu2 h w d a b fun a b => if b = 0 then resW w a else resW w (a % b)

/-- `and`: g[D] := a AND b (R168). -/
def execAnd (h : Hdr) (w : Bool) (d a b : G) (s : State) : Host.Outcome State Fault Refusal :=
  s.alu2 h w d a b fun a b => resW w (a &&& b)

/-- `or`: g[D] := a OR b (R168). -/
def execOr (h : Hdr) (w : Bool) (d a b : G) (s : State) : Host.Outcome State Fault Refusal :=
  s.alu2 h w d a b fun a b => resW w (a ||| b)

/-- `xor`: g[D] := a XOR b (R168). -/
def execXor (h : Hdr) (w : Bool) (d a b : G) (s : State) : Host.Outcome State Fault Refusal :=
  s.alu2 h w d a b fun a b => resW w (a ^^^ b)

/-- `andn`: g[D] := a AND NOT b (R168). -/
def execAndn (h : Hdr) (w : Bool) (d a b : G) (s : State) : Host.Outcome State Fault Refusal :=
  s.alu2 h w d a b fun a b => resW w (a &&& (2 ^ wid w - 1 - b))

/-- `orn`: g[D] := a OR NOT b (R168). -/
def execOrn (h : Hdr) (w : Bool) (d a b : G) (s : State) : Host.Outcome State Fault Refusal :=
  s.alu2 h w d a b fun a b => resW w (a ||| (2 ^ wid w - 1 - b))

/-- `shl`: g[D] := a shifted left by b mod w (R169). -/
def execShl (h : Hdr) (w : Bool) (d a b : G) (s : State) : Host.Outcome State Fault Refusal :=
  s.alu2 h w d a b fun a b => resW w (a * 2 ^ (b % wid w))

/-- `shr`: g[D] := a shifted right by b mod w (R169). -/
def execShr (h : Hdr) (w : Bool) (d a b : G) (s : State) : Host.Outcome State Fault Refusal :=
  s.alu2 h w d a b fun a b => resW w (a / 2 ^ (b % wid w))

/-- `sha`: g[D] := a shifted right arithmetically by b mod w (R169). -/
def execSha (h : Hdr) (w : Bool) (d a b : G) (s : State) : Host.Outcome State Fault Refusal :=
  s.alu2 h w d a b fun a b => shaW w a (b % wid w)

/-- `rot`: g[D] := a rotated left by b mod w (R169). -/
def execRot (h : Hdr) (w : Bool) (d a b : G) (s : State) : Host.Outcome State Fault Refusal :=
  s.alu2 h w d a b fun a b => resW w (a * 2 ^ (b % wid w) + a / 2 ^ (wid w - b % wid w))

/-- `min`: g[D] := the signed minimum (R168). -/
def execMin (h : Hdr) (w : Bool) (d a b : G) (s : State) : Host.Outcome State Fault Refusal :=
  s.alu2 h w d a b fun a b => if sval (wid w) a ≤ sval (wid w) b then resW w a else resW w b

/-- `max`: g[D] := the signed maximum (R168). -/
def execMax (h : Hdr) (w : Bool) (d a b : G) (s : State) : Host.Outcome State Fault Refusal :=
  s.alu2 h w d a b fun a b => if sval (wid w) a ≥ sval (wid w) b then resW w a else resW w b

/-- `minz`: g[D] := the unsigned minimum (R168). -/
def execMinz (h : Hdr) (w : Bool) (d a b : G) (s : State) : Host.Outcome State Fault Refusal :=
  s.alu2 h w d a b fun a b => if a ≤ b then resW w a else resW w b

/-- `maxz`: g[D] := the unsigned maximum (R168). -/
def execMaxz (h : Hdr) (w : Bool) (d a b : G) (s : State) : Host.Outcome State Fault Refusal :=
  s.alu2 h w d a b fun a b => if a ≥ b then resW w a else resW w b

/-- `clz`: g[D] := leading zeros (R172). -/
def execClz (h : Hdr) (w : Bool) (d a : G) (s : State) : Host.Outcome State Fault Refusal :=
  s.alu1 h w d a fun a => resW w (clzN (wid w) a)

/-- `ctz`: g[D] := trailing zeros (R172). -/
def execCtz (h : Hdr) (w : Bool) (d a : G) (s : State) : Host.Outcome State Fault Refusal :=
  s.alu1 h w d a fun a => resW w (ctzN (wid w) a)

/-- `popc`: g[D] := one bits (R172). -/
def execPopc (h : Hdr) (w : Bool) (d a : G) (s : State) : Host.Outcome State Fault Refusal :=
  s.alu1 h w d a fun a => resW w (popN (wid w) a)

/-- `bswap`: g[D] := the bytes reversed (R172). -/
def execBswap (h : Hdr) (w : Bool) (d a : G) (s : State) : Host.Outcome State Fault Refusal :=
  s.alu1 h w d a fun a => resW w (bswapN (wid w / 8) a)

/-- `bfx`: g[D] := the field of g[A] at g[B] of length g[C] (R173). -/
def execBfx (h : Hdr) (w : Bool) (d a b c : G) (s : State) : Host.Outcome State Fault Refusal :=
  s.issue h { reads := [rG a, rG b, rG c], writes := [rG d] } fun s => .go (s.upd fun x =>
    let f := clampField (wid w) (srcW w (x.gr b)) (srcW w (x.gr c))
    let t := srcW w (x.gr a) / 2 ^ f.1 % 2 ^ f.2
    x.gw d (resW w t))

/-- `bfxs`: g[D] := the same field, sign-extended (R173). -/
def execBfxs (h : Hdr) (w : Bool) (d a b c : G) (s : State) : Host.Outcome State Fault Refusal :=
  s.issue h { reads := [rG a, rG b, rG c], writes := [rG d] } fun s => .go (s.upd fun x =>
    let f := clampField (wid w) (srcW w (x.gr b)) (srcW w (x.gr c))
    let t := srcW w (x.gr a) / 2 ^ f.1 % 2 ^ f.2
    x.gw d (if f.2 = 0 then 0 else resI w (sval f.2 t)))

/-- `bfi`: the low bits of g[A] inserted into g[B] at g[C], length g[E] (R173). -/
def execBfi (h : Hdr) (w : Bool) (d a b c e : G) (s : State) : Host.Outcome State Fault Refusal :=
  s.issue h { reads := [rG a, rG b, rG c, rG e], writes := [rG d] } fun s => .go (s.upd fun x =>
    let f := clampField (wid w) (srcW w (x.gr c)) (srcW w (x.gr e))
    x.gw d (resW w (putBits (srcW w (x.gr b)) f.1 f.2 (srcW w (x.gr a)))))

/-- `sel`: g[D] := a if p[C], else b (R174). -/
def execSel (h : Hdr) (w : Bool) (d a b : G) (c : P) (s : State) : Host.Outcome State Fault Refusal :=
  s.issue h { reads := [rG a, rG b, rP c], writes := [rG d] } fun s => .go (s.upd fun x =>
    x.gw d (resW w (if x.pr c then srcW w (x.gr a) else srcW w (x.gr b))))

/-- `mad`: g[D] := (a × b + c) mod 2^w (R170). -/
def execMad (h : Hdr) (w : Bool) (d a b c : G) (s : State) : Host.Outcome State Fault Refusal :=
  s.issue h { reads := [rG a, rG b, rG c], writes := [rG d] } fun s => .go (s.upd fun x =>
    x.gw d (resW w (srcW w (x.gr a) * srcW w (x.gr b) + srcW w (x.gr c))))

/-- `cmp.eq`: p[D] := a = b (R175). -/
def execCmpEq (h : Hdr) (w : Bool) (d : P) (a b : G) (s : State) : Host.Outcome State Fault Refusal :=
  s.cmp2 h w d a b fun a b => a == b

/-- `cmp.ne`: p[D] := a ≠ b (R175). -/
def execCmpNe (h : Hdr) (w : Bool) (d : P) (a b : G) (s : State) : Host.Outcome State Fault Refusal :=
  s.cmp2 h w d a b fun a b => a != b

/-- `cmp.lt`: p[D] := sa < sb (R175). -/
def execCmpLt (h : Hdr) (w : Bool) (d : P) (a b : G) (s : State) : Host.Outcome State Fault Refusal :=
  s.cmp2 h w d a b fun a b => decide (sval (wid w) a < sval (wid w) b)

/-- `cmp.ge`: p[D] := sa ≥ sb (R175). -/
def execCmpGe (h : Hdr) (w : Bool) (d : P) (a b : G) (s : State) : Host.Outcome State Fault Refusal :=
  s.cmp2 h w d a b fun a b => decide (sval (wid w) a ≥ sval (wid w) b)

/-- `cmp.ltz`: p[D] := a < b unsigned (R175). -/
def execCmpLtz (h : Hdr) (w : Bool) (d : P) (a b : G) (s : State) : Host.Outcome State Fault Refusal :=
  s.cmp2 h w d a b fun a b => decide (a < b)

/-- `cmp.gez`: p[D] := a ≥ b unsigned (R175). -/
def execCmpGez (h : Hdr) (w : Bool) (d : P) (a b : G) (s : State) : Host.Outcome State Fault Refusal :=
  s.cmp2 h w d a b fun a b => decide (a ≥ b)

/-- `addi`: g[D] := (a + sext(IMM52)) mod 2^w (R176). -/
def execAddi (h : Hdr) (w : Bool) (d a : G) (imm : BitVec 52) (s : State) : Host.Outcome State Fault Refusal :=
  s.aluImm h w d a fun a => resW w (a + (imm.signExtend 64).toNat)

/-- `shli`: g[D] := a shifted left by n (R176). -/
def execShli (h : Hdr) (w : Bool) (d a : G) (n : BitVec 6) (s : State) : Host.Outcome State Fault Refusal :=
  s.aluImm h w d a fun a => resW w (a * 2 ^ n.toNat)

/-- `shri`: g[D] := a shifted right by n (R176). -/
def execShri (h : Hdr) (w : Bool) (d a : G) (n : BitVec 6) (s : State) : Host.Outcome State Fault Refusal :=
  s.aluImm h w d a fun a => resW w (a / 2 ^ n.toNat)

/-- `shai`: g[D] := a shifted right arithmetically by n (R176). -/
def execShai (h : Hdr) (w : Bool) (d a : G) (n : BitVec 6) (s : State) : Host.Outcome State Fault Refusal :=
  s.aluImm h w d a fun a => shaW w a n.toNat

/-- `movi`: g[D] := sext(IMM52) (R177). -/
def execMovi (h : Hdr) (d : G) (imm : BitVec 52) (s : State) : Host.Outcome State Fault Refusal :=
  s.issue h { writes := [rG d] } fun s => .go (s.upd fun x => x.gw d (imm.signExtend 64))

/-- `movhi`: g[D] := IMM52[11:0] × 2^52 + g[A][51:0] (R177). -/
def execMovhi (h : Hdr) (d a : G) (imm : BitVec 12) (s : State) : Host.Outcome State Fault Refusal :=
  s.issue h { reads := [rG a], writes := [rG d] } fun s =>
    .go (s.upd fun x => x.gw d (imm ++ (x.gr a).extractLsb' 0 52))

/-- `cmpi.eq` over all 64 bits (R178). -/
def execCmpiEq (h : Hdr) (d : P) (a : G) (imm : BitVec 52) (s : State) : Host.Outcome State Fault Refusal :=
  s.cmpImm h d a imm fun a b => a == b

/-- `cmpi.ne` over all 64 bits (R178). -/
def execCmpiNe (h : Hdr) (d : P) (a : G) (imm : BitVec 52) (s : State) : Host.Outcome State Fault Refusal :=
  s.cmpImm h d a imm fun a b => a != b

/-- `cmpi.lt` over all 64 bits (R178). -/
def execCmpiLt (h : Hdr) (d : P) (a : G) (imm : BitVec 52) (s : State) : Host.Outcome State Fault Refusal :=
  s.cmpImm h d a imm fun a b => decide (sval 64 a < sval 64 b)

/-- `cmpi.ge` over all 64 bits (R178). -/
def execCmpiGe (h : Hdr) (d : P) (a : G) (imm : BitVec 52) (s : State) : Host.Outcome State Fault Refusal :=
  s.cmpImm h d a imm fun a b => decide (sval 64 a ≥ sval 64 b)

/-- `cmpi.ltz` over all 64 bits (R178). -/
def execCmpiLtz (h : Hdr) (d : P) (a : G) (imm : BitVec 52) (s : State) : Host.Outcome State Fault Refusal :=
  s.cmpImm h d a imm fun a b => decide (a < b)

/-- `cmpi.gez` over all 64 bits (R178). -/
def execCmpiGez (h : Hdr) (d : P) (a : G) (imm : BitVec 52) (s : State) : Host.Outcome State Fault Refusal :=
  s.cmpImm h d a imm fun a b => decide (a ≥ b)

/-- `lea`: g[D] := the effective address; no memory access (R179). -/
def execLea (h : Hdr) (d : G) (m : MemRef) (s : State) : Host.Outcome State Fault Refusal :=
  s.issue h { reads := memCodes m, writes := [rG d] } fun s => .go (s.upd fun x => x.gw d (x.ea m))

/-- `pand` (R180). -/
def execPand (h : Hdr) (d a b : P) (s : State) : Host.Outcome State Fault Refusal := s.pred2 h d a b fun a b => a && b

/-- `por` (R180). -/
def execPor (h : Hdr) (d a b : P) (s : State) : Host.Outcome State Fault Refusal := s.pred2 h d a b fun a b => a || b

/-- `pxor` (R180). -/
def execPxor (h : Hdr) (d a b : P) (s : State) : Host.Outcome State Fault Refusal := s.pred2 h d a b fun a b => a != b

/-- `pnot` (R180). -/
def execPnot (h : Hdr) (d a : P) (s : State) : Host.Outcome State Fault Refusal := s.pred1 h d a fun a => !a

/-- `pmov` (R180). -/
def execPmov (h : Hdr) (d a : P) (s : State) : Host.Outcome State Fault Refusal := s.pred1 h d a fun a => a

end Sys2Proof.Machine
end

