-- ==== Sys2Proof/Machine/Scalar.lean ====
section
/-!
DEFINITION. The scalar floating-point instructions (class 0x06): R181 to R193.
-/
namespace Sys2Proof.Machine

def FTy.fmt (t : FTy) : Fmt := Fmt.of t.ty

/-- The bits of an operand of a type (R181). -/
def Slot.fbits (x : Slot) (t : FTy) (n : F) : Nat := (x.fr n).toNat % 2 ^ (FTy.fmt t).width

/-- Whether a subnormal operand or result engages the normaliser (R149). -/
def subAny (f : Fmt) (l : List Nat) : Bool := l.any f.isSub

/-- An operation with a floating-point result on f registers of one type (R183). -/
def State.fop (s : State) (h : Hdr) (t : FTy) (tok : Nat) (d : F) (src : List F) (f : Slot → List Nat → FR) :
    Host.Outcome State Fault Refusal :=
  s.issue h { reads := src.map rF, writes := [rF d], tokens := tok } fun s =>
    let x := s.me
    let ops := src.map (x.fbits t)
    let r := f x ops
    s.fpEnd r.fl (subAny (FTy.fmt t) (r.bits :: ops)) fun s => s.upd fun x => x.fw d (w64 r.bits)

/-- The values of two or three operands. -/
def fv1 (f : Fmt) (l : List Nat) : FV := FV.decode f (l.getD 0 0)
def fv2 (f : Fmt) (l : List Nat) : FV := FV.decode f (l.getD 1 0)
def fv3 (f : Fmt) (l : List Nat) : FV := FV.decode f (l.getD 2 0)

/-- `fadd`: A + B (R184). -/
def execFadd (h : Hdr) (t : FTy) (rm : Rm) (d a b : F) (s : State) : Host.Outcome State Fault Refusal :=
  s.fop h t 0 d [a, b] fun x l => fpAdd (FTy.fmt t) (x.rmMode rm) (fv1 (FTy.fmt t) l) (fv2 (FTy.fmt t) l)

/-- `fsub`: A − B (R184). -/
def execFsub (h : Hdr) (t : FTy) (rm : Rm) (d a b : F) (s : State) : Host.Outcome State Fault Refusal :=
  s.fop h t 0 d [a, b] fun x l => fpAdd (FTy.fmt t) (x.rmMode rm) (fv1 (FTy.fmt t) l) (fv2 (FTy.fmt t) l).flip

/-- `fmul`: A × B (R184). -/
def execFmul (h : Hdr) (t : FTy) (rm : Rm) (d a b : F) (s : State) : Host.Outcome State Fault Refusal :=
  s.fop h t 0 d [a, b] fun x l => fpMul (FTy.fmt t) (x.rmMode rm) (fv1 (FTy.fmt t) l) (fv2 (FTy.fmt t) l)

/-- `fdiv`: A / B (R186), one token. -/
def execFdiv (h : Hdr) (t : FTy) (rm : Rm) (d a b : F) (s : State) : Host.Outcome State Fault Refusal :=
  s.fop h t 1 d [a, b] fun x l => fpDiv (FTy.fmt t) (x.rmMode rm) (fv1 (FTy.fmt t) l) (fv2 (FTy.fmt t) l)

/-- `ffma`: A × B + C, rounded once (R185). -/
def execFfma (h : Hdr) (t : FTy) (rm : Rm) (d a b c : F) (s : State) : Host.Outcome State Fault Refusal :=
  s.fop h t 0 d [a, b, c] fun x l => fpFma (FTy.fmt t) (x.rmMode rm) false (fv1 (FTy.fmt t) l) (fv2 (FTy.fmt t) l) (fv3 (FTy.fmt t) l)

/-- `ffms`: A × B − C, rounded once (R185). -/
def execFfms (h : Hdr) (t : FTy) (rm : Rm) (d a b c : F) (s : State) : Host.Outcome State Fault Refusal :=
  s.fop h t 0 d [a, b, c] fun x l => fpFma (FTy.fmt t) (x.rmMode rm) false (fv1 (FTy.fmt t) l) (fv2 (FTy.fmt t) l) (fv3 (FTy.fmt t) l).flip

/-- `fnma`: −(A × B) + C, rounded once (R185). -/
def execFnma (h : Hdr) (t : FTy) (rm : Rm) (d a b c : F) (s : State) : Host.Outcome State Fault Refusal :=
  s.fop h t 0 d [a, b, c] fun x l => fpFma (FTy.fmt t) (x.rmMode rm) true (fv1 (FTy.fmt t) l) (fv2 (FTy.fmt t) l) (fv3 (FTy.fmt t) l)

/-- `fsqrt` (R187), one token. -/
def execFsqrt (h : Hdr) (t : FTy) (rm : Rm) (d a : F) (s : State) : Host.Outcome State Fault Refusal :=
  s.fop h t 1 d [a] fun x l => fpSqrt (FTy.fmt t) (x.rmMode rm) (fv1 (FTy.fmt t) l)

/-- `fmin` (R188). -/
def execFmin (h : Hdr) (t : FTy) (d a b : F) (s : State) : Host.Outcome State Fault Refusal :=
  s.fop h t 0 d [a, b] fun _ l => fpMinMax (FTy.fmt t) false (l.getD 0 0) (l.getD 1 0)

/-- `fmax` (R188). -/
def execFmax (h : Hdr) (t : FTy) (d a b : F) (s : State) : Host.Outcome State Fault Refusal :=
  s.fop h t 0 d [a, b] fun _ l => fpMinMax (FTy.fmt t) true (l.getD 0 0) (l.getD 1 0)

/-- The magnitude bits of an encoding. -/
def magBits (f : Fmt) (x : Nat) : Nat := x % 2 ^ (f.e + f.m)

/-- `fabs`: sign cleared (R189). -/
def execFabs (h : Hdr) (t : FTy) (d a : F) (s : State) : Host.Outcome State Fault Refusal :=
  s.fop h t 0 d [a] fun _ l => ⟨magBits (FTy.fmt t) (l.getD 0 0), 0⟩

/-- `fneg`: sign inverted (R189). -/
def execFneg (h : Hdr) (t : FTy) (d a : F) (s : State) : Host.Outcome State Fault Refusal :=
  s.fop h t 0 d [a] fun _ l => ⟨magBits (FTy.fmt t) (l.getD 0 0) + (FTy.fmt t).signBit (!bitAt (l.getD 0 0) ((FTy.fmt t).e + (FTy.fmt t).m)), 0⟩

/-- `fsgn`: magnitude of A, sign of B (R189). -/
def execFsgn (h : Hdr) (t : FTy) (d a b : F) (s : State) : Host.Outcome State Fault Refusal :=
  s.fop h t 0 d [a, b] fun _ l => ⟨magBits (FTy.fmt t) (l.getD 0 0) + (FTy.fmt t).signBit (bitAt (l.getD 1 0) ((FTy.fmt t).e + (FTy.fmt t).m)), 0⟩

/-- `fcmp`: p[D] := the comparison in type TS (R190). -/
def execFcmp (h : Hdr) (t : FTy) (cnd : Cnd) (d : P) (a b : F) (s : State) : Host.Outcome State Fault Refusal :=
  s.issue h { reads := [rF a, rF b], writes := [rP d] } fun s =>
    let x := s.me
    let r := fpCmp (FTy.fmt t) cnd (x.fbits t a) (x.fbits t b)
    s.fpEnd r.2 (subAny (FTy.fmt t) [x.fbits t a, x.fbits t b]) fun s => s.upd fun x => x.pw d r.1

/-- `fclass`: g[D] := class and sign of A (R191); it reads a subnormal operand through the normaliser (R149). -/
def execFclass (h : Hdr) (t : FTy) (d : G) (a : F) (s : State) : Host.Outcome State Fault Refusal :=
  s.issue h { reads := [rF a], writes := [rG d] } fun s =>
    let b := s.me.fbits t a
    s.fpEnd 0 (subAny (FTy.fmt t) [b]) fun s => s.upd fun x => x.gw d (w64 (fpClass (FTy.fmt t) b))

/-- `fcvt` between floating-point types (R192, R151, R152). -/
def execFcvt (h : Hdr) (td ts : FTy) (rm : Rm) (d a : F) (s : State) : Host.Outcome State Fault Refusal :=
  s.issue h { reads := [rF a], writes := [rF d] } fun s =>
    let b := s.me.fbits ts a
    let r := cvtFF (FTy.fmt ts) (FTy.fmt td) (s.me.rmMode rm) b
    s.fpEnd r.fl (subAny (FTy.fmt ts) [b] || subAny (FTy.fmt td) [r.bits]) fun s => s.upd fun x => x.fw d (w64 r.bits)

/-- `fcvti`: to an integer; s32 is sign-extended, z32 zero-extended (R192, R153, R181). -/
def execFcvti (h : Hdr) (td : Ty) (ts : FTy) (rm : Rm) (d : G) (a : F) (s : State) : Host.Outcome State Fault Refusal :=
  s.issue h { reads := [rF a], writes := [rG d] } fun s =>
    let b := s.me.fbits ts a
    let r := cvtFI (FTy.fmt ts) td (s.me.rmMode rm) b
    s.fpEnd r.fl (subAny (FTy.fmt ts) [b]) fun s => s.upd fun x => x.gw d (w64 (ubits 64 (tyVal td r.bits)))

/-- `icvtf`: from an integer (R192, R154). -/
def execIcvtf (h : Hdr) (td : FTy) (ts : Ty) (rm : Rm) (d : F) (a : G) (s : State) : Host.Outcome State Fault Refusal :=
  s.issue h { reads := [rG a], writes := [rF d] } fun s =>
    let r := cvtIF (FTy.fmt td) (s.me.rmMode rm) (tyVal ts (s.me.gr a).toNat)
    s.fpEnd r.fl (subAny (FTy.fmt td) [r.bits]) fun s => s.upd fun x => x.fw d (w64 r.bits)

/-- `fmov`: 64 bits copied between g and f registers (R193). -/
def execFmov (h : Hdr) (d a : GF) (s : State) : Host.Outcome State Fault Refusal :=
  s.issue h { reads := [rGF a], writes := [rGF d] } fun s => .go (s.upd fun x => x.gfw d (x.gfr a))

end Sys2Proof.Machine
end

