-- ==== Sys2Proof/Machine/Special.lean ====
section
/-!
DEFINITION. The special functions of R220 and R221. The exact value is enclosed by fixed-point evaluation to hundreds of
bits below the format and stands in as a dyadic number with a sticky bit; f16 and bf16 round it to nearest even; for f32
and f64 the delivered value is a free choice among the values R220 allows (Config.specialChoice, log 3).
-/
namespace Sys2Proof.Machine

/-- The functions of R220. -/
inductive Fn where
  | rcp | rsq | exp2 | log2 | sin | cos | tanh
  deriving DecidableEq, Repr

def Fn.code : Fn → Nat
  | .rcp => 0 | .rsq => 1 | .exp2 => 2 | .log2 => 3 | .sin => 4 | .cos => 5 | .tanh => 6

/-- Bits of fixed-point fraction of the evaluation. -/
def fxP : Nat := 512

/-- arctan(1/k) at `p` fraction bits, summed from term i. -/
def atanInv (p k : Nat) : Nat → Nat → Int
  | 0, _ => 0
  | n + 1, i =>
    let t : Int := ((2 ^ p / (k ^ (2 * i + 1) * (2 * i + 1)) : Nat) : Int)
    (if i % 2 = 0 then t else -t) + atanInv p k n (i + 1)

/-- π/2 at `p` fraction bits (Machin). -/
def halfPi (p : Nat) : Nat := ((16 * atanInv p 5 (p / 4) 0 - 4 * atanInv p 239 (p / 15 + 2) 0) / 2).toNat

/-- ln 2 at `p` fraction bits. -/
def lnTwo (p : Nat) : Nat → Nat
  | 0 => 0
  | k + 1 => 2 ^ p / ((k + 1) * 2 ^ (k + 1)) + lnTwo p k

/-- Σ of a series whose term i + 1 is term i × x² / ((2i + a)(2i + a + 1)), with alternating sign, at fxP bits. -/
def trigSum (x2 a : Nat) : Nat → Nat → Nat → Int
  | 0, _, _ => 0
  | n + 1, i, t =>
    (if i % 2 = 0 then (t : Int) else -(t : Int)) + trigSum x2 a n (i + 1) (t * x2 / 2 ^ fxP / ((2 * i + a) * (2 * i + a + 1)))

/-- sin and cos of a reduced argument in [0, π/2). -/
def sinFix (r : Nat) : Int := trigSum (r * r / 2 ^ fxP) 2 100 0 r
def cosFix (r : Nat) : Int := trigSum (r * r / 2 ^ fxP) 1 100 0 (2 ^ fxP)

/-- e^r of r in [0, 1), from term i. -/
def expSum (r : Nat) : Nat → Nat → Nat → Nat
  | 0, _, _ => 0
  | n + 1, i, t => t + expSum r n (i + 1) (t * r / 2 ^ fxP / (i + 1))

/-- 2^(f / 2^fxP) for f below 2^fxP. -/
def pow2Fix (f : Nat) : Nat := expSum (f * lnTwo (fxP + 32) (fxP + 32) / 2 ^ (fxP + 32)) 130 0 (2 ^ fxP)

/-- 2 × artanh z = ln((1 + z) / (1 − z)), summed from term i, t being z^(2i + 1). -/
def artSum (z2 : Nat) : Nat → Nat → Nat → Nat
  | 0, _, _ => 0
  | n + 1, i, t => 2 * t / (2 * i + 1) + artSum z2 n (i + 1) (t * z2 / 2 ^ fxP)

/-- log2 of m / 2^k in [1, 2). -/
def logFix (m k : Nat) : Nat :=
  let z := (m - 2 ^ k) * 2 ^ fxP / (m + 2 ^ k)
  artSum (z * z / 2 ^ fxP) 180 0 z * 2 ^ fxP / lnTwo fxP fxP

/-- A positive number strictly inside (v − 2^48, v) × 2^e: a stand-in for an irrational value that is close to v × 2^e. -/
def sticky (v : Nat) (e : Int) : Nat × Int := (2 * (v - 2 ^ 32) + 1, e - 1)

/-- x of a value s × 2^e at fxP fraction bits, rounded down. -/
def toFix (s : Nat) (e : Int) : Nat := (scaleDiv s 1 (e + (fxP : Int))).1

/-- The reduction of an angle: the quadrant, and the rest at fxP bits. -/
def reduceAngle (s : Nat) (e : Int) : Nat × Nat :=
  let q : Nat := 1900
  let h := halfPi q
  let x := (scaleDiv s 1 (e + (q : Int))).1
  (x / h, x % h / 2 ^ (q - fxP))

/-- Below this exponent an argument is so small that the first term decides every rounding. -/
def tinyArg (s : Nat) (e : Int) : Bool := (Nat.log2 s : Int) + e < -110

/-- A stand-in for the exact value at a finite nonzero argument that is no exact case: its sign, and its magnitude. -/
def Fn.value (fn : Fn) (neg : Bool) (s : Nat) (e : Int) : Bool × Nat × Int :=
  let one : Nat := 2 ^ 400
  match fn with
  | .rcp => let k := Nat.log2 s + 300; (neg, 2 * (2 ^ k / s) + 1, -(k : Int) - 1 - e)
  | .rsq =>
    let odd := e % 2 != 0
    let m := if odd then 2 * s else s
    let e' := if odd then e - 1 else e
    let k := Nat.log2 m + 600
    (false, 2 * isqrt (2 ^ (2 * k) / m) + 1, -(k : Int) - 1 - e' / 2)
  | .exp2 =>
    if tinyArg s e then (false, if neg then one - 1 else one + 1, -400)
    else
      let i := (scaleDiv s 1 e).1
      if i ≥ 4096 then (false, 1, if neg then -5000 else 5000)
      else
        let x := toFix s e
        let f := x % 2 ^ fxP
        if neg then (let m := sticky (pow2Fix (2 ^ fxP - f)) (-(fxP : Int) - (i : Int) - 1); (false, m.1, m.2))
        else (let m := sticky (pow2Fix f) (-(fxP : Int) + (i : Int)); (false, m.1, m.2))
  | .log2 =>
    let k := Nat.log2 s
    let v : Int := ((k : Int) + e) * (2 ^ fxP : Nat) + (logFix s k : Nat)
    let m := sticky v.natAbs (-(fxP : Int))
    (v < 0, m.1, m.2)
  | .sin =>
    if tinyArg s e then (neg, s * one - 1, e - 400)
    else
      let (q, r) := reduceAngle s e
      let v := if q % 2 = 0 then sinFix r else cosFix r
      let m := sticky v.natAbs (-(fxP : Int))
      (neg != (q % 4 ≥ 2), m.1, m.2)
  | .cos =>
    if tinyArg s e then (false, one - 1, -400)
    else
      let (q, r) := reduceAngle s e
      let v := if q % 2 = 0 then cosFix r else sinFix r
      let m := sticky v.natAbs (-(fxP : Int))
      (q % 4 == 1 || q % 4 == 2, m.1, m.2)
  | .tanh =>
    if tinyArg s e then (neg, s * one - 1, e - 400)
    else if (scaleDiv s 1 e).1 ≥ 64 then (neg, one - 1, -400)
    else
      -- (E − 1) / (E + 1) with E = e^(2x) = 2^(2x / ln 2)
      let y := 2 * toFix s e * 2 ^ fxP / lnTwo fxP fxP
      let E := pow2Fix (y % 2 ^ fxP) * 2 ^ (y / 2 ^ fxP)
      let m := sticky ((E - 2 ^ fxP) * 2 ^ fxP / (E + 2 ^ fxP)) (-(fxP : Int))
      (neg, m.1, m.2)

/-- Whether a finite magnitude encoding lies within `k` units of the last place of m × 2^e (R220). -/
def withinUlp (f : Fmt) (k : Nat) (m : Nat) (e : Int) (v : Nat) : Bool :=
  match FV.decode f v with
  | .num _ s x =>
    let b := (Nat.log2 m : Int) + e
    let u := max (b - (f.m : Int)) (1 - (f.bias : Int) - (f.m : Int))
    let d := dyAdd ((s : Int), x) (-(m : Int), e)
    (dyAdd ((d.1.natAbs : Int), d.2) (-(k : Int), u)).1 < 0
  | _ => false

/-- The number of ulps R220 allows: none means to nearest even. -/
def Fn.ulps (fn : Fn) (t : FTy) : Nat :=
  match t, fn with
  | .f16, _ => 0
  | .bf16, _ => 0
  | _, .rcp => 1
  | _, .rsq => 1
  | .f32, .exp2 => 1
  | .f32, .log2 => 1
  | _, _ => 2

/-- The allowed magnitudes near the stand-in: the two that bracket it (faithful, `k` = 1) or those within the bound;
finite, and of sin, cos and tanh at most 1. -/
def Fn.allowed (fn : Fn) (f : Fmt) (k m : Nat) (e : Int) : List Nat :=
  let n0 := (f.round .rtz false m 1 e).bits
  (if k = 1 then [n0, n0 + 1] else natsFrom (n0 - 4) 10).filter fun v =>
    v ≤ f.maxFinite && (k == 1 || withinUlp f k m e v) &&
      (match fn with | .sin | .cos | .tanh => decide (v ≤ f.bias * 2 ^ f.m) | _ => true)

/-- The delivered result at a finite nonzero argument that is no exact case (R220). -/
def Fn.inexact (fn : Fn) (t : FTy) (x : Nat) (neg : Bool) (s : Nat) (e : Int) : FR :=
  let f := Fmt.of t.ty
  let (n, m, q) := fn.value neg s e
  let r := f.round .rne n m 1 q
  if r.fl / 4 % 2 = 1 ∨ fn.ulps t = 0 then r
  else
    let c := fn.allowed f (fn.ulps t) m q
    let odd := match fn with | .sin | .cos | .tanh => x % 2 ^ (f.e + f.m) | _ => x
    ⟨f.signBit n + c.getD (Config.specialChoice fn.code f.width odd % c.length) (r.bits % 2 ^ (f.e + f.m)), r.fl⟩

/-- A magnitude's power of two, if it is one. -/
def powOf (s : Nat) (e : Int) : Option Int := if s = 2 ^ Nat.log2 s then some ((Nat.log2 s : Int) + e) else none

/-- Whether a rounding of an exact value is exact. -/
def exactIn (f : Fmt) (n : Bool) (m : Nat) (e : Int) : Option FR :=
  let r := f.round .rne n m 1 e
  if r.fl = 0 then some r else none

/-- A special function of an encoding (R220, R221). -/
def Fn.apply (fn : Fn) (t : FTy) (x : Nat) : FR :=
  let f := Fmt.of t.ty
  match FV.decode f x with
  | .nan _ sg => FR.nan f (nvIf sg)
  | .inf n => match fn with
    | .rcp => FR.zero f n
    | .rsq => if n then FR.nan f flNV else FR.zero f false
    | .exp2 => if n then FR.zero f false else FR.inf f false
    | .log2 => if n then FR.nan f flNV else FR.inf f false
    | .sin => FR.nan f flNV
    | .cos => FR.nan f flNV
    | .tanh => f.round .rne n 1 1 0
  | .num n s e =>
    if s = 0 then
      match fn with
      | .rcp => { FR.inf f n with fl := flDZ }
      | .rsq => { FR.inf f n with fl := flDZ }
      | .exp2 => f.round .rne false 1 1 0
      | .log2 => { FR.inf f true with fl := flDZ }
      | .sin => FR.zero f n
      | .cos => f.round .rne false 1 1 0
      | .tanh => FR.zero f n
    else
      let exact : Option FR := match fn with
        | .rcp => (match powOf s e with | some k => exactIn f n 1 (-k) | none => none)
        | .rsq => (match powOf s e with | some k => if k % 2 = 0 ∧ n = false then exactIn f false 1 (-(k / 2)) else none | none => none)
        | .exp2 =>
          let i := scaleDiv s 1 e
          if i.2.1 = 0 ∧ i.1 < 4096 then exactIn f false 1 (if n then -(i.1 : Int) else i.1) else none
        | .log2 => (match powOf s e with
          | some k => if n then none else some (f.roundInt .rne false k 0)
          | none => none)
        | _ => none
      match exact with
      | some r => r
      | none =>
        if n ∧ (fn = .rsq ∨ fn = .log2) then FR.nan f flNV
        else match fn with
          | .rcp => (match powOf s e with
            | some k => f.round .rne n 1 1 (-k)
            | none => fn.inexact t x n s e)
          | .exp2 => (let i := scaleDiv s 1 e
            if i.2.1 = 0 ∧ i.1 < 4096 ∧ (n = false ∨ fn.ulps t = 0) then f.round .rne false 1 1 (if n then -(i.1 : Int) else i.1)
            else fn.inexact t x n s e)
          | _ => fn.inexact t x n s e

end Sys2Proof.Machine
end

