-- ==== Sys2Proof/Machine/Vector.lean ====
section
/-!
DEFINITION. The vector instructions (class 0x07): R194 to R196, R200 to R204, R211 to R221.
-/
namespace Sys2Proof.Machine

/-! ## Lanes (R194 to R196) -/

/-- The number of lanes of w bits. -/
def lanesOf (w : Nat) : Nat := 1024 / w

def laneAt (w x i : Nat) : Nat := bitsAt x (i * w) w

/-- Whether lane i of width w is active under the mask fields. -/
def Slot.lit (x : Slot) (m : VMask) (w i : Nat) : Bool := !m.me || bitAt (x.kr m.km).toNat (if w = 8 then i / 2 else i)

def VMask.off : VMask := ⟨false, 0, false⟩

/-- The masks an instruction reads. -/
def maskCodes (m : VMask) : List Nat := if m.me then [rK m.km] else []

/-- Whether inactive lanes keep what they held (R196). -/
def maskMerges (m : VMask) : Bool := m.me && !m.mz

/-- What a vector instruction computes: lanes from lane 0 upward, none where a lane keeps what it held; a value for a
destination that is no v register; flags; whether the normaliser is engaged. -/
structure VOut where
  lanes : List (Option Nat) := []
  val : Nat := 0
  fl : Nat := 0
  sub : Bool := false

/-- Lanes written over old contents; bits above the last lane are written as zero (R194). -/
def mergeLanes (w old : Nat) : List (Option Nat) → Nat → Nat
  | [], _ => 0
  | o :: l, i => (match o with | some v => v % 2 ^ w | none => laneAt w old i) * 2 ^ (w * i) + mergeLanes w old l (i + 1)

/-- Whether a value of a type in F is subnormal (R149). -/
def subTy (t : Ty) (x : Nat) : Bool := t.isF && (Fmt.of t).isSub x

/-- One lane function on every active lane (R196, R212). -/
def Slot.lanewise (x : Slot) (m : VMask) (t : Ty) (src : List Nat) (f : Nat → List Nat → FR) : VOut :=
  (natsFrom 0 (lanesOf t.width)).foldr (fun i o =>
    if x.lit m t.width i then
      let l := src.map fun v => laneAt t.width v i
      let r := f i l
      { o with lanes := some r.bits :: o.lanes, fl := o.fl ||| r.fl, sub := o.sub || (r.bits :: l).any (subTy t) }
    else { o with lanes := (if m.mz then some 0 else none) :: o.lanes }) {}

/-! ## Reading and writing through streams (R200 to R204) -/

/-- Where a result goes: lanes of a v register, a mask, or a g or f register. -/
inductive VDst where
  | v (d : V) (w : Nat)
  | k (d : K)
  | gf (d : GF)

def VDst.code : VDst → Nat
  | .v d _ => rV d
  | .k d => rK d
  | .gf d => rGF d

/-- The element a v register's next pop reads, if a pop reads one. -/
def Slot.popAt (x : Slot) (v : V) : Option Nat :=
  match x.streamOf v with
  | some b => if b.rcur < b.total then some (b.addr b.rcur) else none
  | none => none

def Slot.pushAt (x : Slot) (v : V) : Option Nat :=
  match x.streamOf v with
  | some b => if b.wcur < b.total then some (b.addr b.wcur) else none
  | none => none

/-- A source operand: the register, or through its stream the element, or zero beyond the end. -/
def State.vread (s : State) (v : V) : Nat :=
  match s.me.streamOf v with
  | none => (s.me.vr v).toNat
  | some _ => match s.me.popAt v with
    | some a => s.myTile.storeRead a 128
    | none => 0

def Slot.doPop (x : Slot) (v : V) : Slot :=
  match x.streamOf v with
  | some b => x.setBinding v.toNat (some b.pop)
  | none => x

/-- The poisoned chunks of an element become zero without their mark (R424). -/
def Tile.cleanElem (t : Tile) (a : Nat) : Tile :=
  ([a, a + 64].filter fun c => t.storeBad c 64).foldl (fun t c => t.storeWrite c 0 64) t

/-- A push of lanes over an element (R200): a chunk of which every lane is written loses its poison. -/
def Tile.pushElem (t : Tile) (a w : Nat) (l : List (Option Nat)) : Tile :=
  let t1 := t.storeBytes a (mergeLanes w (t.storeRead a 128) l 0) 128
  let full (lo hi : Nat) : Bool := (l.zipIdx.all fun o => o.1.isSome || !(overlap (o.2 * w) w lo (hi - lo)))
  let gone := (if full 0 512 then chunksOf a 64 else []) ++ (if full 512 1024 then chunksOf (a + 64) 64 else [])
  { t1 with badChunks := t1.badChunks.filter fun c => !gone.contains c }

/-- Writes a vector instruction's result. An unbound D counts as written also where every lane keeps its value, so that an
outstanding long result to it is discarded (R88, R216; log 70). -/
def State.vwrite (s : State) (d : VDst) (o : VOut) : State :=
  match d with
  | .k d => s.upd fun x => x.kw d (w64 o.val)
  | .gf d => s.upd fun x => x.gfw d (w64 o.val)
  | .v d w => match s.me.streamOf d with
    | none => s.upd fun x => x.vw d (BitVec.ofNat 1024 (mergeLanes w (x.vr d).toNat o.lanes 0))
    | some b =>
      let s1 := match s.me.pushAt d with
        | some a => s.updTile fun t => t.pushElem a w o.lanes
        | none => s
      s1.upd fun x => x.setBinding d.toNat (some b.push)

/-- The registers that an instruction pops: each bound one once. -/
def Slot.pops (x : Slot) (src : List V) : List V := (src.filter fun v => (x.streamOf v).isSome).eraseDups

/-- A vector instruction: the checks of its streams (R205, R328, R430), its operands, its flags, then its pops and its
result (R200, R202, R212). `other` are the operand codes of its other sources. A poisoned element that is popped traps, or under
ignore reads as zero and is cleaned (R424, R429). -/
def State.vop (s : State) (h : Hdr) (tok : Nat) (other : List Nat) (src : List V) (d : VDst)
    (f : State → Slot → List Nat → VOut) (after : State → State) (merge : Bool := false) : Host.Outcome State Fault Refusal :=
  s.issue h { reads := src.map rV ++ other, writes := [d.code], tokens := tok, streams := true, merge } fun s =>
    let x := s.me
    let ps := x.pops src
    let rd := ps.filterMap x.popAt
    let bound := match d with | .v d _ => (x.streamOf d).isSome | _ => false
    let wr := match d with | .v d _ => (x.pushAt d).toList | _ => []
    if (bound || !ps.isEmpty) && x.ra.isSome then .wait .confirm
    else if !(rd.isEmpty && wr.isEmpty) && x.acquiring then .wait .acquire
    else if rd.any (fun a => s.myTile.streamHeld a 128 false) || wr.any (fun a => s.myTile.streamHeld a 128 true) then .wait (.element rd wr)
    else
      let bad := ps.filter fun v => match x.popAt v with | some a => s.myTile.storeBad a 128 | none => false
      match (if x.waive = some cSoft then none else bad.head?) with
      | some v => .trap cSoft 1 (w64 (rV v))
      | none =>
        let o := f s x (src.map fun v => if bad.contains v then 0 else s.vread v)
        s.fpEnd o.fl o.sub fun s =>
          let s1 := if bad.isEmpty then s else s.updTile fun t => (bad.filterMap x.popAt).foldl Tile.cleanElem t
          after ((s1.upd fun x => ps.foldl Slot.doPop x).vwrite d o)

/-! ## Lanewise arithmetic and logic (R213) -/

/-- An integer lane's result modulo 2^w. -/
def intRes (t : Ty) (i : Int) : FR := ⟨ubits t.width i, 0⟩

def arg1 (l : List Nat) : Nat := l.getD 0 0
def arg2 (l : List Nat) : Nat := l.getD 1 0
def arg3 (l : List Nat) : Nat := l.getD 2 0

/-- The token of an f64 operation (R117, R212). -/
def tok64 (t : Ty) : Nat := if t = .f64 then 1 else 0

/-- A lane of vadd, vsub, vmul, vfma or vfms: exact on integers, or the floating-point function. -/
def lane (t : Ty) (i : List Nat → Int) (f : Fmt → List Nat → FR) (l : List Nat) : FR :=
  if t.isF then f (Fmt.of t) l else intRes t (i l)

/-- `vadd` (R213, R184). -/
def execVadd (h : Hdr) (t : Ty) (rm : Rm) (m : VMask) (d a b : V) (s : State) : Host.Outcome State Fault Refusal :=
  s.vop h (tok64 t) (maskCodes m) (merge := maskMerges m) [a, b] (.v d t.width) (fun _ x v => x.lanewise m t v fun _ l =>
    lane t (fun l => (arg1 l : Int) + arg2 l)
      (fun f l => fpAdd f (x.rmMode rm) (FV.decode f (arg1 l)) (FV.decode f (arg2 l))) l) id

/-- `vsub` (R213, R184). -/
def execVsub (h : Hdr) (t : Ty) (rm : Rm) (m : VMask) (d a b : V) (s : State) : Host.Outcome State Fault Refusal :=
  s.vop h (tok64 t) (maskCodes m) (merge := maskMerges m) [a, b] (.v d t.width) (fun _ x v => x.lanewise m t v fun _ l =>
    lane t (fun l => (arg1 l : Int) - arg2 l)
      (fun f l => fpAdd f (x.rmMode rm) (FV.decode f (arg1 l)) (FV.decode f (arg2 l)).flip) l) id

/-- `vmul` (R213, R184). -/
def execVmul (h : Hdr) (t : Ty) (rm : Rm) (m : VMask) (d a b : V) (s : State) : Host.Outcome State Fault Refusal :=
  s.vop h (tok64 t) (maskCodes m) (merge := maskMerges m) [a, b] (.v d t.width) (fun _ x v => x.lanewise m t v fun _ l =>
    lane t (fun l => (arg1 l : Int) * arg2 l)
      (fun f l => fpMul f (x.rmMode rm) (FV.decode f (arg1 l)) (FV.decode f (arg2 l))) l) id

/-- `vfma` (R213, R185). -/
def execVfma (h : Hdr) (t : Ty) (rm : Rm) (m : VMask) (d a b c : V) (s : State) : Host.Outcome State Fault Refusal :=
  s.vop h (tok64 t) (maskCodes m) (merge := maskMerges m) [a, b, c] (.v d t.width) (fun _ x v => x.lanewise m t v fun _ l =>
    lane t (fun l => (arg1 l : Int) * arg2 l + arg3 l)
      (fun f l => fpFma f (x.rmMode rm) false (FV.decode f (arg1 l)) (FV.decode f (arg2 l)) (FV.decode f (arg3 l))) l) id

/-- `vfms` (R213, R185). -/
def execVfms (h : Hdr) (t : Ty) (rm : Rm) (m : VMask) (d a b c : V) (s : State) : Host.Outcome State Fault Refusal :=
  s.vop h (tok64 t) (maskCodes m) (merge := maskMerges m) [a, b, c] (.v d t.width) (fun _ x v => x.lanewise m t v fun _ l =>
    lane t (fun l => (arg1 l : Int) * arg2 l - arg3 l)
      (fun f l => fpFma f (x.rmMode rm) false (FV.decode f (arg1 l)) (FV.decode f (arg2 l)) (FV.decode f (arg3 l)).flip) l) id

/-- The smaller or larger of two lanes (R213, R188). -/
def laneMinMax (t : Ty) (isMax : Bool) (a b : Nat) : FR :=
  if t.isF then fpMinMax (Fmt.of t) isMax a b
  else ⟨if (decide (tyVal t a ≤ tyVal t b)) != isMax then a else b, 0⟩

/-- `vmin` (R213, R188). -/
def execVmin (h : Hdr) (t : Ty) (m : VMask) (d a b : V) (s : State) : Host.Outcome State Fault Refusal :=
  s.vop h 0 (maskCodes m) (merge := maskMerges m) [a, b] (.v d t.width)
    (fun _ x v => x.lanewise m t v fun _ l => laneMinMax t false (arg1 l) (arg2 l)) id

/-- `vmax` (R213, R188). -/
def execVmax (h : Hdr) (t : Ty) (m : VMask) (d a b : V) (s : State) : Host.Outcome State Fault Refusal :=
  s.vop h 0 (maskCodes m) (merge := maskMerges m) [a, b] (.v d t.width)
    (fun _ x v => x.lanewise m t v fun _ l => laneMinMax t true (arg1 l) (arg2 l)) id

/-- `vabs` (R213, R189). -/
def execVabs (h : Hdr) (t : Ty) (m : VMask) (d a : V) (s : State) : Host.Outcome State Fault Refusal :=
  s.vop h 0 (maskCodes m) (merge := maskMerges m) [a] (.v d t.width) (fun _ x v => x.lanewise m t v fun _ l =>
    if t.isF then ⟨arg1 l % 2 ^ (t.width - 1), 0⟩ else intRes t ((tyVal t (arg1 l)).natAbs : Int)) id

/-- `vneg` (R213, R189). -/
def execVneg (h : Hdr) (t : Ty) (m : VMask) (d a : V) (s : State) : Host.Outcome State Fault Refusal :=
  s.vop h 0 (maskCodes m) (merge := maskMerges m) [a] (.v d t.width) (fun _ x v => x.lanewise m t v fun _ l =>
    if t.isF then ⟨(arg1 l + 2 ^ (t.width - 1)) % 2 ^ t.width, 0⟩ else intRes t (-(arg1 l : Int))) id

/-- `vand` (R213). -/
def execVand (h : Hdr) (t : Ty) (m : VMask) (d a b : V) (s : State) : Host.Outcome State Fault Refusal :=
  s.vop h 0 (maskCodes m) (merge := maskMerges m) [a, b] (.v d t.width) (fun _ x v => x.lanewise m t v fun _ l => ⟨arg1 l &&& arg2 l, 0⟩) id

/-- `vor` (R213). -/
def execVor (h : Hdr) (t : Ty) (m : VMask) (d a b : V) (s : State) : Host.Outcome State Fault Refusal :=
  s.vop h 0 (maskCodes m) (merge := maskMerges m) [a, b] (.v d t.width) (fun _ x v => x.lanewise m t v fun _ l => ⟨arg1 l ||| arg2 l, 0⟩) id

/-- `vxor` (R213). -/
def execVxor (h : Hdr) (t : Ty) (m : VMask) (d a b : V) (s : State) : Host.Outcome State Fault Refusal :=
  s.vop h 0 (maskCodes m) (merge := maskMerges m) [a, b] (.v d t.width) (fun _ x v => x.lanewise m t v fun _ l => ⟨arg1 l ^^^ arg2 l, 0⟩) id

/-- A vector shift: the count of each lane from a v or a g register, modulo w (R213). -/
def State.vshift (s : State) (h : Hdr) (t : Ty) (m : VMask) (d a : V) (b : VG) (f : Nat → Nat → FR) :
    Host.Outcome State Fault Refusal :=
  match b with
  | .v b => s.vop h 0 (maskCodes m) (merge := maskMerges m) [a, b] (.v d t.width)
      (fun _ x v => x.lanewise m t v fun _ l => f (arg1 l) (arg2 l % t.width)) id
  | .g b => s.vop h 0 (rG b :: maskCodes m) (merge := maskMerges m) [a] (.v d t.width)
      (fun _ x v => x.lanewise m t v fun _ l => f (arg1 l) ((x.gr b).toNat % t.width)) id

/-- `vshl` (R213). -/
def execVshl (h : Hdr) (t : Ty) (m : VMask) (d a : V) (b : VG) (s : State) : Host.Outcome State Fault Refusal :=
  s.vshift h t m d a b fun x n => ⟨x * 2 ^ n % 2 ^ t.width, 0⟩

/-- `vshr` (R213). -/
def execVshr (h : Hdr) (t : Ty) (m : VMask) (d a : V) (b : VG) (s : State) : Host.Outcome State Fault Refusal :=
  s.vshift h t m d a b fun x n => ⟨x / 2 ^ n, 0⟩

/-- `vsha` (R213). -/
def execVsha (h : Hdr) (t : Ty) (m : VMask) (d a : V) (b : VG) (s : State) : Host.Outcome State Fault Refusal :=
  s.vshift h t m d a b fun x n => intRes t (sval t.width x / ((2 ^ n : Nat) : Int))

/-! ## Comparing, selecting, moving (R214 to R218) -/

/-- A lane comparison (R57, R190, R214). -/
def laneCmp (t : Ty) (c : Cnd) (a b : Nat) : Bool × Nat :=
  if t.isF then fpCmp (Fmt.of t) c a b
  else
    let x := tyVal t a
    let y := tyVal t b
    (match c with
      | .eq => x == y | .ne => x != y | .lt => decide (x < y) | .le => decide (x ≤ y) | .gt => decide (y < x)
      | .ge => decide (y ≤ x) | .un => false | .ord => true, 0)

/-- `vcmp` (R214). -/
def execVcmp (h : Hdr) (t : Ty) (cnd : Cnd) (m : VMask) (d : K) (a b : V) (s : State) : Host.Outcome State Fault Refusal :=
  s.vop h 0 (maskCodes m) (merge := maskMerges m) [a, b] (.k d) (fun _ x v =>
    (natsFrom 0 (lanesOf t.width)).foldr (fun i o =>
      let p := laneAt t.width (arg1 v) i
      let q := laneAt t.width (arg2 v) i
      if x.lit m t.width i then
        let r := laneCmp t cnd p q
        { o with val := 2 * o.val + bool01 r.1, fl := o.fl ||| r.2, sub := o.sub || subTy t p || subTy t q }
      else { o with val := 2 * o.val + (if m.mz then 0 else bool01 (bitAt (x.kr d).toNat i)) }) {}) id

/-- `vsel` (R215): lanes copied as bits. -/
def execVsel (h : Hdr) (t : Ty) (d a b : V) (c : K) (s : State) : Host.Outcome State Fault Refusal :=
  s.vop h 0 [rK c] [a, b] (.v d t.width) (fun _ x v =>
    { lanes := (natsFrom 0 (lanesOf t.width)).map fun i =>
        some (laneAt t.width (if x.lit ⟨true, c, false⟩ t.width i then arg1 v else arg2 v) i) }) id

/-- `vbcast` (R216). -/
def execVbcast (h : Hdr) (t : Ty) (m : VMask) (d : V) (a : GF) (s : State) : Host.Outcome State Fault Refusal :=
  s.vop h 0 (rGF a :: maskCodes m) (merge := maskMerges m) [] (.v d t.width) (fun _ x _ =>
    { x.lanewise m t [] fun _ _ => ⟨(x.gfr a).toNat % 2 ^ t.width, 0⟩ with sub := false }) id

/-- `vmovg` (R216). -/
def execVmovg (h : Hdr) (t : Ty) (d : V) (a b : G) (s : State) : Host.Outcome State Fault Refusal :=
  s.vop h 0 [rG a, rG b] (merge := true) [] (.v d t.width) (fun _ x _ =>
    { lanes := (natsFrom 0 (lanesOf t.width)).map fun i =>
        if (x.gr b).toNat = i then some ((x.gr a).toNat % 2 ^ t.width) else none }) id

/-- A lane as a g or f register receives it: sign-extended for the types s (R216). -/
def laneOut (t : Ty) (x : Nat) : Nat := if tySigned t then ubits 64 (sval t.width x) else x

/-- `vext` (R216). -/
def execVext (h : Hdr) (t : Ty) (d : GF) (a : V) (b : G) (s : State) : Host.Outcome State Fault Refusal :=
  s.vop h 0 [rG b] [a] (.gf d) (fun _ x v =>
    { val := if (x.gr b).toNat < lanesOf t.width then laneOut t (laneAt t.width (arg1 v) (x.gr b).toNat) else 0 }) id

/-- `vperm` (R218): it forfeits three turns. -/
def execVperm (h : Hdr) (t : Ty) (m : VMask) (d a b : V) (s : State) : Host.Outcome State Fault Refusal :=
  s.vop h 0 (maskCodes m) (merge := maskMerges m) [a, b] (.v d t.width) (fun _ x v =>
    { x.lanewise m t v fun _ l => ⟨laneAt t.width (arg1 v) (arg2 l % lanesOf t.width), 0⟩ with sub := false })
    fun s => s.forfeit 3

/-! ## Conversions (R217) -/

/-- One conversion (R151 to R155). -/
def laneCvt (td ts : Ty) (md : Mode) (x : Nat) : FR :=
  let isFp (t : Ty) : Bool := t.isF || t.isNarrow
  if ts = .rns10 then
    (if isFp td then (Fmt.of td).roundInt md false (rnsVal x) 0 else cvtRI td x)
  else if td = .rns10 then cvtIR (tyVal ts x)
  else if isFp ts then (if isFp td then cvtFF (Fmt.of ts) (Fmt.of td) md x else cvtFI (Fmt.of ts) td md x)
  else if isFp td then cvtIF (Fmt.of td) md (tyVal ts x)
  else
    let v := tyVal ts x
    ⟨ubits td.width (if v < tyLo td then tyLo td else if v > tyHi td then tyHi td else v), 0⟩

/-- `vcvt` (R217): m conversions; lanes of D from m upward are zero. RM = 0b000 rounds a narrow format to nearest even
(R141). -/
def execVcvt (h : Hdr) (td ts : Ty) (rm : Rm) (m : VMask) (d a : V) (s : State) : Host.Outcome State Fault Refusal :=
  s.vop h 0 (maskCodes m) (merge := maskMerges m) [a] (.v d td.width) (fun _ x v =>
    let n := Nat.min (lanesOf td.width) (lanesOf ts.width)
    (natsFrom 0 (lanesOf td.width)).foldr (fun j o =>
      if n ≤ j then { o with lanes := some 0 :: o.lanes }
      else if x.lit m (if n = 128 then 8 else 16) j then
        let p := laneAt ts.width (arg1 v) j
        let r := laneCvt td ts (if rm = .dyn ∧ td.isNarrow = true then .rne else x.rmMode rm) p
        { o with lanes := some r.bits :: o.lanes, fl := o.fl ||| r.fl, sub := o.sub || subTy ts p || subTy td r.bits }
      else { o with lanes := (if m.mz then some 0 else none) :: o.lanes }) {}) id

/-! ## Reductions (R219) -/

/-- One level of the tree. -/
def redLevel (f : Nat → Nat → FR) : List (Option Nat) → List (Option Nat) × Nat
  | a :: b :: l =>
    let (t, fl) := redLevel f l
    match a, b with
    | some u, some v => let r := f u v; (some r.bits :: t, fl ||| r.fl)
    | some u, none => (some u :: t, fl)
    | none, o => (o :: t, fl)
  | l => (l, 0)

/-- The tree, level by level. -/
def redTree (f : Nat → Nat → FR) : Nat → List (Option Nat) → Option Nat × Nat
  | 0, l => (l.headD none, 0)
  | k + 1, l =>
    let (t, fl) := redLevel f l
    let (r, fl') := redTree f k t
    (r, fl ||| fl')

/-- A NaN that a reduction delivers is the canonical one, also where a single lane is active (R137). -/
def canonNan (t : Ty) (u : Nat) : Nat := if t.isF && (FV.decode (Fmt.of t) u).isNan then (Fmt.of t).qnan else u

/-- A reduction: active lanes combined by lane index; the value when no lane is active. -/
def Slot.reduce (x : Slot) (m : VMask) (t : Ty) (v : Nat) (f : Nat → Nat → FR) (absent : Nat) : VOut :=
  let ls := (natsFrom 0 (lanesOf t.width)).map fun i => if x.lit m t.width i then some (laneAt t.width v i) else none
  let (r, fl) := redTree f 7 ls
  let sn := ls.any fun o => match o with | some u => t.isF && (FV.decode (Fmt.of t) u).isSnan | none => false
  let res := (r.map (canonNan t)).getD absent
  { val := laneOut t res, fl := fl ||| (if sn then flNV else 0),
    sub := subTy t res || ls.any fun o => match o with | some u => subTy t u | none => false }

/-- `vredadd` (R219). -/
def execVredadd (h : Hdr) (t : Ty) (rm : Rm) (m : VMask) (d : GF) (a : V) (s : State) : Host.Outcome State Fault Refusal :=
  s.vop h 0 (maskCodes m) (merge := maskMerges m) [a] (.gf d) (fun _ x v => x.reduce m t (arg1 v) (fun p q =>
    lane t (fun l => (arg1 l : Int) + arg2 l)
      (fun f l => fpAdd f (x.rmMode rm) (FV.decode f (arg1 l)) (FV.decode f (arg2 l))) [p, q]) 0) id

/-- `vredmax` (R219). -/
def execVredmax (h : Hdr) (t : Ty) (m : VMask) (d : GF) (a : V) (s : State) : Host.Outcome State Fault Refusal :=
  s.vop h 0 (maskCodes m) (merge := maskMerges m) [a] (.gf d) (fun _ x v => x.reduce m t (arg1 v) (laneMinMax t true)
    (if t.isF then (Fmt.of t).qnan else ubits t.width (tyLo t))) id

/-- `vredmin` (R219). -/
def execVredmin (h : Hdr) (t : Ty) (m : VMask) (d : GF) (a : V) (s : State) : Host.Outcome State Fault Refusal :=
  s.vop h 0 (maskCodes m) (merge := maskMerges m) [a] (.gf d) (fun _ x v => x.reduce m t (arg1 v) (laneMinMax t false)
    (if t.isF then (Fmt.of t).qnan else ubits t.width (tyHi t))) id

/-! ## Special functions (R220, R221) -/

/-- A special function on every active lane, one token (R212). -/
def State.vspecial (s : State) (h : Hdr) (fn : Fn) (t : FTy) (m : VMask) (d a : V) : Host.Outcome State Fault Refusal :=
  s.vop h 1 (maskCodes m) (merge := maskMerges m) [a] (.v d t.ty.width) (fun _ x v => x.lanewise m t.ty v fun _ l => fn.apply t (arg1 l)) id

/-- `vrcp` (R220). -/
def execVrcp (h : Hdr) (t : FTy) (m : VMask) (d a : V) (s : State) : Host.Outcome State Fault Refusal := s.vspecial h .rcp t m d a
/-- `vrsq` (R220). -/
def execVrsq (h : Hdr) (t : FTy) (m : VMask) (d a : V) (s : State) : Host.Outcome State Fault Refusal := s.vspecial h .rsq t m d a
/-- `vexp2` (R220). -/
def execVexp2 (h : Hdr) (t : FTy) (m : VMask) (d a : V) (s : State) : Host.Outcome State Fault Refusal := s.vspecial h .exp2 t m d a
/-- `vlog2` (R220). -/
def execVlog2 (h : Hdr) (t : FTy) (m : VMask) (d a : V) (s : State) : Host.Outcome State Fault Refusal := s.vspecial h .log2 t m d a
/-- `vsin` (R220). -/
def execVsin (h : Hdr) (t : FTy) (m : VMask) (d a : V) (s : State) : Host.Outcome State Fault Refusal := s.vspecial h .sin t m d a
/-- `vcos` (R220). -/
def execVcos (h : Hdr) (t : FTy) (m : VMask) (d a : V) (s : State) : Host.Outcome State Fault Refusal := s.vspecial h .cos t m d a
/-- `vtanh` (R220). -/
def execVtanh (h : Hdr) (t : FTy) (m : VMask) (d a : V) (s : State) : Host.Outcome State Fault Refusal := s.vspecial h .tanh t m d a

end Sys2Proof.Machine
end

