-- ==== Sys2Proof/Machine/Dispatch.lean ====
section
/-! DEFINITION. The meaning of each instruction and event: one arm per constructor, each one call of its own meaning. -/

namespace Sys2Proof.Machine

def exec (i : Instr) (s : State) : Host.Outcome State Fault Refusal :=
  match i with
  | .nop h => Sys2Proof.Machine.execNop h s
  | .trap h imm => Sys2Proof.Machine.execTrap h imm s
  | .eret h => Sys2Proof.Machine.execEret h s
  | .csrr h d csr => Sys2Proof.Machine.execCsrr h d csr s
  | .csrw h d csr a => Sys2Proof.Machine.execCsrw h d csr a s
  | .csrs h d csr a => Sys2Proof.Machine.execCsrs h d csr a s
  | .csrc h d csr a => Sys2Proof.Machine.execCsrc h d csr a s
  | .brk h imm => Sys2Proof.Machine.execBrk h imm s
  | .ifence h => Sys2Proof.Machine.execIfence h s
  | .bra h off => Sys2Proof.Machine.execBra h off s
  | .call h d off => Sys2Proof.Machine.execCall h d off s
  | .ret h a => Sys2Proof.Machine.execRet h a s
  | .jmpi h d a => Sys2Proof.Machine.execJmpi h d a s
  | .loop h d off => Sys2Proof.Machine.execLoop h d off s
  | .rdone h => Sys2Proof.Machine.execRdone h s
  | .sstart h a b => Sys2Proof.Machine.execSstart h a b s
  | .sstop h a => Sys2Proof.Machine.execSstop h a s
  | .sbar h a => Sys2Proof.Machine.execSbar h a s
  | .launch h d a c => Sys2Proof.Machine.execLaunch h d a c s
  | .lfin h a => Sys2Proof.Machine.execLfin h a s
  | .cancel h a b => Sys2Proof.Machine.execCancel h a b s
  | .ccount h d a b => Sys2Proof.Machine.execCcount h d a b s
  | .add h w d a b => Sys2Proof.Machine.execAdd h w d a b s
  | .sub h w d a b => Sys2Proof.Machine.execSub h w d a b s
  | .mul h w d a b => Sys2Proof.Machine.execMul h w d a b s
  | .mulh h w d a b => Sys2Proof.Machine.execMulh h w d a b s
  | .mulhz h w d a b => Sys2Proof.Machine.execMulhz h w d a b s
  | .div h w d a b => Sys2Proof.Machine.execDiv h w d a b s
  | .divz h w d a b => Sys2Proof.Machine.execDivz h w d a b s
  | .rem h w d a b => Sys2Proof.Machine.execRem h w d a b s
  | .remz h w d a b => Sys2Proof.Machine.execRemz h w d a b s
  | .and h w d a b => Sys2Proof.Machine.execAnd h w d a b s
  | .or h w d a b => Sys2Proof.Machine.execOr h w d a b s
  | .xor h w d a b => Sys2Proof.Machine.execXor h w d a b s
  | .andn h w d a b => Sys2Proof.Machine.execAndn h w d a b s
  | .orn h w d a b => Sys2Proof.Machine.execOrn h w d a b s
  | .shl h w d a b => Sys2Proof.Machine.execShl h w d a b s
  | .shr h w d a b => Sys2Proof.Machine.execShr h w d a b s
  | .sha h w d a b => Sys2Proof.Machine.execSha h w d a b s
  | .rot h w d a b => Sys2Proof.Machine.execRot h w d a b s
  | .min h w d a b => Sys2Proof.Machine.execMin h w d a b s
  | .max h w d a b => Sys2Proof.Machine.execMax h w d a b s
  | .minz h w d a b => Sys2Proof.Machine.execMinz h w d a b s
  | .maxz h w d a b => Sys2Proof.Machine.execMaxz h w d a b s
  | .clz h w d a => Sys2Proof.Machine.execClz h w d a s
  | .ctz h w d a => Sys2Proof.Machine.execCtz h w d a s
  | .popc h w d a => Sys2Proof.Machine.execPopc h w d a s
  | .bfx h w d a b c => Sys2Proof.Machine.execBfx h w d a b c s
  | .bfxs h w d a b c => Sys2Proof.Machine.execBfxs h w d a b c s
  | .bfi h w d a b c e => Sys2Proof.Machine.execBfi h w d a b c e s
  | .sel h w d a b c => Sys2Proof.Machine.execSel h w d a b c s
  | .mad h w d a b c => Sys2Proof.Machine.execMad h w d a b c s
  | .bswap h w d a => Sys2Proof.Machine.execBswap h w d a s
  | .cmpEq h w d a b => Sys2Proof.Machine.execCmpEq h w d a b s
  | .cmpNe h w d a b => Sys2Proof.Machine.execCmpNe h w d a b s
  | .cmpLt h w d a b => Sys2Proof.Machine.execCmpLt h w d a b s
  | .cmpGe h w d a b => Sys2Proof.Machine.execCmpGe h w d a b s
  | .cmpLtz h w d a b => Sys2Proof.Machine.execCmpLtz h w d a b s
  | .cmpGez h w d a b => Sys2Proof.Machine.execCmpGez h w d a b s
  | .addi h w d a imm => Sys2Proof.Machine.execAddi h w d a imm s
  | .shli h w d a n => Sys2Proof.Machine.execShli h w d a n s
  | .shri h w d a n => Sys2Proof.Machine.execShri h w d a n s
  | .shai h w d a n => Sys2Proof.Machine.execShai h w d a n s
  | .movi h d imm => Sys2Proof.Machine.execMovi h d imm s
  | .movhi h d a imm => Sys2Proof.Machine.execMovhi h d a imm s
  | .cmpiEq h d a imm => Sys2Proof.Machine.execCmpiEq h d a imm s
  | .cmpiNe h d a imm => Sys2Proof.Machine.execCmpiNe h d a imm s
  | .cmpiLt h d a imm => Sys2Proof.Machine.execCmpiLt h d a imm s
  | .cmpiGe h d a imm => Sys2Proof.Machine.execCmpiGe h d a imm s
  | .cmpiLtz h d a imm => Sys2Proof.Machine.execCmpiLtz h d a imm s
  | .cmpiGez h d a imm => Sys2Proof.Machine.execCmpiGez h d a imm s
  | .lea h d m => Sys2Proof.Machine.execLea h d m s
  | .pand h d a b => Sys2Proof.Machine.execPand h d a b s
  | .por h d a b => Sys2Proof.Machine.execPor h d a b s
  | .pxor h d a b => Sys2Proof.Machine.execPxor h d a b s
  | .pnot h d a => Sys2Proof.Machine.execPnot h d a s
  | .pmov h d a => Sys2Proof.Machine.execPmov h d a s
  | .fadd h t rm d a b => Sys2Proof.Machine.execFadd h t rm d a b s
  | .fsub h t rm d a b => Sys2Proof.Machine.execFsub h t rm d a b s
  | .fmul h t rm d a b => Sys2Proof.Machine.execFmul h t rm d a b s
  | .ffma h t rm d a b c => Sys2Proof.Machine.execFfma h t rm d a b c s
  | .ffms h t rm d a b c => Sys2Proof.Machine.execFfms h t rm d a b c s
  | .fnma h t rm d a b c => Sys2Proof.Machine.execFnma h t rm d a b c s
  | .fdiv h t rm d a b => Sys2Proof.Machine.execFdiv h t rm d a b s
  | .fsqrt h t rm d a => Sys2Proof.Machine.execFsqrt h t rm d a s
  | .fmin h t d a b => Sys2Proof.Machine.execFmin h t d a b s
  | .fmax h t d a b => Sys2Proof.Machine.execFmax h t d a b s
  | .fabs h t d a => Sys2Proof.Machine.execFabs h t d a s
  | .fneg h t d a => Sys2Proof.Machine.execFneg h t d a s
  | .fsgn h t d a b => Sys2Proof.Machine.execFsgn h t d a b s
  | .fcmp h t cnd d a b => Sys2Proof.Machine.execFcmp h t cnd d a b s
  | .fclass h t d a => Sys2Proof.Machine.execFclass h t d a s
  | .fcvt h td ts rm d a => Sys2Proof.Machine.execFcvt h td ts rm d a s
  | .fcvti h td ts rm d a => Sys2Proof.Machine.execFcvti h td ts rm d a s
  | .icvtf h td ts rm d a => Sys2Proof.Machine.execIcvtf h td ts rm d a s
  | .fmov h d a => Sys2Proof.Machine.execFmov h d a s
  | .vadd h t rm m d a b => Sys2Proof.Machine.execVadd h t rm m d a b s
  | .vsub h t rm m d a b => Sys2Proof.Machine.execVsub h t rm m d a b s
  | .vmul h t rm m d a b => Sys2Proof.Machine.execVmul h t rm m d a b s
  | .vfma h t rm m d a b c => Sys2Proof.Machine.execVfma h t rm m d a b c s
  | .vfms h t rm m d a b c => Sys2Proof.Machine.execVfms h t rm m d a b c s
  | .vmin h t m d a b => Sys2Proof.Machine.execVmin h t m d a b s
  | .vmax h t m d a b => Sys2Proof.Machine.execVmax h t m d a b s
  | .vabs h t m d a => Sys2Proof.Machine.execVabs h t m d a s
  | .vneg h t m d a => Sys2Proof.Machine.execVneg h t m d a s
  | .vand h t m d a b => Sys2Proof.Machine.execVand h t m d a b s
  | .vor h t m d a b => Sys2Proof.Machine.execVor h t m d a b s
  | .vxor h t m d a b => Sys2Proof.Machine.execVxor h t m d a b s
  | .vshl h t m d a b => Sys2Proof.Machine.execVshl h t m d a b s
  | .vshr h t m d a b => Sys2Proof.Machine.execVshr h t m d a b s
  | .vsha h t m d a b => Sys2Proof.Machine.execVsha h t m d a b s
  | .vcmp h t cnd m d a b => Sys2Proof.Machine.execVcmp h t cnd m d a b s
  | .vsel h t d a b c => Sys2Proof.Machine.execVsel h t d a b c s
  | .vcvt h td ts rm m d a => Sys2Proof.Machine.execVcvt h td ts rm m d a s
  | .vbcast h t m d a => Sys2Proof.Machine.execVbcast h t m d a s
  | .vmovg h t d a b => Sys2Proof.Machine.execVmovg h t d a b s
  | .vext h t d a b => Sys2Proof.Machine.execVext h t d a b s
  | .vperm h t m d a b => Sys2Proof.Machine.execVperm h t m d a b s
  | .vredadd h t rm m d a => Sys2Proof.Machine.execVredadd h t rm m d a s
  | .vredmax h t m d a => Sys2Proof.Machine.execVredmax h t m d a s
  | .vredmin h t m d a => Sys2Proof.Machine.execVredmin h t m d a s
  | .vrcp h t m d a => Sys2Proof.Machine.execVrcp h t m d a s
  | .vrsq h t m d a => Sys2Proof.Machine.execVrsq h t m d a s
  | .vexp2 h t m d a => Sys2Proof.Machine.execVexp2 h t m d a s
  | .vlog2 h t m d a => Sys2Proof.Machine.execVlog2 h t m d a s
  | .vsin h t m d a => Sys2Proof.Machine.execVsin h t m d a s
  | .vcos h t m d a => Sys2Proof.Machine.execVcos h t m d a s
  | .vtanh h t m d a => Sys2Proof.Machine.execVtanh h t m d a s
  | .kand h d a b => Sys2Proof.Machine.execKand h d a b s
  | .kor h d a b => Sys2Proof.Machine.execKor h d a b s
  | .knot h d a => Sys2Proof.Machine.execKnot h d a s
  | .kpop h d a => Sys2Proof.Machine.execKpop h d a s
  | .sbind h d a => Sys2Proof.Machine.execSbind h d a s
  | .sfree h d => Sys2Proof.Machine.execSfree h d s
  | .srep h => Sys2Proof.Machine.execSrep h s
  | .sstat h d a => Sys2Proof.Machine.execSstat h d a s
  | .mzero h c kind => Sys2Proof.Machine.execMzero h c kind s
  | .mmac h c a b sub => Sys2Proof.Machine.execMmac h c a b sub s
  | .mdrain h c d p td zr => Sys2Proof.Machine.execMdrain h c d p td zr s
  | .mldt h c a kind ts => Sys2Proof.Machine.execMldt h c a kind ts s
  | .mfetch h a b => Sys2Proof.Machine.execMfetch h a b s
  | .msety h d a ad => Sys2Proof.Machine.execMsety h d a ad s
  | .msetz h d a ad => Sys2Proof.Machine.execMsetz h d a ad s
  | .mbound h c d a => Sys2Proof.Machine.execMbound h c d a s
  | .mcfg h a => Sys2Proof.Machine.execMcfg h a s
  | .dbar h => Sys2Proof.Machine.execDbar h s
  | .gangForm t => Sys2Proof.Machine.execGangForm t s
  | .gangStart t => Sys2Proof.Machine.execGangStart t s
  | .gangComplete t => Sys2Proof.Machine.execGangComplete t s
  | .quarterOpPerform t q n => Sys2Proof.Machine.execQuarterOpPerform t q n s
  | .pinLineFetch t => Sys2Proof.Machine.execPinLineFetch t s
  | .ld h sz d m => Sys2Proof.Machine.execLd h sz d m s
  | .ldSigned h sz d m => Sys2Proof.Machine.execLdSigned h sz d m s
  | .ldB128 h d m => Sys2Proof.Machine.execLdB128 h d m s
  | .st h sz m d => Sys2Proof.Machine.execSt h sz m d s
  | .stB128 h m d => Sys2Proof.Machine.execStB128 h m d s
  | .pref h m => Sys2Proof.Machine.execPref h m s
  | .flush h m => Sys2Proof.Machine.execFlush h m s
  | .vld h d m => Sys2Proof.Machine.execVld h d m s
  | .vst h m d => Sys2Proof.Machine.execVst h m d s
  | .vgather h d a b sc disp => Sys2Proof.Machine.execVgather h d a b sc disp s
  | .vscatter h d a b sc disp => Sys2Proof.Machine.execVscatter h d a b sc disp s
  | .ldacq h sz sco d m => Sys2Proof.Machine.execLdacq h sz sco d m s
  | .strel h sz sco m d => Sys2Proof.Machine.execStrel h sz sco m d s
  | .waitcL h n => Sys2Proof.Machine.execWaitcL h n s
  | .waitcS h n => Sys2Proof.Machine.execWaitcS h n s
  | .mwait h d a b c => Sys2Proof.Machine.execMwait h d a b c s
  | .mwaitPoll t k ext => Sys2Proof.Machine.execMwaitPoll t k ext s
  | .mwaitLimitExpiry t k => Sys2Proof.Machine.execMwaitLimitExpiry t k s
  | .amoadd h w n a d b => Sys2Proof.Machine.execAmoadd h w n a d b s
  | .amoand h w n a d b => Sys2Proof.Machine.execAmoand h w n a d b s
  | .amoor h w n a d b => Sys2Proof.Machine.execAmoor h w n a d b s
  | .amoxor h w n a d b => Sys2Proof.Machine.execAmoxor h w n a d b s
  | .amomin h w n a d b => Sys2Proof.Machine.execAmomin h w n a d b s
  | .amomax h w n a d b => Sys2Proof.Machine.execAmomax h w n a d b s
  | .amominz h w n a d b => Sys2Proof.Machine.execAmominz h w n a d b s
  | .amomaxz h w n a d b => Sys2Proof.Machine.execAmomaxz h w n a d b s
  | .amoswp h w n a d b => Sys2Proof.Machine.execAmoswp h w n a d b s
  | .amocas h w n a d b c => Sys2Proof.Machine.execAmocas h w n a d b c s
  | .amofadd h t n a d b => Sys2Proof.Machine.execAmofadd h t n a d b s
  | .amofmin h t n a d b => Sys2Proof.Machine.execAmofmin h t n a d b s
  | .amofmax h t n a d b => Sys2Proof.Machine.execAmofmax h t n a d b s
  | .atomicPerform t k op ext => Sys2Proof.Machine.execAtomicPerform t k op ext s
  | .replayHoldRelease t k op => Sys2Proof.Machine.execReplayHoldRelease t k op s
  | .replayTimeout t k op => Sys2Proof.Machine.execReplayTimeout t k op s
  | .cpy h ch st sco sstr dstr d a b c => Sys2Proof.Machine.execCpy h ch st sco sstr dstr d a b c s
  | .cpybt h ch st sco nblk d a b c e => Sys2Proof.Machine.execCpybt h ch st sco nblk d a b c e s
  | .cpchain h a b => Sys2Proof.Machine.execCpchain h a b s
  | .cpwp h d a => Sys2Proof.Machine.execCpwp h d a s
  | .cpstat h d a => Sys2Proof.Machine.execCpstat h d a s
  | .copyCommandStart t ch => Sys2Proof.Machine.execCopyCommandStart t ch s
  | .copyPieceWrite t ch ext => Sys2Proof.Machine.execCopyPieceWrite t ch ext s
  | .copyStampWrite t ch => Sys2Proof.Machine.execCopyStampWrite t ch s
  | .chainRecordRead t ch ext => Sys2Proof.Machine.execChainRecordRead t ch ext s
  | .copyChannelHalt t ch code => Sys2Proof.Machine.execCopyChannelHalt t ch code s
  | .pput h a b => Sys2Proof.Machine.execPput h a b s
  | .pputv h a b => Sys2Proof.Machine.execPputv h a b s
  | .pputg h a b => Sys2Proof.Machine.execPputg h a b s
  | .pget h d a b => Sys2Proof.Machine.execPget h d a b s
  | .pgetv h d a c line => Sys2Proof.Machine.execPgetv h d a c line s
  | .pgetg h d a c quad => Sys2Proof.Machine.execPgetg h d a c quad s
  | .pfresh h d a => Sys2Proof.Machine.execPfresh h d a s
  | .pwatch h a b => Sys2Proof.Machine.execPwatch h a b s
  | .postCommit t k op ext => Sys2Proof.Machine.execPostCommit t k op ext s
  | .postSample t k op extF extV refused => Sys2Proof.Machine.execPostSample t k op extF extV refused s
  | .invoke h d a b c svc narg warg tw rp => Sys2Proof.Machine.execInvoke h d a b c svc narg warg tw rp s
  | .wbstate h d a item => Sys2Proof.Machine.execWbstate h d a item s
  | .wbbind h a b => Sys2Proof.Machine.execWbbind h a b s
  | .wbdrop h a => Sys2Proof.Machine.execWbdrop h a s
  | .wbcause h d a item => Sys2Proof.Machine.execWbcause h d a item s
  | .time h d => Sys2Proof.Machine.execTime h d s
  | .ttab h a b => Sys2Proof.Machine.execTtab h a b s
  | .tstat h d a => Sys2Proof.Machine.execTstat h d a s
  | .longResultReturn t k op part ext => Sys2Proof.Machine.execLongResultReturn t k op part ext s
  | .storePerformed t k op part ext => Sys2Proof.Machine.execStorePerformed t k op part ext s
  | .slotResume t k => Sys2Proof.Machine.execSlotResume t k s
  | .deferredTrap t k => Sys2Proof.Machine.execDeferredTrap t k s
  | .roundTimerExpiry t => Sys2Proof.Machine.execRoundTimerExpiry t s
  | .launchProcessorTurn => Sys2Proof.Machine.execLaunchProcessorTurn s
  | .launchComplete tag e => Sys2Proof.Machine.execLaunchComplete tag e s
  | .phaseStartInstant tag n => Sys2Proof.Machine.execPhaseStartInstant tag n s
  | .phaseEnd tag n => Sys2Proof.Machine.execPhaseEnd tag n s
  | .runAheadStart t k small => Sys2Proof.Machine.execRunAheadStart t k small s
  | .pageRequestTimeout t k => Sys2Proof.Machine.execPageRequestTimeout t k s
  | .teardownComplete tag => Sys2Proof.Machine.execTeardownComplete tag s
  | .attestationReportDone fn => Sys2Proof.Machine.execAttestationReportDone fn s
  | .timeSliceEnd tag => Sys2Proof.Machine.execTimeSliceEnd tag s
  | .preemptStop tag => Sys2Proof.Machine.execPreemptStop tag s
  | .contextSaveComplete tag => Sys2Proof.Machine.execContextSaveComplete tag s
  | .contextRestore tag => Sys2Proof.Machine.execContextRestore tag s
  | .dispatcherInvocationArrive tag inv => Sys2Proof.Machine.execDispatcherInvocationArrive tag inv s
  | .dispatcherHandOut tag n => Sys2Proof.Machine.execDispatcherHandOut tag n s
  | .donePostScan tag => Sys2Proof.Machine.execDonePostScan tag s
  | .resultTransfer slot n => Sys2Proof.Machine.execResultTransfer slot n s
  | .jobEndReport chip wbs => Sys2Proof.Machine.execJobEndReport chip wbs s
  | .holdoverEntry => Sys2Proof.Machine.execHoldoverEntry s
  | .clockLost => Sys2Proof.Machine.execClockLost s
  | .timetableFire tag n => Sys2Proof.Machine.execTimetableFire tag n s
  | .haltBeaconSend tag n => Sys2Proof.Machine.execHaltBeaconSend tag n s
  | .verdictSend tag n => Sys2Proof.Machine.execVerdictSend tag n s
  | .leadFailover tag n => Sys2Proof.Machine.execLeadFailover tag n s
  | .packageWake => Sys2Proof.Machine.execPackageWake s
  | .hostPostedWrite fn bar addr bytes => Sys2Proof.Machine.execHostPostedWrite fn bar addr bytes s
  | .orderingPointSend fn => Sys2Proof.Machine.execOrderingPointSend fn s
  | .routeAcknowledge fn die => Sys2Proof.Machine.execRouteAcknowledge fn die s
  | .hostRead fn bar addr n => Sys2Proof.Machine.execHostRead fn bar addr n s
  | .hostAtomicopInbound fn => Sys2Proof.Machine.execHostAtomicopInbound fn s
  | .hostCompletionTimeout t k op => Sys2Proof.Machine.execHostCompletionTimeout t k op s
  | .functionLevelReset fn => Sys2Proof.Machine.execFunctionLevelReset fn s
  | .ptpSync pps offset => Sys2Proof.Machine.execPtpSync pps offset s
  | .remoteAccessReceive src tag req => Sys2Proof.Machine.execRemoteAccessReceive src tag req s
  | .remotePageRequestReceive tag src ptag addr w => Sys2Proof.Machine.execRemotePageRequestReceive tag src ptag addr w s
  | .trainFlitReceive port tag src epoch msg => Sys2Proof.Machine.execTrainFlitReceive port tag src epoch msg s
  | .correctedSoftError tgt => Sys2Proof.Machine.execCorrectedSoftError tgt s
  | .uncorrectedSoftError tgt => Sys2Proof.Machine.execUncorrectedSoftError tgt s
  | .boot images record chip sec => Sys2Proof.Machine.execBoot images record chip sec s
  | .linkRouteLoss chip => Sys2Proof.Machine.execLinkRouteLoss chip s
  | .waybillValueArrive tag wb o => Sys2Proof.Machine.execWaybillValueArrive tag wb o s
  | .haltBeaconReceive tag n src leave => Sys2Proof.Machine.execHaltBeaconReceive tag n src leave s
  | .grantRequestReceive src tag n => Sys2Proof.Machine.execGrantRequestReceive src tag n s
  | .invasiveDebugAccess tag act => Sys2Proof.Machine.execInvasiveDebugAccess tag act s
  | .throttleChange tag theta => Sys2Proof.Machine.execThrottleChange tag theta s
  | .thermalShutdown => Sys2Proof.Machine.execThermalShutdown s
  | .accessConfirmed t k op large perm => Sys2Proof.Machine.execAccessConfirmed t k op large perm s
  | .pageBatchAnswered t k launch ctx answers => Sys2Proof.Machine.execPageBatchAnswered t k launch ctx answers s
  | .copyPageRequestAnswer t ch ans => Sys2Proof.Machine.execCopyPageRequestAnswer t ch ans s
  | .rempfrsp fn v => Sys2Proof.Machine.execRempfrsp fn v s
  | .lsubmit fn v => Sys2Proof.Machine.execLsubmit fn v s
  | .regionEnable fn n v => Sys2Proof.Machine.execRegionEnable fn n v s
  | .regionDisable fn n v => Sys2Proof.Machine.execRegionDisable fn n v s
  | .protectionRangeWrite fn n hi v => Sys2Proof.Machine.execProtectionRangeWrite fn n hi v s
  | .reminv fn => Sys2Proof.Machine.execReminv fn s
  | .orderLogConfigWrite fn r v => Sys2Proof.Machine.execOrderLogConfigWrite fn r v s
  | .partitionEnable => Sys2Proof.Machine.execPartitionEnable s
  | .partitionDisable => Sys2Proof.Machine.execPartitionDisable s
  | .clearMapScrub ch => Sys2Proof.Machine.execClearMapScrub ch s
  | .qcfgWrite q v => Sys2Proof.Machine.execQcfgWrite q v s
  | .vfbindWrite vf v => Sys2Proof.Machine.execVfbindWrite vf v s
  | .vfCtxbaseWrite vf v => Sys2Proof.Machine.execVfCtxbaseWrite vf v s
  | .monitorCfgWrite fn m v => Sys2Proof.Machine.execMonitorCfgWrite fn m v s
  | .monsel fn v => Sys2Proof.Machine.execMonsel fn v s
  | .attreq fn v => Sys2Proof.Machine.execAttreq fn v s
  | .dbgreq fn v => Sys2Proof.Machine.execDbgreq fn v s
  | .dbgresp fn ecdsa lms => Sys2Proof.Machine.execDbgresp fn ecdsa lms s
  | .tbcfgWrite v => Sys2Proof.Machine.execTbcfgWrite v s
  | .timetableWindowCommit fn n => Sys2Proof.Machine.execTimetableWindowCommit fn n s
  | .flrstatRead vf => Sys2Proof.Machine.execFlrstatRead vf s
  | .bar0RegisterWrite fn off v => Sys2Proof.Machine.execBar0RegisterWrite fn off v s
  | .grantArrive tag chip grants => Sys2Proof.Machine.execGrantArrive tag chip grants s
  | .actionBeaconReceive tag n free => Sys2Proof.Machine.execActionBeaconReceive tag n free s
  | .verdictReceive tag n missing => Sys2Proof.Machine.execVerdictReceive tag n missing s

end Sys2Proof.Machine
end

