-- ==== Sys2Proof/Machine/Turn.lean ====
section
/-!
DEFINITION. A slot's turn (R80 to R84): forfeits, parks, fetching and issue. What the machine does when its agenda is
empty (log 2): the turns of a tile cycle, the work of the engines, the passage of time. Placing an instruction where the
next step fetches it.
-/
namespace Sys2Proof.Machine

/-! ## Turns -/

/-- Whether a slot takes its turns: active, its tile neither halted nor stopped nor held by a debugger. -/
def State.awake (s : State) (t : TileId) (k : SlotId) : Bool :=
  let x := s.slot t k
  let y := s.tile t
  x.active && !y.halted && !s.frozen t && !(y.dbgHalt && y.dbgStep != some k)

/-- The address of the next instruction to issue: under srep the one after it (R210). -/
def Slot.issueAt (x : Slot) : Word := if x.srep.isSome then x.pc + 12 else x.pc

/-- A word that is not fetched or not an instruction traps at its own address, under srep too (R51, R62, R210); during run-ahead
the slot rolls back (R431). -/
def State.refuse (s : State) (code : Nat) (v : Word) : State :=
  if s.me.ahead then s.rollBack s.cur.1 s.cur.2
  else (s.upd fun x => { x with pc := x.issueAt, srep := none }).trapMe code 0 v

/-- An issue by the slot whose turn it is: fetch, decode, execute (R50 to R52, R62); a word that its home refuses takes the protection
trap (R396). Under srep the word is fetched anew for each
repetition (R210, R52; log 70). -/
def State.fetchAndRun (s : State) : Host.Outcome State Fault Refusal :=
  let s := s.countReps
  let pc := s.me.issueAt
  match fetchFault s.myPart pc.toNat with
  | some c => .next (s.refuse c pc)
  | none => if s.fetchRefused s.cur.1 (coreOf s.cur.2) pc.toNat then .next (s.refuse cProt pc) else
    match s.fetchInsn s.cur.1 s.cur.2 pc with
    | (s1, .ok i) => exec i s1
    | (s1, .illegal r b) => .next (s1.refuse cIllegal (illegalVal r b))

/-- The issue of a turn: a deferred trap comes first (R420); the turn is counted (R410). -/
def State.issueTurn (s : State) (t : TileId) (k : SlotId) : Host.Outcome State Fault Refusal :=
  match (s.slot t k).nextTrap with
  | none => State.fetchAndRun ((s.modTile t fun y => { y with dbgStep := none }).tileCount t 0 1)
  | _ => execDeferredTrap t k s

/-- One turn of a yield's wait passes (R84). -/
def Slot.passTurn (x : Slot) : Slot :=
  { x with yPark := match x.yPark with | some (b, n) => some (b, n - 1) | none => none }

/-- What a parked slot's turn tests: an mwait reads its stamp, any other park its condition (R83, R333). -/
def State.testPark (s : State) (t : TileId) (k : SlotId) : Host.Outcome State Fault Refusal :=
  match (s.slot t k).park with
  | .mwait _ a _ _ _ _ => match clsAt a.toNat with
    | .host => execMwaitLimitExpiry t k s
    | _ => execMwaitPoll t k 0 s
  | _ => execSlotResume t k s

/-- A parked slot's turn: it resumes in the first turn after its condition holds, and then issues (R83); a turn that goes
by counts for its yield. -/
def State.parkedTurn (s : State) (t : TileId) (k : SlotId) : Host.Outcome State Fault Refusal :=
  match s.testPark t k with
  | .next s1 =>
    if s1.awake t k && !(s1.slot t k).parked then s1.issueTurn t k else .next (s1.modSlot t k Slot.passTurn)
  | o => o

/-- A slot that sstart has started becomes active in its first turn at least 8 tile cycles later (R127). -/
def State.startUp (s : State) (t : TileId) (k : SlotId) : State :=
  match (s.slot t k).starting with
  | some c => if c ≤ (s.tile t).cycle then s.modSlot t k fun x => { x with active := true, starting := none } else s
  | none => s

/-- What a slot does in its turn (R81 to R84, R127). -/
def State.takeTurn (s : State) (t : TileId) (k : SlotId) : Host.Outcome State Fault Refusal :=
  let s := State.startUp { s with cur := (t, k) } t k
  if !s.awake t k then .next s
  else if (s.slot t k).forfeit ≠ 0 then
    .next ((s.modSlot t k fun x => { x.passTurn with forfeit := x.forfeit - 1 }).tileCount t 1 1)
  else if (s.slot t k).parked then s.parkedTurn t k
  else s.issueTurn t k

/-- The turn of a slot (R80): in tile cycles c with c mod 8 = SLOT mod 8, once, core by core. At any other time an act that
asks for it does nothing. -/
def State.turn (s : State) (t : TileId) (k : SlotId) : Host.Outcome State Fault Refusal :=
  match (s.tile t).due with
  | c :: l =>
    if c = coreOf k ∧ (s.tile t).cycle % 8 = k.val % 8 then State.takeTurn (s.modTile t fun y => { y with due := l }) t k
    else .next s
  | [] => .next s

/-! ## The machine by itself (log 2) -/

/-- What a tile cycle that has begun still asks for: the turns of slot c mod 8 of each core (R80), and after them the expiry of a
tile still in a round (R96). -/
def State.cycleActs (s : State) : Option (List Act) :=
  match s.tickedTiles with
  | t :: _ => some ((s.tile t).due.map fun c => Act.turn t (slotOf (8 * c.val + (s.tile t).cycle % 8)))
  | [] => match s.tiles.find? fun p => s.running (tileOf p.1) p.2 && p.2.going && p.2.toExpiry == 0 with
    | some p => some [.event (.roundTimerExpiry (tileOf p.1))]
    | none => none

/-- The events that may perform part of an operation with what this module holds. -/
def opEvents (t : TileId) (k : SlotId) (o : Op) : List Instr :=
  match o.kind with
  | .load | .acq _ | .query _ | .sample _ _ _ _ =>
    ((natsFrom 0 (Nat.max 1 (Nat.max o.pieces.length o.dests.length))).map fun i => Instr.longResultReturn t k o.id i 0) ++
    (match o.kind with | .sample _ _ _ _ => [Instr.postSample t k o.id 0 0 false] | _ => [])
  | .store | .rel _ => (natsFrom 0 o.pieces.length).map fun i => Instr.storePerformed t k o.id i 0
  | .amo _ _ _ _ | .amof _ _ _ _ =>
    if o.ready then (natsFrom 0 o.dests.length).map fun i => Instr.longResultReturn t k o.id i 0
    else [Instr.atomicPerform t k o.id 0, Instr.replayHoldRelease t k o.id]
  | .install _ => [Instr.postCommit t k o.id 0]
  | .stamp _ | .probe => []
  | .flush | .bind _ _ _ _ | .drop _ | .ttab _ _ | .act _ => [Instr.storePerformed t k o.id 0 0]

/-- The events of a tile's engines. -/
def engineEvents (t : TileId) (x : Tile) : List Instr :=
  [.gangForm t, .gangComplete t, .gangStart t, .pinLineFetch t] ++
  ((natsFrom 0 x.qops.length).map fun i => (natsFrom 0 4).map fun q => Instr.quarterOpPerform t ⟨q % 4, Nat.mod_lt _ (by decide)⟩ i).flatten ++
  ((natsFrom 0 4).map fun c =>
    let ch : Fin 4 := ⟨c % 4, Nat.mod_lt _ (by decide)⟩
    let code : Byte := match (x.channel ch).fail with | some (n, _, _) => BitVec.ofNat 8 n | none => 2
    [Instr.copyCommandStart t ch, .copyPieceWrite t ch 0, .copyStampWrite t ch, .chainRecordRead t ch 0, .copyChannelHalt t ch code]).flatten

/-- The events of a partition's part of the hub die. -/
def partEvents (tag : Tag) (p : Part) : List Instr :=
  ((natsFrom 0 p.queue.length).map fun i => Instr.dispatcherHandOut tag i) ++
  (p.launches.map fun l => Instr.launchComplete tag (BitVec.ofNat 8 l.1)) ++
  (if p.stopping.isSome then [Instr.contextSaveComplete tag] else []) ++
  (if p.clearing then [Instr.teardownComplete tag] else []) ++
  (p.timetable.map fun e => Instr.haltBeaconSend tag (BitVec.ofNat 8 e.1))

/-- Events that this module may perform by itself at any time. -/
def State.inner (s : State) : List Instr :=
  (s.tiles.map fun p => engineEvents (tileOf p.1) p.2 ++
    (allSlots.map fun k => ((p.2.slot k).ops.map (opEvents (tileOf p.1) k)).flatten).flatten).flatten ++
  (s.parts.map fun p => partEvents (BitVec.ofNat 8 p.1) p.2).flatten ++
  (s.waybills.map fun w => (natsFrom 0 w.2.binds.length).map fun i => Instr.resultTransfer (BitVec.ofNat 20 w.1) i).flatten ++
  ((s.funcs.filter fun f => f.2.attBusy).map fun f => Instr.attestationReportDone ⟨f.1 % 257, Nat.mod_lt _ (by decide)⟩)

/-- Whether piece j of an operation, or the whole of it, is under way outside the module. -/
def Op.away (o : Op) (j : Nat) : Bool := o.sent || (match o.pieces[j]? with | some q => q.sent | none => false)

/-- Whether an event would bring what only the outside can: the answer to a request that has left the module. -/
def State.outside (s : State) (i : Instr) : Bool :=
  let op (t : TileId) (k : SlotId) (n : Nat) (f : Op → Bool) : Bool :=
    match (s.slot t k).opOf n with | some o => !o.ready && !o.mark && f o | none => false
  let asked (t : TileId) (ch : Fin 4) : Bool := match ((s.tile t).channel ch).cur with | some j => j.asked | none => false
  match i with
  | .longResultReturn t k n j _ | .storePerformed t k n j _ => op t k n fun o => o.away j
  | .atomicPerform t k n _ | .replayHoldRelease t k n => op t k n fun o => o.pieces.any (·.sent)
  | .postCommit t k n _ | .postSample t k n _ _ _ => op t k n (·.sent)
  | .copyPieceWrite t ch _ | .chainRecordRead t ch _ => asked t ch
  | _ => false

/-- The first event that changes the machine, a consumed free choice aside. -/
def State.firstInner (s : State) : List Instr → Option State
  | [] => none
  | i :: l =>
    if s.outside i then State.firstInner s l
    else match exec i s with
      | .next s1 => if { s1 with free := s.free } = s then State.firstInner s l else some s1
      | _ => State.firstInner s l

/-- With nothing on its agenda the machine takes the turns of a tile cycle that has begun, else lets its engines work,
else lets a nominal cycle pass. -/
def State.auto (s : State) : State :=
  match s.cycleActs with
  | some l => { s with agenda := l }
  | none => match s.firstInner s.inner with
    | some s1 => s1
    | none => s.tick []

/-- A nominal cycle passes as an act of the agenda, whatever the engines have still to do: what the cycle before asked for comes
first, and what falls due comes next. -/
def State.passTime (s : State) (slow : List TileId) : State :=
  match s.cycleActs with
  | some l => { s with agenda := l ++ .time slow :: s.agenda }
  | none => let s1 := State.tick { s with agenda := [] } slow; { s1 with agenda := s1.agenda ++ s.agenda }

/-- A core's instruction cache takes a word of the partition's HBM before it is fetched (R52). -/
def State.fetchAhead (s : State) (t : TileId) (c : Fin 4) (a : Nat) : State :=
  if a % 4 = 0 ∧ a + 4 ≤ (s.part (s.tile t).tag.toNat).extent then (s.icacheFill t c a).1 else s

/-! ## Placing an instruction (log 2) -/

/-- A slot that issues in its next turn. -/
def Slot.ready (x : Slot) (pc : Word) : Slot :=
  { x with active := true, pc, park := .none, sPark := false, yPark := none, forfeit := 0, starting := none, deferred := [],
           srep := none, ra := none }

/-- A core's instruction cache with the three words of an instruction. -/
def cached (pc w : Nat) : Map (BitVec 32) := (natsFrom 0 3).map fun i => (pc + 4 * i, BitVec.ofNat 32 (w / 2 ^ (32 * i)))

/-- The 12 bytes of `w` stored at the PC of the slot whose turn it is, in its core's instruction cache too, and its turn next. Where that
PC could not be fetched from, the slot gets a partition of one slice group and PC 0. The tile cycle is one of the slot's turns (R80). -/
def State.placeWord (s : State) (w : Nat) : State :=
  let t := s.cur.1
  let k := s.cur.2
  let tag : Tag := if (s.tile t).tag = 0 then 1 else (s.tile t).tag
  let p := s.part tag.toNat
  let bad := (fetchFault p (s.slot t k).pc.toNat).isSome
  let p1 := if bad then { p with pgroups := Nat.max 1 p.pgroups, ranges := Vector.replicate 16 0 } else p
  let s1 := s.setPart tag.toNat { p1 with en := true, stopping := none }
  let pc : Word := if bad then 0 else (s.slot t k).pc
  let s2 := s1.modTile t fun x => { x with tag, halted := false, dbgHalt := false, icache := Vector.replicate 4 (cached pc.toNat w),
                                            cycle := x.cycle / 8 * 8 + k.val % 8, due := [coreOf k] }
  let s3 := s2.modSlot t k fun x => x.ready pc
  let s4 := s3.writeHbm p1 pc.toNat w 12
  { s4 with power := .active, agenda := .turn t k :: s.agenda }

end Sys2Proof.Machine
end

