-- ==== Sys2Proof/Machine/Step.lean ====
section
/-!
DEFINITION. One step of the machine: the next act of its agenda, or what it does by itself.
-/
namespace Sys2Proof.Machine

/-- One step (log 2). A module that is powered off does nothing (R418). -/
def step (s : State) : Host.Outcome State Fault Refusal :=
  match s.power with
  | .off => .fault .off
  | _ => match s.agenda with
    | .event i :: l => exec i { s with agenda := l }
    | .turn t k :: l => State.turn { s with agenda := l } t k
    | .time slow :: l => .next (State.passTime { s with agenda := l } slow)
    | .fill t c a :: l => .next (State.fetchAhead { s with agenda := l } t c a)
    | [] => .next s.auto

/-- `s` with an instruction stored where the next step fetches it: the bits of `w` below `nbits`, the rest of the 96 zero. -/
def State.withFetchWord (s : State) (nbits w : Nat) : State := s.placeWord (w % 2 ^ nbits)

end Sys2Proof.Machine
end

