-- ==== Sys2Proof/Safety.lean ====
section
/-!
DEFINITION. What counts as a safe run, and the words the statements use: when an instruction can execute (Ready), how a
completed one leaves the slot's place in the program (Advanced), and what it leaves alone (SlotKept, Kept).
-/
namespace Sys2Proof.Machine

/-! ## Safe runs -/

/-- `n` steps end in no fault and no refusal. -/
def RunsFor (n : Nat) (s : State) : Prop := ∃ t, Sys2Proof.core.run n s = .next t

/-- The module never stops. -/
def SafeRun (s : State) : Prop := ∀ n, RunsFor n s

/-- HBM keeps the canonical form of Memory.wf: addresses strictly rising, nothing listed that reads as unlisted. -/
def HbmInv (s : State) : Prop := Memory.wf s.hbm = true

/-- Every tile store keeps it. -/
def StoreInv (s : State) : Prop := ∀ t, Memory.wf (s.tile t).store = true

/-! ## When an instruction can execute -/

/-- The issuing slot can execute an instruction with header `h` that reads and writes these operand codes: the module is
on, the guard passes (R54), the guard and the sources have no long result outstanding that CHECKED.HAZARD traps on (R89) and
hold no poison (R429), no operand names a bound stream (R203), and every earlier access is confirmed (R430). -/
structure Ready (s : State) (h : Hdr) (reads writes : List Nat) : Prop where
  on : s.power ≠ .off
  guard : s.me.guardOk h = true
  free : s.me.chkHazard = true → ∀ c ∈ rP h.gp :: reads, c ∉ s.me.pending
  sound : ∀ c ∈ rP h.gp :: reads, c ∉ s.me.bad
  plain : ∀ c ∈ writes ++ reads, s.me.boundAt c = false
  sure : s.me.ra = none

/-! ## What a completed instruction does to the slot's place in the program -/

/-- The PC after an instruction that does not transfer control: the next one, or under srep the srep itself until the
last repetition, and then the one after the repeated instruction (R50, R210). -/
def Slot.pcAfter (x : Slot) : Word :=
  match x.srep with
  | none => x.pc + 12
  | some n => if n ≤ 1 then x.pc + 24 else x.pc

/-- The repetitions left after it. -/
def Slot.repsAfter (x : Slot) : Option Nat :=
  match x.srep with
  | none => none
  | some n => if n ≤ 1 then none else some (n - 1)

/-- The slot's place after an instruction that completes. -/
structure Advanced (s t : State) : Prop where
  pc : t.me.pc = s.me.pcAfter
  srep : t.me.srep = s.me.repsAfter
  cur : t.cur = s.cur

/-! ## What an instruction leaves alone -/

/-- A slot after an instruction keeps every register whose operand code is not among `cs`, and every special register. -/
structure SlotKept (x y : Slot) (cs : List Nat) : Prop where
  g : ∀ n : G, rG n ∉ cs → y.gr n = x.gr n
  f : ∀ n : F, rF n ∉ cs → y.fr n = x.fr n
  v : ∀ n : V, rV n ∉ cs → y.vr n = x.vr n
  p : ∀ n : P, rP n ∉ cs → y.pr n = x.pr n
  k : ∀ n : K, rK n ∉ cs → y.kr n = x.kr n
  counters : y.cntl = x.cntl ∧ y.cnts = x.cnts ∧ y.sbarCnt = x.sbarCnt ∧ y.drawCnt = x.drawCnt ∧ y.fseq = x.fseq
  checked : y.chkPower = x.chkPower ∧ y.chkHazard = x.chkHazard
  trap : y.tm = x.tm ∧ y.tinfo = x.tinfo ∧ y.tcode = x.tcode ∧ y.trappc = x.trappc ∧ y.trapval = x.trapval ∧ y.save = x.save
  streams : y.streams = x.streams
  active : y.active = x.active ∧ y.park = x.park

/-- Floating-point status of a slot. -/
structure FpKept (x y : Slot) : Prop where
  fcsr : y.fcsr = x.fcsr
  turns : y.normturns = x.normturns ∧ y.forfeit = x.forfeit

/-- Everything outside the issuing slot: the other slots, all else of its tile, the other tiles, the rest of the module;
every byte of memory with it. -/
structure OutsideKept (s t : State) : Prop where
  slots : ∀ k, k ≠ s.cur.2 → t.slot s.cur.1 k = s.slot s.cur.1 k
  tile : t.myTile = { s.myTile with slots := t.myTile.slots }
  tiles : ∀ u, u ≠ s.cur.1 → t.tile u = s.tile u
  rest : t = { s with tiles := t.tiles }
  hbm : ∀ a, t.hbmByte a = s.hbmByte a
  store : ∀ u a, Memory.get (t.tile u).store a = Memory.get (s.tile u).store a

/-- The frame of an instruction on registers: nothing but the registers named and the slot's place changes. -/
structure Kept (s t : State) (cs : List Nat) : Prop where
  slot : SlotKept s.me t.me cs
  fp : FpKept s.me t.me
  outside : OutsideKept s t

/-- The frame of a floating-point instruction: FCSR, NORMTURNS and the turns to forfeit may change as well. -/
structure KeptFp (s t : State) (cs : List Nat) : Prop where
  slot : SlotKept s.me t.me cs
  outside : OutsideKept s t

end Sys2Proof.Machine
end

