-- ==== Sys2Proof/Certificates/Slice0/Obligations.lean ====
section
/-!
DEFINITION. The statements about the model, each formalising rules of spec/ (OBLIGATIONS.json cites them), and the words
they share.
-/
namespace Sys2Proof.Claims
open Sys2Proof.Machine

/-! ## What an instruction that completes does to one register -/

/-- `i` completes from `s`: g[d] holds `v` (g0 reads zero), the PC advances and nothing else changes. -/
def SetsG (s : State) (i : Instr) (d : G) (v : Word) : Prop :=
  ∃ t, exec i s = .next t ∧ t.me.gr d = (if d = 0 then 0 else v) ∧ Advanced s t ∧ Kept s t [rG d]

/-- The same for a predicate; p0 reads true. -/
def SetsP (s : State) (i : Instr) (d : P) (v : Bool) : Prop :=
  ∃ t, exec i s = .next t ∧ t.me.pr d = (if d = 0 then true else v) ∧ Advanced s t ∧ Kept s t [rP d]

/-- The same for an f register. -/
def SetsF (s : State) (i : Instr) (d : F) (v : Word) : Prop :=
  ∃ t, exec i s = .next t ∧ t.me.fr d = v ∧ Advanced s t ∧ Kept s t [rF d]

/-- The same for a k register. -/
def SetsK (s : State) (i : Instr) (d : K) (v : Word) : Prop :=
  ∃ t, exec i s = .next t ∧ t.me.kr d = v ∧ Advanced s t ∧ Kept s t [rK d]

/-! ## The width of class 0x03 and 0x04 (R166) -/

/-- An operation on the low 32 bits, zero-extended, or on all 64. -/
def atW1 (w : Bool) (f : ∀ m, BitVec m → BitVec m) (a : Word) : Word :=
  if w then (f 32 (a.setWidth 32)).setWidth 64 else f 64 a

/-- The same with two sources. -/
def atW2 (w : Bool) (f : ∀ m, BitVec m → BitVec m → BitVec m) (a b : Word) : Word :=
  if w then (f 32 (a.setWidth 32) (b.setWidth 32)).setWidth 64 else f 64 a b

/-- A condition on the low 32 bits of two sources, or on all 64. -/
def condW (w : Bool) (f : ∀ m, BitVec m → BitVec m → Bool) (a b : Word) : Bool :=
  if w then f 32 (a.setWidth 32) (b.setWidth 32) else f 64 a b

/-! ## Traps -/


/-- A slot in which a trap enters the handler at once: not in trap mode, a handler there is, no long result outstanding,
no access unconfirmed (R421, R430). -/
structure Trappable (s : State) : Prop where
  on : s.power ≠ .off
  tm : s.me.tm = false
  handler : s.myTile.trapvec &&& ~~~3 ≠ 0
  longs : s.me.longs = 0
  sure : s.me.ra = none

/-- A trap was taken (R421): the handler's address in the PC, the cause in TRAPCAUSE, TRAPPC and TRAPVAL, and no other
register, counter, stream or byte of memory changed. -/
structure TrapTaken (s t : State) (code info : Nat) (pc val : Word) : Prop where
  at_ : t.me.pc = s.myTile.trapvec &&& ~~~3
  cause : t.me.tm = true ∧ t.me.tcode = BitVec.ofNat 8 code ∧ t.me.tinfo = BitVec.ofNat 8 info
  saved : t.me.trappc = pc ∧ t.me.trapval = val
  regs : t.me.g = s.me.g ∧ t.me.f = s.me.f ∧ t.me.v = s.me.v ∧ t.me.p = s.me.p ∧ t.me.k = s.me.k
  left : t.me.fcsr = s.me.fcsr ∧ t.me.cntl = s.me.cntl ∧ t.me.cnts = s.me.cnts ∧ t.me.save = s.me.save ∧
    t.me.streams = s.me.streams ∧ t.me.ops = s.me.ops ∧ t.me.active = s.me.active
  outside : OutsideKept s t

/-- `i` traps. -/
def Traps (s : State) (i : Instr) (code info : Nat) (pc val : Word) : Prop :=
  ∃ t, exec i s = .next t ∧ TrapTaken s t code info pc val

/-- What an instruction needs beyond its own operands: the module on, the guard passing with nothing wrong about it. -/
structure GuardSound (s : State) (h : Hdr) : Prop where
  on : s.power ≠ .off
  guard : s.me.guardOk h = true
  free : s.me.chkHazard = true → rP h.gp ∉ s.me.pending
  sound : rP h.gp ∉ s.me.bad
  sure : s.me.ra = none

/-- No byte of HBM or of any tile store changes. -/
def MemoryKept (s t : State) : Prop :=
  (∀ a, t.hbmByte a = s.hbmByte a) ∧ ∀ u a, Memory.get (t.tile u).store a = Memory.get (s.tile u).store a

end Sys2Proof.Claims

open Sys2Proof Sys2Proof.Machine Sys2Proof.Claims

/-! ## Encoding and the step -/

namespace Sys2Proof.Claims

/-- A whole word from its three 32-bit words, word 2 the highest (R50). -/
def words (w2 w1 w0 : BitVec 32) : InsnWord := w2 ++ w1 ++ w0

end Sys2Proof.Claims

/-- Decoding the encoding of a well-formed instruction gives it back, every operand at every value. -/
def Obligations.DecodeInvertsEncode : Prop :=
  ∀ (i : Instr) (x : InsnWord), i.wf = true → encode i = some x → decode x = .ok i

/-- Every word that the checks of R62 pass is the encoding of the instruction it decodes to, which is well formed: no bit of
it is ignored. -/
def Obligations.EncodeInvertsDecode : Prop :=
  ∀ (x : InsnWord) (i : Instr), decode x = .ok i → encode i = some x ∧ i.wf = true

/-- Words worked out in the spec (R30 with the example after R56, R124, R175, R184, R207, R212, R249's mmac, R328, R335, R353, R377, R447,
R467) decode to the instructions they stand for. -/
def Sys2Proof.Claims.WorkedWordsDecode : Prop :=
  decode (words 0x2C04EC14 0x082F0000 0x00000040) =
    .ok (.ld ⟨true, 3, true, .keep, .heavy⟩ .b64 (.g 5) ⟨1, 2, 3, 0x40⟩) ∧
  decode (words 0x0C08000C 0x08200000 0) = .ok (.add Hdr.plain true 3 1 2) ∧
  decode (words 0x04200024 0x000FFFFF 0xFFFFFFFE) = .ok (.loop Hdr.plain 9 (-2)) ∧
  decode (words 0x0E380188 0x20500000 0) = .ok (.cmpLtz Hdr.plain true 2 4 5) ∧
  decode (words 0x18000085 0x12300013 0) = .ok (.fadd Hdr.plain .f32 .rtz 1 2 3) ∧
  decode (words 0x24000100 0x38000000 0) = .ok (.sbind Hdr.plain 0 7) ∧
  decode (words 0x1C18010E 0x2458C003 0x01200000) = .ok (.vfma Hdr.plain .f32 .dyn ⟨true, 1, false⟩ 3 4 5 6) ∧
  decode (words 0x28200000 0x50B00002 0x10080000) =
    .ok (.mmac Hdr.plain 0 10 11 ⟨.s8, .s8, false, false, false, false, false, false, 0, true, 0, false⟩) ∧
  decode (words 0x2CA0000C 0x58030000 0) = .ok (.ldacq Hdr.plain .b64 .pkg 3 ⟨11, 0, 0, 0⟩) ∧
  decode (words 0x36600010 0x50610000 0) = .ok (.amocas Hdr.plain .b128 false 10 4 6 8) ∧
  decode (words 0x3C000020 0x48A1601A 0) = .ok (.cpy Hdr.plain 1 true .tile 0 0 8 9 10 11) ∧
  decode (words 0x40180024 0x30700000 0) = .ok (.pget Hdr.plain 9 6 7) ∧
  decode (words 0x44000024 0x50B18000 0x14807000) = .ok (.invoke Hdr.plain 9 10 11 12 5 2 1 true true) ∧
  decode (words 0x00200018 0x38000000 0x00000101) = .ok (.csrw Hdr.plain 6 0x101 7) ∧
  decode (words 0x48080000 0x30700000 0) = .ok (.ttab Hdr.plain 6 7)

/-- R62, R63: an unassigned class, an unassigned function and a reserved scheduling hint are refused with their reason and bit,
and a nonzero cache hint where R55 accepts none. That the scheduling hint is named where both fail is the model's reading (log 8). -/
def Sys2Proof.Claims.UnassignedWordsRefused : Prop :=
  ∀ x : InsnWord,
    (0x12 < (x.extractLsb' 90 6).toNat → decode x = .illegal 1 90) ∧
    (x.extractLsb' 90 6 = 0 → 8 < (x.extractLsb' 83 7).toNat → decode x = .illegal 2 83) ∧
    (x.extractLsb' 90 6 = 3 → 0x49 < (x.extractLsb' 83 7).toNat → decode x = .illegal 2 83) ∧
    (x.extractLsb' 90 6 = 7 → 0x1F < (x.extractLsb' 83 7).toNat → decode x = .illegal 2 83) ∧
    (x.extractLsb' 90 6 = 3 → (x.extractLsb' 83 7).toNat ≤ 0x49 → x.extractLsb' 73 2 = 3 → decode x = .illegal 3 73) ∧
    (x.extractLsb' 90 6 = 3 → (x.extractLsb' 83 7).toNat ≤ 0x49 → x.extractLsb' 73 2 ≠ 3 → x.extractLsb' 75 2 ≠ 0 →
      decode x = .illegal 3 75)

namespace Sys2Proof.Claims
open Sys2Proof.Machine

/-- The line of address `a` is in its home slice's L2, or its set has room for two more, so that a fetch gives up no line (R10). -/
def L2Room (s : State) (tag a : Nat) : Prop :=
  let ls := mapGet [] s.l2 ((s.part tag).homeSlice a)
  let key := (s.part tag).lineKey tag a
  (∃ l ∈ ls, l.key = key) ∨ (ls.filter fun l => Config.l2Set l.key % 128 == Config.l2Set key % 128).length < 15

/-- The partition owns the slice group that homes `a` (R396). -/
def Owned (s : State) (tag a : Nat) : Prop := s.owner ((s.part tag).homeGroup a) = some tag

/-- No home refuses the hub die a page of n bytes at `a` that it reads or writes for a partition (R396). -/
def Homes (s : State) (tag a n : Nat) : Prop := ∀ g ∈ pageStarts a n, s.refuses tag g 1 = false

/-- The next act of the agenda is a turn in which slot (t, k) issues the instruction at `pc` (R80 to R83): the tile cycle is one of
the slot's and its core's turn of it is next, the repetitions of an srep are counted (R210), the core's instruction cache holds
no word of it that differs from memory (R52), no home refuses a word of it (R396), and the fetch gives up no line of L2. -/
structure IssuesNext (s : State) (t : TileId) (k : SlotId) (rest : List Act) (due : List (Fin 4)) (pc : Word) : Prop where
  on : s.power ≠ .off
  turn : s.agenda = .turn t k :: rest
  cycle : (s.tile t).cycle % 8 = k.val % 8 ∧ (s.tile t).due = coreOf k :: due
  awake : s.awake t k = true ∧ (s.slot t k).starting = none
  forfeit : (s.slot t k).forfeit = 0
  parked : (s.slot t k).parked = false
  deferred : (s.slot t k).deferred = []
  counted : (s.slot t k).srep ≠ some 0
  issueAt : (s.slot t k).issueAt = pc
  fetch : fetchFault (s.part (s.tile t).tag.toNat) pc.toNat = none
  cached : ∀ a ∈ [pc.toNat, pc.toNat + 4, pc.toNat + 8], ∀ w, (a, w) ∈ (s.tile t).icache[k.val / 8] →
    w.toNat = s.readHbm (s.part (s.tile t).tag.toNat) a 4
  accepted : s.fetchRefused t (coreOf k) pc.toNat = false
  room : ∀ a ∈ [pc.toNat, pc.toNat + 4, pc.toNat + 8], L2Room s (s.tile t).tag.toNat a

/-- `s1` is `s` at the moment of that issue: the act taken off the agenda, the slot's turn of the tile cycle used; besides, only the
instruction cache, the debugger's step and the performance counters of the tile differ, and what the fetch left in L2, the
remote-data caches and the page directories. -/
structure AtIssue (s s1 : State) (t : TileId) (k : SlotId) (rest : List Act) (due : List (Fin 4)) : Prop where
  rest : s1 = { s with agenda := rest, cur := (t, k), tiles := s1.tiles, l2 := s1.l2, rdc := s1.rdc, dirs := s1.dirs, free := s1.free }
  tile : s1.tile t = { s.tile t with icache := (s1.tile t).icache, dbgStep := none, pmcnt := (s1.tile t).pmcnt,
                                     pmstat := (s1.tile t).pmstat, due }
  others : ∀ u, u ≠ t → s1.tile u = s.tile u

end Sys2Proof.Claims

/-- When the twelve bytes at the slot's PC decode to an instruction, the step is that instruction's meaning. -/
def Obligations.StepRunsTheDecodedInstruction : Prop :=
  ∀ (s : State) (t : TileId) (k : SlotId) (rest : List Act) (due : List (Fin 4)) (pc : Word) (i : Instr),
    IssuesNext s t k rest due pc →
    decode (BitVec.ofNat 96 (s.readHbm (s.part (s.tile t).tag.toNat) pc.toNat 12)) = .ok i →
    ∃ s1, AtIssue s s1 t k rest due ∧ step s = exec i s1

/-- R62, R421: a word that is no instruction takes code 1 with the reason and the bit in TRAPVAL, and writes no register. -/
def Sys2Proof.Claims.IllegalWordTraps : Prop :=
  ∀ (s : State) (t : TileId) (k : SlotId) (rest : List Act) (due : List (Fin 4)) (pc : Word) (r b : Nat),
    IssuesNext s t k rest due pc →
    decode (BitVec.ofNat 96 (s.readHbm (s.part (s.tile t).tag.toNat) pc.toNat 12)) = .illegal r b →
    (s.slot t k).srep = none → Trappable { s with cur := (t, k) } →
    ∃ s1 s2, AtIssue s s1 t k rest due ∧ step s = .next s2 ∧ TrapTaken s1 s2 1 0 pc (w64 (r + b * 2 ^ 8))

/-- An event at the head of the agenda is performed by its meaning; a module that is off does nothing. -/
def Sys2Proof.Claims.StepPerformsAgendaEvents : Prop :=
  ∀ (s : State) (i : Instr) (rest : List Act),
    (s.power ≠ .off → s.agenda = .event i :: rest → step s = exec i { s with agenda := rest }) ∧
    (s.power = .off → step s = .fault .off ∧ exec i s = .fault .off)

/-- R30, R62, R63: words the spec works out decode to their instructions, and words no instruction has are refused by reason and bit.
That a word whose scheduling and cache hints both fail is refused for the scheduling hint is the model's reading (log 8). -/
def Obligations.WordsDecodeAsTheSpecWorksThem : Prop :=
  Claims.WorkedWordsDecode ∧ Claims.UnassignedWordsRefused

/-- R51, R62 and the step itself: an illegal word takes its trap, and an event at the head of the agenda is performed. -/
def Obligations.StepTrapsOnIllegalWordsAndPerformsEvents : Prop :=
  Claims.IllegalWordTraps ∧ Claims.StepPerformsAgendaEvents

/-! ## Class 0x03 to 0x05: integers and predicates -/

/-- R168: sums, differences, logic, minima and maxima. -/
def Sys2Proof.Claims.IntegerArithmeticAndLogic : Prop :=
  ∀ (s : State) (h : Hdr) (w : Bool) (d a b : G), Ready s h [rG a, rG b] [rG d] →
    SetsG s (.add h w d a b) d (atW2 w (fun _ x y => x + y) (s.me.gr a) (s.me.gr b)) ∧
    SetsG s (.sub h w d a b) d (atW2 w (fun _ x y => x - y) (s.me.gr a) (s.me.gr b)) ∧
    SetsG s (.and h w d a b) d (atW2 w (fun _ x y => x &&& y) (s.me.gr a) (s.me.gr b)) ∧
    SetsG s (.or h w d a b) d (atW2 w (fun _ x y => x ||| y) (s.me.gr a) (s.me.gr b)) ∧
    SetsG s (.xor h w d a b) d (atW2 w (fun _ x y => x ^^^ y) (s.me.gr a) (s.me.gr b)) ∧
    SetsG s (.andn h w d a b) d (atW2 w (fun _ x y => x &&& ~~~y) (s.me.gr a) (s.me.gr b)) ∧
    SetsG s (.orn h w d a b) d (atW2 w (fun _ x y => x ||| ~~~y) (s.me.gr a) (s.me.gr b)) ∧
    SetsG s (.min h w d a b) d (atW2 w (fun _ x y => if x.sle y then x else y) (s.me.gr a) (s.me.gr b)) ∧
    SetsG s (.max h w d a b) d (atW2 w (fun _ x y => if y.sle x then x else y) (s.me.gr a) (s.me.gr b)) ∧
    SetsG s (.minz h w d a b) d (atW2 w (fun _ x y => if x.ule y then x else y) (s.me.gr a) (s.me.gr b)) ∧
    SetsG s (.maxz h w d a b) d (atW2 w (fun _ x y => if y.ule x then x else y) (s.me.gr a) (s.me.gr b))

/-- R169: the count is g[B] mod w. -/
def Sys2Proof.Claims.IntegerShifts : Prop :=
  ∀ (s : State) (h : Hdr) (w : Bool) (d a b : G), Ready s h [rG a, rG b] [rG d] →
    SetsG s (.shl h w d a b) d (atW2 w (fun m x y => x <<< (y.toNat % m)) (s.me.gr a) (s.me.gr b)) ∧
    SetsG s (.shr h w d a b) d (atW2 w (fun m x y => x >>> (y.toNat % m)) (s.me.gr a) (s.me.gr b)) ∧
    SetsG s (.sha h w d a b) d (atW2 w (fun m x y => x.sshiftRight (y.toNat % m)) (s.me.gr a) (s.me.gr b)) ∧
    SetsG s (.rot h w d a b) d (atW2 w (fun m x y => x.rotateLeft (y.toNat % m)) (s.me.gr a) (s.me.gr b))

/-- R170: products from the exact one of 2w bits. -/
def Sys2Proof.Claims.IntegerProducts : Prop :=
  ∀ (s : State) (h : Hdr) (w : Bool) (d a b c : G), Ready s h [rG a, rG b] [rG d] →
    SetsG s (.mul h w d a b) d (atW2 w (fun _ x y => x * y) (s.me.gr a) (s.me.gr b)) ∧
    SetsG s (.mulh h w d a b) d
      (atW2 w (fun m x y => (x.signExtend (2 * m) * y.signExtend (2 * m)).extractLsb' m m) (s.me.gr a) (s.me.gr b)) ∧
    SetsG s (.mulhz h w d a b) d
      (atW2 w (fun m x y => (x.setWidth (2 * m) * y.setWidth (2 * m)).extractLsb' m m) (s.me.gr a) (s.me.gr b)) ∧
    (Ready s h [rG a, rG b, rG c] [rG d] →
      SetsG s (.mad h w d a b c) d
        (atW2 w (fun m x y => x * y + (s.me.gr c).setWidth m) (s.me.gr a) (s.me.gr b)))

/-- R171: division truncates toward zero; by zero it gives all ones, and the dividend as remainder. -/
def Sys2Proof.Claims.IntegerDivision : Prop :=
  ∀ (s : State) (h : Hdr) (w : Bool) (d a b : G), Ready s h [rG a, rG b] [rG d] →
    SetsG s (.div h w d a b) d
      (atW2 w (fun m x y => if y = 0 then BitVec.allOnes m else x.sdiv y) (s.me.gr a) (s.me.gr b)) ∧
    SetsG s (.rem h w d a b) d (atW2 w (fun _ x y => if y = 0 then x else x.srem y) (s.me.gr a) (s.me.gr b)) ∧
    SetsG s (.divz h w d a b) d
      (atW2 w (fun m x y => if y = 0 then BitVec.allOnes m else x / y) (s.me.gr a) (s.me.gr b)) ∧
    SetsG s (.remz h w d a b) d (atW2 w (fun _ x y => if y = 0 then x else x % y) (s.me.gr a) (s.me.gr b))

namespace Sys2Proof.Claims

/-- `n` is the number of 0 bits of x above its highest 1 bit; the width when x is zero (R172). -/
def IsClz {m : Nat} (x : BitVec m) (n : Nat) : Prop :=
  n ≤ m ∧ (∀ i, i < n → x.getLsbD (m - 1 - i) = false) ∧ (n < m → x.getLsbD (m - 1 - n) = true)

/-- `n` is the number of 0 bits of x below its lowest 1 bit; the width when x is zero (R172). -/
def IsCtz {m : Nat} (x : BitVec m) (n : Nat) : Prop :=
  n ≤ m ∧ (∀ i, i < n → x.getLsbD i = false) ∧ (n < m → x.getLsbD n = true)

/-- The number of 1 bits (R172). -/
def ones {m : Nat} (x : BitVec m) : Nat := ((List.range m).filter fun i => x.getLsbD i).length

end Sys2Proof.Claims

/-- R172: leading zeros, trailing zeros, one bits, and the bytes reversed. -/
def Sys2Proof.Claims.IntegerBitCounts : Prop :=
  ∀ (s : State) (h : Hdr) (w : Bool) (d a : G), Ready s h [rG a] [rG d] →
    (∃ n, SetsG s (.clz h w d a) d (w64 n) ∧
      if w then IsClz ((s.me.gr a).setWidth 32) n else IsClz (s.me.gr a) n) ∧
    (∃ n, SetsG s (.ctz h w d a) d (w64 n) ∧
      if w then IsCtz ((s.me.gr a).setWidth 32) n else IsCtz (s.me.gr a) n) ∧
    SetsG s (.popc h w d a) d (w64 (if w then ones ((s.me.gr a).setWidth 32) else ones (s.me.gr a))) ∧
    (∃ r, SetsG s (.bswap h w d a) d r ∧
      if w then (r >>> 32 = 0 ∧ ∀ i, i < 4 → r.extractLsb' (8 * i) 8 = (s.me.gr a).extractLsb' (8 * (3 - i)) 8)
      else ∀ i, i < 8 → r.extractLsb' (8 * i) 8 = (s.me.gr a).extractLsb' (8 * (7 - i)) 8)

namespace Sys2Proof.Claims

/-- The field of `x` at `pos`, clamped to the width, of length `len`, clamped to what remains (R173). -/
def field {m : Nat} (x : BitVec m) (pos len : Nat) (signed : Bool) : BitVec m :=
  let p := min pos m
  let l := min len (m - p)
  if l = 0 then 0 else if signed then (x.extractLsb' p l).signExtend m else (x.extractLsb' p l).setWidth m

end Sys2Proof.Claims

/-- R173, R174: bit fields whose position and length are clamped to the width, and the selection by a predicate. -/
def Sys2Proof.Claims.IntegerFieldsAndSelect : Prop :=
  ∀ (s : State) (h : Hdr) (w : Bool) (d a b c e : G) (p : P),
    (Ready s h [rG a, rG b, rG c] [rG d] →
      SetsG s (.bfx h w d a b c) d
        (atW2 w (fun m x y => field x y.toNat ((s.me.gr c).setWidth m).toNat false) (s.me.gr a) (s.me.gr b)) ∧
      SetsG s (.bfxs h w d a b c) d
        (atW2 w (fun m x y => field x y.toNat ((s.me.gr c).setWidth m).toNat true) (s.me.gr a) (s.me.gr b))) ∧
    (Ready s h [rG a, rG b, rG c, rG e] [rG d] →
      ∃ r, SetsG s (.bfi h w d a b c e) d r ∧
        let m := if w then 32 else 64
        let pos := min ((s.me.gr c).toNat % 2 ^ m) m
        let len := min ((s.me.gr e).toNat % 2 ^ m) (m - pos)
        ∀ i, r.getLsbD i = (decide (i < m) &&
          if pos ≤ i ∧ i < pos + len then (s.me.gr a).getLsbD (i - pos) else (s.me.gr b).getLsbD i)) ∧
    (Ready s h [rG a, rG b, rP p] [rG d] →
      SetsG s (.sel h w d a b p) d (atW2 w (fun _ x y => if s.me.pr p then x else y) (s.me.gr a) (s.me.gr b)))

/-- R175, R178: comparisons of registers at a width, and of a register with an immediate. -/
def Sys2Proof.Claims.IntegerComparisons : Prop :=
  ∀ (s : State) (h : Hdr) (w : Bool) (d : P) (a b : G) (imm : BitVec 52),
    (Ready s h [rG a, rG b] [rP d] →
      SetsP s (.cmpEq h w d a b) d (condW w (fun _ x y => x == y) (s.me.gr a) (s.me.gr b)) ∧
      SetsP s (.cmpNe h w d a b) d (condW w (fun _ x y => x != y) (s.me.gr a) (s.me.gr b)) ∧
      SetsP s (.cmpLt h w d a b) d (condW w (fun _ x y => x.slt y) (s.me.gr a) (s.me.gr b)) ∧
      SetsP s (.cmpGe h w d a b) d (condW w (fun _ x y => y.sle x) (s.me.gr a) (s.me.gr b)) ∧
      SetsP s (.cmpLtz h w d a b) d (condW w (fun _ x y => x.ult y) (s.me.gr a) (s.me.gr b)) ∧
      SetsP s (.cmpGez h w d a b) d (condW w (fun _ x y => y.ule x) (s.me.gr a) (s.me.gr b))) ∧
    (Ready s h [rG a] [rP d] →
      SetsP s (.cmpiEq h d a imm) d (s.me.gr a == imm.signExtend 64) ∧
      SetsP s (.cmpiNe h d a imm) d (s.me.gr a != imm.signExtend 64) ∧
      SetsP s (.cmpiLt h d a imm) d ((s.me.gr a).slt (imm.signExtend 64)) ∧
      SetsP s (.cmpiGe h d a imm) d ((imm.signExtend 64).sle (s.me.gr a)) ∧
      SetsP s (.cmpiLtz h d a imm) d ((s.me.gr a).ult (imm.signExtend 64)) ∧
      SetsP s (.cmpiGez h d a imm) d ((imm.signExtend 64).ule (s.me.gr a)))

/-- R176, R177, R179 with R33: immediates, constants and the effective address. -/
def Sys2Proof.Claims.ImmediatesAndAddresses : Prop :=
  ∀ (s : State) (h : Hdr) (w : Bool) (d a : G) (imm : BitVec 52) (hi : BitVec 12) (n : BitVec 6) (m : MemRef),
    (Ready s h [rG a] [rG d] →
      SetsG s (.addi h w d a imm) d (atW2 w (fun _ x y => x + y) (s.me.gr a) (imm.signExtend 64)) ∧
      (n.toNat < (if w then 32 else 64) →
        SetsG s (.shli h w d a n) d (atW1 w (fun _ x => x <<< n.toNat) (s.me.gr a)) ∧
        SetsG s (.shri h w d a n) d (atW1 w (fun _ x => x >>> n.toNat) (s.me.gr a)) ∧
        SetsG s (.shai h w d a n) d (atW1 w (fun _ x => x.sshiftRight n.toNat) (s.me.gr a))) ∧
      SetsG s (.movhi h d a hi) d (hi ++ (s.me.gr a).extractLsb' 0 52)) ∧
    (Ready s h [] [rG d] → SetsG s (.movi h d imm) d (imm.signExtend 64)) ∧
    (Ready s h [rG m.base, rG m.index] [rG d] →
      SetsG s (.lea h d m) d (s.me.gr m.base + s.me.gr m.index * BitVec.ofNat 64 (2 ^ m.sc.toNat) + m.disp.signExtend 64))

/-- R180: operations on predicates. -/
def Sys2Proof.Claims.PredicateOperations : Prop :=
  ∀ (s : State) (h : Hdr) (d a b : P),
    (Ready s h [rP a, rP b] [rP d] →
      SetsP s (.pand h d a b) d (s.me.pr a && s.me.pr b) ∧
      SetsP s (.por h d a b) d (s.me.pr a || s.me.pr b) ∧
      SetsP s (.pxor h d a b) d (s.me.pr a ^^ s.me.pr b)) ∧
    (Ready s h [rP a] [rP d] →
      SetsP s (.pnot h d a) d (!s.me.pr a) ∧ SetsP s (.pmov h d a) d (s.me.pr a))

/-- R168, R169: sums, logic, minima, maxima and shifts at either width. -/
def Obligations.IntegerArithmetic : Prop :=
  Claims.IntegerArithmeticAndLogic ∧ Claims.IntegerShifts

/-- R170, R171: products and quotients at either width. -/
def Obligations.IntegerProductsAndQuotients : Prop :=
  Claims.IntegerProducts ∧ Claims.IntegerDivision

/-- R172 to R174, R176, R177, R179: bit counts, fields, selection, immediates and addresses. -/
def Obligations.IntegerFieldsAndConstants : Prop :=
  Claims.IntegerBitCounts ∧ Claims.IntegerFieldsAndSelect ∧ Claims.ImmediatesAndAddresses

/-- R175, R178, R180: what writes a predicate. -/
def Obligations.ComparisonsAndPredicates : Prop :=
  Claims.IntegerComparisons ∧ Claims.PredicateOperations

/-! ## Issue, traps and system instructions -/

/-- R54: an encoded instruction whose guard fails takes its turn and has no other effect: the PC advances, and no
register, counter, special register or byte of memory changes. -/
def Sys2Proof.Claims.FailedGuardOnlyAdvances : Prop :=
  ∀ (s : State) (i : Instr) (r : Raw), i.raw = some r → s.power ≠ .off → s.me.guardOk r.hdr = false →
    (s.me.chkHazard = true → rP r.hdr.gp ∉ s.me.pending) → s.me.ra = none →
    ∃ t, exec i s = .next t ∧ Advanced s t ∧ Kept s t []

/-- R444, R84, R86: a nop only advances; its switch marker parks the slot while a long result is outstanding, and its
yield hint parks it for a result of the operations issued so far, or 64 turns. -/
def Sys2Proof.Claims.NopActsThroughItsHintsOnly : Prop :=
  ∀ (s : State) (h : Hdr), Ready s h [] [] →
    ∃ t, exec (.nop h) s = .next t ∧ Advanced s t ∧ Kept s t [] ∧
      (s.me.srep = none →
        t.me.sPark = (s.me.sPark || (h.sw && s.me.longs != 0)) ∧
        t.me.yPark = if h.sched = .yield ∧ s.me.longs ≠ 0 then some (s.serial, 64) else s.me.yPark)

/-- R89: with CHECKED.HAZARD set, reading a register whose long result is outstanding takes the hazard trap, with TRAPPC the
instruction and TRAPVAL the operand code, before any effect; the slot first waits for its long results (R421). -/
def Sys2Proof.Claims.HazardTrapOnOutstandingRegister : Prop :=
  ∀ (s : State) (h : Hdr) (w : Bool) (d a b : G), GuardSound s h → s.me.chkHazard = true → rG a ∈ s.me.pending → s.me.longs ≠ 0 →
    ∃ t, exec (.add h w d a b) s = .next t ∧
      t.me.park = .trap { code := 2, info := 0, pc := s.me.pc, val := w64 (rG a), precise := true } ∧
      t.me.pc = s.me.pc ∧ SlotKept { s.me with park := t.me.park } t.me [] ∧ FpKept s.me t.me ∧ OutsideKept s t

/-- R429: reading a poisoned register takes code 15 with INFO 1 and the operand code, before any effect. -/
def Sys2Proof.Claims.PoisonedOperandTraps : Prop :=
  ∀ (s : State) (h : Hdr), GuardSound s h → Trappable s → s.me.waive = none →
    (∀ (w : Bool) (d a b : G), (s.me.chkHazard = true → rG a ∉ s.me.pending ∧ rG b ∉ s.me.pending) → rG a ∈ s.me.bad →
      Traps s (.add h w d a b) 15 1 s.me.pc (w64 (rG a))) ∧
    (∀ (t : FTy) (rm : Rm) (d a b : F), (s.me.chkHazard = true → rF a ∉ s.me.pending ∧ rF b ∉ s.me.pending) → rF a ∈ s.me.bad →
      Traps s (.fadd h t rm d a b) 15 1 s.me.pc (w64 (rF a)))

/-- R203: an instruction outside class 0x07 that names a bound register takes the protection trap, with TRAPVAL its operand
code. -/
def Sys2Proof.Claims.BoundStreamRegisterTraps : Prop :=
  ∀ (s : State) (h : Hdr) (n : BitVec 3) (m : MemRef), GuardSound s h → Trappable s →
    (∀ c ∈ [rG m.base, rG m.index], (s.me.chkHazard = true → c ∉ s.me.pending) ∧ c ∉ s.me.bad) →
    (s.me.chkHazard = true → rV (n.setWidth 5) ∉ s.me.pending) → rV (n.setWidth 5) ∉ s.me.bad →
    (s.me.streams[n.toNat]).isSome →
    s.myPart.permits ((s.myPart.classOf (s.me.ea m).toNat 128).getD .hbm) (s.me.ea m).toNat 128 needR = true →
    (∃ c, checkAccess s s.myPart .ld (s.me.ea m).toNat 128 = .ok c) → 
    Traps s (.vld h (n.setWidth 5) m) 4 0 s.me.pc (w64 (rV (n.setWidth 5)))

/-- R445: trap and brk outside trap mode raise code 17 with TRAPPC = P + 12 and TRAPVAL = n, trap with INFO 1, brk with INFO 0; brk
has no effect in trap mode. -/
def Sys2Proof.Claims.BreakpointsTakeTheirTrap : Prop :=
  ∀ (s : State) (h : Hdr), Ready s h [] [] →
    (Trappable s →
      (∀ n : BitVec 12, Traps s (.trap h n) 17 1 (s.me.pc + 12) (n.setWidth 64)) ∧
      (s.brkArmed = false → ∀ n : BitVec 16, Traps s (.brk h n) 17 0 (s.me.pc + 12) (n.setWidth 64))) ∧
    (s.me.tm = true → s.brkArmed = false → ∀ n : BitVec 16,
      ∃ t, exec (.brk h n) s = .next t ∧ Advanced s t ∧ Kept s t [])

/-- R446: in trap mode eret leaves it for TRAPPC; a slot active for a tile trap alone becomes inactive; outside trap mode
it takes the protection trap with its own address. -/
def Sys2Proof.Claims.ReturnFromTrap : Prop :=
  ∀ (s : State) (h : Hdr), Ready s h [] [] →
    (s.me.tm = true → s.me.trapOnly = false →
      ∃ t, exec (.eret h) s = .next t ∧ t.me.tm = false ∧ t.me.pc = s.me.trappc ∧
        SlotKept { s.me with tm := false } t.me [] ∧ FpKept s.me t.me ∧ OutsideKept s t) ∧
    (s.me.tm = true → s.me.trapOnly = true → s.me.longs = 0 →
      ∃ t, exec (.eret h) s = .next t ∧ t.me.tm = false ∧ t.me.active = false) ∧
    (Trappable s → Traps s (.eret h) 4 0 s.me.pc s.me.pc)

/-- R448: ifence waits until CNTS is zero and then invalidates its core's instruction cache, and no other core's. -/
def Sys2Proof.Claims.IfenceInvalidatesItsCore : Prop :=
  ∀ (s : State) (h : Hdr), Ready s h [] [] →
    (s.me.cnts ≠ 0 → ∃ t, exec (.ifence h) s = .next t ∧ t.me.park = .stores ∧ t.me.pc = s.me.pc) ∧
    (s.me.cnts = 0 → ∃ t, exec (.ifence h) s = .next t ∧ Advanced s t ∧ SlotKept s.me t.me [] ∧ FpKept s.me t.me ∧
      t.myTile.icache = s.myTile.icache.set (s.cur.2.val / 8) [] ∧
      (∀ u a, Memory.get (t.tile u).store a = Memory.get (s.tile u).store a) ∧ ∀ a, t.hbmByte a = s.hbmByte a)

/-- R443, R447 with the registers' own rules: csrr delivers the register named, and an unassigned number traps. -/
def Sys2Proof.Claims.ControlRegisterReads : Prop :=
  ∀ (s : State) (h : Hdr) (d : G), Ready s h [] [rG d] →
    SetsG s (.csrr h d 0x009) d 0x0000004040C6553F ∧ SetsG s (.csrr h d 0x00A) d 0x09600FA0143E8100 ∧
    SetsG s (.csrr h d 0x010) d (w64 s.cur.2.val) ∧ SetsG s (.csrr h d 0x011) d (w64 (s.cur.2.val / 8)) ∧
    SetsG s (.csrr h d 0x012) d (s.myTile.tileIdx.setWidth 64) ∧ SetsG s (.csrr h d 0x013) d s.myTile.round ∧
    SetsG s (.csrr h d 0x014) d (s.myTile.period.setWidth 64) ∧ SetsG s (.csrr h d 0x016) d s.myTile.overruns ∧
    SetsG s (.csrr h d 0x018) d s.myTile.lparam ∧ SetsG s (.csrr h d 0x019) d (s.myTile.launchId.setWidth 64) ∧
    SetsG s (.csrr h d 0x01B) d (s.myTile.tag.setWidth 64) ∧ SetsG s (.csrr h d 0x020) d s.me.fcsr ∧
    SetsG s (.csrr h d 0x021) d s.me.normturns ∧ SetsG s (.csrr h d 0x022) d s.me.cntl ∧
    SetsG s (.csrr h d 0x023) d s.me.cnts ∧ SetsG s (.csrr h d 0x030) d s.myTile.matcfg ∧
    SetsG s (.csrr h d 0x031) d s.myTile.matstat ∧
    SetsG s (.csrr h d 0x100) d
      ((BitVec.ofBool s.me.tm).setWidth 64 <<< 63 ||| s.me.tinfo.setWidth 64 <<< 8 ||| s.me.tcode.setWidth 64) ∧
    SetsG s (.csrr h d 0x101) d s.me.trappc ∧ SetsG s (.csrr h d 0x102) d s.me.trapval ∧
    SetsG s (.csrr h d 0x103) d s.myTile.trapvec ∧
    (∀ i : Fin 4, SetsG s (.csrr h d (BitVec.ofNat 12 (0x104 + i.val))) d s.me.save[i]) ∧
    (Trappable s → Traps s (.csrr h d 0x024) 4 0 s.me.pc 0x024)

namespace Sys2Proof.Claims
open Sys2Proof.Machine

/-- csrw, csrs and csrc. -/
def csrInstr (op : Fin 3) (h : Hdr) (d : G) (n : BitVec 12) (a : G) : Instr :=
  match op with
  | 0 => .csrw h d n a
  | 1 => .csrs h d n a
  | 2 => .csrc h d n a

/-- What they make of a register whose RW and W1C fields are these, under g[A] (R447). -/
def csrAfter (op : Fin 3) (rw w1c old g : Word) : Word :=
  match op with
  | 0 => (old &&& ~~~rw &&& ~~~(g &&& w1c)) ||| (g &&& rw)
  | 1 => old ||| (g &&& rw)
  | 2 => old &&& ~~~(g &&& rw)

/-- D receives the old value from csrw, the new one from csrs and csrc; g0 reads zero. -/
def CsrGives (op : Fin 3) (t : State) (d : G) (old new : Word) : Prop :=
  t.me.gr d = if d = 0 then 0 else if op = 0 then old else new

/-- The instruction on a register of the slot: `field` holds the new value, and outside D and `kept` of it nothing changes. -/
def SlotCsr (s : State) (op : Fin 3) (h : Hdr) (d a : G) (n : BitVec 12) (rw : Word) (field : Slot → Word)
    (kept : Slot → Slot → Prop) : Prop :=
  ∃ t, exec (csrInstr op h d n a) s = .next t ∧ field t.me = csrAfter op rw 0 (field s.me) (s.me.gr a) ∧
    CsrGives op t d (field s.me) (field t.me) ∧ Advanced s t ∧ OutsideKept s t ∧ kept s.me t.me

/-- The instruction on a register of the tile: the slot's D and the write it asks of the next tile cycle are all that changes; and
that cycle, where it has no other write to make, makes it, and changes nothing of the slots, the store, the other tiles or the rest. -/
def TileCsr (s : State) (op : Fin 3) (h : Hdr) (d a : G) (n : BitVec 12) (rw w1c : Word) (field : Tile → Word)
    (more : Tile → Prop) : Prop :=
  ∃ old t, s.csrGet n.toNat = some old ∧ exec (csrInstr op h d n a) s = .next t ∧
    CsrGives op t d old (csrAfter op rw w1c old (s.me.gr a)) ∧ Advanced s t ∧ SlotKept s.me t.me [rG d] ∧ FpKept s.me t.me ∧
    (∀ k, k ≠ s.cur.2 → t.slot s.cur.1 k = s.slot s.cur.1 k) ∧
    t.myTile = { s.myTile with slots := t.myTile.slots, csrNext := t.myTile.csrNext } ∧
    (∀ u, u ≠ s.cur.1 → t.tile u = s.tile u) ∧ t = { s with tiles := t.tiles } ∧
    (s.myTile.csrNext = [] →
      let u := t.csrCommit s.cur.1
      field (u.tile s.cur.1) = csrAfter op rw w1c (field s.myTile) (s.me.gr a) ∧ more (u.tile s.cur.1) ∧
      (u.tile s.cur.1).slots = t.myTile.slots ∧ (u.tile s.cur.1).store = s.myTile.store ∧ (u.tile s.cur.1).csrNext = [] ∧
      (∀ v, v ≠ s.cur.1 → u.tile v = s.tile v) ∧ u = { s with tiles := u.tiles })

/-- CHECKED (R89): POWER and HAZARD. -/
def checkedOf (x : Slot) : Word := (BitVec.ofBool x.chkPower).setWidth 64 <<< 1 ||| (BitVec.ofBool x.chkHazard).setWidth 64

/-- The numbers of the registers that only the machine writes (R443): CAPS, the slot's and the tile's identity and round, CNTL, CNTS,
MATCFG, TRAPCAUSE and TRAPVAL; the watches, the counters' values, and a monitor's MIN, MAX and bins. -/
def ReadOnlyCsr (n : BitVec 12) : Prop :=
  n.toNat ∈ [0x008, 0x009, 0x00A, 0x010, 0x011, 0x012, 0x013, 0x014, 0x015, 0x016, 0x018, 0x019, 0x01B, 0x022, 0x023, 0x030, 0x100, 0x102] ∨
  (0x040 ≤ n.toNat ∧ n.toNat < 0x060) ∨ (0x070 ≤ n.toNat ∧ n.toNat < 0x080 ∧ n.toNat % 2 = 1) ∨
  (0x080 ≤ n.toNat ∧ n.toNat < 0x100 ∧ 0 < n.toNat % 32 ∧ n.toNat % 32 < 19)

end Sys2Proof.Claims

/-- R447 on the registers of a slot: FCSR, NORMTURNS, CHECKED, TRAPPC and TRAPSAVE. -/
def Sys2Proof.Claims.SlotRegisterWrites : Prop :=
  ∀ (s : State) (h : Hdr) (d a : G) (op : Fin 3), Ready s h [rG a] [rG d] →
    SlotCsr s op h d a 0x020 0x31F1F (·.fcsr)
      (fun x y => SlotKept x y [rG d] ∧ y.normturns = x.normturns ∧ y.forfeit = x.forfeit) ∧
    SlotCsr s op h d a 0x021 (BitVec.allOnes 64) (·.normturns)
      (fun x y => SlotKept x y [rG d] ∧ y.fcsr = x.fcsr ∧ y.forfeit = x.forfeit) ∧
    SlotCsr s op h d a 0x017 3 checkedOf
      (fun x y => SlotKept { x with chkPower := y.chkPower, chkHazard := y.chkHazard } y [rG d] ∧ FpKept x y) ∧
    SlotCsr s op h d a 0x101 (BitVec.allOnes 64) (·.trappc)
      (fun x y => SlotKept { x with trappc := y.trappc } y [rG d] ∧ FpKept x y) ∧
    ∀ i : Fin 4, SlotCsr s op h d a (BitVec.ofNat 12 (0x104 + i.val)) (BitVec.allOnes 64) (·.save[i])
      (fun x y => SlotKept { x with save := x.save.set i y.save[i] } y [rG d] ∧ FpKept x y)

/-- R447 on the registers of a tile: TRAPVEC, MATSTAT, PMSTAT, PWRST, PMSELn and the CFG of a monitor, whose write resets the
monitor (R412). -/
def Sys2Proof.Claims.TileRegisterWrites : Prop :=
  ∀ (s : State) (h : Hdr) (d a : G) (op : Fin 3), Ready s h [rG a] [rG d] →
    TileCsr s op h d a 0x103 (BitVec.allOnes 64) 0 (·.trapvec) (fun _ => True) ∧
    TileCsr s op h d a 0x031 0 7 (·.matstat) (fun _ => True) ∧
    (s.tileDenied s.myTile = false → TileCsr s op h d a 0x068 0 1 (·.pmstat) (fun _ => True)) ∧
    TileCsr s op h d a 0x01A 0 1 (fun x => (BitVec.ofBool x.pwrPower).setWidth 64) (fun _ => True) ∧
    (∀ i : Fin 8, TileCsr s op h d a (BitVec.ofNat 12 (0x070 + 2 * i.val)) 0x1FFFF 0 (·.pmsel[i]) (fun _ => True)) ∧
    ∀ m : Fin 4, TileCsr s op h d a (BitVec.ofNat 12 (0x080 + 32 * m.val)) 0xFFFFFFFF1F0103FF 0x20000 (·.monitors[m].cfg)
      (fun x => x.monitors[m].min = BitVec.allOnes 64 ∧ x.monitors[m].max = 0 ∧ ∀ b : Fin 16, x.monitors[m].bins[b] = 0)

/-- R447 on a register that only the machine writes: it delivers its value and nothing else changes. -/
def Sys2Proof.Claims.ReadOnlyRegistersStay : Prop :=
  ∀ (s : State) (h : Hdr) (d a : G) (op : Fin 3) (n : BitVec 12) (x : Word), Ready s h [rG a] [rG d] → ReadOnlyCsr n →
    s.csrGet n.toNat = some x → SetsG s (csrInstr op h d n a) d x

/-- R447: csrw writes the RW fields, csrs ORs and csrc clears them; csrw's D receives the old value, csrs's and csrc's the
new one; W1C bits clear only through csrw, and read-only registers never change. -/
def Sys2Proof.Claims.ControlRegisterWrites : Prop :=
  Claims.SlotRegisterWrites ∧ Claims.TileRegisterWrites ∧ Claims.ReadOnlyRegistersStay

/-- R89, R203, R429: an operand that is outstanding, poisoned or bound to a stream takes its trap before any effect. -/
def Obligations.OperandChecksTrapBeforeAnyEffect : Prop :=
  Claims.HazardTrapOnOutstandingRegister ∧ Claims.PoisonedOperandTraps ∧ Claims.BoundStreamRegisterTraps

/-- R445, R446: trap, brk and eret. -/
def Obligations.TrapsAreTakenAndLeft : Prop :=
  Claims.BreakpointsTakeTheirTrap ∧ Claims.ReturnFromTrap

/-- R443, R447: csrr, csrw, csrs and csrc. -/
def Obligations.ControlRegistersReadAndWrite : Prop :=
  Claims.ControlRegisterReads ∧ Claims.ControlRegisterWrites

/-- R54, R84, R86, R444, R448: a failed guard, nop with its hints, and ifence. -/
def Obligations.GuardsHintsAndInstructionFences : Prop :=
  Claims.FailedGuardOnlyAdvances ∧ Claims.NopActsThroughItsHintsOnly ∧ Claims.IfenceInvalidatesItsCore


/-! ## Class 0x06: scalar floating point -/

namespace Sys2Proof.Claims
open Sys2Proof.Machine

/-- What flags and the normaliser leave (R145, R146, R149, R150). -/
structure FpEnds (s t : State) (fl : Nat) (sub : Bool) : Prop where
  flags : t.me.fcsr = s.me.fcsr ||| w64 (fl % 32 * 2 ^ 8)
  turns : t.me.normturns = s.me.normturns + (if sub then 2 else 0)
  forfeit : t.me.forfeit = s.me.forfeit + (if sub then 2 else 0)

/-- No flag of `fl` is enabled to trap (R146). -/
def Quiet (s : State) (fl : Nat) : Prop := fl &&& (s.me.fcsr.toNat % 32) = 0

/-- `i` completes with flags `fl`: the result `v t` holds, and of registers only code `c` changes. -/
def FpDone (s : State) (i : Instr) (c : Nat) (v : State → Prop) (fl : Nat) (sub : Bool) : Prop :=
  ∃ t, exec i s = .next t ∧ v t ∧ Advanced s t ∧ KeptFp s t [c] ∧ FpEnds s t fl sub

/-- The encoding in an f register of a type: its low bits (R181). -/
def fenc (s : State) (ty : FTy) (n : F) : Nat := (s.me.fr n).toNat % 2 ^ (FTy.fmt ty).width

/-- The value there. -/
def fval (s : State) (ty : FTy) (n : F) : FV := FV.decode (FTy.fmt ty) (fenc s ty n)

/-- f[d] becomes the encoding `r`, its upper bits zero, when no flag of `r` traps. -/
def FloatSets (s : State) (i : Instr) (ty : FTy) (d : F) (src : List F) (r : FR) : Prop :=
  Quiet s r.fl → FpDone s i (rF d) (fun t => t.me.fr d = w64 r.bits) r.fl
    ((r.bits :: src.map (fenc s ty)).any (Fmt.isSub (FTy.fmt ty)))

/-- `n` tokens are left in the round (R117, R118). -/
def TokensLeft (s : State) (n : Nat) : Prop :=
  s.myTile.tokUsed + n ≤ s.myTile.tokDecl ∧ s.myTile.tokUsed + n ≤ 65535

/-- The tile after `n` tokens are charged. -/
def charged (s : State) (n : Nat) : State := s.updTile fun x => { x with tokUsed := x.tokUsed + n }

/-- f[d] becomes `r`, one token charged. -/
def FloatSetsToken (s : State) (i : Instr) (ty : FTy) (d : F) (src : List F) (r : FR) : Prop :=
  Quiet s r.fl → TokensLeft s 1 → s.myTile.stretch = false →
    ∃ t, exec i s = .next t ∧ t.me.fr d = w64 r.bits ∧ Advanced s t ∧ KeptFp (charged s 1) t [rF d] ∧
      FpEnds s t r.fl ((r.bits :: src.map (fenc s ty)).any (Fmt.isSub (FTy.fmt ty)))

end Sys2Proof.Claims

/-- R184, R185: sums, differences, products and fused forms of the operands' values, the exact result rounded once in the mode
of R141; flags into FCSR; a subnormal operand or result costs two turns. -/
def Sys2Proof.Claims.FloatSumsAndProducts : Prop :=
  ∀ (s : State) (h : Hdr) (ty : FTy) (rm : Rm) (d a b c : F),
    let f := FTy.fmt ty
    let md := s.me.rmMode rm
    let A := fval s ty a
    let B := fval s ty b
    let C := fval s ty c
    (Ready s h [rF a, rF b] [rF d] →
      FloatSets s (.fadd h ty rm d a b) ty d [a, b] (fpAdd f md A B) ∧
      FloatSets s (.fsub h ty rm d a b) ty d [a, b] (fpAdd f md A B.flip) ∧
      FloatSets s (.fmul h ty rm d a b) ty d [a, b] (fpMul f md A B)) ∧
    (Ready s h [rF a, rF b, rF c] [rF d] →
      FloatSets s (.ffma h ty rm d a b c) ty d [a, b, c] (fpFma f md false A B C) ∧
      FloatSets s (.ffms h ty rm d a b c) ty d [a, b, c] (fpFma f md false A B C.flip) ∧
      FloatSets s (.fnma h ty rm d a b c) ty d [a, b, c] (fpFma f md true A B C))

/-- R186, R187, R117: quotient and square root, one token each. -/
def Sys2Proof.Claims.FloatQuotientAndRoot : Prop :=
  ∀ (s : State) (h : Hdr) (ty : FTy) (rm : Rm) (d a b : F),
    (Ready s h [rF a, rF b] [rF d] →
      FloatSetsToken s (.fdiv h ty rm d a b) ty d [a, b]
        (fpDiv (FTy.fmt ty) (s.me.rmMode rm) (fval s ty a) (fval s ty b))) ∧
    (Ready s h [rF a] [rF d] →
      FloatSetsToken s (.fsqrt h ty rm d a) ty d [a] (fpSqrt (FTy.fmt ty) (s.me.rmMode rm) (fval s ty a)))

namespace Sys2Proof.Claims
open Sys2Proof.Machine

/-- The sign bit of an encoding, and the bits below it. -/
def sgn (ty : FTy) (x : Nat) : Nat := x / 2 ^ ((FTy.fmt ty).width - 1) % 2
def mag (ty : FTy) (x : Nat) : Nat := x % 2 ^ ((FTy.fmt ty).width - 1)
def withSign (ty : FTy) (n m : Nat) : FR := ⟨m + n * 2 ^ ((FTy.fmt ty).width - 1), 0⟩

/-- The value comparison of R190: true, equal or unordered as a relation on exact values. -/
def fpRel (c : Cnd) (un : Bool) (o : Int) : Bool :=
  match c with
  | .eq => !un && o == 0
  | .ne => un || o != 0
  | .lt => !un && o < 0
  | .le => !un && o ≤ 0
  | .gt => !un && o > 0
  | .ge => !un && o ≥ 0
  | .un => un
  | .ord => !un

/-- The conditions of R190 that raise NV for any NaN and not for signalling ones alone. -/
def fpStrict (c : Cnd) : Bool :=
  match c with
  | .lt | .le | .gt | .ge => true
  | .eq | .ne | .un | .ord => false

end Sys2Proof.Claims

/-- R188 to R191, R193: minimum and maximum with their NaN rules, the sign operations, the comparison, the class and the plain
move. -/
def Sys2Proof.Claims.FloatBitsAndComparisons : Prop :=
  ∀ (s : State) (h : Hdr) (ty : FTy) (c : Cnd) (d a b : F) (p : P) (g : G) (x y : GF),
    let f := FTy.fmt ty
    let A := fval s ty a
    let B := fval s ty b
    let ea := fenc s ty a
    let eb := fenc s ty b
    let un := A.isNan || B.isNan
    let sg := A.isSnan || B.isSnan
    let nv := if sg then 1 else 0
    let o := fpOrder A B
    (Ready s h [rF a, rF b] [rF d] →
      (un = false →
        FloatSets s (.fmin h ty d a b) ty d [a, b]
          ⟨if o < 0 ∨ (o = 0 ∧ (A.neg = true ∨ B.neg = false)) then ea else eb, 0⟩ ∧
        FloatSets s (.fmax h ty d a b) ty d [a, b]
          ⟨if o < 0 ∨ (o = 0 ∧ A.neg = true ∧ B.neg = false) then eb else ea, 0⟩) ∧
      (A.isNan = true → B.isNan = false →
        FloatSets s (.fmin h ty d a b) ty d [a, b] ⟨eb, nv⟩ ∧ FloatSets s (.fmax h ty d a b) ty d [a, b] ⟨eb, nv⟩) ∧
      (A.isNan = false → B.isNan = true →
        FloatSets s (.fmin h ty d a b) ty d [a, b] ⟨ea, nv⟩ ∧ FloatSets s (.fmax h ty d a b) ty d [a, b] ⟨ea, nv⟩) ∧
      (A.isNan = true → B.isNan = true →
        FloatSets s (.fmin h ty d a b) ty d [a, b] ⟨f.qnan, nv⟩ ∧
        FloatSets s (.fmax h ty d a b) ty d [a, b] ⟨f.qnan, nv⟩) ∧
      FloatSets s (.fsgn h ty d a b) ty d [a, b] (withSign ty (sgn ty eb) (mag ty ea))) ∧
    (Ready s h [rF a] [rF d] →
      FloatSets s (.fabs h ty d a) ty d [a] (withSign ty 0 (mag ty ea)) ∧
      FloatSets s (.fneg h ty d a) ty d [a] (withSign ty (1 - sgn ty ea) (mag ty ea))) ∧
    (Ready s h [rF a, rF b] [rP p] →
      let fl := if (if fpStrict c then un else sg) then 1 else 0
      Quiet s fl → FpDone s (.fcmp h ty c p a b) (rP p)
        (fun t => t.me.pr p = if p = 0 then true else fpRel c un o) fl ([ea, eb].any f.isSub)) ∧
    (Ready s h [rF a] [rG g] →
      FpDone s (.fclass h ty g a) (rG g)
        (fun t => t.me.gr g = if g = 0 then 0 else w64 (256 * sgn ty ea +
          match A with
          | .nan _ q => if q then 5 else 4
          | .inf _ => 3
          | .num _ m _ => if m = 0 then 0 else if f.isSub ea then 1 else 2)) 0 (f.isSub ea)) ∧
    (Ready s h [rGF x] [rGF y] →
      ∃ t, exec (.fmov h y x) s = .next t ∧ t.me.gfr y = (if y = .g 0 then 0 else s.me.gfr x) ∧ Advanced s t ∧ Kept s t [rGF y])

/-- R151 to R154, R192: conversions between formats and to and from integers, in the mode of R141. -/
def Sys2Proof.Claims.FloatConversions : Prop :=
  ∀ (s : State) (h : Hdr) (td ts : FTy) (ti : Ty) (rm : Rm) (d a : F) (g : G),
    let md := s.me.rmMode rm
    (Ready s h [rF a] [rF d] →
      let r := cvtFF (FTy.fmt ts) (FTy.fmt td) md (fenc s ts a)
      Quiet s r.fl → FpDone s (.fcvt h td ts rm d a) (rF d) (fun t => t.me.fr d = w64 r.bits) r.fl
        ((FTy.fmt ts).isSub (fenc s ts a) || (FTy.fmt td).isSub r.bits)) ∧
    (Ready s h [rF a] [rG g] →
      let r := cvtFI (FTy.fmt ts) ti md (fenc s ts a)
      Quiet s r.fl → FpDone s (.fcvti h ti ts rm g a) (rG g)
        (fun t => t.me.gr g = if g = 0 then 0 else BitVec.ofInt 64 (tyVal ti r.bits)) r.fl
        ((FTy.fmt ts).isSub (fenc s ts a))) ∧
    (Ready s h [rG g] [rF d] →
      let r := cvtIF (FTy.fmt td) md (tyVal ti (s.me.gr g).toNat)
      Quiet s r.fl → FpDone s (.icvtf h td ti rm d g) (rF d) (fun t => t.me.fr d = w64 r.bits) r.fl
        ((FTy.fmt td).isSub r.bits))

/-- `i` takes code 10 with the flags `fl` in FCSR and in TRAPVAL, and writes no destination (R146); the tile's TOKUSED aside. -/
def Sys2Proof.Claims.FpTraps (s : State) (i : Instr) (fl : Nat) : Prop :=
  ¬ Quiet s fl → ∃ t, exec i s = .next t ∧
    TrapTaken ((s.upd fun x => { x with fcsr := x.fcsr ||| w64 (fl % 32 * 2 ^ 8) }).updTile fun x => { x with tokUsed := t.myTile.tokUsed })
      t 10 0 s.me.pc (w64 (fl % 32))

/-- R146: when an enabled flag is raised the instruction takes code 10, writes no destination, ORs the flags into FCSR and puts
them into TRAPVAL: sums, differences, products, fused forms, quotient and root. -/
def Sys2Proof.Claims.FloatTrapWritesNoDestination : Prop :=
  ∀ (s : State) (h : Hdr) (ty : FTy) (rm : Rm) (d a b c : F), Trappable s → s.me.waive = none →
    let f := FTy.fmt ty
    let md := s.me.rmMode rm
    let A := fval s ty a
    let B := fval s ty b
    let C := fval s ty c
    (Ready s h [rF a, rF b] [rF d] →
      FpTraps s (.fadd h ty rm d a b) (fpAdd f md A B).fl ∧ FpTraps s (.fsub h ty rm d a b) (fpAdd f md A B.flip).fl ∧
      FpTraps s (.fmul h ty rm d a b) (fpMul f md A B).fl ∧
      (TokensLeft s 1 → FpTraps s (.fdiv h ty rm d a b) (fpDiv f md A B).fl)) ∧
    (Ready s h [rF a] [rF d] → TokensLeft s 1 → FpTraps s (.fsqrt h ty rm d a) (fpSqrt f md A).fl) ∧
    (Ready s h [rF a, rF b, rF c] [rF d] →
      FpTraps s (.ffma h ty rm d a b c) (fpFma f md false A B C).fl ∧ FpTraps s (.ffms h ty rm d a b c) (fpFma f md false A B C.flip).fl ∧
      FpTraps s (.fnma h ty rm d a b c) (fpFma f md true A B C).fl)

namespace Sys2Proof.Claims
open Sys2Proof.Machine

/-- The magnitude that bits below the sign stand for, as an integer times 2^(1 − bias − m); the first pattern past the largest
finite value stands for the next step, which is the next power of two in a format whose largest value fills its binade. -/
def magVal (f : Fmt) (b : Nat) : Nat :=
  if b < 2 ^ f.m then b else (2 ^ f.m + b % 2 ^ f.m) * 2 ^ (b / 2 ^ f.m - 1)

/-- `b` is the largest magnitude not above num / den in units of 2^(1 − bias − m). -/
def IsFloor (f : Fmt) (num den b : Nat) : Prop := magVal f b * den ≤ num ∧ num < magVal f (b + 1) * den

/-- `b` is the correct rounding of num / den in a mode (R140). -/
def IsRounded (f : Fmt) (md : Mode) (neg : Bool) (num den b : Nat) : Prop :=
  match md, neg with
  | .rtz, _ | .rup, true | .rdn, false => IsFloor f num den b
  | .rup, false | .rdn, true => num ≤ magVal f b * den ∧ (b = 0 ∨ magVal f (b - 1) * den < num)
  | .rne, _ =>
    (∃ lo, IsFloor f num den lo ∧
      let up := magVal f (lo + 1) * den
      let dn := magVal f lo * den
      (num - dn < up - num ∧ b = lo ∨ up - num < num - dn ∧ b = lo + 1 ∨
        num - dn = up - num ∧ b % 2 = 0 ∧ (b = lo ∨ b = lo + 1)))

end Sys2Proof.Claims

/-- R140, R142, R144: what `Fmt.round` delivers for a positive fraction num / den × 2^exp is the correctly rounded value of its
mode, or the value of R142 where that is beyond range; NX says whether it is inexact. -/
def Obligations.RoundingIsCorrect : Prop :=
  ∀ (ty : Ty) (md : Mode) (neg : Bool) (num den : Nat) (exp : Int) (b n d : Nat),
    let f := Fmt.of ty
    let r := f.round md neg num den exp
    let q := exp - (1 - (f.bias : Int) - (f.m : Int))
    0 < num → 0 < den → n = num * 2 ^ q.toNat → d = den * 2 ^ (-q).toNat → IsRounded f md neg n d b →
      (b ≤ f.maxFinite →
        r.bits = b + (if neg then 2 ^ (f.e + f.m) else 0) ∧ (r.fl &&& 16 ≠ 0 ↔ magVal f b * d ≠ n) ∧ r.fl &&& 7 = 0) ∧
      (f.maxFinite < b → r.fl = 20 ∧
        r.bits = (if f.hasInf = true ∧ (md = .rne ∨ md = .rup ∧ neg = false ∨ md = .rdn ∧ neg = true) then f.infBits
          else f.maxFinite) + (if neg then 2 ^ (f.e + f.m) else 0))

/-- The arithmetic of class 0x06: its rounded results, its flags, its tokens. -/
def Sys2Proof.Claims.FloatArithmetic : Prop :=
  Claims.FloatSumsAndProducts ∧ Claims.FloatQuotientAndRoot

/-- The operations of class 0x06 on bits, its comparisons and its conversions. -/
def Obligations.FloatBitsComparisonsConversions : Prop :=
  Claims.FloatBitsAndComparisons ∧ Claims.FloatConversions

/-- The arithmetic of class 0x06, and its trap. -/
def Obligations.FloatArithmeticAndItsTrap : Prop :=
  Claims.FloatTrapWritesNoDestination ∧ Claims.FloatArithmetic


/-! ## Classes 0x01 and 0x02: control and hierarchy -/

/-- R124, R125: the branches, with 12 bytes for each instruction of the offset, the link in D (g0 discards it), and the
counter; jmpi reads its target before it writes the link. -/
def Obligations.ControlTransfers : Prop :=
  ∀ (s : State) (h : Hdr) (d a : G) (off : BitVec 52),
    let dest := s.me.pc + 12 * off.signExtend 64
    let n := s.me.gr d - 1
    (Ready s h [] [] → ∃ t, exec (.bra h off) s = .next t ∧ t.me.pc = dest ∧ Kept s t []) ∧
    (Ready s h [] [rG d] → ∃ t, exec (.call h d off) s = .next t ∧ t.me.pc = dest ∧
      t.me.gr d = (if d = 0 then 0 else s.me.pc + 12) ∧ Kept s t [rG d]) ∧
    (Ready s h [rG d] [rG d] → ∃ t, exec (.loop h d off) s = .next t ∧ t.me.gr d = (if d = 0 then 0 else n) ∧
      (n ≠ 0 → t.me.pc = dest) ∧ (n = 0 → Advanced s t) ∧ Kept s t [rG d]) ∧
    (Ready s h [rG a] [] → ∃ t, exec (.ret h a) s = .next t ∧ t.me.pc = s.me.gr a ∧ Kept s t []) ∧
    (Ready s h [rG a] [rG d] → ∃ t, exec (.jmpi h d a) s = .next t ∧ t.me.pc = s.me.gr a ∧
      t.me.gr d = (if d = 0 then 0 else s.me.pc + 12) ∧ Kept s t [rG d])

namespace Sys2Proof.Claims
open Sys2Proof.Machine

/-- A slot as it starts in a round (R95), at entry `pc`. -/
structure Begun (tl : Tile) (k : SlotId) (y : Slot) (pc : Word) : Prop where
  args : y.gr 1 = tl.lparam ∧ y.gr 2 = tl.tileIdx.setWidth 64 ∧ y.gr 3 = w64 k.val ∧ y.gr 4 = tl.round ∧ y.gr 5 = w64 tl.nTiles
  g : ∀ n : G, 5 < n.toNat → y.gr n = 0
  f : ∀ n : F, y.fr n = 0
  v : ∀ n : V, y.vr n = 0
  p : ∀ n : P, n ≠ 0 → y.pr n = false
  k : ∀ n : K, y.kr n = 0
  pc : y.pc = pc
  active : y.active = true ∧ y.tm = false
  zero : y.fcsr = 0 ∧ y.cntl = 0
  checked : y.chkHazard = tl.chkInit.1 ∧ y.chkPower = tl.chkInit.2
  streams : ∀ n : Fin 8, y.streams[n] = none

end Sys2Proof.Claims

/-- R127, R95, R126, R128: sstart gives an inactive slot the state of a round's start, in which it becomes active in its first turn
at least 8 cycles later, and does nothing to an active one; sstop and rdone end a slot once its long results are written, one that runs ahead
giving up what is unconfirmed (log 20); sbar counts its arrival and parks until every slot
named is inactive or has arrived as often; numbers above 31 trap. -/
def Obligations.SlotsStartStopAndMeet : Prop :=
  ∀ (s : State) (h : Hdr) (a b : G),
    let n := s.me.gr a
    let k : SlotId := slotOf n.toNat
    let x := s.slot s.cur.1 k
    let all := allSlots.all fun j => j == s.cur.2 || !n.getLsbD j.val || !(s.slot s.cur.1 j).active ||
      (s.slot s.cur.1 j).sbarCnt ≥ s.me.sbarCnt + 1
    (Ready s h [rG a, rG b] [] →
      (31 < n.toNat → Trappable s → Traps s (.sstart h a b) 4 0 s.me.pc n) ∧
      (n.toNat ≤ 31 → x.active = true → ∃ t, exec (.sstart h a b) s = .next t ∧ Advanced s t ∧ Kept s t []) ∧
      (n.toNat ≤ 31 → x.active = false → k ≠ s.cur.2 → ∃ t, exec (.sstart h a b) s = .next t ∧ Advanced s t ∧
        SlotKept s.me t.me [] ∧ Begun s.myTile k { t.slot s.cur.1 k with active := true } (s.me.gr b) ∧
        (t.slot s.cur.1 k).active = false ∧ (t.slot s.cur.1 k).starting = some (s.myTile.cycle + 8) ∧
        (t.slot s.cur.1 k).sbarCnt = x.sbarCnt ∧
        (∀ j, j ≠ k → j ≠ s.cur.2 → t.slot s.cur.1 j = s.slot s.cur.1 j) ∧ t.hbm = s.hbm) ∧
      (∀ c, x.starting = some c → (s.startUp s.cur.1 k).slot s.cur.1 k =
        if c ≤ s.myTile.cycle then { x with active := true, starting := none } else x)) ∧
    (Ready s h [rG a] [] →
      (31 < n.toNat → Trappable s → Traps s (.sstop h a) 4 0 s.me.pc n) ∧
      (n.toNat ≤ 31 → x.active = false → k ≠ s.cur.2 → ∃ t, exec (.sstop h a) s = .next t ∧ Advanced s t ∧ Kept s t []) ∧
      (n.toNat ≤ 31 → x.active = true → k ≠ s.cur.2 → x.ahead = false → ∃ t, exec (.sstop h a) s = .next t ∧ Advanced s t ∧
        SlotKept s.me t.me [] ∧ MemoryKept s t ∧ (∀ j, j ≠ k → j ≠ s.cur.2 → t.slot s.cur.1 j = s.slot s.cur.1 j) ∧
        (if x.longs = 0 then (t.slot s.cur.1 k).active = false else (t.slot s.cur.1 k).park = .halting)) ∧
      (n.toNat ≤ 31 → x.active = true → k ≠ s.cur.2 → x.ahead = true → ∃ t, exec (.sstop h a) s = .next t ∧ Advanced s t ∧
        (if x.dropUnconfirmed.longs = 0 then (t.slot s.cur.1 k).active = false else (t.slot s.cur.1 k).park = .halting)) ∧
      (n.toNat ≤ 31 → k = s.cur.2 → ∃ t, exec (.sstop h a) s = .next t ∧
        (if s.me.longs = 0 then t.me.active = false else t.me.park = .ending)) ∧
      ∃ t, exec (.sbar h a) s = .next t ∧ Advanced s t ∧ t.me.sbarCnt = s.me.sbarCnt + 1 ∧
        t.me.park = (if all then s.me.park else .sbar n)) ∧
    (Ready s h [] [] → ∃ t, exec (.rdone h) s = .next t ∧
      (s.me.longs ≠ 0 → t.me.park = .ending ∧ t.me.active = s.me.active) ∧
      (s.me.longs = 0 → t.me.active = false ∧
        (s.myTile.inRound = true → (∀ j, (s.slot s.cur.1 j).starting = none ∧ (j ≠ s.cur.2 → (s.slot s.cur.1 j).active = false)) →
          t.myTile.inRound = false)))

namespace Sys2Proof.Claims
open Sys2Proof.Machine

/-- The slot has one more operation outstanding and is otherwise as it was, counters raised by what the operation counts; it
has gone on past the instruction. -/
structure Queued (s t : State) (o : Op) : Prop where
  ops : t.me.ops = s.me.ops ++ [o]
  id : o.id = s.serial ∧ o.pc = s.me.pc ∧ o.performed = false ∧ o.held = false
  slot : SlotKept { s.me with cntl := s.me.cntl + (if o.cntL then 1 else 0),
                              cnts := s.me.cnts + (if o.cntS then 1 else 0) } t.me []
  fp : FpKept s.me t.me
  outside : OutsideKept { s with serial := s.serial + 1 } t
  advanced : Advanced s t

/-- Destinations of a long result as bit ranges of its data: code, first bit, width. -/
def destsOf (o : Op) : List (Nat × Nat × Nat) := o.dests.map fun d => (d.code, d.lo, d.bits)

/-- A destination register's code; writes of g0 and p0 are discarded (R61). -/
def destG (d : G) : Nat := if d = 0 then rNone else rG d
def destP (d : P) : Nat := if d = 0 then rNone else rP d

/-- Whether a live launch at entry `e` of the store is the object of a level and identifier, or lies under it (R109, R131). -/
def underObject (s : State) (level id e : Nat) : Bool :=
  let below (m : Map Obj) : Bool := match mapFind m id with
    | some o => s.myPart.launches.any fun l => l.1 == e && l.2.live && l.2.up.contains o.inst
    | none => false
  match level with
  | 1 => (match s.launch s.myTag e with | some l => id == e + l.gen.toNat * 256 && e < 256 | none => false)
  | 2 => below s.myPart.graphs
  | 3 => below s.myPart.phases
  | _ => below s.myPart.jobs

end Sys2Proof.Claims

/-- R129 to R132: launch checks its address, waits for CNTS and asks the launch processor, two long results; lfin ends the
launch's rounds with its code, the first one alone; cancel ends the live launch it names with status 3; ccount asks for a
counter; levels and identifiers outside their tables trap. -/
def Obligations.LaunchesFinishCancelCount : Prop :=
  ∀ (s : State) (h : Hdr) (d a b : G) (c : P),
    let v := s.me.gr a
    let i := s.me.gr b
    let bad := v = 0 ∨ 4 < v.toNat ∨ (v = 2 ∧ 4095 < i.toNat) ∨ (v = 3 ∧ 1023 < i.toNat) ∨ (v = 4 ∧ 255 < i.toNat)
    (Ready s h [rG a] [rG d, rP c] →
      (v.toNat % 128 ≠ 0 → Trappable s → Traps s (.launch h d a c) 3 0 s.me.pc v) ∧
      (v.toNat % 128 = 0 → s.myPart.pgroups * 2 ^ 30 < v.toNat + 128 → Trappable s →
        Traps s (.launch h d a c) 4 0 s.me.pc v) ∧
      (v.toNat % 128 = 0 → v.toNat + 128 ≤ s.myPart.pgroups * 2 ^ 30 →
        (s.me.cnts ≠ 0 → ∃ t, exec (.launch h d a c) s = .next t ∧ t.me.park = .stores ∧ t.me.pc = s.me.pc ∧ t.me.ops = s.me.ops) ∧
        (s.me.cnts = 0 → ∃ t o, exec (.launch h d a c) s = .next t ∧ Queued s t o ∧ o.kind = .query (.launch v.toNat) ∧
          destsOf o = [(destG d, 0, 64), (destP c, 64, 1)]))) ∧
    (Ready s h [rG a] [] → ∀ e l, s.myTile.launch = some e → s.launch s.myTag e = some l →
      ∃ t, exec (.lfin h a) s = .next t ∧ Advanced s t ∧ SlotKept s.me t.me [] ∧
        t.launch s.myTag e = some (if l.fin.isSome then l else { l with fin := some (v.setWidth 8) }) ∧
        (l.fin = none → ∀ u ∈ s.launchTiles s.myTag e, (t.tile u).roundsOver = true)) ∧
    (Ready s h [rG a, rG b] [] →
      (bad → Trappable s → Traps s (.cancel h a b) 4 0 s.me.pc i) ∧
      (¬ bad → ∃ t, exec (.cancel h a b) s = .next t ∧
        (∀ e l, s.launch s.myTag e = some l → l.ending = none →
          t.launch s.myTag e = some (if underObject s v.toNat i.toNat e then { l with ending := some 3 } else l) ∧
          (underObject s v.toNat i.toNat e = true →
            ∀ u ∈ s.launchTiles s.myTag e, (t.tile u).halted = true ∧ ∀ k, (t.slot u k).active = false)) ∧
        ((∀ e l, s.launch s.myTag e = some l → underObject s v.toNat i.toNat e = false) →
          Advanced s t ∧ SlotKept s.me t.me []))) ∧
    (Ready s h [rG a, rG b] [rG d] →
      (bad → Trappable s → Traps s (.ccount h d a b) 4 0 s.me.pc i) ∧
      (¬ bad → ∃ t o, exec (.ccount h d a b) s = .next t ∧ Queued s t o ∧ o.kind = .query (.ccount v.toNat i.toNat) ∧
        destsOf o = [(destG d, 0, 64)]))

/-! ## Classes 0x07 and 0x08: vectors and masks -/

namespace Sys2Proof.Claims
open Sys2Proof.Machine

/-- Lane `i` of `w` bits (R194). -/
def laneB (w : Nat) (x : VWord) (i : Nat) : BitVec w := x.extractLsb' (i * w) w

/-- No mask: every lane is active. -/
def noMask : VMask := ⟨false, 0, false⟩

/-- Whether lane `i` is active (R195, R196). -/
def activeAt (s : State) (m : VMask) (w i : Nat) : Bool :=
  !m.me || (s.me.kr m.km).getLsbD (if w = 8 then i / 2 else i)

/-- The operand codes a vector instruction reads: its sources and its mask. -/
def vecReads (src : List V) (m : VMask) : List Nat := src.map rV ++ (if m.me then [rK m.km] else [])

/-- Every lane of v[d] after an instruction with a mask (R196). -/
def LanesAre (s t : State) (d : V) (w : Nat) (m : VMask) (val : Nat → BitVec w) : Prop :=
  ∀ j, j < 1024 / w → laneB w (t.me.vr d) j =
    if activeAt s m w j then val j else if m.mz then 0 else laneB w (s.me.vr d) j

/-- `i` writes lanes and nothing else. -/
def VecSets (s : State) (i : Instr) (d : V) (w : Nat) (m : VMask) (val : Nat → BitVec w) : Prop :=
  ∃ t, exec i s = .next t ∧ LanesAre s t d w m val ∧ Advanced s t ∧ Kept s t [rV d]

/-- FCSR gains the union of the active lanes' flags (R144, R146). -/
def FlagsUnion (s t : State) (n : Nat) (on : Nat → Bool) (fl : Nat → Nat) : Prop :=
  (∀ b, b < 5 → (t.me.fcsr.getLsbD (8 + b) = true ↔
    s.me.fcsr.getLsbD (8 + b) = true ∨ ∃ j, j < n ∧ on j = true ∧ (fl j).testBit b = true)) ∧
  ∀ b, b < 8 ∨ 13 ≤ b → t.me.fcsr.getLsbD b = s.me.fcsr.getLsbD b

/-- `i` writes lanes of a floating-point type, `tok` tokens charged, when no enabled flag is raised. -/
def VecSetsFp (s : State) (i : Instr) (ty : FTy) (d : V) (m : VMask) (tok : Nat) (src : List V)
    (r : (Nat → Nat) → FR) : Prop :=
  let w := (FTy.fmt ty).width
  let ln (j : Nat) (n : Nat) : Nat := (laneB w (s.me.vr (src.getD n 0)) j).toNat
  let on (j : Nat) := activeAt s m w j
  (∀ j, j < 1024 / w → on j = true → Quiet s (r (ln j)).fl) → (tok ≠ 0 → TokensLeft s tok ∧ s.myTile.stretch = false) →
    ∃ t, exec i s = .next t ∧ LanesAre s t d w m (fun j => BitVec.ofNat w (r (ln j)).bits) ∧ Advanced s t ∧
      KeptFp (if tok = 0 then s else charged s tok) t [rV d] ∧ FlagsUnion s t (1024 / w) on (fun j => (r (ln j)).fl) ∧
      t.me.forfeit = s.me.forfeit + (if (List.range (1024 / w)).any (fun j => on j &&
        ((r (ln j)).bits :: (List.range src.length).map (ln j)).any (Fmt.isSub (FTy.fmt ty))) then 2 else 0)

end Sys2Proof.Claims

/-- R194 to R196, R213: lanes of integer types, modulo 2^w; inactive lanes keep their value or become zero; no flag. -/
def Sys2Proof.Claims.VectorIntegerLanes : Prop :=
  ∀ (s : State) (h : Hdr) (t : Ty) (rm : Rm) (m : VMask) (d a b c : V) (g : G), t.isI = true →
    let w := t.width
    let A := laneB w (s.me.vr a)
    let B := laneB w (s.me.vr b)
    let C := laneB w (s.me.vr c)
    let le (x y : BitVec w) : Bool := if tySigned t then x.sle y else x.ule y
    let n := (s.me.gr g).toNat % w
    (Ready s h (vecReads [a, b] m) [rV d] →
      VecSets s (.vadd h t rm m d a b) d w m (fun j => A j + B j) ∧
      VecSets s (.vsub h t rm m d a b) d w m (fun j => A j - B j) ∧
      VecSets s (.vmul h t rm m d a b) d w m (fun j => A j * B j) ∧
      VecSets s (.vmin h t m d a b) d w m (fun j => if le (A j) (B j) then A j else B j) ∧
      VecSets s (.vmax h t m d a b) d w m (fun j => if le (A j) (B j) then B j else A j) ∧
      VecSets s (.vand h t m d a b) d w m (fun j => A j &&& B j) ∧
      VecSets s (.vor h t m d a b) d w m (fun j => A j ||| B j) ∧
      VecSets s (.vxor h t m d a b) d w m (fun j => A j ^^^ B j) ∧
      VecSets s (.vshl h t m d a (.v b)) d w m (fun j => A j <<< ((B j).toNat % w)) ∧
      VecSets s (.vshr h t m d a (.v b)) d w m (fun j => A j >>> ((B j).toNat % w)) ∧
      VecSets s (.vsha h t m d a (.v b)) d w m (fun j => (A j).sshiftRight ((B j).toNat % w))) ∧
    (Ready s h (rG g :: vecReads [a] m) [rV d] →
      VecSets s (.vshl h t m d a (.g g)) d w m (fun j => A j <<< n) ∧
      VecSets s (.vshr h t m d a (.g g)) d w m (fun j => A j >>> n) ∧
      VecSets s (.vsha h t m d a (.g g)) d w m (fun j => (A j).sshiftRight n)) ∧
    (Ready s h (vecReads [a, b, c] m) [rV d] →
      VecSets s (.vfma h t rm m d a b c) d w m (fun j => A j * B j + C j) ∧
      VecSets s (.vfms h t rm m d a b c) d w m (fun j => A j * B j - C j)) ∧
    (Ready s h (vecReads [a] m) [rV d] →
      VecSets s (.vabs h t m d a) d w m (fun j => if tySigned t && (A j).msb then -(A j) else A j) ∧
      VecSets s (.vneg h t m d a) d w m (fun j => -(A j)))

/-- R212, R213: lanes of floating-point types, each as the scalar instruction computes it; an f64 vadd, vsub, vmul, vfma or vfms
is charged one token; vcmp's bits follow the scalar comparison. -/
def Obligations.VectorFloatLanes : Prop :=
  ∀ (s : State) (h : Hdr) (ty : FTy) (rm : Rm) (cnd : Cnd) (m : VMask) (d a b c : V) (k : K),
    let f := FTy.fmt ty
    let t := ty.ty
    let md := s.me.rmMode rm
    let D := FV.decode f
    let tok := if ty = .f64 then 1 else 0
    (Ready s h (vecReads [a, b] m) [rV d] →
      VecSetsFp s (.vadd h t rm m d a b) ty d m tok [a, b] (fun x => fpAdd f md (D (x 0)) (D (x 1))) ∧
      VecSetsFp s (.vsub h t rm m d a b) ty d m tok [a, b] (fun x => fpAdd f md (D (x 0)) (D (x 1)).flip) ∧
      VecSetsFp s (.vmul h t rm m d a b) ty d m tok [a, b] (fun x => fpMul f md (D (x 0)) (D (x 1))) ∧
      VecSetsFp s (.vmin h t m d a b) ty d m 0 [a, b] (fun x => fpMinMax f false (x 0) (x 1)) ∧
      VecSetsFp s (.vmax h t m d a b) ty d m 0 [a, b] (fun x => fpMinMax f true (x 0) (x 1))) ∧
    (Ready s h (vecReads [a, b, c] m) [rV d] →
      VecSetsFp s (.vfma h t rm m d a b c) ty d m tok [a, b, c] (fun x => fpFma f md false (D (x 0)) (D (x 1)) (D (x 2))) ∧
      VecSetsFp s (.vfms h t rm m d a b c) ty d m tok [a, b, c]
        (fun x => fpFma f md false (D (x 0)) (D (x 1)) (D (x 2)).flip)) ∧
    (Ready s h (vecReads [a, b] m) [rK k] →
      let r (j : Nat) := fpCmp f cnd (laneB t.width (s.me.vr a) j).toNat (laneB t.width (s.me.vr b) j).toNat
      let n := 1024 / t.width
      (∀ j, j < n → activeAt s m t.width j = true → Quiet s (r j).2) →
        ∃ u, exec (.vcmp h t cnd m k a b) s = .next u ∧ Advanced s u ∧ KeptFp s u [rK k] ∧
          FlagsUnion s u n (activeAt s m t.width) (fun j => (r j).2) ∧
          ∀ j, j < 64 → (u.me.kr k).getLsbD j =
            (decide (j < n) && if activeAt s m t.width j then (r j).1 else !m.mz && (s.me.kr k).getLsbD j)) ∧
    (Ready s h (vecReads [a] m) [rV d] →
      VecSetsFp s (.vabs h t m d a) ty d m 0 [a] (fun x => withSign ty 0 (mag ty (x 0))) ∧
      VecSetsFp s (.vneg h t m d a) ty d m 0 [a] (fun x => withSign ty (1 - sgn ty (x 0)) (mag ty (x 0))))

/-- R214 to R216, R218, R198: vcmp writes a bit for each lane and zero above; lanes selected, broadcast, inserted, extracted and
permuted as bits; mask operations on all 64 bits. -/
def Sys2Proof.Claims.VectorMovesAndMasks : Prop :=
  ∀ (s : State) (h : Hdr) (t : Ty) (cnd : Cnd) (m : VMask) (d a b : V) (k k1 k2 : K) (x : GF) (g g1 g2 : G),
    t.isI = true ∨ t.isF = true →
    let w := t.width
    let n := 1024 / w
    let A := laneB w (s.me.vr a)
    let B := laneB w (s.me.vr b)
    let ix := (s.me.gr g2).toNat
    let low (y : Word) : BitVec w := y.setWidth w
    (Ready s h (vecReads [a, b] m) [rK k] → t.isI = true → w ≠ 8 → cnd ≠ .un → cnd ≠ .ord →
      ∃ u, exec (.vcmp h t cnd m k a b) s = .next u ∧ Advanced s u ∧ Kept s u [rK k] ∧
        ∀ j, j < 64 → (u.me.kr k).getLsbD j =
          (decide (j < n) && if activeAt s m w j then
              (match cnd with
                | .eq => A j == B j
                | .ne => A j != B j
                | .lt => if tySigned t then (A j).slt (B j) else (A j).ult (B j)
                | .le => if tySigned t then (A j).sle (B j) else (A j).ule (B j)
                | .gt => if tySigned t then (B j).slt (A j) else (B j).ult (A j)
                | _ => if tySigned t then (B j).sle (A j) else (B j).ule (A j))
            else !m.mz && (s.me.kr k).getLsbD j)) ∧
    (Ready s h [rV a, rV b, rK k1] [rV d] →
      VecSets s (.vsel h t d a b k1) d w noMask (fun j => if activeAt s ⟨true, k1, false⟩ w j then A j else B j)) ∧
    (Ready s h (rGF x :: (if m.me then [rK m.km] else [])) [rV d] →
      VecSets s (.vbcast h t m d x) d w m (fun _ => low (s.me.gfr x))) ∧
    (Ready s h [rG g1, rG g2] [rV d] →
      VecSets s (.vmovg h t d g1 g2) d w noMask
        (fun j => if ix = j then low (s.me.gr g1) else laneB w (s.me.vr d) j)) ∧
    (Ready s h [rV a, rG g2] [rGF x] →
      ∃ u, exec (.vext h t x a g2) s = .next u ∧ Advanced s u ∧ Kept s u [rGF x] ∧
        u.me.gfr x = if x = .g 0 then 0 else if ix < n then
          (if tySigned t then (A ix).signExtend 64 else (A ix).setWidth 64) else 0) ∧
    (Ready s h (vecReads [a, b] m) [rV d] →
      ∃ u, exec (.vperm h t m d a b) s = .next u ∧ Advanced s u ∧ KeptFp s u [rV d] ∧ u.me.fcsr = s.me.fcsr ∧
        u.me.forfeit = s.me.forfeit + 3 ∧ LanesAre s u d w m (fun j => A ((B j).toNat % n))) ∧
    (Ready s h [rK k1, rK k2] [rK k] →
      SetsK s (.kand h k k1 k2) k (s.me.kr k1 &&& s.me.kr k2) ∧ SetsK s (.kor h k k1 k2) k (s.me.kr k1 ||| s.me.kr k2)) ∧
    (Ready s h [rK k1] [rK k] → SetsK s (.knot h k k1) k (~~~(s.me.kr k1))) ∧
    (Ready s h [rK k1] [rG g] → SetsG s (.kpop h g k1) g (w64 (ones (s.me.kr k1))))

namespace Sys2Proof.Claims
open Sys2Proof.Machine

/-- The tree of R219: node `i` of level `k` combines nodes 2i and 2i + 1 of the level below; an absent lane leaves the other. -/
def treeAt (f : Nat → Nat → FR) (x : Nat → Option Nat) : Nat → Nat → Option Nat × Nat
  | 0, i => (x i, 0)
  | k + 1, i =>
    let l := treeAt f x k (2 * i)
    let r := treeAt f x k (2 * i + 1)
    match l.1, r.1 with
    | some u, some v => (some (f u v).bits, l.2 ||| r.2 ||| (f u v).fl)
    | some u, none => (some u, l.2 ||| r.2)
    | none, o => (o, l.2 ||| r.2)

/-- A reduction of v[a] to D: the tree over the active lanes, a NaN canonical (R137), its flags with NV for every active signalling
NaN. -/
def Reduces (s : State) (i : Instr) (t : Ty) (m : VMask) (x : GF) (a : V) (f : Nat → Nat → FR) (absent : Nat) : Prop :=
  let w := t.width
  let n := 1024 / w
  let ln (j : Nat) := (laneB w (s.me.vr a) j).toNat
  let on (j : Nat) := activeAt s m w j
  let r := treeAt f (fun j => if on j then some (ln j) else none) (Nat.log2 n) 0
  let sig := (List.range n).any fun j => on j && t.isF && (FV.decode (Fmt.of t) (ln j)).isSnan
  let fl := r.2 ||| (if sig then 1 else 0)
  let out := match r.1 with
    | none => absent
    | some u => if t.isF && (FV.decode (Fmt.of t) u).isNan then (Fmt.of t).qnan else u
  let res : BitVec w := BitVec.ofNat w out
  Quiet s fl → FpDone s i (rGF x)
    (fun u => u.me.gfr x = if x = .g 0 then 0 else if tySigned t then res.signExtend 64 else w64 out) fl
    (t.isF && (Fmt.isSub (Fmt.of t) out ||
      (List.range n).any fun j => on j && Fmt.isSub (Fmt.of t) (ln j)))

end Sys2Proof.Claims

/-- R219: reductions over the tree fixed by lane index, and their value when no lane is active. -/
def Sys2Proof.Claims.VectorReductions : Prop :=
  ∀ (s : State) (h : Hdr) (t : Ty) (rm : Rm) (m : VMask) (x : GF) (a : V), Ready s h (vecReads [a] m) [rGF x] →
    (t.isI = true →
      let w := t.width
      let v (n : Nat) : Int := if tySigned t then (BitVec.ofNat w n).toInt else n
      Reduces s (.vredadd h t rm m x a) t m x a (fun p q => ⟨(p + q) % 2 ^ w, 0⟩) 0 ∧
      Reduces s (.vredmax h t m x a) t m x a (fun p q => ⟨if v p ≤ v q then q else p, 0⟩)
        (if tySigned t then 2 ^ (w - 1) else 0) ∧
      Reduces s (.vredmin h t m x a) t m x a (fun p q => ⟨if v p ≤ v q then p else q, 0⟩)
        (if tySigned t then 2 ^ (w - 1) - 1 else 2 ^ w - 1)) ∧
    (t.isF = true →
      let f := Fmt.of t
      Reduces s (.vredadd h t rm m x a) t m x a
        (fun p q => fpAdd f (s.me.rmMode rm) (FV.decode f p) (FV.decode f q)) 0 ∧
      Reduces s (.vredmax h t m x a) t m x a (fpMinMax f true) f.qnan ∧
      Reduces s (.vredmin h t m x a) t m x a (fpMinMax f false) f.qnan)

namespace Sys2Proof.Claims
open Sys2Proof.Machine

/-- One conversion of vcvt by the kinds of its types (R151 to R155, R217). -/
def convert (td ts : Ty) (md : Mode) (x : Nat) : FR :=
  let num (t : Ty) := t.isF || t.isNarrow
  let clamp (v : Int) : Int := if v < tyLo td then tyLo td else if tyHi td < v then tyHi td else v
  if num ts && num td then cvtFF (Fmt.of ts) (Fmt.of td) md x
  else if num ts then cvtFI (Fmt.of ts) td md x
  else if ts = .rns10 then (if num td then (Fmt.of td).roundInt md false (rnsVal x) 0 else cvtRI td x)
  else if td = .rns10 then cvtIR (tyVal ts x)
  else if num td then cvtIF (Fmt.of td) md (tyVal ts x)
  else ⟨ubits td.width (clamp (tyVal ts x)), 0⟩

end Sys2Proof.Claims

/-- R217: as many conversions as the smaller lane count; the lanes above are zero whatever the mask; RM = 0b000 rounds a narrow
result to nearest even. -/
def Sys2Proof.Claims.VectorConversions : Prop :=
  ∀ (s : State) (h : Hdr) (td ts : Ty) (rm : Rm) (m : VMask) (d a : V), vcvtPair td ts = true →
    Ready s h (vecReads [a] m) [rV d] →
    let n := min (1024 / td.width) (1024 / ts.width)
    let on (j : Nat) := activeAt s m (if n = 128 then 8 else 16) j
    let md := if rm = .dyn ∧ td.isNarrow = true then .rne else s.me.rmMode rm
    let r (j : Nat) := convert td ts md (laneB ts.width (s.me.vr a) j).toNat
    (∀ j, j < n → on j = true → Quiet s (r j).fl) →
    ∃ t, exec (.vcvt h td ts rm m d a) s = .next t ∧ Advanced s t ∧ KeptFp s t [rV d] ∧
      FlagsUnion s t n on (fun j => (r j).fl) ∧
      ∀ j, j < 1024 / td.width → laneB td.width (t.me.vr d) j =
        if n ≤ j then 0 else if on j then BitVec.ofNat _ (r j).bits else if m.mz then 0 else laneB td.width (s.me.vr d) j

namespace Sys2Proof.Claims
open Sys2Proof.Machine

/-- `x` is the encoding of (−1)^n × m × 2^q. -/
def Encodes (f : Fmt) (x : Nat) (n : Bool) (m : Nat) (q : Int) : Prop :=
  x < 2 ^ f.width ∧ ∃ s e, FV.decode f x = .num n s e ∧ s * 2 ^ (e - q).toNat = m * 2 ^ (q - e).toNat

end Sys2Proof.Claims

/-- R220, R221: each special function is one fixed function of the lane's bits and the type, charged one token; its invalid,
infinite and exact cases. -/
def Obligations.VectorSpecialFunctions : Prop :=
  (∀ (s : State) (h : Hdr) (ty : FTy) (m : VMask) (d a : V), Ready s h (vecReads [a] m) [rV d] →
    VecSetsFp s (.vrcp h ty m d a) ty d m 1 [a] (fun x => Fn.apply .rcp ty (x 0)) ∧
    VecSetsFp s (.vrsq h ty m d a) ty d m 1 [a] (fun x => Fn.apply .rsq ty (x 0)) ∧
    VecSetsFp s (.vexp2 h ty m d a) ty d m 1 [a] (fun x => Fn.apply .exp2 ty (x 0)) ∧
    VecSetsFp s (.vlog2 h ty m d a) ty d m 1 [a] (fun x => Fn.apply .log2 ty (x 0)) ∧
    VecSetsFp s (.vsin h ty m d a) ty d m 1 [a] (fun x => Fn.apply .sin ty (x 0)) ∧
    VecSetsFp s (.vcos h ty m d a) ty d m 1 [a] (fun x => Fn.apply .cos ty (x 0)) ∧
    VecSetsFp s (.vtanh h ty m d a) ty d m 1 [a] (fun x => Fn.apply .tanh ty (x 0))) ∧
  ∀ (ty : FTy) (x : Nat),
    let f := FTy.fmt ty
    let v := FV.decode f x
    let one := (f.round .rne false 1 1 0).bits
    (v.isNan = true → ∀ fn, Fn.apply fn ty x = ⟨f.qnan, if v.isSnan then 1 else 0⟩) ∧
    (v.isZero = true →
      Fn.apply .rcp ty x = ⟨f.signBit v.neg + f.infBits, 2⟩ ∧ Fn.apply .rsq ty x = ⟨f.signBit v.neg + f.infBits, 2⟩ ∧
      Fn.apply .exp2 ty x = ⟨one, 0⟩ ∧ Fn.apply .log2 ty x = ⟨f.signBit true + f.infBits, 2⟩ ∧
      Fn.apply .sin ty x = ⟨f.signBit v.neg, 0⟩ ∧ Fn.apply .cos ty x = ⟨one, 0⟩ ∧ Fn.apply .tanh ty x = ⟨f.signBit v.neg, 0⟩) ∧
    (v.isInf = true →
      Fn.apply .rcp ty x = ⟨f.signBit v.neg, 0⟩ ∧
      Fn.apply .rsq ty x = (if v.neg then ⟨f.qnan, 1⟩ else ⟨0, 0⟩) ∧
      Fn.apply .exp2 ty x = (if v.neg then ⟨0, 0⟩ else ⟨f.infBits, 0⟩) ∧
      Fn.apply .log2 ty x = (if v.neg then ⟨f.qnan, 1⟩ else ⟨f.infBits, 0⟩) ∧
      Fn.apply .sin ty x = ⟨f.qnan, 1⟩ ∧ Fn.apply .cos ty x = ⟨f.qnan, 1⟩ ∧
      Fn.apply .tanh ty x = ⟨f.signBit v.neg + one, 0⟩) ∧
    (v.isNan = false → v.isInf = false → v.isZero = false → v.neg = true →
      Fn.apply .rsq ty x = ⟨f.qnan, 1⟩ ∧ Fn.apply .log2 ty x = ⟨f.qnan, 1⟩) ∧
    ∀ (y : Nat) (n : Bool) (k : Int) (i : Nat),
      (Encodes f x n 1 k → Encodes f y n 1 (-k) → Fn.apply .rcp ty x = ⟨y, 0⟩) ∧
      (Encodes f x false 1 (2 * k) → Encodes f y false 1 (-k) → Fn.apply .rsq ty x = ⟨y, 0⟩) ∧
      (i ≠ 0 → Encodes f x n i 0 → Encodes f y false 1 (if n then -(i : Int) else i) → Fn.apply .exp2 ty x = ⟨y, 0⟩) ∧
      (Encodes f x false 1 k → Encodes f y (decide (k < 0)) k.natAbs 0 → Fn.apply .log2 ty x = ⟨y, 0⟩)

/-- Reductions over lanes and conversions between formats. -/
def Obligations.VectorReductionsAndConversions : Prop :=
  Claims.VectorReductions ∧ Claims.VectorConversions

/-- The integer lanes of class 0x07, its moves between lanes and registers, and its masks. -/
def Obligations.VectorIntegersMovesAndMasks : Prop :=
  Claims.VectorIntegerLanes ∧ Claims.VectorMovesAndMasks


/-! ## Class 0x09: streams -/

namespace Sys2Proof.Claims
open Sys2Proof.Machine

/-- The operands' registers hold no long result that CHECKED.HAZARD traps on and no poison; bound streams are allowed. -/
structure ReadyVec (s : State) (h : Hdr) (reads : List Nat) : Prop where
  guard : GuardSound s h
  regs : ∀ c ∈ reads, (s.me.chkHazard = true → c ∉ s.me.pending) ∧ c ∉ s.me.bad

/-- The core's instruction cache agrees with memory on `n` words from `a`, no home refuses one, and their lines need no room that L2
lacks (R52, R396, R10). -/
def CacheFresh (s : State) (a n : Nat) : Prop :=
  ∀ i, i < n → (∀ w, (a + 4 * i, w) ∈ s.myTile.icache[s.cur.2.val / 8] → w.toNat = s.readHbm s.myPart (a + 4 * i) 4) ∧
    s.refuses s.myTag (a + 4 * i) 4 = false ∧ L2Room s s.myTag (a + 4 * i)

/-- A binding of R199 at its start: the fields of 32 bytes of a descriptor. -/
def descriptor (x : Nat) : Binding :=
  let u (o n : Nat) : Nat := x / 2 ^ (8 * o) % 2 ^ (8 * n)
  let i (o : Nat) : Int := (BitVec.ofNat 32 (u o 4)).toInt
  { base := u 0 8, b0 := u 8 4, s0 := i 12, b1 := u 16 4, s1 := i 20, b2 := u 24 4, s2 := i 28,
    rcur := 0, wcur := 0, under := false, overrun := false }

/-- The window of a base: first address and the one past the last (R199). -/
def windowOf (base : Nat) : Nat × Nat :=
  if base < swzBase then (linBase, linBase + storeSize) else (swzBase, swzBase + storeSize)

end Sys2Proof.Claims

/-- R199: every element of a stream that sbind accepts lies wholly within the window of its base, at the address of R199. -/
def Sys2Proof.Claims.StreamElementsStayInTheirWindow : Prop :=
  ∀ (b : Binding) (e : Nat), b.ok = true → e < b.b0 * b.b1 * b.b2 →
    (b.addr e : Int) = b.base + (e % b.b0 : Nat) * b.s0 + (e / b.b0 % b.b1 : Nat) * b.s1 + (e / (b.b0 * b.b1) : Nat) * b.s2 ∧
    (windowOf b.base).1 ≤ b.addr e ∧ b.addr e + 128 ≤ (windowOf b.base).2 ∧ b.addr e % 64 = 0

/-- R207 to R210: sbind checks its descriptor in order and binds with both cursors zero, the register zeroed; sfree unbinds;
sstat reads the binding's state (its cursors are at most 2^28, R199); srep takes its own turn, and when the slot issues again what is
left of the streams that the next instruction names is counted. -/
def Sys2Proof.Claims.StreamsBindFreeAndReport : Prop :=
  ∀ (s : State) (h : Hdr) (d : BitVec 3) (a g : G),
    let v := s.me.gr a
    let n := v.toNat
    let b := descriptor (s.readHbm s.myPart n 32)
    let inHbm := n + 32 ≤ s.myPart.pgroups * 2 ^ 30 ∧ s.myPart.grants n 32 needR = true
    (ReadyVec s h [rG a] →
      (n % 32 ≠ 0 → Trappable s → Traps s (.sbind h d a) 3 0 s.me.pc v) ∧
      (n % 32 = 0 → ¬ inHbm → Trappable s → Traps s (.sbind h d a) 4 0 s.me.pc v) ∧
      (n % 32 = 0 → inHbm → CacheFresh s n 8 →
        (b.ok = false → Trappable s → ∃ t, exec (.sbind h d a) s = .next t ∧ t.me.tcode = 4 ∧ t.me.trapval = v ∧
          t.me.trappc = s.me.pc ∧ t.me.pc = s.myTile.trapvec &&& ~~~3 ∧ t.me.streams = s.me.streams ∧ t.me.v = s.me.v) ∧
        (b.ok = true → ∃ t, exec (.sbind h d a) s = .next t ∧ Advanced s t ∧ t.me.streams[d.toNat] = some b ∧
          t.me.vr (d.setWidth 5) = 0 ∧ SlotKept { s.me with streams := t.me.streams } t.me [rV (d.setWidth 5)] ∧ MemoryKept s t ∧
          ∀ i : Fin 8, i.val ≠ d.toNat → t.me.streams[i] = s.me.streams[i]))) ∧
    (ReadyVec s h [] →
      (s.me.streams[d.toNat] = none → ∃ t, exec (.sfree h d) s = .next t ∧ Advanced s t ∧ Kept s t []) ∧
      (s.me.streams[d.toNat] ≠ none → ∃ t, exec (.sfree h d) s = .next t ∧ Advanced s t ∧ t.me.streams[d.toNat] = none ∧
        t.me.vr (d.setWidth 5) = 0 ∧ SlotKept { s.me with streams := t.me.streams } t.me [rV (d.setWidth 5)] ∧ MemoryKept s t)) ∧
    (ReadyVec s h [] → (∀ b, s.me.streams[d.toNat] = some b → b.rcur < 2 ^ 29 ∧ b.wcur < 2 ^ 29) → SetsG s (.sstat h g d) g (match s.me.streams[d.toNat] with
      | none => 0
      | some b => 1#64 <<< 63 ||| (BitVec.ofBool b.under).setWidth 64 <<< 62 ||| (BitVec.ofBool b.overrun).setWidth 64 <<< 61 |||
          (BitVec.ofNat 29 b.wcur).setWidth 64 <<< 29 ||| (BitVec.ofNat 29 b.rcur).setWidth 64)) ∧
    (ReadyVec s h [] → ∃ t, exec (.srep h) s = .next t ∧ t.me.srep = some 0 ∧ t.me.pc = s.me.pc ∧ t.cur = s.cur ∧ Kept s t []) ∧
    (s.me.srep = some 0 → ∀ (q : Instr) (qh : Hdr) (ty : Ty) (vd va : V),
      let pc := s.me.pc + 12
      decode (BitVec.ofNat 96 (s.readHbm s.myPart pc.toNat 12)) = .ok q → fetchFault s.myPart pc.toNat = none →
      CacheFresh s pc.toNat 3 →
      let t := s.countReps
      (q = .nop qh → t.me.pc = s.me.pc + 12 ∧ t.me.srep = none ∧ SlotKept s.me t.me [] ∧ MemoryKept s t) ∧
      (q = .vneg qh ty noMask vd va → s.me.boundAt (rV vd) = false → ∀ b, va.toNat < 8 →
        s.me.streamOf va = some b →
        let left := b.b0 * b.b1 * b.b2 - b.rcur
        SlotKept s.me t.me [] ∧ MemoryKept s t ∧
          (if left = 0 then t.me.pc = s.me.pc + 24 ∧ t.me.srep = none else t.me.pc = s.me.pc ∧ t.me.srep = some left)))

/-- R200, R201, stated for an unmasked vor: reading a bound register it pops the element at RCUR, and writing one it pushes at
WCUR; beyond the end a pop reads zero and sets UNDER, a push writes nothing and sets OVER. -/
def Obligations.VectorInstructionsPopAndPush : Prop :=
  ∀ (s : State) (h : Hdr) (t : Ty) (d a b : V) (x : Binding), t.isI = true →
    ReadyVec s h [rV a, rV b] → s.me.boundAt (rV b) = false → s.me.acquiring = false → s.myTile.board = [] →
    let w := t.width
    let B := laneB w (s.me.vr b)
    (a.toNat < 8 → s.me.streams[a.toNat % 8]'(Nat.mod_lt _ (by decide)) = some x → s.me.boundAt (rV d) = false → s.myTile.badChunks = [] →
      let e : VWord := if x.rcur < x.total then BitVec.ofNat 1024 (s.myTile.storeRead (x.addr x.rcur) 128) else 0
      ∃ u, exec (.vor h t noMask d a b) s = .next u ∧ Advanced s u ∧
        (∀ j, j < 1024 / w → laneB w (u.me.vr d) j = laneB w e j ||| B j) ∧
        u.me.streams[a.toNat % 8]'(Nat.mod_lt _ (by decide)) =
          some (if x.rcur < x.total then { x with rcur := x.rcur + 1 } else { x with under := true }) ∧
        (∀ o, Memory.get u.myTile.store o = Memory.get s.myTile.store o)) ∧
    (d.toNat < 8 → s.me.streams[d.toNat % 8]'(Nat.mod_lt _ (by decide)) = some x → s.me.boundAt (rV a) = false →
      Memory.wf s.myTile.store = true → x.ok = true →
      ∃ u, exec (.vor h t noMask d a b) s = .next u ∧ Advanced s u ∧
        (x.wcur < x.total → ∀ j, j < 1024 / w →
          laneB w (BitVec.ofNat 1024 (u.myTile.storeRead (x.addr x.wcur) 128)) j = laneB w (s.me.vr a) j ||| B j) ∧
        (∀ o, (∀ i, i < 128 → storeOff (x.addr x.wcur + i) ≠ some o) → Memory.get u.myTile.store o = Memory.get s.myTile.store o) ∧
        (x.total ≤ x.wcur → ∀ o, Memory.get u.myTile.store o = Memory.get s.myTile.store o) ∧
        u.me.streams[d.toNat % 8]'(Nat.mod_lt _ (by decide)) =
          some (if x.wcur < x.total then { x with wcur := x.wcur + 1 } else { x with overrun := true }))

/-- The elements of a stream lie in its window; the instructions of class 0x0A and 0x08 that bind, free and report streams. -/
def Obligations.StreamsBindDeliverAndReport : Prop :=
  Claims.StreamElementsStayInTheirWindow ∧ Claims.StreamsBindFreeAndReport


/-! ## Class 0x0A: the matrix array -/

/-- R138, R139, R240: an integer of the range survives its residues, and a sum of residues reconstructs to the true sum when that
lies in the range. -/
def Obligations.ResidueNumbersAreExact : Prop :=
  ∀ v w : Int, -536870400 ≤ v → v < 536870400 →
    rnsVal (rnsOf v) = v ∧ rnsCanon (rnsOf v) = rnsOf v ∧
    (-536870400 ≤ v + w → v + w < 536870400 → rnsSum (rnsOf v) w = rnsOf (v + w) ∧ rnsVal (rnsSum (rnsOf v) w) = v + w)

namespace Sys2Proof.Claims
open Sys2Proof.Machine

/-- The core of the issuing slot (R8). -/
def myCore (s : State) : Fin 4 := coreOf s.cur.2

/-- R226, R227: the issuing slot is its core's gang slot and no slot of its core is parked at the drawbar. -/
def MayArrive (s : State) : Prop :=
  s.cur.2.val % 8 = s.myTile.matcfg.toNat % 8 ∧ ∀ a ∈ s.myTile.arrivals, a.slot.val / 8 ≠ s.cur.2.val / 8

/-- The kind by the table of R246. -/
def kindOf (ta tb : Ty) (iscale : Bool) : Option MKind :=
  let q (t : Ty) : Bool := t == .s8 || t == .z8 || (iscale && (t == .e3m2 || t == .e2m3 || t == .e2m1))
  let wd (t : Ty) : Bool := [Ty.f16, .bf16, .e4m3, .e5m2, .e3m2, .e2m3, .e2m1].contains t && !q t
  if ta == .f64 && tb == .f64 then some .fp64
  else if ta == .f32 && tb == .f32 then some .fp32
  else if wd ta && wd tb then some .wide
  else if q ta && q tb then some .rns
  else none

/-- The trap that an mmac operand of n bytes at `a` takes (R231), if any. -/
def operandTrap (s : State) (a n : Nat) (l2 : Bool) : Option Nat :=
  if a % 64 ≠ 0 then some 3
  else if l2 then
    (if (a < 2 ^ 39 ∧ a + n ≤ s.myPart.extent ∧ s.myPart.grants a n 1 = true) ∨
        (2 ^ 40 ≤ a ∧ a < 2 ^ 48 ∧ (s.myPart.findRegion a n).isSome ∧ s.myPart.permits .view a n 1 = true) then none else some 4)
  else if inWindow a n then none else some 4

/-- The checks of R248 on a tile-store range. -/
def rangeTrap (a n : Nat) : Option Nat :=
  if inWindow a 1 = false then some 4 else if a % 64 ≠ 0 then some 3 else if inWindow a n = false then some 4 else none

/-- What the issue of a quarter's operation leaves: the operation at the end of the order, the slot gone on. -/
structure InOrder (s t : State) (id : Nat) (c : YZ) (q : Fin 4) (what : QWhat) (board : Nat) : Prop where
  order : t.myTile.qops = s.myTile.qops ++ [{ id, q, set := c, what, board }]
  pc : t.me.pc = s.me.pcAfter

end Sys2Proof.Claims

/-- R226, R231, R246, R254: the checks of mmac and dbar at issue, gang slot first, then kind, then the addresses, A before B; an
mmac or dbar that passes them is an arrival, with its operands and predicates sampled, and parks its slot at the drawbar. -/
def Obligations.MatrixArrivals : Prop :=
  ∀ (s : State) (h : Hdr) (c : YZ) (a b : G) (sub : MmacSub),
    let va := s.me.gr a
    let vb := s.me.gr b
    (Ready s h [rG a, rG b] [] →
      (Trappable s → ¬ MayArrive s → Traps s (.mmac h c a b sub) 4 0 s.me.pc 1) ∧
      (Trappable s → MayArrive s → kindOf sub.ta sub.tb (s.myTile.matcfg.getLsbD 6) = none →
        Traps s (.mmac h c a b sub) 4 0 s.me.pc 3) ∧
      (MayArrive s → ∀ kind, kindOf sub.ta sub.tb (s.myTile.matcfg.getLsbD 6) = some kind →
        let fa := operandTrap s va.toNat (aBytes kind sub) sub.sa
        let fb := operandTrap s vb.toNat (bBytes kind sub) sub.sb
        (∀ e, Trappable s → fa = some e → Traps s (.mmac h c a b sub) e 0 s.me.pc va) ∧
        (∀ e, Trappable s → fa = none → fb = some e → Traps s (.mmac h c a b sub) e 0 s.me.pc vb) ∧
        (fa = none → fb = none → s.myTile.badYZ = [] → s.myTile.board.length < 64 →
          ∃ t m, exec (.mmac h c a b sub) s = .next t ∧ t.me.park = .drawbar ∧ t.me.pc = s.me.pcAfter ∧
            t.me.drawCnt = s.me.drawCnt + 1 ∧
            t.myTile.arrivals = s.myTile.arrivals ++ [{ slot := s.cur.2, n := s.me.drawCnt + 1, pc := s.me.pc, mac := some m }] ∧
            m.q = myCore s ∧ m.set = c ∧ m.kind = kind ∧ m.sub = sub ∧ m.a = va.toNat ∧ m.b = vb.toNat ∧
            m.y = s.myTile.y[sub.ys.toNat] ∧ m.z = s.myTile.z[sub.zs.toNat] ∧
            SlotKept { s.me with drawCnt := s.me.drawCnt + 1, park := .drawbar } t.me [] ∧ FpKept s.me t.me ∧ MemoryKept s t ∧
            t.myTile.y = s.myTile.y ∧ t.myTile.z = s.myTile.z ∧ t.myTile.acc = s.myTile.acc ∧
            ∃ bd, t.myTile.qops = s.myTile.qops ++ [{ id := m.qid, q := myCore s, set := c, what := .mac, board := bd }]))) ∧
    (Ready s h [] [] →
      (Trappable s → ¬ MayArrive s → Traps s (.dbar h) 4 0 s.me.pc 1) ∧
      (MayArrive s → ∃ t, exec (.dbar h) s = .next t ∧ t.me.park = .drawbar ∧ t.me.pc = s.me.pcAfter ∧
        t.me.drawCnt = s.me.drawCnt + 1 ∧
        t.myTile.arrivals = s.myTile.arrivals ++ [{ slot := s.cur.2, n := s.me.drawCnt + 1, pc := s.me.pc, mac := none }] ∧
        t.myTile.qops = s.myTile.qops ∧ SlotKept { s.me with drawCnt := s.me.drawCnt + 1, park := .drawbar } t.me [] ∧ FpKept s.me t.me ∧
        MemoryKept s t ∧ t.myTile.y = s.myTile.y ∧ t.myTile.z = s.myTile.z ∧ t.myTile.acc = s.myTile.acc))

/-- R245, R248 to R253, R224: the other matrix instructions at issue: their checks, and their place in the quarter's order. -/
def Obligations.MatrixTransfersAndRegisters : Prop :=
  ∀ (s : State) (h : Hdr) (c : YZ) (kind : MKind) (d a b : G) (p : P) (td ts : Ty) (zr : Bool),
    let v := s.me.gr a
    let q := myCore s
    let id := s.serial
    (Ready s h [] [] → ∃ t, exec (.mzero h c kind) s = .next t ∧ InOrder s t id c q (.zero kind) 0 ∧ SlotKept s.me t.me [] ∧ MemoryKept s t ∧
      t.myTile.acc = s.myTile.acc) ∧
    (Ready s h [rG a] [] →
      let n := (shapeOf kind).rows * (shapeOf kind).n * (ts.width / 8)
      (∀ e, Trappable s → rangeTrap v.toNat n = some e → Traps s (.mldt h c a kind ts) e 0 s.me.pc v) ∧
      (rangeTrap v.toNat n = none → s.myTile.board.length < 64 → ∃ t, exec (.mldt h c a kind ts) s = .next t ∧
        InOrder s t (id + 1) c q (.load s.cur.2 v.toNat kind ts) id ∧
        t.myTile.board = s.myTile.board ++ [{ id, rd := [(v.toNat, n)], wr := [], got := [] }] ∧ SlotKept s.me t.me [] ∧ MemoryKept s t ∧
        t.myTile.acc = s.myTile.acc)) ∧
    (Ready s h [rG d] [rG d, rP p] → TokensLeft s 1 →
      let v := s.me.gr d
      let n := 1024 * (td.width / 8)
      (∀ e, Trappable s → rangeTrap v.toNat n = some e → Traps s (.mdrain h c d p td zr) e 0 s.me.pc v) ∧
      (rangeTrap v.toNat n = none → s.myTile.board.length < 64 → (∀ o ∈ s.myTile.qops, o.id < id) →
        (s.myTile.matcfg.getLsbD 7 = false → ∃ t o, exec (.mdrain h c d p td zr) s = .next t ∧
          InOrder s t (id + 1) c q (.drain s.cur.2 (id + 2) v.toNat td zr s.myTile.matcfg false) id ∧
          t.me.ops = s.me.ops ++ [o] ∧ o.id = id + 2 ∧ destsOf o = [(destG d, 0, 64), (destP p, 64, 1)] ∧
          o.cntL = false ∧ o.cntS = false ∧ t.myTile.tokUsed = s.myTile.tokUsed + 1 ∧ SlotKept s.me t.me [] ∧ MemoryKept s t ∧
          t.myTile.acc = s.myTile.acc) ∧
        (s.myTile.matcfg.getLsbD 7 = true → ∃ t, exec (.mdrain h c d p td zr) s = .next t ∧ t.me.park = .range c h d p ∧
          t.me.pc = s.me.pc ∧ t.me.ops = s.me.ops ∧ t.myTile.tokUsed = s.myTile.tokUsed + 1 ∧
          SlotKept { s.me with park := .range c h d p } t.me [] ∧ MemoryKept s t ∧ t.myTile.acc = s.myTile.acc ∧
          t.myTile.qops = s.myTile.qops ++
            [{ id := id + 1, q, set := c, what := .drain s.cur.2 0 v.toNat td zr s.myTile.matcfg true, board := id }]))) ∧
    (Ready s h [rG a, rG b] [] →
      let n := (s.me.gr b).toNat
      let ok := 1 ≤ n ∧ n ≤ 229376 ∧ ((v.toNat < 2 ^ 39 ∧ v.toNat + n ≤ s.myPart.extent ∧ s.myPart.grants v.toNat n 1 = true) ∨
        (2 ^ 40 ≤ v.toNat ∧ v.toNat < 2 ^ 48 ∧ (s.myPart.findRegion v.toNat n).isSome ∧ s.myPart.permits .view v.toNat n 1 = true))
      (Trappable s → ¬ ok → Traps s (.mfetch h a b) 4 0 s.me.pc v) ∧
      (ok → ∃ t, exec (.mfetch h a b) s = .next t ∧ Advanced s t ∧ SlotKept s.me t.me [] ∧ MemoryKept s t ∧ t.myTile.pins = s.myTile.pins ∧
        ∀ l, v.toNat / 256 ≤ l → l ≤ (v.toNat + n - 1) / 256 →
          (t.myTile.pins.any fun x => x.line == l) = true ∨ (t.myTile.fetches.any fun x => x.line == l) = true ∨
            t.myTile.matstat.getLsbD 2 = true)) ∧
    (Ready s h [rG a] [] →
      (∃ t, exec (.msety h c a false) s = .next t ∧ Advanced s t ∧ SlotKept s.me t.me [] ∧ MemoryKept s t ∧ t.myTile.y = s.myTile.y.set c.toNat v ∧
        t.myTile.z = s.myTile.z) ∧
      (∃ t, exec (.msetz h c a false) s = .next t ∧ Advanced s t ∧ SlotKept s.me t.me [] ∧ MemoryKept s t ∧ t.myTile.z = s.myTile.z.set c.toNat v ∧
        t.myTile.y = s.myTile.y) ∧
      (inWindow v.toNat 1 = false → Trappable s →
        Traps s (.msety h c a true) 4 0 s.me.pc v ∧ Traps s (.msetz h c a true) 4 0 s.me.pc v) ∧
      (inWindow v.toNat 1 = true → v.toNat % 8 ≠ 0 → Trappable s →
        Traps s (.msety h c a true) 3 0 s.me.pc v ∧ Traps s (.msetz h c a true) 3 0 s.me.pc v) ∧
      (inWindow v.toNat 1 = true → v.toNat % 8 = 0 → s.me.acquiring = false → s.myTile.badChunks = [] →
        (∃ t, exec (.msety h c a true) s = .next t ∧ Advanced s t ∧ SlotKept s.me t.me [] ∧ MemoryKept s t ∧ t.myTile.z = s.myTile.z ∧
          t.myTile.y = s.myTile.y.set c.toNat (w64 (s.myTile.storeRead v.toNat 8))) ∧
        (∃ t, exec (.msetz h c a true) s = .next t ∧ Advanced s t ∧ SlotKept s.me t.me [] ∧ MemoryKept s t ∧ t.myTile.y = s.myTile.y ∧
          t.myTile.z = s.myTile.z.set c.toNat (w64 (s.myTile.storeRead v.toNat 8)))) ∧
      (∃ t, exec (.mcfg h a) s = .next t ∧ Advanced s t ∧ SlotKept s.me t.me [] ∧ MemoryKept s t ∧
        t.myTile.matcfg = v &&& 0xFFFFFFFF000000C7)) ∧
    (Ready s h [rG a] [rG d] →
      (3 < v.toNat → Trappable s → Traps s (.mbound h c d a) 4 0 s.me.pc v) ∧
      ∀ n : Fin 4, v.toNat = n.val → ∃ t o, exec (.mbound h c d a) s = .next t ∧
        InOrder s t (id + 1) c n (.bound s.cur.2 id) 0 ∧ t.me.ops = s.me.ops ++ [o] ∧ o.id = id ∧ destsOf o = [(destG d, 0, 64)] ∧
        SlotKept s.me t.me [] ∧ MemoryKept s t ∧ t.myTile.acc = s.myTile.acc)

namespace Sys2Proof.Claims
open Sys2Proof.Machine

/-- An operation of a quarter whose turn has come: no earlier one on its accumulator tile, no earlier scoreboard entry. -/
def TurnOf (x : Tile) (o : QOp) : Prop :=
  o ∈ x.qops ∧ (∀ p ∈ x.qops, p.id < o.id → p.q ≠ o.q ∨ p.set ≠ o.set) ∧ (∀ b ∈ x.board, o.board ≤ b.id)

/-- Element `e` of `w` bits of a little-endian bit stream (R232). -/
def elemAt (w x e : Nat) : Nat := x / 2 ^ (e * w) % 2 ^ w

/-- An operand in the tile store: its chunks as the member read them at its issue, and the others as they stand now (R234). -/
def operandNow (x : Tile) (early : Map (Nat × Bool)) (a n : Nat) : Nat :=
  if early = [] then x.storeRead a n
  else ((List.range ((n + 63) / 64)).map fun i =>
    (match mapFind early ((storeOff (a + 64 * i)).getD 0 / 64) with
    | some c => c.1
    | none => x.storeRead (a + 64 * i) 64) * 2 ^ (512 * i)).sum

/-- What an mmac makes of row i, column j of its quarter (R235, R236, R238), from operand bits A and B. -/
def mmacElem (m : Mac) (old A B i j : Nat) : Nat :=
  let sh := shapeOf m.kind
  let wa := if m.sub.a4 then 4 else m.sub.ta.width
  let wb := if m.sub.b4 then 4 else m.sub.tb.width
  let a (k : Nat) := elemAt wa A (i * sh.k + k)
  let b (k : Nat) := elemAt wb B (if m.sub.bt then k * sh.n + j else j * sh.k + k)
  let rowOn := !m.sub.ye || m.y.getLsbD (sh.rows * m.q.val + i)
  let colOn := !m.sub.ze || m.sub.zk || m.z.getLsbD j
  let kOn (k : Nat) := !(m.sub.ze && m.sub.zk) || m.z.getLsbD k
  if rowOn && colOn then
    if m.kind = .rns then
      let sum := ((List.range sh.k).map fun k =>
        if kOn k then rnsInput m.sub.ta m.sub.a4 (a k) * rnsInput m.sub.tb m.sub.b4 (b k) else 0).sum
      rnsSum old sum
    else fmaSum (accFmt m.kind) old ((List.range sh.k).map fun k =>
      if kOn k then (FV.decode (Fmt.of m.sub.ta) (a k), FV.decode (Fmt.of m.sub.tb) (b k))
      else (FV.num false 0 0, FV.num false 0 0))
  else old

end Sys2Proof.Claims

/-- R227, R228, R230, R247, R117: a gang forms when every other core's participant is inactive or has arrived as often, is
charged 4 tokens and resumes its slots; members that differ trap with 2; at its start each member quarter's accumulator tile
becomes old + A × B under the predicates (stated for operands in the tile store); it completes after 16 cycles for each distinct B; a line
is fetched as a copy, which every mmac that waits for it has then. -/
def Obligations.MatrixGangs : Prop :=
  ∀ (s : State) (t : TileId), s.power ≠ .off →
    let x := s.tile t
    (∀ ms n kind, s.frozen t = false → x.arrivals = ms → ms ≠ [] → (∀ a ∈ ms, a.n = n ∧ ∃ m, a.mac = some m ∧ m.kind = kind) →
      (∀ c : Fin 4, (∃ a ∈ ms, a.slot.val / 8 = c.val) ∨
        let k := slotOf (8 * c.val + x.matcfg.toNat % 8); (x.slot k).active = false ∨ n ≤ (x.slot k).drawCnt) →
      x.gangs.length < 4 → x.tokUsed + 4 ≤ x.tokDecl → x.tokUsed + 4 ≤ 65535 → x.stretch = false →
      ∃ u, exec (.gangForm t) s = .next u ∧ (u.tile t).gangs = x.gangs ++ [ms.filterMap (·.mac)] ∧ (u.tile t).arrivals = [] ∧
        (u.tile t).tokUsed = x.tokUsed + 4 ∧ (∀ a ∈ ms, (u.slot t a.slot).park = .none) ∧
        (u.tile t).matstat = if ms.length < 4 then x.matstat ||| 2 else x.matstat) ∧
    (∀ a b m, s.frozen t = false → x.gangs.length < 4 → x.arrivals = [a, b] → a.n = b.n → a.slot.val / 8 ≠ b.slot.val / 8 →
      a.mac = some m → b.mac = none → (∀ k, (x.slot k).active = true → k = a.slot ∨ k = b.slot) →
      (∀ k, k = a.slot ∨ k = b.slot → (x.slot k).longs = 0 ∧ (x.slot k).ra = none ∧ (x.slot k).tm = false) →
      x.trapvec &&& ~~~3 ≠ 0 →
      ∃ u, exec (.gangForm t) s = .next u ∧ (u.tile t).arrivals = [] ∧ (u.tile t).gangs = x.gangs ∧
        ∀ y ∈ [a, b], (u.slot t y.slot).tcode = 4 ∧ (u.slot t y.slot).trapval = 2 ∧ (u.slot t y.slot).trappc = y.pc ∧
          (u.slot t y.slot).pc = x.trapvec &&& ~~~3) ∧
    (∀ ms rest, x.gangs = ms :: rest → x.running = none → x.board = [] → (ms.Pairwise fun m m' => m.q ≠ m'.q) →
      (∀ m ∈ ms, m.sub.sa = false ∧ m.sub.sb = false ∧ m.lines = [] ∧
        (∀ o ∈ x.qops, o.id < m.qid → o.q ≠ m.q ∨ o.set ≠ m.set) ∧ ∀ o ∈ x.qops, o.id = m.qid → o.q = m.q ∧ o.set = m.set) →
      ∃ u, exec (.gangStart t) s = .next u ∧ (u.tile t).gangs = rest ∧
        (u.tile t).running = some (ms, x.cycle + 16 * ((ms.map fun m => (m.b, m.sub.bt)).eraseDups).length) ∧
        (∀ m ∈ ms,
          let old := x.accAt m.set m.q
          let new := (u.tile t).accAt m.set m.q
          let base (e : Nat) := if old.kind.isSome ∧ old.kind ≠ some m.kind then 0 else old.elem e
          new.kind = some m.kind ∧ (∀ i j, i < (shapeOf m.kind).rows → j < (shapeOf m.kind).n →
            new.elem (i * (shapeOf m.kind).n + j) = mmacElem m (base (i * (shapeOf m.kind).n + j))
              (operandNow x m.early m.a (aBytes m.kind m.sub)) (operandNow x m.early m.b (bBytes m.kind m.sub)) i j)) ∧
        ∀ c q, (∀ m ∈ ms, c ≠ m.set ∨ q ≠ m.q) → (u.tile t).accAt c q = x.accAt c q) ∧
    (∀ ms c, x.running = some (ms, c) → c ≤ x.cycle →
      ∃ u, exec (.gangComplete t) s = .next u ∧ (u.tile t).running = none ∧
        ∀ m ∈ ms, ∀ o ∈ (u.tile t).qops, o.id ≠ m.qid) ∧
    (∀ f rest, x.fetches = f :: rest → f.byMac = false → (∀ i, i < 4 → s.refuses x.tag.toNat (256 * f.line + 64 * i) 64 = false) →
      let l := f.line
      ∃ u p, exec (.pinLineFetch t) s = .next u ∧ (u.tile t).fetches = rest ∧ (u.tile t).pins = x.pins ++ [p] ∧ p.line = l ∧
        p.byMac = false ∧ (u.tile t).slots = x.slots ∧ (u.tile t).store = x.store ∧
        (∀ g ∈ (u.tile t).gangs, ∀ m ∈ g, m.lacks l = false) ∧ (∀ b ∈ (u.tile t).arrivals, ∀ m, b.mac = some m → m.lacks l = false) ∧
          (256 * l + 256 ≤ 2 ^ 39 → Owned s x.tag.toNat (256 * l) → L2Room s x.tag.toNat (256 * l) → ∀ i, i < 8 → bitsAt p.data (256 * i) 256 = s.readHbm (s.part x.tag.toNat) (256 * l + 32 * i) 32))

/-- R229, R245, R248, R249, R252: at its place in the order, an mdrain that waits under RANGETRAP takes the range trap or goes on, mzero
zeroes its accumulator tile, mldt loads it, mbound returns BOUND
and RANGE, and mdrain writes its converted elements row-major and returns the address past them, zeroing with ZR.
An accumulator element fits its format (64 bits in FP64, 32 in the other kinds). -/
def Obligations.MatrixQuarterOperations : Prop :=
  ∀ (s : State) (t : TileId) (o : QOp) (i : Nat), s.power ≠ .off → s.frozen t = false →
    let x := s.tile t
    let old := x.accAt o.set o.q
    TurnOf x o → (x.qops.filter fun y => y.q == o.q)[i]? = some o →
    (∀ kind, o.what = .zero kind → ∃ u, exec (.quarterOpPerform t o.q i) s = .next u ∧
      (u.tile t).accAt o.set o.q = { kind := some kind, bound := 0, range := false, bad := false, elems := [] } ∧
      ∀ y ∈ (u.tile t).qops, y.id ≠ o.id) ∧
    (∀ k a kind ts, o.what = .load k a kind ts → x.badChunks = [] → ts = (match kind with | .fp64 => .f64 | .rns => .s32 | _ => .f32) →
      ∃ u, exec (.quarterOpPerform t o.q i) s = .next u ∧ ((u.tile t).accAt o.set o.q).kind = some kind ∧
        let n := (shapeOf kind).rows * (shapeOf kind).n
        let src (e : Nat) := elemAt ts.width (x.storeRead a (n * (ts.width / 8))) e
        let v (e : Nat) : Int := (BitVec.ofNat 32 (src e)).toInt
        let cl (e : Nat) : Int := max (-536870400) (min 536870399 (v e))
        (∀ e, e < n → ((u.tile t).accAt o.set o.q).elem e = if kind = .rns then rnsOf (cl e) else src e) ∧
        (kind ≠ .rns → ((u.tile t).accAt o.set o.q).range = false ∧ ((u.tile t).accAt o.set o.q).bound = 0) ∧
        (kind = .rns → (((u.tile t).accAt o.set o.q).range = true ↔ ∃ e, e < n ∧ cl e ≠ v e) ∧
          ∀ e, e < n → (cl e).natAbs ≤ ((u.tile t).accAt o.set o.q).bound)) ∧
    (∀ k id op, o.what = .bound k id → (x.slot k).ops = [op] → op.id = id →
      ∃ u, exec (.quarterOpPerform t o.q i) s = .next u ∧ (u.tile t).accAt o.set o.q = old ∧
        (u.slot t k).ops = [{ op with data := (if old.range then 2 ^ 63 else 0) + old.bound, ready := true, performed := true }]) ∧
    (∀ k id a td zr cfg op kd, o.what = .drain k id a td zr cfg false → (x.slot k).ops = [op] → op.id = id → old.bad = false →
      old.kind = some kd → (∀ e, old.elem e < 2 ^ (if kd = .fp64 then 64 else 32)) → Memory.wf x.store = true → rangeTrap a (1024 * (td.width / 8)) = none → td.isDrain = true →
      let n := (shapeOf kd).rows * (shapeOf kd).n
      let w := td.width / 8
      ∃ u, exec (.quarterOpPerform t o.q i) s = .next u ∧
        (∀ e, e < n → (u.tile t).storeRead (a + e * w) w = drainElem old td cfg (old.elem e) % 2 ^ td.width) ∧
        (u.slot t k).ops = [{ op with data := a + n * w + (if kd = .rns ∧ old.range = true then 2 ^ 64 else 0),
                                      ready := true, performed := true }] ∧
        (u.tile t).accAt o.set o.q =
          if zr then { old with bound := 0, range := false, bad := false, elems := [] } else old) ∧
    (∀ k id a td zr cfg c h d p, o.what = .drain k id a td zr cfg true → (x.slot k).park = .range c h d p → (x.slot k).active = true →
      (x.slot k).sPark = false → (x.slot k).yPark = none → (x.slot k).ra = none →
      (∀ y ∈ x.qops, ∀ id' a' td' zr' cfg', y.what = .drain k id' a' td' zr' cfg' true → y = o) →
      let bad := old.kind = some .rns ∧ old.range = true ∧ (x.slot k).waive ≠ some 9
      (bad → (x.slot k).tm = false → (x.slot k).longs = 0 → x.trapvec &&& ~~~3 ≠ 0 →
        ∃ u, exec (.slotResume t k) s = .next u ∧ (u.slot t k).tcode = 9 ∧ (u.slot t k).tinfo = 0 ∧
          (u.slot t k).trapval = w64 (4 * o.set.toNat + o.q.val) ∧ (u.slot t k).trappc = (x.slot k).pc ∧
          (u.slot t k).pc = x.trapvec &&& ~~~3 ∧ (u.slot t k).ops = (x.slot k).ops ∧ ∀ y ∈ (u.tile t).qops, y.id ≠ o.id) ∧
      (¬ bad → ∃ u op, exec (.slotResume t k) s = .next u ∧ (u.slot t k).park = .none ∧ (u.slot t k).pc = (x.slot k).pcAfter ∧
        (u.slot t k).ops = (x.slot k).ops ++ [op] ∧ op.id = s.serial ∧ destsOf op = [(destG d, 0, 64), (destP p, 64, 1)] ∧
        { o with what := .drain k s.serial a td zr cfg false } ∈ (u.tile t).qops))

/-! ## Memory -/

/-- R2, R242: a store to the tile store is read back, little-endian, through its own address; every byte at another offset keeps its
value; the swizzled window names the same bytes in another order, its mapping its own inverse. -/
def Sys2Proof.Claims.TileStoreKeepsWhatIsStored : Prop :=
  ∀ (x : Tile) (a v n : Nat), Memory.wf x.store = true → inWindow a n = true → n ≤ 4096 →
    (x.storeWrite a v n).storeRead a n = v % 2 ^ (8 * n) ∧ Memory.wf (x.storeWrite a v n).store = true ∧
    (∀ o, (∀ i, i < n → storeOff (a + i) ≠ some o) → Memory.get (x.storeWrite a v n).store o = Memory.get x.store o) ∧
    ∀ o, o < 2 ^ 21 → storeOff (linBase + o) = some o ∧
      ∃ w, w < 2 ^ 21 ∧ storeOff (swzBase + o) = some w ∧ storeOff (swzBase + w) = some o ∧ w % 64 = o % 64 ∧ w / 2 ^ 11 = o / 2 ^ 11

/-- R2, R261, R400: a write to HBM within one 64 KiB unit, in a block whose clear bit is not set, is read back; every other byte keeps
its value; a block whose clear bit is set reads zero. -/
def Sys2Proof.Claims.HbmKeepsWhatIsWritten : Prop :=
  ∀ (s : State) (p : Part) (a v n : Nat), Memory.wf s.hbm = true → a / 65536 = (a + n - 1) / 65536 → 0 < n →
    (s.blockClear (p.phys a) = false →
      (s.writeHbm p a v n).readHbm p a n = v % 2 ^ (8 * n) ∧ Memory.wf (s.writeHbm p a v n).hbm = true ∧
      (∀ ph, ph < p.phys a ∨ p.phys a + n ≤ ph → (s.writeHbm p a v n).hbmByte ph = s.hbmByte ph) ∧
      (s.writeHbm p a v n).tiles = s.tiles) ∧
    (s.blockClear (p.phys a) = true → s.readHbm p a n = 0)

namespace Sys2Proof.Claims
open Sys2Proof.Machine

/-- n bytes at `a` in the partition's HBM within 4 KiB, with the permissions needed (R256, R323, R264: RD 1, W 2). -/
def HbmOk (s : State) (a n need : Nat) : Prop :=
  a < 2 ^ 39 ∧ a + n ≤ s.myPart.extent ∧ a / 4096 = (a + n - 1) / 4096 ∧ s.myPart.grants a n need = true

/-- n bytes at `a` in a tile-store window within 4 KiB. -/
def StoreOk (a n : Nat) : Prop := inWindow a n = true ∧ a / 4096 = (a + n - 1) / 4096

/-- The bytes of a load or store. -/
def bytesOf (z : Size) : Nat :=
  match z with
  | .b8 => 1
  | .b16 => 2
  | .b32 => 4
  | .b64 => 8

def destGF (d : GF) : Nat := if d = .g 0 then rNone else rGF d

/-- A load is queued: one long result to each destination, counted on CNTL (R85, R322). -/
def LoadQueued (s : State) (i : Instr) (a n : Nat) (ds : List (Nat × Nat × Nat)) (signed : Bool) : Prop :=
  ∃ t o, exec i s = .next t ∧ Queued s t o ∧ o.kind = .load ∧ o.addr = a ∧ o.size = n ∧ o.pieces = piecesOf .hbm a n ∧
    o.cntL = true ∧ o.cntS = false ∧ destsOf o = ds ∧ ∀ d ∈ o.dests, d.signed = signed

/-- A store is queued with its data, counted on CNTS; nothing is written yet. -/
def StoreQueued (s : State) (i : Instr) (kind : OpKind) (a n v : Nat) (after : List Nat) : Prop :=
  ∃ t o, exec i s = .next t ∧ Queued s t o ∧ o.kind = kind ∧ o.addr = a ∧ o.size = n ∧ o.pieces = piecesOf .hbm a n ∧
    o.data = v ∧ o.cntL = false ∧ o.cntS = true ∧ o.dests = [] ∧ o.after = after

/-- The bytes of the tile store at `a` become the low n of v; every other byte, every register and HBM stay. -/
def StoredNow (s t : State) (a n v : Nat) : Prop :=
  t.myTile.storeRead a n = v % 2 ^ (8 * n) ∧
  (∀ o, (∀ i, i < n → storeOff (a + i) ≠ some o) → Memory.get t.myTile.store o = Memory.get s.myTile.store o) ∧
  SlotKept s.me t.me [] ∧ FpKept s.me t.me ∧ (∀ ph, t.hbmByte ph = s.hbmByte ph) ∧
  (∀ u, u ≠ s.cur.1 → t.tile u = s.tile u) ∧ Advanced s t

/-- Lane `i`'s address of vgather and vscatter (R326). -/
def laneAddr (s : State) (a : G) (b : V) (sc : BitVec 2) (disp : BitVec 48) (i : Nat) : Nat :=
  (s.me.gr a + (laneB 32 (s.me.vr b) i).signExtend 64 * BitVec.ofNat 64 (2 ^ sc.toNat) + disp.signExtend 64).toNat

end Sys2Proof.Claims

/-- R324 to R326, R328: a load from a tile-store window delivers at once; one from HBM is queued as a long result. -/
def Obligations.LoadsDeliverOrQueue : Prop :=
  ∀ (s : State) (h : Hdr) (sz : Size) (sco : Scope) (d : GF) (g : G) (v b : V) (m : MemRef) (sc : BitVec 2) (disp : BitVec 48),
    let a := (s.me.ea m).toNat
    let n := bytesOf sz
    let now (l : Nat) : Prop := StoreOk a l ∧ s.me.acquiring = false ∧ s.myTile.badChunks = []
    let z (e : G) (x : Word) : Word := if e = 0 then 0 else x
    let la := laneAddr s g b sc disp
    (Ready s h [rG m.base, rG m.index] [rGF d] →
      (now n → ∃ t, exec (.ld h sz d m) s = .next t ∧
        t.me.gfr d = (if d = .g 0 then 0 else w64 (s.myTile.storeRead a n)) ∧ Advanced s t ∧ Kept s t [rGF d]) ∧
      (HbmOk s a n 1 → LoadQueued s (.ld h sz d m) a n [(destGF d, 0, 8 * n)] false)) ∧
    (Ready s h [rG m.base, rG m.index] [rG g] →
      (now n → SetsG s (.ldSigned h sz g m) g ((BitVec.ofNat (8 * n) (s.myTile.storeRead a n)).signExtend 64)) ∧
      (HbmOk s a n 1 → LoadQueued s (.ldSigned h sz g m) a n [(destG g, 0, 8 * n)] true) ∧
      (now n → a % n = 0 → ∃ t, exec (.ldacq h sz sco g m) s = .next t ∧ t.me.gr g = z g (w64 (s.myTile.storeRead a n)) ∧
        Advanced s t ∧ Kept (s.updTile fun x => { x with l1 := t.myTile.l1 }) t [rG g] ∧
        t.myTile.l1 = if sco = .slot ∨ sco = .core then s.myTile.l1 else s.myTile.l1.set (s.cur.2.val / 8) []) ∧
      (HbmOk s a n 1 → a % n = 0 → ∃ t o, exec (.ldacq h sz sco g m) s = .next t ∧ Queued s t o ∧ o.kind = .acq sco ∧ o.addr = a ∧
        o.size = n ∧ o.cntL = true ∧ o.cntS = false ∧ destsOf o = [(destG g, 0, 8 * n)])) ∧
    (Ready s h [rG m.base, rG m.index] [rG g, rG (g + 1)] → g ≠ 31 →
      (now 16 → ∃ t, exec (.ldB128 h g m) s = .next t ∧ t.me.gr g = z g (w64 (s.myTile.storeRead a 16)) ∧
        t.me.gr (g + 1) = w64 (s.myTile.storeRead a 16 / 2 ^ 64) ∧ Advanced s t ∧ Kept s t [rG g, rG (g + 1)]) ∧
      (HbmOk s a 16 1 → LoadQueued s (.ldB128 h g m) a 16 [(destG g, 0, 64), (rG (g + 1), 64, 64)] false)) ∧
    (Ready s h [rG m.base, rG m.index] [rV v] →
      (now 128 → ∃ t, exec (.vld h v m) s = .next t ∧ t.me.vr v = BitVec.ofNat 1024 (s.myTile.storeRead a 128) ∧ Advanced s t ∧
        Kept s t [rV v]) ∧
      (HbmOk s a 128 1 → LoadQueued s (.vld h v m) a 128 [(rV v, 0, 1024)] false)) ∧
    (Ready s h [rG g, rV b] [rV v] →
      ((∀ i, i < 32 → StoreOk (la i) 4) → s.me.acquiring = false → s.myTile.badChunks = [] →
        ∃ t, exec (.vgather h v g b sc disp) s = .next t ∧
          (∀ i, i < 32 → (laneB 32 (t.me.vr v) i).toNat = s.myTile.storeRead (la i) 4) ∧ Advanced s t ∧ Kept s t [rV v]) ∧
      ((∀ i, i < 32 → HbmOk s (la i) 4 1) →
        ∃ t o, exec (.vgather h v g b sc disp) s = .next t ∧ Queued s t o ∧ o.kind = .load ∧ o.cntL = true ∧ o.cntS = false ∧
          destsOf o = [(rV v, 0, 1024)] ∧
          ∀ i, i < 32 → ∀ p ∈ piecesOf .hbm (la i) 4, { p with pos := p.pos + 4 * i } ∈ o.pieces))

/-- R324 to R326, R328 to R331: a store to a tile-store window writes at once, and nothing else; one to HBM is queued with the value it
had at issue; strel waits for what the slot has counted; the highest lane of vscatter stands; flush; pref completes whatever its operands hold. -/
def Obligations.StoresWriteOrQueue : Prop :=
  ∀ (s : State) (h : Hdr) (sz : Size) (sco : Scope) (d : GF) (g : G) (v b : V) (m : MemRef) (sc : BitVec 2) (disp : BitVec 48),
    let a := (s.me.ea m).toNat
    let n := bytesOf sz
    let la := laneAddr s g b sc disp
    Memory.wf s.myTile.store = true → s.me.acquiring = false →
    (Ready s h [rGF d, rG m.base, rG m.index] [] →
      let x := (s.me.gfr d).toNat % 2 ^ (8 * n)
      (StoreOk a n → ∃ t, exec (.st h sz m d) s = .next t ∧ StoredNow s t a n x) ∧
      (HbmOk s a n 2 → StoreQueued s (.st h sz m d) .store a n x [])) ∧
    (Ready s h [rG g, rG (g + 1), rG m.base, rG m.index] [] →
      let x := (s.me.gr g).toNat + (s.me.gr (g + 1)).toNat * 2 ^ 64
      (StoreOk a 16 → ∃ t, exec (.stB128 h m g) s = .next t ∧ StoredNow s t a 16 x) ∧
      (HbmOk s a 16 2 → StoreQueued s (.stB128 h m g) .store a 16 x [])) ∧
    (Ready s h [rG g, rG m.base, rG m.index] [] → a % n = 0 →
      let x := (s.me.gr g).toNat % 2 ^ (8 * n)
      (StoreOk a n → s.me.counted = [] → ∃ t, exec (.strel h sz sco m g) s = .next t ∧ StoredNow s t a n x) ∧
      (StoreOk a n → s.me.counted ≠ [] → ∃ t, exec (.strel h sz sco m g) s = .next t ∧ t.me.park = .release ∧ t.me.pc = s.me.pc) ∧
      (HbmOk s a n 2 → StoreQueued s (.strel h sz sco m g) (.rel sco) a n x s.me.counted)) ∧
    (Ready s h [rV v, rG m.base, rG m.index] [] →
      (StoreOk a 128 → ∃ t, exec (.vst h m v) s = .next t ∧ StoredNow s t a 128 (s.me.vr v).toNat) ∧
      (HbmOk s a 128 2 → StoreQueued s (.vst h m v) .store a 128 (s.me.vr v).toNat [])) ∧
    (Ready s h [rV v, rG g, rV b] [] →
      ((∀ i, i < 32 → StoreOk (la i) 4) →
        ∃ t, exec (.vscatter h v g b sc disp) s = .next t ∧ Advanced s t ∧ SlotKept s.me t.me [] ∧
          (∀ i, i < 32 → (∀ j x y, i < j → j < 32 → x < 4 → y < 4 → storeOff (la i + x) ≠ storeOff (la j + y)) →
            t.myTile.storeRead (la i) 4 = (laneB 32 (s.me.vr v) i).toNat) ∧
          ∀ o, (∀ i x, i < 32 → x < 4 → storeOff (la i + x) ≠ some o) → Memory.get t.myTile.store o = Memory.get s.myTile.store o) ∧
      ((∀ i, i < 32 → HbmOk s (la i) 4 2) →
        ∃ t o, exec (.vscatter h v g b sc disp) s = .next t ∧ Queued s t o ∧ o.kind = .store ∧ o.cntL = false ∧ o.cntS = true ∧
          o.data = (s.me.vr v).toNat)) ∧
    (Ready s h [rG m.base, rG m.index] [] →
      (a < 2 ^ 39 → a + 1 ≤ s.myPart.extent →
        s.myPart.grants (a / 256 * 256) 256 1 = true ∨ s.myPart.grants (a / 256 * 256) 256 2 = true →
        ∃ t o, exec (.flush h m) s = .next t ∧ Queued s t o ∧ o.kind = .flush ∧ o.addr = a ∧ o.cntL = false ∧ o.cntS = true) ∧
      (StoreOk a 1 → ∃ t, exec (.flush h m) s = .next t ∧ Advanced s t ∧ Kept s t []) ∧
      (StoreOk a 1 → ∃ t, exec (.pref h m) s = .next t ∧ Kept s t [])) ∧
    (s.power ≠ .off → s.me.guardOk h = true → s.me.ra = none → ∃ t, exec (.pref h m) s = .next t ∧ Advanced s t ∧ SlotKept s.me t.me [] ∧
      (a < 2 ^ 39 → L2Room s s.myTag (a / 256 * 256) → MemoryKept s t))

/-- R323, R255 to R257, R264: the checks of an access in their order: the class of its first byte, then the 4 KiB boundary and the
alignment, then the protection ranges; each traps with the address before any effect. -/
def Obligations.AccessChecksInOrder : Prop :=
  ∀ (s : State) (h : Hdr) (sz : Size) (sco : Scope) (w : AmoW) (d : GF) (g : G) (b : G) (m : MemRef),
    Trappable s → Ready s h [rGF d, rG g, rG b, rG m.base, rG m.index] [rGF d, rG g] →
    let v := s.me.ea m
    let a := v.toNat
    let n := bytesOf sz
    let inHbm := a < 2 ^ 39 ∧ a < s.myPart.extent
    let hole := (a < 2 ^ 39 ∧ s.myPart.extent ≤ a) ∨ (2 ^ 39 ≤ a ∧ a < 2 ^ 40) ∨
      (2 ^ 40 ≤ a ∧ a < 2 ^ 48 ∧ s.myPart.findRegion a 1 = none) ∨ (2 ^ 48 ≤ a ∧ a < 2 ^ 49 ∧ inWindow a n = false) ∨
      (2 ^ 50 ≤ a ∧ a < 2 ^ 63) ∨ (2 ^ 63 ≤ a ∧ (a / 2 ^ 60 % 8 ≠ 0 ∨ s.myPart.link (remoteChip s a) = none))
    let crosses := a / 4096 ≠ (a + n - 1) / 4096
    (hole → Traps s (.ld h sz d m) 4 0 s.me.pc v ∧ Traps s (.st h sz m d) 4 0 s.me.pc v ∧ Traps s (.ldacq h sz sco g m) 4 0 s.me.pc v ∧
      Traps s (.strel h sz sco m g) 4 0 s.me.pc v) ∧
    (inHbm ∨ (2 ^ 49 ≤ a ∧ a < 2 ^ 50) → crosses → Traps s (.ld h sz d m) 3 0 s.me.pc v ∧ Traps s (.st h sz m d) 3 0 s.me.pc v) ∧
    (inHbm → a % n ≠ 0 → Traps s (.ldacq h sz sco g m) 3 0 s.me.pc v ∧ Traps s (.strel h sz sco m g) 3 0 s.me.pc v) ∧
    (inHbm → ¬ crosses → s.myPart.grants a n 1 = false → Traps s (.ld h sz d m) 4 0 s.me.pc v) ∧
    (inHbm → ¬ crosses → s.myPart.grants a n 2 = false → Traps s (.st h sz m d) 4 0 s.me.pc v) ∧
    (w ≠ .b128 → inWindow (s.me.gr g).toNat (if w = .b32 then 4 else 8) = true →
      Traps s (.amoadd h w false g g b) 4 0 s.me.pc (s.me.gr g))

/-- R332, R333: waitc parks its slot only while the counter is above n; mwait checks its address and parks the slot on the stamp, with
the cycle of its issue and the limit, a host stamp's page first to be translated. -/
def Sys2Proof.Claims.WaitsPark : Prop :=
  ∀ (s : State) (h : Hdr) (n : BitVec 16) (d : P) (a b c : G),
    let v := s.me.gr a
    (Ready s h [] [] →
      (s.me.cntl.toNat ≤ n.toNat → ∃ t, exec (.waitcL h n) s = .next t ∧ Advanced s t ∧ Kept s t []) ∧
      (n.toNat < s.me.cntl.toNat → ∃ t, exec (.waitcL h n) s = .next t ∧ Advanced s t ∧ t.me.park = .count false n.toNat ∧
        OutsideKept s t) ∧
      (s.me.cnts.toNat ≤ n.toNat → ∃ t, exec (.waitcS h n) s = .next t ∧ Advanced s t ∧ Kept s t []) ∧
      (n.toNat < s.me.cnts.toNat → ∃ t, exec (.waitcS h n) s = .next t ∧ Advanced s t ∧ t.me.park = .count true n.toNat ∧
        OutsideKept s t)) ∧
    (Ready s h [rG a, rG b, rG c] [rP d] →
      (Trappable s → v.toNat % 8 ≠ 0 → Traps s (.mwait h d a b c) 3 0 s.me.pc v) ∧
      (Trappable s → v.toNat % 8 = 0 → (2 ^ 39 ≤ v.toNat ∧ v.toNat < 2 ^ 48) ∨ 2 ^ 50 ≤ v.toNat → Traps s (.mwait h d a b c) 4 0 s.me.pc v) ∧
      (v.toNat % 8 = 0 → HbmOk s v.toNat 8 1 ∨ inWindow v.toNat 8 = true →
        ∃ t, exec (.mwait h d a b c) s = .next t ∧ Advanced s t ∧
          t.me.park = .mwait d v (s.me.gr b) s.myTile.cycle (s.me.gr c).toNat h.cache ∧ OutsideKept s t) ∧
      (v.toNat % 8 = 0 → 2 ^ 49 ≤ v.toNat → v.toNat < 2 ^ 50 → (∀ f ∈ s.me.failed, f.1 ≠ v.toNat / 65536) →
        ∃ t o, exec (.mwait h d a b c) s = .next t ∧ Advanced s t ∧ t.me.ops = s.me.ops ++ [o] ∧ o.kind = .probe ∧ o.conf = false ∧
          o.far = [v.toNat] ∧ t.me.park = .mwait d v (s.me.gr b) s.myTile.cycle (s.me.gr c).toNat h.cache))

namespace Sys2Proof.Claims
open Sys2Proof.Machine

/-- The core's L1 loses the sector of `a` (R259). -/
def l1Lost (s : State) (a : Nat) : State := s.updTile fun x => x.l1Drop (coreOf s.cur.2) a

/-- An atomic on HBM is queued: counted on CNTL with its old value to come, or on CNTS (R334). -/
def AtomQueued (s : State) (i : Instr) (kind : OpKind) (a n : Nat) (ds : List (Nat × Nat × Nat)) : Prop :=
  ∃ t o, exec i s = .next t ∧ Queued (l1Lost s a) t o ∧ o.kind = kind ∧ o.addr = a ∧ o.size = n ∧
    o.pieces = [{ addr := a, size := n, pos := 0 }] ∧ destsOf o = ds ∧ o.cntL = !ds.isEmpty ∧ o.cntS = ds.isEmpty

/-- The same for a floating-point atomic, which takes the slot's next sequence number (R339). -/
def AmofQueued (s : State) (i : Instr) (o' : AmofOp) (ty : AmoF) (b a n : Nat) (ds : List (Nat × Nat × Nat)) : Prop :=
  ∃ t o, exec i s = .next t ∧ Queued ((l1Lost s a).upd fun x => { x with fseq := x.fseq + 1 }) t o ∧
    o.kind = .amof o' ty b s.me.fseq ∧ o.addr = a ∧ o.size = n ∧ destsOf o = ds ∧ o.cntL = !ds.isEmpty ∧ o.cntS = ds.isEmpty

/-- The bytes of a floating-point atomic (R337). -/
def amofBytes (ty : AmoF) : Nat :=
  match ty with
  | .bf16 => 2
  | .bf16x2 => 4
  | .f32 => 4
  | .f32x2 => 8
  | .f64 => 8

end Sys2Proof.Claims

/-- R334 to R337, R323: every atomic checks its address at issue: one that no memory accepts traps with 4, one that is not aligned with
3, and then one that the protection ranges do not allow with 4; one in HBM that passes drops the sector from L1, and is queued with its
operands, counted on CNTL when it returns the old value and on CNTS when it does not. -/
def Obligations.AtomicsAreQueued : Prop :=
  ∀ (s : State) (h : Hdr) (w : AmoW) (noRet : Bool) (a d b c : G) (ty : AmoF) (fd fb : GF),
    let v := (s.me.gr a).toNat
    let n := if w = .b32 then 4 else 8
    let B := (s.me.gr b).toNat % 2 ^ (8 * n)
    let C := (s.me.gr c).toNat % 2 ^ (8 * n)
    let ds := if noRet then [] else [(destG d, 0, 8 * n)]
    let pair (r : G) : Nat := (s.me.gr r).toNat + (s.me.gr (r + 1)).toNat * 2 ^ 64
    let fails (n e : Nat) : Prop :=
      (e = 4 ∧ ((v < 2 ^ 39 ∧ s.myPart.extent ≤ v) ∨ (2 ^ 39 ≤ v ∧ v < 2 ^ 40) ∨ inWindow v n = true)) ∨
      (e = 3 ∧ v < 2 ^ 39 ∧ v < s.myPart.extent ∧ v % n ≠ 0) ∨
      (e = 4 ∧ v < 2 ^ 39 ∧ v + n ≤ s.myPart.extent ∧ v % n = 0 ∧ s.myPart.grants v n 3 = false)
    (∀ e, Trappable s →
      (w ≠ .b128 → fails n e → Ready s h [rG a, rG b, rG c] (if noRet then [] else [rG d]) →
        ∀ i ∈ [Instr.amoadd h w noRet a d b, .amoand h w noRet a d b, .amoor h w noRet a d b, .amoxor h w noRet a d b,
          .amomin h w noRet a d b, .amomax h w noRet a d b, .amominz h w noRet a d b, .amomaxz h w noRet a d b, .amoswp h w noRet a d b,
          .amocas h w noRet a d b c], Traps s i e 0 s.me.pc (s.me.gr a)) ∧
      (fails 16 e → Ready s h [rG a, rG b, rG (b + 1), rG c, rG (c + 1)] (if noRet then [] else [rG d, rG (d + 1)]) →
        Traps s (.amocas h .b128 noRet a d b c) e 0 s.me.pc (s.me.gr a)) ∧
      (fails (amofBytes ty) e → Ready s h [rG a, rGF fb] (if noRet then [] else [rGF fd]) →
        ∀ i ∈ [Instr.amofadd h ty noRet a fd fb, .amofmin h ty noRet a fd fb, .amofmax h ty noRet a fd fb],
          Traps s i e 0 s.me.pc (s.me.gr a))) ∧
    (w ≠ .b128 → Ready s h [rG a, rG b] (if noRet then [] else [rG d]) → HbmOk s v n 3 → v % n = 0 →
      AtomQueued s (.amoadd h w noRet a d b) (.amo .add w B 0) v n ds ∧ AtomQueued s (.amoand h w noRet a d b) (.amo .and w B 0) v n ds ∧
      AtomQueued s (.amoor h w noRet a d b) (.amo .or w B 0) v n ds ∧ AtomQueued s (.amoxor h w noRet a d b) (.amo .xor w B 0) v n ds ∧
      AtomQueued s (.amomin h w noRet a d b) (.amo .min w B 0) v n ds ∧ AtomQueued s (.amomax h w noRet a d b) (.amo .max w B 0) v n ds ∧
      AtomQueued s (.amominz h w noRet a d b) (.amo .minz w B 0) v n ds ∧
      AtomQueued s (.amomaxz h w noRet a d b) (.amo .maxz w B 0) v n ds ∧ AtomQueued s (.amoswp h w noRet a d b) (.amo .swp w B 0) v n ds) ∧
    (w ≠ .b128 → Ready s h [rG a, rG b, rG c] (if noRet then [] else [rG d]) → HbmOk s v n 3 → v % n = 0 →
      AtomQueued s (.amocas h w noRet a d b c) (.amo .cas w B C) v n ds) ∧
    (Ready s h [rG a, rG b, rG (b + 1), rG c, rG (c + 1)] (if noRet then [] else [rG d, rG (d + 1)]) → d ≠ 31 →
      HbmOk s v 16 3 → v % 16 = 0 →
      AtomQueued s (.amocas h .b128 noRet a d b c) (.amo .cas .b128 (pair b) (pair c)) v 16
        (if noRet then [] else [(destG d, 0, 64), (rG (d + 1), 64, 64)])) ∧
    (Ready s h [rG a, rGF fb] (if noRet then [] else [rGF fd]) → HbmOk s v (amofBytes ty) 3 → v % amofBytes ty = 0 →
      let m := amofBytes ty
      let F := (s.me.gfr fb).toNat % 2 ^ (8 * m)
      let fs := if noRet then [] else [(destGF fd, 0, 8 * m)]
      AmofQueued s (.amofadd h ty noRet a fd fb) .add ty F v m fs ∧ AmofQueued s (.amofmin h ty noRet a fd fb) .min ty F v m fs ∧
      AmofQueued s (.amofmax h ty noRet a fd fb) .max ty F v m fs)

/-- A read after a write, in a tile store and in HBM: the bytes written where written, the former bytes elsewhere. -/
def Obligations.MemoryKeepsWhatIsWritten : Prop :=
  Claims.TileStoreKeepsWhatIsStored ∧ Claims.HbmKeepsWhatIsWritten


/-! ## Operations performed, waits that end -/

namespace Sys2Proof.Claims
open Sys2Proof.Machine

/-- The partition of a tile. -/
def partOf (s : State) (t : TileId) : Part := s.part (s.tile t).tag.toNat

/-- Operation `id` of a slot is `o`. -/
def HasOp (s : State) (t : TileId) (k : SlotId) (id : Nat) (o : Op) : Prop :=
  (s.slot t k).opOf id = some o ∧ s.power ≠ .off ∧ s.frozen t = false

/-- n bytes at a within one 32-byte granule of HBM that the partition owns (R396), in a block whose clear bit is not set, memory in
canonical form and free of poison, no copy of it poisoned, and room for its line in L2. -/
structure PlainHbm (s : State) (t : TileId) (a n : Nat) : Prop where
  hbm : a + n ≤ 2 ^ 39 ∧ 0 < n ∧ a % 32 + n ≤ 32
  wf : Memory.wf s.hbm = true
  clear : s.blockClear ((partOf s t).phys a) = false
  sound : s.badHbm = []
  copies : ∀ l ∈ mapGet [] s.rdc (4 * (s.tile t).tag.toNat + dieOf t), l.bad = 0
  owned : Owned s (s.tile t).tag.toNat a
  room : L2Room s (s.tile t).tag.toNat a

/-- HBM changes in the n bytes at `a` alone, to the low bytes of v. -/
def HbmWritten (s u : State) (t : TileId) (a n v : Nat) : Prop :=
  u.readHbm (partOf s t) a n = v % 2 ^ (8 * n) ∧
  ∀ ph, ph < (partOf s t).phys a ∨ (partOf s t).phys a + n ≤ ph → u.hbmByte ph = s.hbmByte ph

end Sys2Proof.Claims

/-- R85, R88, R273, R302, R322: a load's piece takes the bytes at its home; the result that is ready goes to its register and lowers
CNTL with the last one; a store's last piece writes its bytes, and no other, and lowers CNTS; a query takes its answer. -/
def Obligations.OperationsPerformAtTheirHomes : Prop :=
  ∀ (s : State) (t : TileId) (k : SlotId) (id i ext : Nat) (o : Op), HasOp s t k id o → o.mark = false →
    let x := s.slot t k
    (∀ pc, o.kind = .load → o.ready = false → o.pieces[i]? = some pc → x.sendable o i pc = true → PlainHbm s t pc.addr pc.size →
      (∀ y ∈ (s.tile t).l1[k.val / 8], y.addr ≠ pc.addr / 64 * 64) → (s.tile t).atomOn (coreOf k) id (pc.addr / 64) = false →
      ∃ u, exec (.longResultReturn t k id i ext) s = .next u ∧
        (u.slot t k).opOf id = some { o with
          pieces := o.pieces.eraseIdx i, ready := (o.pieces.eraseIdx i).isEmpty,
          data := putBits o.data (8 * pc.pos) (8 * pc.size) (s.readHbm (partOf s t) pc.addr pc.size) } ∧
        (∀ r, (u.slot t k).gr r = x.gr r) ∧ (∀ ph, u.hbmByte ph = s.hbmByte ph)) ∧
    (∀ (r : G) lo bits, o.kind = .load → o.ready = true → o.bad = false → r ≠ 0 →
      o.dests = [{ code := rG r, lo, bits, signed := false }] →
      ∃ u, exec (.longResultReturn t k id 0 ext) s = .next u ∧ (u.slot t k).gr r = w64 (bitsAt o.data lo bits) ∧
        (u.slot t k).opOf id = none ∧ (u.slot t k).cntl = (if o.cntL then x.cntl - 1 else x.cntl) ∧
        (∀ q, q ≠ r → (u.slot t k).gr q = x.gr q) ∧ ∀ ph, u.hbmByte ph = s.hbmByte ph) ∧
    (∀ pc, o.kind = .store → o.pieces = [pc] → x.sendable o 0 pc = true → PlainHbm s t pc.addr pc.size →
      ∃ u, exec (.storePerformed t k id 0 ext) s = .next u ∧
        HbmWritten s u t pc.addr pc.size (bitsAt o.data (8 * pc.pos) (8 * pc.size)) ∧ (u.slot t k).opOf id = none ∧
        (u.slot t k).cnts = (if o.cntS then x.cnts - 1 else x.cnts) ∧ ∀ r, (u.slot t k).gr r = x.gr r) ∧
    (o.kind = .query .time → o.ready = false → x.free o = true →
      ∃ u, exec (.longResultReturn t k id i ext) s = .next u ∧
        (u.slot t k).opOf id = some { o with data := s.time.tai, ready := true, performed := true })

namespace Sys2Proof.Claims
open Sys2Proof.Machine

/-- The new value of an integer atomic of w bits (R335). -/
def atomValue (o : AmoOp) {w : Nat} (old b c : BitVec w) : BitVec w :=
  match o with
  | .add => old + b
  | .and => old &&& b
  | .or => old ||| b
  | .xor => old ^^^ b
  | .min => if old.sle b then old else b
  | .max => if b.sle old then old else b
  | .minz => if old.ule b then old else b
  | .maxz => if b.ule old then old else b
  | .swp => b
  | .cas => if old = c then b else old

/-- One element of a floating-point atomic (R337): to nearest even, flags dropped. -/
def atomElem (o : AmofOp) (f : Fmt) (x y : Nat) : Nat :=
  match o with
  | .add => (fpAdd f .rne (FV.decode f x) (FV.decode f y)).bits
  | .min => (fpMinMax f false x y).bits
  | .max => (fpMinMax f true x y).bits

/-- What an atomic that has been applied leaves of its operation: the old value ready for its registers, or the operation ended. -/
def AtomEnded (s u : State) (t : TileId) (k : SlotId) (id : Nat) (o : Op) (old : Nat) : Prop :=
  if o.dests.isEmpty then (u.slot t k).opOf id = none ∧ (u.slot t k).cnts = (if o.cntS then (s.slot t k).cnts - 1 else (s.slot t k).cnts)
  else (u.slot t k).opOf id = some { o with pieces := [], data := old, bad := false, ready := true, performed := true }

end Sys2Proof.Claims

/-- R310, R335, R337, R338, R341: an atomic is one read-modify-write of its bytes at its home; a replayed one is held until its record is
first in its line; at the timeout the slice leaves replay with DIVERGED and holds none.
An operation's operands have its width, as its issue leaves them. -/
def Obligations.AtomicsPerformAsOneAccess : Prop :=
  ∀ (s : State) (t : TileId) (k : SlotId) (id ext : Nat) (o : Op), HasOp s t k id o →
    let x := s.slot t k
    let p := partOf s t
    let tag := (s.tile t).tag.toNat
    let old := s.readHbm p o.addr o.size
    (∀ pc op w b c, o.pieces = [pc] → x.sendable o 0 pc = true → p.logHeld = [] → PlainHbm s t o.addr o.size →
      o.kind = .amo op w b c → o.size = (match w with | .b32 => 4 | .b64 => 8 | .b128 => 16) →
      b < 2 ^ (8 * o.size) → c < 2 ^ (8 * o.size) →
      ∃ u, exec (.atomicPerform t k id ext) s = .next u ∧
        HbmWritten s u t o.addr o.size
          (atomValue op (BitVec.ofNat (8 * o.size) old) (BitVec.ofNat (8 * o.size) b) (BitVec.ofNat (8 * o.size) c)).toNat ∧
        AtomEnded s u t k id o old) ∧
    (∀ pc op ty b seq, o.pieces = [pc] → x.sendable o 0 pc = true → p.logHeld = [] → PlainHbm s t o.addr o.size →
      o.kind = .amof op ty b seq → o.size = amofBytes ty → bitsAt p.ordctl.toNat 0 2 = 0 →
      let f := (amofFmt ty).1
      ∃ u new, exec (.atomicPerform t k id ext) s = .next u ∧ HbmWritten s u t o.addr o.size new ∧ AtomEnded s u t k id o old ∧
        ∀ e, e < (amofFmt ty).2 → bitsAt new (e * f.width) f.width =
          atomElem op f (bitsAt old (e * f.width) f.width) (bitsAt b (e * f.width) f.width) % 2 ^ f.width) ∧
    (∀ op ty b seq sl due r l, o.kind = .amof op ty b seq → p.logHeld = [(sl, t, k, id, due)] → s.replayList tag sl o.addr = r :: l →
      recordIs r.2 (s.ordRecord t k o.addr seq) = true → PlainHbm s t o.addr o.size → o.size = amofBytes ty →
      ∃ u, exec (.replayHoldRelease t k id) s = .next u ∧ (u.part tag).logHeld = [] ∧ AtomEnded s u t k id o old) ∧
    (∀ sl due, p.logHeld = [(sl, t, k, id, due)] → due ≤ s.time.tai → PlainHbm s t o.addr o.size →
      ∃ u, exec (.replayTimeout t k id) s = .next u ∧ (u.part tag).logHeld = [] ∧ (u.part tag).logLeft = sl :: p.logLeft ∧
        (u.part tag).ordctl.getLsbD 3 = true ∧ AtomEnded s u t k id o old)

/-- The slot's park, with no marker and no yield, ends in the turn in which `c` holds, and in no other. -/
def Sys2Proof.Claims.Ends (s : State) (t : TileId) (k : SlotId) (c : Prop) : Prop :=
  (s.slot t k).sPark = false → (s.slot t k).yPark = none →
    (c → ∃ u, exec (.slotResume t k) s = .next u ∧ (u.slot t k).park = .none ∧ (u.slot t k).pc = (s.slot t k).pc ∧
      (u.slot t k).active = true) ∧
    (¬ c → exec (.slotResume t k) s = .next s)

/-- R83, R126, R333, R420, R421: a park ends when its condition holds; the slot then goes on, becomes inactive or takes its trap; mwait
reads once no ldacq and no write of its own to the stamp is outstanding (R302, R328), and gives true for a value that differs and
false at its limit; a deferred trap is taken at the slot's next issue. The parks of sbar, confirmation, ldacq, strel, stores, a full queue
or scoreboard, page requests and yield are among them; those of the drawbar, of a stream's element, of the rate limiter and of a waiting
mdrain are stated elsewhere or not at all. -/
def Sys2Proof.Claims.ParksEndWhenTheirConditionHolds : Prop :=
  ∀ (s : State) (t : TileId) (k : SlotId), s.power ≠ .off → s.frozen t = false → (s.slot t k).active = true →
    let x := s.slot t k
    let y := s.tile t
    (∀ c n, x.park = .count c n → x.sPark = false → x.yPark = none →
      ((if c then x.cnts else x.cntl).toNat ≤ n → ∃ u, exec (.slotResume t k) s = .next u ∧ (u.slot t k).park = .none ∧
        (u.slot t k).pc = x.pc) ∧
      (n < (if c then x.cnts else x.cntl).toNat → exec (.slotResume t k) s = .next s)) ∧
    (x.park = .ending → x.sPark = false → x.yPark = none → x.longs = 0 →
      ((∀ tr ∈ x.deferred, tr.precise = false) → ∃ u, exec (.slotResume t k) s = .next u ∧ (u.slot t k).active = false) ∧
      (∀ tr, x.deferred = [tr] → tr.precise = true → x.tm = false → y.trapvec &&& ~~~3 ≠ 0 →
        ∃ u, exec (.slotResume t k) s = .next u ∧ (u.slot t k).active = true ∧ (u.slot t k).tm = true ∧
          (u.slot t k).pc = y.trapvec &&& ~~~3 ∧ (u.slot t k).trappc = tr.pc ∧ (u.slot t k).tcode = BitVec.ofNat 8 tr.code)) ∧
    (x.park = .halting → x.sPark = false → x.yPark = none → x.longs = 0 →
      ∃ u, exec (.slotResume t k) s = .next u ∧ (u.slot t k).active = false) ∧
    (∀ m, x.park = .sbar m → Ends s t k (∀ j, j ≠ k → m.getLsbD j.val = true → (s.slot t j).active = false ∨ x.sbarCnt ≤ (s.slot t j).sbarCnt)) ∧
    (x.park = .confirm → Ends s t k (x.ra = none)) ∧
    (x.park = .acquire → Ends s t k (∀ o ∈ x.ops, ∀ sc, o.kind ≠ .acq sc)) ∧
    (x.park = .release → Ends s t k (∀ o ∈ x.ops, o.cntL = false ∧ o.cntS = false)) ∧
    (x.park = .stores → Ends s t k (x.cnts = 0)) ∧
    (∀ ch, x.park = .queue ch → Ends s t k ((y.channel ch).queue.length + y.heldCopies ch < 16)) ∧
    (∀ rd wr, x.park = .board rd wr → rd ≠ [] → Ends s t k (y.board.length < 64)) ∧
    (∀ g, x.park = .page g → Ends s t k (∀ b ∈ (partOf s t).batches, b.tile = t → b.slot = k → b.group ≠ g)) ∧
    (∀ b n, x.park = .none → x.sPark = false → x.yPark = some (b, n) →
      (n = 0 → ∃ u, exec (.slotResume t k) s = .next u ∧ (u.slot t k).yPark = none ∧ (u.slot t k).pc = x.pc) ∧
      (n ≠ 0 → exec (.slotResume t k) s = .next s)) ∧
    (x.park = .none → x.sPark = true → x.yPark = none → x.longs = 0 →
      ∃ u, exec (.slotResume t k) s = .next u ∧ (u.slot t k).sPark = false ∧ (u.slot t k).pc = x.pc) ∧
    (∀ tr, x.park = .trap tr → x.sPark = false → x.yPark = none → x.longs = 0 → x.ra = none → x.tm = false →
      y.trapvec &&& ~~~3 ≠ 0 → ∃ u, exec (.slotResume t k) s = .next u ∧ (u.slot t k).pc = y.trapvec &&& ~~~3 ∧
        (u.slot t k).tm = true ∧ (u.slot t k).trappc = tr.pc ∧ (u.slot t k).trapval = tr.val ∧
        (u.slot t k).tcode = BitVec.ofNat 8 tr.code) ∧
    (∀ d a w t0 lim hint ext, x.park = .mwait d a w t0 lim hint → x.mwaitReady a.toNat = false →
      exec (.mwaitPoll t k ext) s = .next s ∧ exec (.mwaitLimitExpiry t k) s = .next s) ∧
    (∀ d a w t0 lim hint ext, x.park = .mwait d a w t0 lim hint → inWindow a.toNat 8 = true → x.mwaitReady a.toNat = true → y.badChunks = [] →
      let v := y.storeRead a.toNat 8
      (v ≠ w.toNat → (∃ u, exec (.mwaitPoll t k ext) s = .next u ∧ (u.slot t k).park = .none ∧ (u.slot t k).pr d = true) ∧
        (lim ≤ y.cycle - t0 → ∃ u, exec (.mwaitLimitExpiry t k) s = .next u ∧ (u.slot t k).park = .none ∧ (u.slot t k).pr d = true)) ∧
      (v = w.toNat → lim ≤ y.cycle - t0 → d ≠ 0 →
        (∃ u, exec (.mwaitPoll t k ext) s = .next u ∧ (u.slot t k).park = .none ∧ (u.slot t k).pr d = false) ∧
        (∃ u, exec (.mwaitLimitExpiry t k) s = .next u ∧ (u.slot t k).park = .none ∧ (u.slot t k).pr d = false)) ∧
      (v = w.toNat → y.cycle - t0 < lim → exec (.mwaitPoll t k ext) s = .next s)) ∧
    (∀ tr l, x.deferred = tr :: l → x.park = .none → x.sPark = false → x.yPark = none → x.longs = 0 → x.ra = none → x.tm = false →
      y.trapvec &&& ~~~3 ≠ 0 → ∃ u, exec (.deferredTrap t k) s = .next u ∧ (u.slot t k).pc = y.trapvec &&& ~~~3 ∧
        (u.slot t k).tm = true ∧ (u.slot t k).trapval = tr.val ∧ (u.slot t k).tcode = BitVec.ofNat 8 tr.code ∧
        (u.slot t k).trappc = (if tr.precise then tr.pc else x.pc) ∧ (u.slot t k).deferred = l)

/-- R83, R126, R332, R333, R420, R421: waits park their slots, and the parks listed end when their condition holds, and only
then. -/
def Obligations.WaitsParkAndEnd : Prop :=
  Claims.WaitsPark ∧ Claims.ParksEndWhenTheirConditionHolds


/-! ## The copy engine -/

namespace Sys2Proof.Claims
open Sys2Proof.Machine

/-- n bytes at `a` lie in one tile-store window, or in the partition's HBM with the permission needed (R264: RD 1, W 2). -/
def LiesIn (s : State) (a n need : Nat) : Prop :=
  0 < n ∧ (inWindow a n = true ∨ (a < 2 ^ 39 ∧ a + n ≤ s.myPart.extent ∧ s.myPart.grants a n need = true))

/-- Shape g[B] of R353: rows, row bytes, the limits. -/
def shapeRows (b : Word) : Nat := if bitsAt b.toNat 32 16 = 0 then 1 else bitsAt b.toNat 32 16
def shapeSound (b : Word) : Prop :=
  b.toNat < 2 ^ 48 ∧ 1 ≤ bitsAt b.toNat 0 32 ∧ bitsAt b.toNat 0 32 ≤ 2 ^ 31 ∧ bitsAt b.toNat 0 32 * shapeRows b ≤ 2 ^ 40

/-- The stride in bytes (R344). -/
def strideOf (x : BitVec 16) (rb : Nat) : Nat := if x = 0 then rb else 64 * x.toNat

/-- Room in channel ch's queue, the commands that slots hold back for it counted (R343, R430), and in the scoreboard. -/
def RoomFor (s : State) (ch : Fin 4) : Prop :=
  (s.myTile.channel ch).halted = false ∧ (s.myTile.channel ch).queue.length + s.myTile.heldCopies ch < 16 ∧ s.myTile.board.length < 64

/-- The instruction queues a command at the end of channel ch's queue (R343, R353): ENQ grows by its bytes, CNTS by one when it
stamps; nothing is copied yet. -/
def Commands (s : State) (i : Instr) (ch : Fin 4) (cmd : Cmd) (stamp : Option (Nat × Scope)) (bytes : Nat) : Prop :=
  ∃ t j, exec i s = .next t ∧ (t.myTile.channel ch).queue = (s.myTile.channel ch).queue ++ [j] ∧
    j.cmd = cmd ∧ j.stamp = stamp ∧ j.slot = s.cur.2 ∧ j.done = 0 ∧ j.link = none ∧
    (t.myTile.channel ch).enq = (s.myTile.channel ch).enq + w64 bytes ∧ (t.myTile.channel ch).cur = (s.myTile.channel ch).cur ∧
    (∀ c, c ≠ ch → t.myTile.channel c = s.myTile.channel c) ∧
    SlotKept { s.me with cnts := s.me.cnts + (if stamp.isSome then 1 else 0) } t.me [] ∧ FpKept s.me t.me ∧ Advanced s t ∧
    t.myTile.store = s.myTile.store ∧ t.hbm = s.hbm ∧ ∀ u, u ≠ s.cur.1 → t.tile u = s.tile u

/-- A long result with one destination register is asked for. -/
def AsksG (s : State) (i : Instr) (q : Query) (d : G) : Prop :=
  ∃ t o, exec i s = .next t ∧ Queued s t o ∧ o.kind = .query q ∧ o.cntL = false ∧ o.cntS = false ∧ destsOf o = [(destG d, 0, 64)]

end Sys2Proof.Claims

/-- R343, R346, R353 to R356: cpy, cpybt and cpchain check their operands and queue one command, or park on a full queue, or do
nothing on a halted channel; cpwp and cpstat ask for a channel's counts. -/
def Obligations.CopyCommandsAreQueued : Prop :=
  ∀ (s : State) (h : Hdr) (y : YZ) (st : Bool) (sco : Scope) (ss ds : BitVec 16) (nblk : BitVec 8) (d a b c e : G),
    let ch : Fin 4 := ⟨y.toNat, y.isLt⟩
    let v (r : G) : Nat := (s.me.gr r).toNat
    let stampAt (r : G) : Option (Nat × Scope) := if st then some (v r, sco) else none
    let stampOk (r : G) : Prop := st = true → v r % 8 = 0 ∧ LiesIn s (v r) 8 2
    (Ready s h [rG d, rG a, rG b, rG c] [] → 
      let rb := bitsAt (v b) 0 32
      let nr := shapeRows (s.me.gr b)
      let S := strideOf ss rb
      let D := strideOf ds rb
      let good := shapeSound (s.me.gr b) ∧ LiesIn s (v a) ((nr - 1) * S + rb) 1 ∧ LiesIn s (v d) ((nr - 1) * D + rb) 2
      (¬ shapeSound (s.me.gr b) → Trappable s → Traps s (.cpy h y st sco ss ds d a b c) 4 0 s.me.pc (s.me.gr b)) ∧
      (good → st = true → v c % 8 ≠ 0 → Trappable s → Traps s (.cpy h y st sco ss ds d a b c) 3 0 s.me.pc (s.me.gr c)) ∧
      (good → stampOk c →
        ((s.myTile.channel ch).halted = true → ∃ t, exec (.cpy h y st sco ss ds d a b c) s = .next t ∧ Advanced s t ∧ Kept s t []) ∧
        ((s.myTile.channel ch).halted = false → 16 ≤ (s.myTile.channel ch).queue.length + s.myTile.heldCopies ch →
          ∃ t, exec (.cpy h y st sco ss ds d a b c) s = .next t ∧ t.me.park = .queue ch ∧ t.me.pc = s.me.pc ∧ OutsideKept s t) ∧
        (RoomFor s ch → Commands s (.cpy h y st sco ss ds d a b c) ch
          (.rows { src := v a, dst := v d, nr, rb, ss := S, ds := D }) (stampAt c) (rb * nr)))) ∧
    (Ready s h [rG d, rG a, rG b, rG c, rG e] [] →
      let rb := bitsAt (v c) 0 16
      let brows := bitsAt (v c) 16 8
      let R := nblk.toNat * brows
      1 ≤ nblk.toNat → rb ≠ 0 → brows ≠ 0 → bitsAt (v c) 24 8 = 0 → bitsAt (v c) 48 16 = 0 →
      v d % 64 = 0 → inWindow (v d) ((R * rb + 63) / 64 * 64 + 8 * ((R + 63) / 64)) = true → v a % 4 = 0 →
      LiesIn s (v a) (4 * nblk.toNat) 1 → v b < 2 ^ 39 → stampOk e → RoomFor s ch →
      Commands s (.cpybt h y st sco nblk d a b c e) ch (.blocks (v d) (v a) (v b) nblk.toNat rb brows (bitsAt (v c) 32 16))
        (stampAt e) (R * rb + 8 * ((R + 63) / 64))) ∧
    (Ready s h [rG a, rG b] [] →
      (Trappable s → 3 < v a → Traps s (.cpchain h a b) 4 0 s.me.pc (s.me.gr a)) ∧
      (Trappable s → v a ≤ 3 → v b % 64 ≠ 0 → Traps s (.cpchain h a b) 3 0 s.me.pc (s.me.gr b)) ∧
      (Trappable s → v a ≤ 3 → v b = 0 → Traps s (.cpchain h a b) 4 0 s.me.pc (s.me.gr b)) ∧
      (Trappable s → v a ≤ 3 → v b % 64 = 0 → v b ≠ 0 → v b < 2 ^ 39 → s.myPart.grants (v b) 64 1 = false →
        Traps s (.cpchain h a b) 4 0 s.me.pc (s.me.gr b)) ∧
      ∀ n : Fin 4, v a = n.val → v b % 64 = 0 → v b ≠ 0 →
        (v b < 2 ^ 39 ∧ v b + 64 ≤ s.myPart.extent ∧ s.myPart.grants (v b) 64 1 = true) ∨ (2 ^ 49 ≤ v b ∧ v b + 64 ≤ 2 ^ 50) →
        RoomFor s n → Commands s (.cpchain h a b) n (.chain (v b)) none 0) ∧
    (Ready s h [rG a] [rG d] →
      (Trappable s → 3 < v a → Traps s (.cpwp h d a) 4 0 s.me.pc (s.me.gr a)) ∧
      (Trappable s → 15 < v a → Traps s (.cpstat h d a) 4 0 s.me.pc (s.me.gr a)) ∧
      ∀ n : Fin 4, (v a = n.val → AsksG s (.cpwp h d a) (.cpwp n) d) ∧
        ∀ k : BitVec 2, v a = n.val + 4 * k.toNat → AsksG s (.cpstat h d a) (.cpstat n k) d)

namespace Sys2Proof.Claims
open Sys2Proof.Machine

/-- n bytes at `a` that tile t's channels read or write as one piece: plain HBM, or within one 64-byte chunk of a sound tile store. -/
def PlainPiece (s : State) (t : TileId) (a n : Nat) : Prop :=
  PlainHbm s t a n ∨ (inWindow a n = true ∧ 0 < n ∧ a % 64 + n ≤ 64 ∧ (s.tile t).badChunks = [] ∧ Memory.wf (s.tile t).store = true)

/-- The bytes there. -/
def bytesAt (s : State) (p : Part) (t : TileId) (a n : Nat) : Nat := if a < 2 ^ 39 then s.readHbm p a n else (s.tile t).storeRead a n

/-- The single-copy granule there (R273). -/
def granuleAt (a : Nat) : Nat := if a < 2 ^ 48 then 32 else if a < 2 ^ 49 then 64 else if a < 2 ^ 63 then 8 else 32

/-- Memory changes in the n bytes at `a` alone, to the low bytes of v. -/
def WrittenAt (s u : State) (t : TileId) (a n v : Nat) : Prop :=
  bytesAt u (partOf s t) t a n = v % 2 ^ (8 * n) ∧
  (∀ ph, (a < 2 ^ 39 → ph < (partOf s t).phys a ∨ (partOf s t).phys a + n ≤ ph) → u.hbmByte ph = s.hbmByte ph) ∧
  ∀ o, (2 ^ 39 ≤ a → ∀ i, i < n → storeOff (a + i) ≠ some o) → Memory.get (u.tile t).store o = Memory.get (s.tile t).store o

/-- No byte of HBM or of the tile's store changes. -/
def MemorySame (s u : State) (t : TileId) : Prop :=
  (∀ ph, u.hbmByte ph = s.hbmByte ph) ∧ ∀ o, Memory.get (u.tile t).store o = Memory.get (s.tile t).store o

/-- A channel at work on a command: no error, no page request. -/
structure AtWork (s : State) (t : TileId) (ch : Fin 4) (j : Job) : Prop where
  on : s.power ≠ .off
  going : s.frozen t = false
  cur : ((s.tile t).channel ch).cur = some j
  calm : ((s.tile t).channel ch).page = none ∧ ((s.tile t).channel ch).fail = none

/-- Channel ch of tile t. -/
def chan (s : State) (t : TileId) (ch : Fin 4) : Channel := (s.tile t).channel ch

/-- A command may read or write n bytes at `a` as one piece: no earlier entry of the scoreboard holds its chunks back (R350). -/
def MayMove (s : State) (t : TileId) (j : Job) (a n : Nat) : Prop := PlainPiece s t a n ∧ (s.tile t).accessFree j.board a n = true

/-- The next act of a channel on `len` bytes of a row that lie ahead from `src` to `dst` (R299, R344, R346): while the bytes read do not
fill the destination piece it reads one source piece; then it writes the destination piece, WPOS growing by its bytes, and a row
copy without a stamp ends with the last one. -/
def MovesPiece (s : State) (t : TileId) (ch : Fin 4) (ext : Nat) (j : Job) (src dst len : Nat) : Prop :=
  let c := chan s t ch
  let m := min len (granuleAt dst - dst % granuleAt dst)
  let a := src + j.got
  let n := min (len - j.got) (granuleAt a - a % granuleAt a)
  let ends := match j.cmd with
    | .rows r => r.nr * r.rb ≤ j.done + m ∧ j.stamp = none
    | _ => False
  (j.got < m → MayMove s t j a n → ∃ u, exec (.copyPieceWrite t ch ext) s = .next u ∧ MemorySame s u t ∧
    chan u t ch = { c with
      cur := some { j with got := j.got + n, buf := j.buf + bytesAt s (partOf s t) t a n * 2 ^ (8 * j.got), asked := false } }) ∧
  (m ≤ j.got → MayMove s t j dst m → ∃ u, exec (.copyPieceWrite t ch ext) s = .next u ∧ WrittenAt s u t dst m j.buf ∧
    (chan u t ch).wpos = c.wpos + w64 m ∧ (ends → (chan u t ch).cur = none) ∧
    (¬ ends → (chan u t ch).cur =
      some { j with done := j.done + m, got := j.got - m, buf := j.buf / 2 ^ (8 * m), asked := false }))

end Sys2Proof.Claims

/-- R342, R344 to R346, R348, R354, R355: a channel takes the head of its queue; it reads and writes the pieces of its rows in copy
order, WPOS counting what it has written; block copies read their table, skip rows that are not valid and end with mask words; the
stamp holds SEQ and lowers CNTS; a chain reads records, moves their rows and marks each one done, under the permissions of R264; an error
or an overdue page request halts it. -/
def Obligations.CopyChannelsPerformCommands : Prop :=
  ∀ (s : State) (t : TileId) (ch : Fin 4) (ext : Nat),
    let c := chan s t ch
    let p := partOf s t
    (∀ j q, s.power ≠ .off → s.frozen t = false → c.cur = none → c.queue = j :: q → c.halted = false →
      (∀ o ∈ (s.slot t j.slot).ops, o.id ∉ j.after) →
      ∃ u, exec (.copyCommandStart t ch) s = .next u ∧ chan u t ch = { c with cur := some j, queue := q } ∧ MemorySame s u t) ∧
    (∀ j r, AtWork s t ch j → j.cmd = .rows r → r.overlaps = false → j.old = [] → 0 < r.rb → j.done < r.nr * r.rb →
      MovesPiece s t ch ext j (r.src + j.done / r.rb * r.ss + j.done % r.rb) (r.dst + j.done / r.rb * r.ds + j.done % r.rb)
        (r.rb - j.done % r.rb)) ∧
    (∀ j a l, AtWork s t ch j → j.cmd = .chain a → j.link = some l → l.rows.overlaps = false → j.old = [] → 0 < l.rows.rb →
      j.done < l.rows.nr * l.rows.rb →
      MovesPiece s t ch ext j (l.rows.src + j.done / l.rows.rb * l.rows.ss + j.done % l.rows.rb)
        (l.rows.dst + j.done / l.rows.rb * l.rows.ds + j.done % l.rows.rb) (l.rows.rb - j.done % l.rows.rb)) ∧
    (∀ j dst table pool nblk rb brows ntok, AtWork s t ch j → j.cmd = .blocks dst table pool nblk rb brows ntok → 0 < rb → 0 < brows →
      let R := nblk * brows
      let i := j.done / rb
      let valid (i : Nat) : Bool := decide (j.idxs.getD (i / brows) 0xFFFFFFFF ≠ 0xFFFFFFFF ∧ i < ntok)
      let block := pool + j.idxs.getD (i / brows) 0 * brows * rb
      let inPool := rangeOk s p block (brows * rb) 1 = true ∧ inWindow block 1 = false
      (j.done < R * rb → j.idxs.length ≤ i / brows → MayMove s t j (table + 4 * (i / brows)) 4 →
        ∃ u, exec (.copyPieceWrite t ch ext) s = .next u ∧ MemorySame s u t ∧
          (chan u t ch).cur = some { j with idxs := j.idxs ++ [bytesAt s p t (table + 4 * (i / brows)) 4], asked := false }) ∧
      (j.done < R * rb → i / brows < j.idxs.length → valid i = true → j.old = [] → inPool →
        MovesPiece s t ch ext j (block + i % brows * rb + j.done % rb) (dst + i * rb + j.done % rb) (rb - j.done % rb)) ∧
      (j.done < R * rb → i / brows < j.idxs.length → valid i = true → i % brows = 0 → j.done % rb = 0 → j.got = 0 → ¬ inPool →
        ∃ u, exec (.copyPieceWrite t ch ext) s = .next u ∧ MemorySame s u t ∧ chan u t ch = { c with fail := some (1, block, 0) }) ∧
      (j.done < R * rb → i / brows < j.idxs.length → valid i = false →
        ∃ u, exec (.copyPieceWrite t ch ext) s = .next u ∧ MemorySame s u t ∧
          (chan u t ch).cur = some { j with done := j.done + (rb - j.done % rb) }) ∧
      (∀ k, j.done = R * rb + 8 * k → k < (R + 63) / 64 → j.stamp.isSome →
        let at_ := dst + (R * rb + 63) / 64 * 64 + 8 * k
        MayMove s t j at_ 8 → ∃ u w, exec (.copyPieceWrite t ch ext) s = .next u ∧ WrittenAt s u t at_ 8 w ∧
          (∀ x, x < 64 → w.testBit x = (decide (64 * k + x < R) && valid (64 * k + x))) ∧
          (chan u t ch).cur = some { j with done := j.done + 8, asked := false } ∧ (chan u t ch).wpos = c.wpos + 8)) ∧
    (∀ j r a sc, AtWork s t ch j → j.cmd = .rows r → j.stamp = some (a, sc) → r.nr * r.rb ≤ j.done →
      let seq := if j.raised then c.seq else c.seq + 1
      (MayMove s t j a 8 →
        ∃ u, exec (.copyStampWrite t ch) s = .next u ∧ WrittenAt s u t a 8 seq.toNat ∧ (chan u t ch).seq = seq ∧
          (chan u t ch).cur = none ∧
          ∀ o, (s.slot t j.slot).ops.find? (fun o => o.kind == .stamp ch) = some o → o.cntS = true →
            (u.slot t j.slot).cnts = (s.slot t j.slot).cnts - 1) ∧
      ((s.tile t).accessFree j.board a 8 = false →
        ∃ u, exec (.copyStampWrite t ch) s = .next u ∧ MemorySame s u t ∧
          chan u t ch = { c with seq, cur := some { j with raised := true } })) ∧
    (∀ j a, AtWork s t ch j → j.cmd = .chain a → j.link = none → a < 2 ^ 39 → p.grants a 64 1 = false →
      ∃ u, exec (.chainRecordRead t ch ext) s = .next u ∧ MemorySame s u t ∧ (chan u t ch).fail = some (1, a, 0)) ∧
    (∀ j a, AtWork s t ch j → j.cmd = .chain a → j.link = none → PlainHbm s t a 32 → PlainHbm s t (a + 32) 32 → p.grants a 64 1 = true →
      (s.tile t).board.length < 64 →
      let y := s.readHbm p a 32 + s.readHbm p (a + 32) 32 * 2 ^ 256
      (bitAt y 384 = false → ∃ u, exec (.chainRecordRead t ch ext) s = .next u ∧ (chan u t ch).cur = none ∧ MemorySame s u t) ∧
      (bitAt y 384 = true → bitsAt y 448 64 ≠ 0 ∨ bitsAt y 389 27 ≠ 0 → ∃ u, exec (.chainRecordRead t ch ext) s = .next u ∧
        (chan u t ch).fail = some (4, a, 0) ∧ MemorySame s u t) ∧
      (bitsAt y 384 32 = 1 → bitsAt y 0 64 = 0 → bitsAt y 288 32 = 0 → bitsAt y 448 64 = 0 → shapeOk (bitsAt y 192 64) = true →
        let rb := bitsAt y 192 32
        let nr := shapeRows (BitVec.ofNat 64 (bitsAt y 192 64))
        let r : Rows := { src := bitsAt y 64 64, dst := bitsAt y 128 64, nr, rb,
                          ss := strideOf (BitVec.ofNat 16 (bitsAt y 272 16)) rb, ds := strideOf (BitVec.ofNat 16 (bitsAt y 256 16)) rb }
        rangeOk s p r.src r.srcLen 1 = true → rangeOk s p r.dst r.dstLen 2 = true →
        ∃ u b, exec (.chainRecordRead t ch ext) s = .next u ∧ MemorySame s u t ∧ (chan u t ch).enq = c.enq + w64 (nr * rb) ∧
          (chan u t ch).cur = some { j with link := some { at_ := a, next := 0, rows := r, stamp := none }, done := 0, got := 0, buf := 0,
                                            old := [], board := b, asked := false, raised := false })) ∧
    (∀ j a l, AtWork s t ch j → j.cmd = .chain a → j.link = some l → l.stamp = none → l.rows.nr * l.rows.rb ≤ j.done →
      (PlainHbm s t (l.at_ + 0x30) 8 → p.grants (l.at_ + 0x30) 8 2 = true →
        ∃ u, exec (.chainRecordRead t ch ext) s = .next u ∧ WrittenAt s u t (l.at_ + 0x30) 8 (2 ^ 40) ∧
          (chan u t ch).cur = (if l.next = 0 then none
            else some { j with cmd := .chain l.next, link := none, done := 0, board := 0, asked := false })) ∧
      (l.at_ + 0x30 < 2 ^ 39 → p.grants (l.at_ + 0x30) 8 2 = false →
        ∃ u, exec (.chainRecordRead t ch ext) s = .next u ∧ MemorySame s u t ∧ (chan u t ch).fail = some (1, l.at_ + 0x30, 0))) ∧
    (s.power ≠ .off → s.frozen t = false →
      (∀ n a i j, n < 256 → c.fail = some (n, a, i) → c.cur = some j → (s.slot t j.slot).active = true →
        ∃ u, exec (.copyChannelHalt t ch (BitVec.ofNat 8 n)) s = .next u ∧ MemorySame s u t ∧ (chan u t ch).halted = true ∧
          (chan u t ch).err.toNat = n ∧ (chan u t ch).errAddr = w64 a ∧ (chan u t ch).queue = [] ∧ (chan u t ch).cur = none ∧
          ∃ tr, (u.slot t j.slot).deferred = (s.slot t j.slot).deferred ++ [tr] ∧ tr.val = w64 a ∧ tr.info = i ∧ tr.precise = false ∧
            tr.code = (if n = 2 then 5 else if n = 3 then 15 else 4)) ∧
      (∀ a due since g, c.fail = none → c.page = some (a, due, since, g) → due ≤ s.time.tai →
        ∃ u, exec (.copyChannelHalt t ch 2) s = .next u ∧ (chan u t ch).halted = true ∧ (chan u t ch).err = 2 ∧
          (chan u t ch).errAddr = w64 a ∧ MemorySame s u t) ∧
      (∀ a due since g ans, c.page = some (a, due, since, g) → ans.page = a / 65536 → ans.group = g →
        ∃ u, exec (.copyPageRequestAnswer t ch ans) s = .next u ∧ MemorySame s u t ∧ chan u t ch =
          { c with page := none, fail := if ans.ok then c.fail else some (2, a, ans.info.toNat) }))

/-! ## Posts -/

namespace Sys2Proof.Claims
open Sys2Proof.Machine

/-- A post number of R293's first check. -/
def PostNumber (v : Word) : Prop := v.toNat < 2 ^ 32 ∧ v.toNat % 8 = 0

/-- The tile's post list names post n by entry e alone (R279). -/
def OnlyEntry (s : State) (n : BitVec 32) (e : PostEntry) : Prop := s.myTile.posts.filter (fun x => samePost s x.post n) = [e]

/-- The entry lets this tile install (R279). -/
def MayInstall (s : State) (e : PostEntry) : Prop := e.isOut = true ∧ e.writer.toNat = s.myPart.logical s.cur.1

/-- The post is here, or LINKLIM sets no rate (R408). -/
def NoRate (s : State) (n : BitVec 32) : Prop := postChip s n = s.chipId ∨ bitsAt s.myPart.linklim.toNat 0 32 = 0

/-- The slot has one more operation outstanding; no register, no other tile and no byte of memory changes. -/
structure Sent (s t : State) (o : Op) : Prop where
  ops : t.me.ops = s.me.ops ++ [o]
  id : o.id = s.serial ∧ o.pc = s.me.pc ∧ o.performed = false ∧ o.held = false ∧ o.ready = false
  slot : SlotKept { s.me with cntl := s.me.cntl + (if o.cntL then 1 else 0),
                              cnts := s.me.cnts + (if o.cntS then 1 else 0) } t.me []
  fp : FpKept s.me t.me
  slots : ∀ k, k ≠ s.cur.2 → t.slot s.cur.1 k = s.slot s.cur.1 k
  tiles : ∀ u, u ≠ s.cur.1 → t.tile u = s.tile u
  memory : (∀ a, t.hbmByte a = s.hbmByte a) ∧ t.myTile.store = s.myTile.store
  advanced : Advanced s t

/-- An install is sent: its whole value, counted on CNTS (R295). -/
def Installs (s : State) (i : Instr) (n : BitVec 32) (lines value : Nat) : Prop :=
  ∃ t o, exec i s = .next t ∧ Sent s t o ∧ o.kind = .install n ∧ o.size = 256 * lines ∧ o.data = value ∧ o.dests = [] ∧
    o.cntS = true ∧ o.cntL = false

/-- A read is sent: bytes `lo` to `lo + m` of the post, its freshness above them, counted on CNTL (R296). -/
def Samples (s : State) (i : Instr) (n : BitVec 32) (store : Option Nat) (lo m : Nat) (ds : List (Nat × Nat × Nat)) : Prop :=
  ∃ t o, exec i s = .next t ∧ Sent s t o ∧ o.kind = .sample n store lo m ∧ destsOf o = ds ∧ o.cntS = false ∧ o.cntL = true

/-- TRAPVAL of a post permission trap (R293). -/
def postTrapVal (reason : Nat) (n : BitVec 32) : Word := w64 (reason * 2 ^ 32 + n.toNat)

end Sys2Proof.Claims

/-- R279, R293, R295, R297: installs and pwatch: the checks in their order, each with its trap and TRAPVAL; the value built at issue and
sent as one install; the watch armed. -/
def Sys2Proof.Claims.InstallsAndWatchesIssue : Prop :=
  ∀ (s : State) (h : Hdr) (a b : G) (w : V),
    let v := s.me.gr a
    let n : BitVec 32 := v.setWidth 32
    let x := s.me.gr b
    (Ready s h [rG a, rG b] [] →
      (Trappable s → ¬ PostNumber v → Traps s (.pput h a b) 4 0 s.me.pc v ∧ Traps s (.pputg h a b) 4 0 s.me.pc v ∧
        Traps s (.pwatch h a b) 4 0 s.me.pc v) ∧
      (Trappable s → PostNumber v → s.myTile.posts.filter (fun x => samePost s x.post n) = [] →
        Traps s (.pput h a b) 6 0 s.me.pc (postTrapVal 1 n) ∧ Traps s (.pputg h a b) 6 0 s.me.pc (postTrapVal 1 n) ∧
        Traps s (.pwatch h a b) 6 0 s.me.pc (postTrapVal 1 n)) ∧
      (∀ e, Trappable s → PostNumber v → OnlyEntry s n e → e.isOut = false →
        Traps s (.pput h a b) 6 0 s.me.pc (postTrapVal 1 n) ∧ Traps s (.pputg h a b) 6 0 s.me.pc (postTrapVal 1 n)) ∧
      (∀ e, Trappable s → PostNumber v → OnlyEntry s n e → e.isOut = true → e.writer.toNat ≠ s.myPart.logical s.cur.1 →
        Traps s (.pput h a b) 6 0 s.me.pc (postTrapVal 2 n) ∧ Traps s (.pputg h a b) 6 0 s.me.pc (postTrapVal 2 n)) ∧
      (∀ e, PostNumber v → OnlyEntry s n e → MayInstall s e →
        (Trappable s → inAnyWindow x.toNat = false → Traps s (.pput h a b) 4 0 s.me.pc x) ∧
        (Trappable s → inAnyWindow x.toNat = true → x.toNat % 64 ≠ 0 → Traps s (.pput h a b) 3 0 s.me.pc x) ∧
        (NoRate s n → 0 < e.lines → inWindow x.toNat (256 * e.lines) = true → x.toNat % 64 = 0 → s.me.acquiring = false →
          s.myTile.badChunks = [] → Installs s (.pput h a b) n e.lines (s.myTile.storeRead x.toNat (256 * e.lines))) ∧
        (NoRate s n → Installs s (.pputg h a b) n e.lines x.toNat)) ∧
      (∀ e, PostNumber v → OnlyEntry s n e →
        (Trappable s → x &&& ~~~0xFF0F ≠ 0 → Traps s (.pwatch h a b) 4 0 s.me.pc x) ∧
        (x &&& ~~~0xFF0F = 0 → ∃ t, exec (.pwatch h a b) s = .next t ∧ Advanced s t ∧ SlotKept s.me t.me [] ∧
          (let i := x.toNat % 16
           let lim := bitsAt x.toNat 8 8
           t.myTile.watch.toList[i]? = some (w64 (n.toNat * 2 ^ 32 + lim * 2 ^ 24 + s.cur.2.val * 2 ^ 11 + (if lim = 0 then 0 else 1))) ∧
           t.myTile.watchF.toList[i]? = some 0 ∧
           (∀ j, j ≠ i → t.myTile.watch.toList[j]? = s.myTile.watch.toList[j]? ∧
             t.myTile.watchF.toList[j]? = s.myTile.watchF.toList[j]?)) ∧
          (∀ p, t.hbmByte p = s.hbmByte p) ∧ t.myTile.store = s.myTile.store))) ∧
    (Ready s h [rG a, rV w, rV (w + 1)] [] → ∀ e, PostNumber v → OnlyEntry s n e → MayInstall s e →
      (Trappable s → e.lines ≠ 1 → Traps s (.pputv h a w) 6 0 s.me.pc (postTrapVal 3 n)) ∧
      (NoRate s n → e.lines = 1 →
        Installs s (.pputv h a w) n 1 ((s.me.vr w).toNat + (s.me.vr (w + 1)).toNat * 2 ^ 1024)))

/-- R281, R293, R296: each read checks its operands and is sent as one read of the whole post, of a line, of eight bytes or of the
freshness alone. -/
def Sys2Proof.Claims.PostReadsIssue : Prop :=
  ∀ (s : State) (h : Hdr) (d a b c : G) (w : V) (line : BitVec 6) (quad : BitVec 11),
    let v := s.me.gr a
    let n : BitVec 32 := v.setWidth 32
    let x := s.me.gr b
    (Ready s h [rG a, rG b] [rG d] →
      (Trappable s → ¬ PostNumber v → Traps s (.pget h d a b) 4 0 s.me.pc v ∧ Traps s (.pfresh h d a) 4 0 s.me.pc v) ∧
      (Trappable s → PostNumber v → s.myTile.posts.filter (fun x => samePost s x.post n) = [] →
        Traps s (.pget h d a b) 6 0 s.me.pc (postTrapVal 1 n) ∧ Traps s (.pfresh h d a) 6 0 s.me.pc (postTrapVal 1 n)) ∧
      ∀ e, PostNumber v → OnlyEntry s n e → NoRate s n →
        (0 < e.lines → inWindow x.toNat (256 * e.lines) = true → x.toNat % 64 = 0 →
          Samples s (.pget h d a b) n (some x.toNat) 0 (256 * e.lines) [(destG d, 8 * (256 * e.lines), 64)]) ∧
        Samples s (.pfresh h d a) n none 0 0 [(destG d, 0, 64)]) ∧
    (Ready s h [rG a] [rV w, rV (w + 1), rG c] → ∀ e, PostNumber v → OnlyEntry s n e →
      (Trappable s → e.lines ≤ line.toNat → Traps s (.pgetv h w a c line) 6 0 s.me.pc (postTrapVal 4 n)) ∧
      (NoRate s n → line.toNat < e.lines → Samples s (.pgetv h w a c line) n none (256 * line.toNat) 256
        [(rV w, 0, 1024), (rV (w + 1), 1024, 1024), (destG c, 2048, 64)])) ∧
    (Ready s h [rG a] [rG d, rG c] → ∀ e, PostNumber v → OnlyEntry s n e →
      (Trappable s → 32 * e.lines ≤ quad.toNat → Traps s (.pgetg h d a c quad) 6 0 s.me.pc (postTrapVal 4 n)) ∧
      (NoRate s n → quad.toNat < 32 * e.lines → Samples s (.pgetg h d a c quad) n none (8 * quad.toNat) 8
        [(destG d, 0, 64), (destG c, 64, 64)]))

namespace Sys2Proof.Claims
open Sys2Proof.Machine

/-- The request of an operation on a post of another module has left, the operation outstanding (R281, R295). -/
def PostRequestLeft (s u : State) (t : TileId) (k : SlotId) (o : Op) (n : BitVec 32) (kind : AccKind) (lo m : Nat) : Prop :=
  ∃ tt r, u.out = s.out ++ [.link (postChip s n) (s.tile t).tag (partOf s t).epoch (.access tt r)] ∧ r.kind = kind ∧
    r.addr = n.toNat ∧ r.size = o.size ∧ r.op = lo ∧ r.cmp = m ∧ (u.slot t k).opOf o.id = some { o with sent := true } ∧
    (u.slot t k).cntl = (s.slot t k).cntl ∧ (u.slot t k).cnts = (s.slot t k).cnts ∧ (kind = .install → r.data = o.data)

end Sys2Proof.Claims

/-- R281 to R283, R293, R295, R296: the oldest install of a slot on a post of this module replaces the whole value and adds one to F, and
lowers CNTS; a read takes value and freshness together, pget's bytes going to the tile store; on a post of another module each sends its
request, and CNTS falls or the results come with the answer; an exhausted install and a refused install or read take the post permission
trap. -/
def Obligations.InstallsCommitAndReadsSample : Prop :=
  ∀ (s : State) (t : TileId) (k : SlotId) (id : Nat) (o : Op) (n : BitVec 32) (q : Post),
    let x := s.slot t k
    HasOp s t k id o → x.ops = [o] → o.conf = true → o.held = false → o.after = [] → o.ready = false →
    (postChip s n ≠ s.chipId → o.sent = false →
      (∀ r, o.kind = .install n →
        ∃ u, exec (.postCommit t k id r) s = .next u ∧ PostRequestLeft s u t k o n .install 0 0) ∧
      (∀ f r b store lo m, o.kind = .sample n store lo m →
        ∃ u, exec (.postSample t k id f r b) s = .next u ∧ PostRequestLeft s u t k o n .sample lo m)) ∧
    (o.sent = true →
      (∀ r, o.kind = .install n → ∃ u, exec (.postCommit t k id r) s = .next u ∧ (u.slot t k).opOf id = none ∧
        (u.slot t k).cnts = (if o.cntS then x.cnts - 1 else x.cnts) ∧
        (r = 0 → (u.slot t k).deferred = x.deferred) ∧
        (r ≠ 0 → x.active = true → ∃ tr, (u.slot t k).deferred = x.deferred ++ [tr] ∧ tr.code = 6 ∧ tr.precise = false ∧
          tr.val = postTrapVal (if r = 5 then 5 else 6) n)) ∧
      (∀ store lo m v (f : Word), o.kind = .sample n store lo m → v < 2 ^ (8 * m) →
        (∃ u, exec (.postSample t k id f v false) s = .next u ∧
          (u.slot t k).opOf id = some { o with data := v + f.toNat * 2 ^ (8 * m), ready := true, performed := true, bad := false }) ∧
        (∃ u tr, exec (.postSample t k id f v true) s = .next u ∧ (u.slot t k).opOf id = none ∧
          (u.slot t k).deferred = x.deferred ++ [tr] ∧ tr.code = 6 ∧ tr.precise = true ∧ tr.pc = o.pc ∧ tr.val = postTrapVal 6 n))) ∧
    (postChip s n = s.chipId → o.sent = false → mapFind s.posts (postKey n) = some q →
    (∀ r, o.kind = .install n →
      (q.f.toNat + 2 < 2 ^ 64 → ∃ u, exec (.postCommit t k id r) s = .next u ∧
        (∃ q', mapFind u.posts (postKey n) = some q' ∧ q'.f = q.f + 1 ∧ q'.lines = q.lines ∧
          ∀ i, i < 256 * q.lines → (Memory.get q'.val i).toNat = bitsAt o.data (8 * i) 8) ∧
        (∀ j, j ≠ postKey n → mapFind u.posts j = mapFind s.posts j) ∧ (u.slot t k).opOf id = none ∧
        (u.slot t k).cnts = (if o.cntS then x.cnts - 1 else x.cnts)) ∧
      (2 ^ 64 ≤ q.f.toNat + 2 → x.active = true → ∃ u, exec (.postCommit t k id r) s = .next u ∧ u.posts = s.posts ∧
        ∃ tr, (u.slot t k).deferred = x.deferred ++ [tr] ∧ tr.code = 6 ∧ tr.precise = false ∧ tr.val = postTrapVal 5 n)) ∧
    (∀ store lo m f r b, o.kind = .sample n store lo m → q.bad = [] →
      ∃ u, exec (.postSample t k id f r b) s = .next u ∧ u.posts = s.posts ∧
        (u.slot t k).opOf id = some { o with data := Memory.readN q.val lo m + q.f.toNat * 2 ^ (8 * m), ready := true,
                                              performed := true, bad := false } ∧
        (store = none → (u.tile t).store = (s.tile t).store) ∧
        (∀ a, store = some a → Memory.wf (s.tile t).store = true → inWindow a m = true →
          (u.tile t).storeRead a m = Memory.readN q.val lo m ∧
          ∀ b, (∀ i, i < m → storeOff (a + i) ≠ some b) → Memory.get (u.tile t).store b = Memory.get (s.tile t).store b)))

/-- R279, R281, R293 to R297: the instructions of class 0x10: their checks in order, and the install, read or watch they send. -/
def Obligations.PostInstructionsIssue : Prop :=
  Claims.InstallsAndWatchesIssue ∧ Claims.PostReadsIssue


/-! ## Waybills and time -/

namespace Sys2Proof.Claims
open Sys2Proof.Machine

/-- A malformed waybill (R357). -/
def Malformed (w : Word) : Prop :=
  w.getLsbD 0 = false ∨ w.extractLsb' 2 6 ≠ 0 ∨ (w.getLsbD 1 = false ∧ w.extractLsb' 8 24 = 0) ∨
    (w.getLsbD 1 = true ∧ (w.extractLsb' 40 12 ≠ 0 ∨ w.extractLsb' 8 24 ≠ 0))

/-- What R376 accepts at issue: well formed, and of a chip that the link window reaches, FAILED or not. -/
def WbGood (s : State) (w : Word) : Prop :=
  ¬ Malformed w ∧ (w.getLsbD 1 = true ∨ w.extractLsb' 52 12 ≠ 0xFFF) ∧ (s.myPart.link (w.extractLsb' 52 12)).isSome = true

/-- What it traps on. -/
def WbBad (s : State) (w : Word) : Prop := Malformed w ∨ s.myPart.link (w.extractLsb' 52 12) = none

/-- A dispatcher post of the tile's list, on this module (R364). -/
def IsDispatcherPost (s : State) (n : BitVec 32) : Prop :=
  n.toNat % 8 = 0 ∧ postChip s n = s.chipId ∧ ∃ e ∈ s.myTile.posts, samePost s e.post n = true ∧ e.writer = 0xFFFF ∧ e.isIn = true ∧ e.isOut = false

/-- The chip an invocation without a target waybill goes to (R377). -/
def chipNamed (s : State) (v : Word) : Chip := if v = 0xFFF then s.chipId else v.setWidth 12

end Sys2Proof.Claims

/-- R376 to R380: invoke checks its arguments, target and result post and asks for its waybill; wbstate and wbcause ask the table;
wbbind and wbdrop are sent to it, counted on CNTS; a malformed or unreachable waybill takes the protection trap. -/
def Obligations.WaybillInstructionsIssue : Prop :=
  ∀ (s : State) (h : Hdr) (d a b c : G) (svc : BitVec 12) (narg : BitVec 4) (warg : BitVec 8) (tw rp : Bool) (item : BitVec 2),
    let w := s.me.gr a
    let v := s.me.gr b
    let i := Instr.invoke h d a b c svc narg warg tw rp
    let n := narg.toNat
    let args := (List.range n).map fun j => w64 (s.myTile.storeRead (v.toNat + 8 * j) 8)
    let stored : Prop := n = 0 ∨ (v.toNat % 8 = 0 ∧ inWindow v.toNat (8 * n) = true ∧ s.me.acquiring = false ∧ s.myTile.badChunks = [])
    let chip := if tw then w.extractLsb' 52 12 else chipNamed s w
    let post : BitVec 32 := (s.me.gr c).setWidth 32
    (Ready s h [rG a, rG b, rG c] [rG d] → n ≤ 8 →
      (Trappable s → 0 < n → v.toNat % 8 ≠ 0 → Traps s i 3 0 s.me.pc v) ∧
      (Trappable s → n = 0 → tw = true → WbBad s w → Traps s i 4 0 s.me.pc w) ∧
      (Trappable s → n = 0 → tw = false → 4096 ≤ w.toNat ∨ s.myPart.link (chipNamed s w) = none → Traps s i 4 0 s.me.pc w) ∧
      (stored → (if tw then WbGood s w else w.toNat < 4096 ∧ (s.myPart.link (chipNamed s w)).isSome = true) →
        (∀ j, j < n → warg.getLsbD j = true → WbGood s (args.getD j 0)) →
        (rp = true → PostNumber (s.me.gr c) ∧ IsDispatcherPost s post) →
        ∃ t o inv, exec i s = .next t ∧ Queued s t o ∧ o.kind = .query (.invoke inv chip) ∧ o.cntL = false ∧ o.cntS = false ∧
          destsOf o = [(destG d, 0, 64)] ∧ inv.svc = svc ∧ inv.target = (if tw then some w else none) ∧ inv.args = args ∧
          inv.warg = warg ∧ inv.post = (if rp then some post else none) ∧ inv.sndChip = s.chipId ∧
          inv.sndSlot.toNat = s.cur.2.val ∧ inv.after = (s.me.ops.filter (·.cntS)).map (·.id))) ∧
    (Ready s h [rG a] [rG d] →
      (Trappable s → WbBad s w → Traps s (.wbstate h d a item) 4 0 s.me.pc w ∧ Traps s (.wbcause h d a item) 4 0 s.me.pc w) ∧
      (WbGood s w → AsksG s (.wbstate h d a item) (.wbstate w item) d ∧ AsksG s (.wbcause h d a item) (.wbcause w item) d)) ∧
    (Ready s h [rG a] [] →
      (Trappable s → WbBad s w → Traps s (.wbdrop h a) 4 0 s.me.pc w) ∧
      (WbGood s w → w.getLsbD 1 = true → ∃ t, exec (.wbdrop h a) s = .next t ∧ Advanced s t ∧ Kept s t []) ∧
      (WbGood s w → w.getLsbD 1 = false → ∃ t o, exec (.wbdrop h a) s = .next t ∧ Queued s t o ∧ o.kind = .drop w ∧ o.cntS = true ∧
        o.cntL = false ∧ o.dests = [])) ∧
    (Ready s h [rG a, rG b] [] → s.me.acquiring = false → s.myTile.badChunks = [] →
      let p : BitVec 32 := BitVec.ofNat 32 (s.myTile.storeRead v.toNat 4)
      let limit := s.myTile.storeRead (v.toNat + 4) 4
      let buf := s.myTile.storeRead (v.toNat + 8) 8
      (Trappable s → WbBad s w → Traps s (.wbbind h a b) 4 0 s.me.pc w) ∧
      (Trappable s → WbGood s w → v.toNat % 8 ≠ 0 → Traps s (.wbbind h a b) 3 0 s.me.pc v) ∧
      (Trappable s → WbGood s w → v.toNat % 8 = 0 → inWindow v.toNat 16 = false → Traps s (.wbbind h a b) 4 0 s.me.pc v) ∧
      (WbGood s w → v.toNat % 8 = 0 → inWindow v.toNat 16 = true →
        (Trappable s → ¬ IsDispatcherPost s p → Traps s (.wbbind h a b) 6 0 s.me.pc (postTrapVal 2 p)) ∧
        (IsDispatcherPost s p → buf = 0 ∨ (0 < limit ∧ buf + limit ≤ s.myPart.extent ∧ s.myPart.grants buf limit 2 = true) →
          ∃ t o, exec (.wbbind h a b) s = .next t ∧ Queued s t o ∧ o.kind = .bind w p limit buf ∧ o.cntS = true ∧ o.cntL = false ∧
            o.dests = [])))

namespace Sys2Proof.Claims
open Sys2Proof.Machine

/-- An operation of a slot that nothing holds back. -/
structure FreeOp (s : State) (t : TileId) (k : SlotId) (id : Nat) (o : Op) : Prop where
  has : HasOp s t k id o
  free : (s.slot t k).free o = true
  plain : o.mark = false ∧ o.ready = false

/-- The waybill names slot n of this module's table, in the range of the partition that the tile's own link-window entry names, and
the slot holds `x` and matches it (R358, R369). -/
def AtTable (s : State) (t : TileId) (w : Word) (x : WbSlot) : Prop :=
  w.getLsbD 1 = false ∧ wbChip w = s.chipId ∧
    ∃ tt, (partOf s t).link s.chipId = some tt ∧ (s.part tt.toNat).wbFirst ≤ wbSlotNo w ∧ wbSlotNo w ≤ (s.part tt.toNat).wbLast ∧
      s.wbAt (wbSlotNo w) = x ∧ x.gen.toNat = wbGen w ∧ x.st ≠ .free

/-- What wbstate and wbcause return (R378). -/
def stateItem (x : WbState) : Word :=
  match x with
  | .resolved _ len _ => w64 (2 * 2 ^ 62 + len)
  | .broken _ c _ _ _ => w64 (3 * 2 ^ 62 + c.toNat)
  | _ => w64 (2 ^ 62)
def valueItem (x : WbState) : Word := match x with | .resolved v _ _ => v | _ => 0
def rootItem (x : WbState) : Word := match x with | .broken r _ _ _ _ => r | _ => 0
def causeItem (x : WbState) : Word :=
  match x with
  | .broken _ c sv d _ => w64 (c.toNat + sv.toNat * 2 ^ 8 + d * 2 ^ 16)
  | _ => 0
def parentItem (x : WbState) : Word := match x with | .broken _ _ _ _ p => p | _ => 0

/-- The query's answer is ready for its register. -/
def Answered (u : State) (t : TileId) (k : SlotId) (id : Nat) (o : Op) (v : Word) : Prop :=
  (u.slot t k).opOf id = some { o with data := v.toNat, ready := true, performed := true }

/-- The operation has ended and CNTS is lowered. -/
def EndedOp (s u : State) (t : TileId) (k : SlotId) (id : Nat) (o : Op) : Prop :=
  (u.slot t k).opOf id = none ∧ (u.slot t k).cnts = (if o.cntS then (s.slot t k).cnts - 1 else (s.slot t k).cnts)

/-- A trap waits for the slot's next issue (R420). -/
def Deferred (s u : State) (t : TileId) (k : SlotId) (code : Nat) (val : Word) : Prop :=
  ∃ tr, (u.slot t k).deferred = (s.slot t k).deferred ++ [tr] ∧ tr.code = code ∧ tr.val = val

end Sys2Proof.Claims

/-- R359, R361, R362, R376, R378 to R380: the waybill table serves an invoke with the oldest grant of the pool, answers the queries of a
slot item by item, takes at most four bindings, and frees a dropped slot with the next generation; a waybill that does not match traps
its slot; the channel counts are read, a command held for confirmation counted as queued. -/
def Obligations.HubDieAnswersQueries : Prop :=
  ∀ (s : State) (t : TileId) (k : SlotId) (id ext : Nat) (o : Op) (w : Word), FreeOp s t k id o →
    let x := s.slot t k
    let n := wbSlotNo w
    (∀ z, AtTable s t w z →
      (∀ item : BitVec 2, o.kind = .query (.wbstate w item) → ∃ u, exec (.longResultReturn t k id 0 ext) s = .next u ∧
        (item = 0 → Answered u t k id o (stateItem z.st)) ∧ (item = 1 → Answered u t k id o (valueItem z.st))) ∧
      (∀ item : BitVec 2, o.kind = .query (.wbcause w item) → ∃ u, exec (.longResultReturn t k id 0 ext) s = .next u ∧
        (item = 0 → Answered u t k id o (rootItem z.st)) ∧ (item = 1 → Answered u t k id o (causeItem z.st)) ∧
        (item = 2 → Answered u t k id o (parentItem z.st))) ∧
      (∀ p l b, o.kind = .bind w p l b → z.binds.length < 4 → ∃ u, exec (.storePerformed t k id 0 ext) s = .next u ∧ EndedOp s u t k id o ∧
        u.wbAt n = { z with binds := z.binds ++ [{ post := p, limit := l, buf := b, sent := 0, done := false, chip := s.chipId,
                                                   tag := (s.tile t).tag }] }) ∧
      (∀ p l b, o.kind = .bind w p l b → 4 ≤ z.binds.length → x.active = true → ∃ u, exec (.storePerformed t k id 0 ext) s = .next u ∧
        EndedOp s u t k id o ∧ u.wbAt n = z ∧ Deferred s u t k 6 (postTrapVal 7 p)) ∧
      (o.kind = .drop w → (∀ q, (s.part q).queue = []) → ∃ u, exec (.storePerformed t k id 0 ext) s = .next u ∧ EndedOp s u t k id o ∧
        (u.wbAt n).st = .free ∧ (u.wbAt n).gen = (if z.gen = 0xFFFFFF then 1 else z.gen + 1) ∧ (u.wbAt n).binds = [])) ∧
    (∀ tt, w.getLsbD 1 = false → wbChip w = s.chipId → (partOf s t).link s.chipId = some tt →
      (s.wbAt n).gen.toNat ≠ wbGen w ∨ (s.wbAt n).st = .free ∨ n < (s.part tt.toNat).wbFirst ∨ (s.part tt.toNat).wbLast < n →
      (∀ item, o.kind = .query (.wbstate w item) ∨ o.kind = .query (.wbcause w item) →
        ∃ u, exec (.longResultReturn t k id 0 ext) s = .next u ∧ (u.slot t k).opOf id = none ∧ Deferred s u t k 11 w) ∧
      (o.kind = .drop w ∨ (∃ p l b, o.kind = .bind w p l b) → x.active = true →
        ∃ u, exec (.storePerformed t k id 0 ext) s = .next u ∧ EndedOp s u t k id o ∧ Deferred s u t k 11 w)) ∧
    (∀ inv g gs tt, o.kind = .query (.invoke inv s.chipId) → o.performed = false → (partOf s t).link s.chipId = some tt →
      (partOf s t).pool s.chipId = g :: gs → 17 ≤ (g :: gs).length → invNamed inv = [] →
      ∃ u, exec (.longResultReturn t k id 0 ext) s = .next u ∧ Answered u t k id o (waybill s.chipId g.1 g.2) ∧
        u.agenda = s.agenda ++ [.event (.dispatcherInvocationArrive tt { inv with wb := waybill s.chipId g.1 g.2, tags := [] })]) ∧
    (∀ ch item, o.kind = .query (.cpwp ch) ∨ o.kind = .query (.cpstat ch item) →
      let c := (s.tile t).channel ch
      let n := c.queue.length + (s.tile t).heldCopies ch
      n ≤ 16 → ∃ u v, exec (.longResultReturn t k id 0 ext) s = .next u ∧ Answered u t k id o v ∧
        (o.kind = .query (.cpwp ch) → v = c.wpos) ∧ (o.kind = .query (.cpstat ch 1) → v = c.enq) ∧
        (o.kind = .query (.cpstat ch 2) → v = c.seq) ∧ (o.kind = .query (.cpstat ch 3) → v = c.errAddr) ∧
        (o.kind = .query (.cpstat ch 0) → v.getLsbD 63 = c.cur.isSome ∧ v.getLsbD 62 = c.halted ∧ v.extractLsb' 0 8 = c.err ∧
          v.extractLsb' 48 8 = BitVec.ofNat 8 (n + if c.cur.isSome then 1 else 0)))

/-- R467 to R469: time and tstat ask for long results; ttab checks its entry number and its record, reads the record at issue and sends
it, counted on CNTS; what tstat returns of an entry and of the time unit. -/
def Sys2Proof.Claims.TimeAndTimetable : Prop :=
  ∀ (s : State) (h : Hdr) (d a b : G),
    let n := s.me.gr a
    let v := s.me.gr b
    (Ready s h [] [rG d] → AsksG s (.time h d) .time d) ∧
    (Ready s h [rG a] [rG d] →
      (Trappable s → 1024 ≤ n.toNat → Traps s (.tstat h d a) 4 0 s.me.pc n) ∧
      (n.toNat < 1024 → AsksG s (.tstat h d a) (.tstat n) d)) ∧
    (Ready s h [rG a, rG b] [] →
      (Trappable s → 255 < n.toNat → Traps s (.ttab h a b) 4 0 s.me.pc n) ∧
      (Trappable s → n.toNat ≤ 255 → v.toNat % 64 ≠ 0 → Traps s (.ttab h a b) 3 0 s.me.pc v) ∧
      (Trappable s → n.toNat ≤ 255 → v.toNat % 64 = 0 → v.toNat < 2 ^ 39 → s.myPart.extent < v.toNat + 64 →
        Traps s (.ttab h a b) 4 0 s.me.pc v) ∧
      (n.toNat ≤ 255 → v.toNat % 64 = 0 →
        (inWindow v.toNat 64 = true → s.me.acquiring = false → s.myTile.badChunks = [] →
          ∃ t o, exec (.ttab h a b) s = .next t ∧ Queued s t o ∧ o.kind = .ttab (n.setWidth 8) (s.myTile.storeRead v.toNat 64) ∧
            o.cntS = true ∧ o.cntL = false) ∧
        (v.toNat < 2 ^ 39 → v.toNat + 64 ≤ s.myPart.extent → s.myPart.grants v.toNat 64 1 = true → Homes s s.myTag v.toNat 64 →
          (s.me.cnts ≠ 0 → ∃ t, exec (.ttab h a b) s = .next t ∧ t.me.park = .stores ∧ t.me.pc = s.me.pc ∧ t.me.ops = s.me.ops) ∧
          (s.me.cnts = 0 → ∃ t o, exec (.ttab h a b) s = .next t ∧ Queued s t o ∧
            o.kind = .ttab (n.setWidth 8) (s.readHbm s.myPart v.toNat 64) ∧ o.cntS = true ∧ o.cntL = false)))) ∧
    (∀ t k id ext o, FreeOp s t k id o → o.kind = .query (.tstat n) → n.toNat < 1024 →
      let e := (partOf s t).entry (n.toNat % 256)
      ∃ u x, exec (.longResultReturn t k id 0 ext) s = .next u ∧ Answered u t k id o x ∧
        (n.toNat < 256 → x.extractLsb' 0 3 = e.state ∧ x.extractLsb' 8 4 = e.err ∧ x.getLsbD 12 = e.bt ∧ x.getLsbD 13 = e.late ∧
          x.getLsbD 14 = e.strag ∧ x.getLsbD 15 = e.evicted ∧ x.extractLsb' 24 8 = e.epoch ∧ x.extractLsb' 32 32 = e.skew) ∧
        (256 ≤ n.toNat → n.toNat < 512 → x = w64 e.instant) ∧ (512 ≤ n.toNat → n.toNat < 768 → e.state = 0 → x = 0) ∧
        (768 ≤ n.toNat → x.extractLsb' 0 2 = (match s.time.clock with | .locked => 0 | .holdover => 1 | .lost => 2) ∧
          x.getLsbD 2 = s.time.isSet))

/-! ## The dispatcher and the waybill table at work -/

namespace Sys2Proof.Claims
open Sys2Proof.Machine

/-- The waybill is of this module and matches slot contents `x` within a partition's range (R358). -/
structure Matches (s : State) (tag : Nat) (w : Word) (x : WbSlot) : Prop where
  here : w.getLsbD 1 = false ∧ wbChip w = s.chipId
  range : (s.part tag).wbFirst ≤ wbSlotNo w ∧ wbSlotNo w ≤ (s.part tag).wbLast
  slot : s.wbAt (wbSlotNo w) = x
  gen : x.gen.toNat = wbGen w
  used : x.st ≠ .free

/-- State of the slot that a waybill names. -/
def wbNow (s : State) (w : Word) : WbState := (s.wbAt (wbSlotNo w)).st

/-- Service `svc` of a partition has one tile, with argument post `ad` and done post `dn` (R363). -/
structure OneService (s : State) (tag svc : Nat) (ad dn : BitVec 32) : Prop where
  en : (s.part tag).svcbase.getLsbD 0 = true
  inside : bitsAt (s.part tag).svcbase.toNat 7 32 * 128 + 128 * svc + 128 ≤ (s.part tag).extent
  homes : ∀ n, n ≤ 24 → 0 < n → Homes s tag (bitsAt (s.part tag).svcbase.toNat 7 32 * 128 + 128 * svc + 24 - n) n
  ctl : s.readHbm (s.part tag) (bitsAt (s.part tag).svcbase.toNat 7 32 * 128 + 128 * svc) 16 = 0x11
  tile : s.readHbm (s.part tag) (bitsAt (s.part tag).svcbase.toNat 7 32 * 128 + 128 * svc + 16) 8 = ad.toNat + dn.toNat * 2 ^ 32

/-- A post of this module bound by a partition. -/
def BoundTo (s : State) (tag : Nat) (n : BitVec 32) (q : Post) : Prop :=
  postChip s n = s.chipId ∧ mapFind s.posts (postKey n) = some q ∧ ∃ b ∈ q.binders, b.1 = tag

/-- Bytes `lo` to `lo + n` of a post's value after one install on `q`. -/
def Installed (u : State) (n : BitVec 32) (q : Post) (p : Nat → Nat → Nat → Prop) : Prop :=
  ∃ q', mapFind u.posts (postKey n) = some q' ∧ q'.f = q.f + 1 ∧ q'.lines = q.lines ∧
    ∀ lo len, lo + len ≤ 256 * q.lines → p lo len (Memory.readN q'.val lo len)

end Sys2Proof.Claims

/-- R360, R365, R367 to R371: an invocation takes a place, eligible once what it names is resolved; a full queue breaks it with code 3;
what it names broken breaks it in turn, stale with code 7; a value that arrives from another chip counts the same; it is handed to the
free tile of its service with the argument record, or breaks with code 1 where the service has none. -/
def Sys2Proof.Claims.InvocationsQueueAndAreHandedOut : Prop :=
  ∀ (s : State) (tag : Tag) (inv : Inv) (w : Word) (z x : WbSlot), s.power ≠ .off → (s.part tag.toNat).en = true →
    let p := s.part tag.toNat
    Matches s tag.toNat inv.wb z → z.st = .pending →
    (inv.post = none →
      (p.queue = [] → invNamed inv = [] → ∃ u q, exec (.dispatcherInvocationArrive tag inv) s = .next u ∧
        (u.part tag.toNat).queue = [q] ∧ q.inv = inv ∧ q.elig.isSome = true ∧ q.handed = none ∧ wbNow u inv.wb = .pending) ∧
      ((∀ q ∈ p.queue, q.elig.isSome = true) → 16384 ≤ (p.queue.filter fun q => q.handed.isNone).length →
        ∃ u, exec (.dispatcherInvocationArrive tag inv) s = .next u ∧ wbNow u inv.wb = .broken inv.wb 3 0 0 0 ∧
          (u.part tag.toNat).queue = p.queue) ∧
      (p.queue = [] → invNamed inv = [w] → Matches s tag.toNat w x →
        (∀ v len a, x.st = .resolved v len a → ∃ u q, exec (.dispatcherInvocationArrive tag inv) s = .next u ∧
          (u.part tag.toNat).queue = [q] ∧ q.inv = inv ∧ q.elig.isSome = true ∧ q.valueOf w = v.toNat) ∧
        (x.st = .pending → ∃ u q, exec (.dispatcherInvocationArrive tag inv) s = .next u ∧
          (u.part tag.toNat).queue = [q] ∧ q.inv = inv ∧ q.elig = none ∧ wbNow u inv.wb = .pending) ∧
        (∀ r c sv dp par, x.st = .broken r c sv dp par → ∃ u, exec (.dispatcherInvocationArrive tag inv) s = .next u ∧
          (u.part tag.toNat).queue = [] ∧ wbNow u inv.wb = .broken r c sv (min (dp + 1) 65535) w)) ∧
      (p.queue = [] → invNamed inv = [w] → w.getLsbD 1 = false → wbChip w = s.chipId → (s.wbAt (wbSlotNo w)).gen.toNat ≠ wbGen w →
        ∃ u, exec (.dispatcherInvocationArrive tag inv) s = .next u ∧ (u.part tag.toNat).queue = [] ∧
          wbNow u inv.wb = .broken inv.wb 7 0 0 w)) ∧
    (∀ q, p.queue = [q] → q.inv = inv → q.elig = none → q.handed = none → q.known = [] → invNamed inv = [w] → w.getLsbD 1 = false →
      wbChip w ≠ s.chipId →
      (∀ v len a, ∃ u q', exec (.waybillValueArrive tag w (.resolved v len a)) s = .next u ∧ (u.part tag.toNat).queue = [q'] ∧
        q'.inv = inv ∧ q'.elig.isSome = true ∧ q'.valueOf w = v.toNat) ∧
      (∀ r c sv dp, ∃ u, exec (.waybillValueArrive tag w (.broken r c sv dp)) s = .next u ∧ (u.part tag.toNat).queue = [] ∧
        wbNow u inv.wb = .broken r c sv (min (dp + 1) 65535) w)) ∧
    (∀ q, p.queue = [q] → q.inv = inv → q.elig.isSome = true → q.handed = none → inv.after = [] → inv.args.length ≤ 8 →
      p.stopping = none → p.held = false → s.saved = [] →
      (∀ ad dn qa qd, OneService s tag.toNat inv.svc.toNat ad dn → BoundTo s tag.toNat ad qa → BoundTo s tag.toNat dn qd →
        qa.writer = 0xFFFF → mapFind p.lastHanded (postKey ad) = none → 0 < qa.lines → qa.f.toNat + 2 < 2 ^ 64 →
        ∃ u, exec (.dispatcherHandOut tag 0) s = .next u ∧ (u.part tag.toNat).queue = [{ q with handed := some (ad, dn) }] ∧
          mapFind (u.part tag.toNat).lastHanded (postKey ad) = some (inv.wb, postKey dn) ∧
          Installed u ad qa fun lo len v =>
            (lo = 0 → len = 8 → v = inv.wb.toNat) ∧
            (lo = 8 → len = 8 → v = match inv.target with | some w => q.valueOf w | none => 0) ∧
            (lo = 0x10 → len = 2 → v = inv.svc.toNat) ∧ (lo = 0x12 → len = 1 → v = inv.args.length) ∧
            (lo = 0x13 → len = 1 → v = if inv.target.isSome then 1 else 0) ∧ (lo = 0x14 → len = 4 → v = 0) ∧
            (∀ i a, inv.args[i]? = some a → lo = 0x20 + 8 * i → len = 8 → v = if inv.warg.getLsbD i then q.valueOf a else a.toNat) ∧
            (lo = 0x20 + 8 * inv.args.length → v = 0) ∧
            (lo = 0x18 → len = 8 → v = inv.sndChip.toNat * 2 ^ 52 + inv.sndTile.toNat * 2 ^ 16 + inv.sndSlot.toNat)) ∧
      (p.svcbase.getLsbD 0 = false → ∃ u, exec (.dispatcherHandOut tag 0) s = .next u ∧ (u.part tag.toNat).queue = [] ∧
        wbNow u inv.wb = .broken inv.wb 1 0 0 0))

/-- R368, R372, R373: a done record resolves its waybill with value, length and address, or breaks it with the service's status; a record
that names another waybill changes nothing; a settled slot sends the payload piece by piece, then the result record. -/
def Sys2Proof.Claims.ReportsSettleAndResultsGo : Prop :=
  ∀ (s : State) (tag : Tag) (q : QInv) (ad dn : BitVec 32) (qd : Post) (z : WbSlot), s.power ≠ .off →
    let p := s.part tag.toNat
    (p.queue = [q] → p.held = false → q.handed = some (ad, dn) → BoundTo s tag.toNat dn qd → Matches s tag.toNat q.inv.wb z →
      z.st = .pending →
      let r := Memory.readN qd.val 0 32
      (bitsAt r 0 64 = q.inv.wb.toNat → bitsAt r 128 8 = 0 → bitsAt r 160 32 ≤ 2 ^ 24 → ∃ u, exec (.donePostScan tag) s = .next u ∧
        (u.part tag.toNat).queue = [] ∧ wbNow u q.inv.wb = .resolved (w64 (bitsAt r 64 64)) (bitsAt r 160 32) (bitsAt r 192 64)) ∧
      (bitsAt r 0 64 = q.inv.wb.toNat → bitsAt r 128 8 ≠ 0 → ∃ u, exec (.donePostScan tag) s = .next u ∧
        (u.part tag.toNat).queue = [] ∧ wbNow u q.inv.wb = .broken q.inv.wb 2 (BitVec.ofNat 8 (bitsAt r 128 8)) 0 0) ∧
      (bitsAt r 0 64 ≠ q.inv.wb.toNat → exec (.donePostScan tag) s = .next s)) ∧
    (∀ (n : BitVec 20) (i : Nat) (b : WbBind) (qp : Post), (s.wbAt n.toNat).binds[i]? = some b → b.done = false → b.chip = s.chipId → (s.part b.tag.toNat).held = false →
      mapFind s.posts (postKey b.post) = some qp → qp.f.toNat + 2 < 2 ^ 64 → 0 < qp.lines →
      (∀ v len a, (s.wbAt n.toNat).st = .resolved v len a →
        (b.buf ≠ 0 → b.sent < min len b.limit →
          ∃ u m, exec (.resultTransfer n i) s = .next u ∧ 0 < m ∧ m ≤ 32 ∧ m ≤ min len b.limit - b.sent ∧
            (u.wbAt n.toNat).binds[i]? = some { b with sent := b.sent + m } ∧ u.posts = s.posts) ∧
        (b.buf = 0 ∨ min len b.limit ≤ b.sent → ∃ u, exec (.resultTransfer n i) s = .next u ∧
          (u.wbAt n.toNat).binds[i]? = some { b with done := true } ∧
          Installed u b.post qp fun lo l x =>
            (lo = 0 → l = 8 → x = (waybill s.chipId n (s.wbAt n.toNat).gen).toNat) ∧ (lo = 8 → l = 8 → x = v.toNat) ∧
            (lo = 0x10 → l = 4 → x = 0) ∧ (lo = 0x14 → l = 4 → x = b.sent % 2 ^ 32) ∧ (lo = 0x18 → x = 0))) ∧
      (∀ r c sv d par, (s.wbAt n.toNat).st = .broken r c sv d par → ∃ u, exec (.resultTransfer n i) s = .next u ∧
        (u.wbAt n.toNat).binds[i]? = some { b with done := true } ∧
        Installed u b.post qp fun lo l x => (lo = 8 → l = 8 → x = 0) ∧ (lo = 0x10 → l = 1 → x = c.toNat) ∧
          (lo = 0x11 → l = 1 → x = sv.toNat) ∧ (lo = 0x18 → l = 8 → x = r.toNat)))

/-- R359 to R362: a partition's free slots are granted, at most 32 at a time, each pending with its generation; grants that arrive go to
the pool, which asks again while it is short and gives all back after the last job; a job's report frees the slots it still holds, with the next generation; a lost route breaks what waits for its chip. -/
def Sys2Proof.Claims.GrantsMoveAndJobsFreeSlots : Prop :=
  ∀ (s : State) (tag : Tag) (chip : Chip) (n : Nat) (w : Word) (z : WbSlot), s.power ≠ .off →
    let p := s.part tag.toNat
    ((s.waybills.map (·.1)).Pairwise (· < ·) → ∃ u l, exec (.grantRequestReceive chip tag n) s = .next u ∧ u.out = s.out ++ [.grants chip tag l] ∧
      l.length ≤ min n 32 ∧ (p.en = false → l = []) ∧
      (∀ g ∈ l, p.wbFirst ≤ g.1.toNat ∧ g.1.toNat ≤ p.wbLast ∧ (s.wbAt g.1.toNat).st = .free ∧ g.2 = (s.wbAt g.1.toNat).gen ∧
        (u.wbAt g.1.toNat).st = .pending ∧ (u.wbAt g.1.toNat).gen = g.2) ∧
      (∀ i, (∀ g ∈ l, g.1.toNat ≠ i) → u.wbAt i = s.wbAt i)) ∧
    (∀ gs, chip.toNat ∈ p.poolAsked → p.jobs ≠ [] → s.waitingInvokes tag.toNat chip = [] → (p.pool chip ++ gs).length ≤ 64 →
      (16 ≤ (p.pool chip ++ gs).length ∨ gs = [] →
        ∃ u, exec (.grantArrive tag chip gs) s = .next u ∧ (u.part tag.toNat).pool chip = p.pool chip ++ gs ∧
          chip.toNat ∉ (u.part tag.toNat).poolAsked) ∧
      (∀ tt, (p.pool chip ++ gs).length < 16 → gs ≠ [] → chip ≠ s.chipId → p.link chip = some tt →
        ∃ u, exec (.grantArrive tag chip gs) s = .next u ∧ (u.part tag.toNat).pool chip = p.pool chip ++ gs ∧
          u.out = s.out ++ [.grantRequest chip tt 32] ∧ chip.toNat ∈ (u.part tag.toNat).poolAsked)) ∧
    (∀ gs, chip.toNat ∈ p.poolAsked → p.jobs = [] → ∃ u, exec (.grantArrive tag chip gs) s = .next u ∧
      (u.part tag.toNat).pools = [] ∧ chip.toNat ∉ (u.part tag.toNat).poolAsked) ∧
    (Matches s (s.wbOwner (wbSlotNo w)) w z → (∀ q, (s.part q).queue = []) → ∃ u, exec (.jobEndReport chip [w]) s = .next u ∧
      wbNow u w = .free ∧ (u.wbAt (wbSlotNo w)).gen = (if z.gen = 0xFFFFFF then 1 else z.gen + 1)) ∧
    (∀ q, s.parts = [(tag.toNat, p)] → p.queue = [q] → q.elig = none → q.handed = none → q.known = [] → invNamed q.inv = [w] →
      w.getLsbD 1 = false → wbChip w = chip → chip ≠ s.chipId → Matches s tag.toNat q.inv.wb z → z.st = .pending →
      ∃ u, exec (.linkRouteLoss chip) s = .next u ∧ (u.part tag.toNat).queue = [] ∧ wbNow u q.inv.wb = .broken w 8 0 1 w ∧
        u.rlat chip = 0)

/-- The dispatcher's events: invocations arrive and are handed out; reports settle waybills and results go to their posts; grants move and jobs free their slots. -/
def Obligations.DispatchersHandOutSettleAndGrant : Prop :=
  Claims.InvocationsQueueAndAreHandedOut ∧ Claims.ReportsSettleAndResultsGo ∧ Claims.GrantsMoveAndJobsFreeSlots


/-! ## Rounds, launches, phases -/

namespace Sys2Proof.Claims
open Sys2Proof.Machine

/-- A launch's tile whose round timer runs out now (R94, R108). -/
structure Expires (s : State) (t : TileId) : Prop where
  on : s.power ≠ .off
  launched : (s.tile t).launch.isSome = true
  zero : (s.tile t).toExpiry = 0
  running : (s.tile t).halted = false
  begun : (s.tile t).going = true ∨ (s.tile t).s0 ≤ s.time.tai

/-- The number of an expiry (R94). -/
def expiryNo (x : Tile) : Word := if x.going then x.round + 1 else 0

/-- The tile is between rounds with nothing outstanding. -/
def Idle (x : Tile) : Prop := x.inRound = false ∧ ∀ k, (x.slot k).active = false ∧ (x.slot k).longs = 0 ∧ (x.slot k).ra = none

/-- Every declared slot has its entry state, with g4 = n (R95); every arrival count of the drawbar is zero (R226); no copy channel is
halted (R348). -/
def RoundBegun (y : Tile) (n : Word) : Prop :=
  (∀ e ∈ y.entries, Begun { y with round := n } e.1 (y.slot e.1) e.2 ∧ (y.slot e.1).sbarCnt = 0) ∧
    (∀ k, (y.slot k).drawCnt = 0) ∧ ∀ c, (y.channel c).halted = false

/-- The tile's launch has a budget of rounds, and the tile has begun them all (R98). -/
def BudgetSpent (s : State) (t : TileId) : Prop :=
  ∃ e l b, (s.tile t).launch = some e ∧ s.launch (s.tile t).tag.toNat e = some l ∧ l.budget = some b ∧ b ≤ (s.tile t).begun

/-- No graph, phase or job of the partition is about to complete. -/
def NoneDue (p : Part) : Prop :=
  (∀ o ∈ p.graphs, o.2.expect = 0 ∧ o.2.ending = none) ∧ (∀ o ∈ p.phases, o.2.expect = 0 ∧ o.2.ending = none) ∧
    ∀ o ∈ p.jobs, o.2.expect = 0 ∧ o.2.ending = none

end Sys2Proof.Claims

/-- R94 to R98, R425: an expiry begins a round in every declared slot, re-runs an abandoned one with its own number, or counts an
overrun while the tile is busy, in a round once the turns of its tile cycle are past, or its rounds are over or all begun; under the
fault policy the round ends and the overrun trap is taken. -/
def Sys2Proof.Claims.RoundsBeginAtExpiries : Prop :=
  ∀ (s : State) (t : TileId), Expires s t →
    let x := s.tile t
    let n := expiryNo x
    (x.entries.map (·.1)).Nodup →
    (Idle x → x.roundsOver = false → x.rerun = none → BudgetSpent s t → ∃ u, exec (.roundTimerExpiry t) s = .next u ∧
      (u.tile t).round = n ∧ (u.tile t).roundsOver = true ∧ (u.tile t).overruns = x.overruns + 1 ∧ (u.tile t).slots = x.slots ∧
      (u.tile t).inRound = false ∧ (u.tile t).begun = x.begun) ∧
    (Idle x → x.roundsOver = false → x.rerun = none → ¬ BudgetSpent s t → ∃ u, exec (.roundTimerExpiry t) s = .next u ∧ (u.tile t).round = n ∧
      (u.tile t).toExpiry = x.period.toNat ∧ (u.tile t).going = true ∧ (u.tile t).inRound = true ∧ (u.tile t).roundNo = n ∧
      (u.tile t).begun = x.begun + 1 ∧ (u.tile t).tokUsed = 0 ∧ (u.tile t).stretch = false ∧ (u.tile t).overruns = x.overruns ∧
      RoundBegun (u.tile t) n ∧ (u.tile t).store = x.store ∧ u.hbm = s.hbm) ∧
    (∀ r, Idle x → x.roundsOver = false → x.rerun = some r → ∃ u, exec (.roundTimerExpiry t) s = .next u ∧ (u.tile t).round = n ∧
      (u.tile t).inRound = true ∧ (u.tile t).inRerun = true ∧ (u.tile t).rerun = none ∧ (u.tile t).roundNo = r ∧
      (u.tile t).begun = x.begun ∧ RoundBegun (u.tile t) r) ∧
    (Idle x → x.roundsOver = true → ∃ u, exec (.roundTimerExpiry t) s = .next u ∧ (u.tile t).round = n ∧
      (u.tile t).overruns = x.overruns + 1 ∧ (u.tile t).slots = x.slots ∧ (u.tile t).inRound = false ∧ (u.tile t).rerun = none) ∧
    (x.inRound = true → x.due = [] → x.overFault = false → ∃ u, exec (.roundTimerExpiry t) s = .next u ∧ (u.tile t).round = n ∧
      (u.tile t).overruns = x.overruns + 1 ∧ (u.tile t).slots = x.slots ∧ (u.tile t).inRound = true ∧ (u.tile t).roundNo = x.roundNo) ∧
    (x.inRound = true → x.due = [] → x.overFault = true → x.trapvec &&& ~~~3 ≠ 0 →
      (∀ k, (x.slot k).longs = 0 ∧ (x.slot k).ra = none) →
      ∃ u, exec (.roundTimerExpiry t) s = .next u ∧ (u.tile t).overruns = x.overruns + 1 ∧ (u.tile t).inRound = false ∧
        (let k := x.firstDeclared
         (u.slot t k).active = true ∧ (u.slot t k).tm = true ∧ (u.slot t k).tcode = 8 ∧ (u.slot t k).trapval = x.roundNo ∧
         (u.slot t k).pc = x.trapvec &&& ~~~3) ∧
        ∀ k, k ≠ x.firstDeclared → (u.slot t k).active = false)

/-- R105, R106, R108, R109, R110: the launch processor starts the one eligible launch, loading its tiles and their registers; a drained
launch completes with its status, stamp and its graph's count; a phase starts at its instant and its end ends what is below it. -/
def Sys2Proof.Claims.LaunchesStartAndComplete : Prop :=
  ∀ (s : State) (tag : Tag) (e : Byte) (l : Launch), s.power = .active →
    let tg := tag.toNat
    let p := s.part tg
    (∀ (q : Fin 64) rest, s.nextTurn ≤ s.time.tai → s.queues[q] = (tg, e.toNat) :: rest → (∀ r : Fin 64, r ≠ q → s.queues[r] = []) →
      s.launch tg e.toNat = some l → p.launches = [(e.toNat, l)] → s.noStart = false → p.stopping = none → p.restoring = none →
      l.fn = 0 ∨ p.resident = some l.fn →
      (∀ ph ∈ p.phases, ph.2.inst = l.up.getD 1 0 → ph.2.started = true ∧ ph.2.ending = none) → (∀ t ∈ (p.tileList.drop l.tile0).take l.n, (s.tile t).launch = none) → p.tileList.Nodup →
      l.started = false → withinShare p.share.toNat [l.demand] = true → l.buffers = [] →
      ∃ u, exec .launchProcessorTurn s = .next u ∧ u.queues[q] = rest ∧ u.nextTurn = s.nextTurn + 40 ∧ u.launch tg e.toNat = some { l with started := true } ∧
        ∀ i t, ((p.tileList.drop l.tile0).take l.n)[i]? = some t →
          let y := u.tile t
          y.launch = some e.toNat ∧ y.tileIdx = BitVec.ofNat 16 i ∧ y.lparam = l.param ∧ y.nTiles = l.n ∧ y.tokDecl = l.tokens ∧
          y.trapvec = (l.handler ||| 3) ∧ y.launchId = BitVec.ofNat 32 (e.toNat + l.gen.toNat * 256) ∧
          y.s0 = max l.start (s.time.tai + 1000) ∧ y.going = false ∧ y.round = 0 ∧ y.overruns = 0 ∧ y.store = [] ∧ y.posts = l.binds ∧
          y.entries = l.entries ∧ y.matcfg = Tile.reset.matcfg ∧ y.tag = (s.tile t).tag ∧
          ∀ k, (y.slot k).active = false ∧ ∀ r, (y.slot k).gr r = 0) ∧
    (∀ st : Byte, s.launch tg e.toNat = some l → l.started = true → p.stopping = none → s.saved = [] →
      (∀ t ∈ s.launchTiles tg e.toNat, (s.tile t).drained = true) → l.buffers = [] → l.binds = [] → NoneDue p →
      st = (match l.ending, l.fin with | some x, _ => x | none, some _ => 2 | none, none => 1) →
      ∃ u, exec (.launchComplete tag e) s = .next u ∧ u.launch tg e.toNat = none ∧
        (∀ t ∈ s.launchTiles tg e.toNat, (u.tile t).launch = none) ∧
        (∀ g, mapFind p.graphs l.graph = some g → l.up.head? = some g.inst → mapFind (u.part tg).graphs l.graph = some { g with counter := g.counter + 1 }) ∧
        (0 < l.doneAddr → l.doneAddr % 8 = 0 → l.doneAddr < 2 ^ 39 → Homes s tg l.doneAddr 8 → Memory.wf s.hbm = true →
          u.readHbm p l.doneAddr 8 = st.toNat * 2 ^ 56 + (l.fin.getD 0).toNat * 2 ^ 48 + l.counter.toNat % 2 ^ 48)) ∧
    (∀ (i : BitVec 10) o, mapFind p.phases i.toNat = some o →
      (o.start ≤ s.time.tai → ∃ u, exec (.phaseStartInstant tag i) s = .next u ∧
        mapFind (u.part tg).phases i.toNat = some { o with started := true }) ∧
      (s.time.tai < o.start → exec (.phaseStartInstant tag i) s = .next s) ∧
      (o.finish ≠ 0 → o.finish ≤ s.time.tai →
        (p.liveUnder o.inst = false → ∃ u, exec (.phaseEnd tag i) s = .next u ∧ mapFind (u.part tg).phases i.toNat = none) ∧
        (s.launch tg e.toNat = some l → o.inst ∈ l.up → l.ending = none →
          ∃ u l', exec (.phaseEnd tag i) s = .next u ∧ u.launch tg e.toNat = some l' ∧ l'.ending = some 5)))

/-- Rounds begin at expiries; launches start in turn and complete; phases start and end. -/
def Obligations.RoundsAndLaunchesRun : Prop :=
  Claims.RoundsBeginAtExpiries ∧ Claims.LaunchesStartAndComplete


/-! ## Page faults -/

/-- R269, R272, R430 to R434: an access is confirmed page by page, and with the last page of the one unconfirmed access the checkpoint
goes and what is held is released; a faulting access starts run-ahead, or rolls a parked slot back to its checkpoint and parks it on a batch of page requests; the answers under its tag keep
translations or record failed pages, and answers under another tag are dropped; time passed fails them with INFO 2; a host request without completion ends as poison. -/
def Obligations.PageFaultsRunAhead : Prop :=
  ∀ (s : State) (t : TileId) (k : SlotId) (id : Nat) (o : Op), s.power ≠ .off → s.frozen t = false →
    let x := s.slot t k
    let tg := (s.tile t).tag.toNat
    let p := s.part tg
    (∀ r large perm a, x.opOf id = some o → o.conf = false → x.ra = some r → r.fault = none → s.ownMissing tg a = false →
      (o.kind.writes = true → perm.w = true) → (o.kind.reads = true → perm.rd = true) →
      (o.far = [a] → o.kind ≠ .probe → (∀ q ∈ x.ops, q.id ≠ id → q.conf = true) →
        ∃ u, exec (.accessConfirmed t k id large perm) s = .next u ∧ (u.slot t k).ra = none ∧
          (∀ q ∈ (u.slot t k).ops, q.conf = true ∧ q.held = false) ∧ (u.slot t k).ops.length = x.ops.length ∧
          (∀ n, (u.slot t k).gr n = x.gr n) ∧ (u.slot t k).pc = x.pc ∧
          (∀ f ∈ (u.slot t k).faults, f.1 ≠ a / 65536) ∧
          (clsAt a = .host → (u.part tg).atc = { page := (a - hostBase) / 65536, large, perm } :: p.atc)) ∧
      (∀ b rest, o.far = a :: b :: rest →
        ∃ u, exec (.accessConfirmed t k id large perm) s = .next u ∧ (u.slot t k).opOf id = some { o with far := b :: rest } ∧
          (u.slot t k).ra = some r ∧
          (clsAt a = .host → (u.part tg).atc = { page := (a - hostBase) / 65536, large, perm } :: p.atc))) ∧
    (∀ r a m, x.ra = some r → r.fault = none → r.since ≤ o.id → x.ops.find? (fun q => !q.conf) = some o →
      x.ops.filter (fun q => decide (o.id ≤ q.id) && !q.conf) = [o] → x.active = true → x.faults = [] →
      o.far.filter (s.lacks tg o.kind.perm) = a :: m → m.length ≤ 1 → r.pages.length < 16 →
      (∀ b ∈ m, b / 65536 ≠ a / 65536 ∧ b / 65536 ∉ r.pages) →
      (x.park = .none → x.sPark = false → x.yPark = none → r.issued - o.idx < 64 →
        (∃ u, exec (.runAheadStart t k false) s = .next u ∧
          (u.slot t k).ra = some { r with fault := some o.id, pre := [], pages := r.pages ++ m.map (· / 65536) } ∧
          (u.slot t k).pc = x.pc ∧ (∀ n, (u.slot t k).gr n = x.gr n) ∧
          (u.slot t k).ops = x.ops.map fun q => if q.id = o.id then { q with addr := a } else q) ∧
        (∀ b l, (a :: m).filter (fun c => clsAt c == .host) = b :: l → ∃ u pg, exec (.runAheadStart t k true) s = .next u ∧
          (u.slot t k).ra = some { r with fault := some o.id, pre := [(b / 65536, 4)], pages := pg })) ∧
      (∀ c, x.park ≠ .none → x.park ≠ .ending → x.park ≠ .halting → r.ckpts.find? (fun c => c.1 = o.id) = some (o.id, c) → r.pages = [] →
        x.ops.find? (fun q => q.id = o.id) = some o →
        ∃ u, exec (.runAheadStart t k false) s = .next u ∧ (u.slot t k).pc = c.pc ∧ (u.slot t k).g = c.g ∧ (u.slot t k).f = c.f ∧
          (u.slot t k).v = c.v ∧ (u.slot t k).p = c.p ∧ (u.slot t k).k = c.k ∧ (u.slot t k).ra = none ∧
          (∀ q ∈ (u.slot t k).ops, q.id ≠ o.id) ∧
          ∃ b, (u.part tg).batches = p.batches ++ [b] ∧ (u.slot t k).park = .page b.group ∧ b.tile = t ∧ b.slot = k ∧
            b.pages = (a / 65536) :: m.map (· / 65536) ∧
            b.due = s.time.tai + max 1 (bitsAt p.fltcfg.toNat 0 32) * 1000)) ∧
    (∀ b pg, s.batchOf t k b.group = some b → b.pages = [pg] → (s.tile t).launchId = b.launchId → x.ctxGen = b.ctxGen →
      (s.tile t).launch.isSome = true →
      (∀ a, a.page = pg → a.group = b.group →
        ∃ u, exec (.pageBatchAnswered t k b.launchId b.ctxGen [a]) s = .next u ∧ b ∉ (u.part tg).batches ∧
          (a.ok = true → (u.slot t k).failed = x.failed ∧
            (clsAt (pg * 65536) = .host → (u.part tg).atc = { page := pg - hostBase / 65536, large := a.large, perm := a.perm } :: p.atc)) ∧
          (a.ok = false → (u.slot t k).failed = (pg, a.info) :: x.failed.filter fun f => f.1 ≠ pg)) ∧
      (p.batches.find? (fun c => c.tile == t && c.slot == k && decide (c.due ≤ s.time.tai)) = some b → ∃ u, exec (.pageRequestTimeout t k) s = .next u ∧ b ∉ (u.part tg).batches ∧
        (u.slot t k).failed = (pg, 2) :: x.failed.filter fun f => f.1 ≠ pg)) ∧
    (∀ (n : BitVec 32) (g : BitVec 16) (l : List PageAnswer), (∀ a ∈ l, s.batchOf t k a.group = none) →
      exec (.pageBatchAnswered t k n g l) s = .next s) ∧
    ((∀ c ∈ p.batches, c.tile = t → c.slot = k → s.time.tai < c.due) → exec (.pageRequestTimeout t k) s = .next s) ∧
    (x.opOf id = some o → o.kind = .load → clsAt o.addr = .host → o.ready = false → x.free o = true →
      (o.ns + 50000 ≤ s.time.tai → x.active = true → ∃ u, exec (.hostCompletionTimeout t k id) s = .next u ∧ EndedOp s u t k id o ∧
        Deferred s u t k 15 (w64 o.addr)) ∧
      (s.time.tai < o.ns + 50000 → exec (.hostCompletionTimeout t k id) s = .next s)) ∧
    (∀ (tag : Tag) (src : Chip) (pt : BitVec 16) (addr : Word) (w : Bool),
      let q := s.part tag.toNat
      (q.rempfq.getLsbD 0 = true → Memory.wf s.hbm = true → Homes s tag.toNat (bitsAt q.rempfq.toNat 12 27 * 2 ^ 12 + 32 * (q.rempfhead.toNat % 128)) 32 → ∃ u, exec (.remotePageRequestReceive tag src pt addr w) s = .next u ∧
        (u.part tag.toNat).rempfhead = q.rempfhead + 1 ∧ (u.part tag.toNat).rempf = q.rempf ++ [(pt, src)] ∧
        u.readHbm q (bitsAt q.rempfq.toNat 12 27 * 2 ^ 12 + 32 * (q.rempfhead.toNat % 128)) 32 =
          pt.toNat + src.toNat * 2 ^ 16 + addr.toNat * 2 ^ 64 + (if w then 2 ^ 128 else 0) ∧ .msix 0 1 ∈ u.out) ∧
      (q.rempfq.getLsbD 0 = false → ∃ u, exec (.remotePageRequestReceive tag src pt addr w) s = .next u ∧
        u.out = s.out ++ [.pageAnswer src tag q.epoch pt 1]))

/-! ## Time-slicing, stop, save and restore -/

namespace Sys2Proof.Claims
open Sys2Proof.Machine

/-- Launch e of a partition, live and not ending, of a function. -/
def LiveOf (s : State) (tag e : Nat) (l : Launch) (f : FnId) : Prop :=
  s.launch tag e = some l ∧ l.fn = f ∧ l.ending = none

/-- It is ending with a status. -/
def Ending (u : State) (tag e : Nat) (st : Byte) : Prop := ∃ l, u.launch tag e = some l ∧ l.ending = some st

/-- Nothing waits at the ports. -/
def PortsEmpty (s : State) : Prop := ∀ p ∈ s.ports.toList, p.hold = [] ∧ p.save = []

end Sys2Proof.Claims

/-- R406, R436 to R442: at the end of a slice the resident function is stopped for another that can run, has its launches cancelled when
its image does not fit, or goes on alone; the stop halts every tile, and waits while a debugger holds one; the save keeps each tile and leaves it empty; the restore puts tiles
back as saved and makes the function resident; a function-level reset ends its launches with status 4 and shows in FLRSTAT until read. -/
def Obligations.ContextsStopSaveAndRestore : Prop :=
  ∀ (s : State) (tag : Tag) (f : FnId), s.power ≠ .off → f.val ≠ 0 →
    let tg := tag.toNat
    let p := s.part tg
    (p.resident = some f → p.sliceEnd ≤ s.time.tai → p.stopping = none → p.restoring = none → s.debugHeld tg = false → p.train = none →
      ((∀ g, g ≠ f → s.runnable tg g = false) → ∃ u, exec (.timeSliceEnd tag) s = .next u ∧ (u.part tg).resident = some f ∧
        (u.part tg).sliceEnd = s.time.tai + s.sliceLen f ∧ (u.part tg).stopping = none) ∧
      (∀ g, g ≠ f → s.runnable tg g = true →
        let base := bitsAt (s.func f).ctxbase.toNat 16 23 * 2 ^ 16
        (base + p.imageSize ≤ p.extent → ∃ u st, exec (.timeSliceEnd tag) s = .next u ∧ (u.part tg).stopping = some st ∧ st.fn = f ∧
          st.base = base ∧ st.done = false ∧ s.time.tai ≤ st.at_ ∧ st.at_ < s.time.tai + 1000 ∧ st.at_ % 1000 = 0) ∧
        (p.extent < base + p.imageSize → ∃ u, exec (.timeSliceEnd tag) s = .next u ∧ ∀ e l, LiveOf s tg e l f → Ending u tg e 3))) ∧
    (∀ st, p.stopping = some st → st.done = false → st.train = none →
      (st.at_ ≤ s.time.tai → s.debugHeld tg = true → ∃ u n, exec (.preemptStop tag) s = .next u ∧ (u.part tg).stopping = some { st with at_ := n } ∧
        s.time.tai < n ∧ n % 1000 = 0 ∧ n ≤ s.time.tai + 1000 ∧ ∀ t, (u.tile t).halted = (s.tile t).halted) ∧
      (st.at_ ≤ s.time.tai → s.debugHeld tg = false → ∃ u, exec (.preemptStop tag) s = .next u ∧ (u.part tg).stopping = some { st with done := true } ∧
        (∀ t ∈ p.tileList, (u.tile t).halted = true ∧ (u.tile t).slots = (s.tile t).slots)) ∧
      (s.time.tai < st.at_ → exec (.preemptStop tag) s = .next s)) ∧
    (∀ st, p.stopping = some st → st.done = true → st.train = none → st.fn = f →
      (∀ t ∈ p.tileList, (s.tile t).gangsDone = true) → p.tileList.Nodup →
      ∃ u c, exec (.contextSaveComplete tag) s = .next u ∧ mapFind u.saved f.val = some c ∧ c.fn = f ∧ c.base = st.base ∧
        c.stopAt = st.at_ ∧ (u.part tg).stopping = none ∧
        c.tiles = p.tileList.map (fun t => (t, { s.tile t with halted := false, slots := (s.tile t).slots.map fun y => { y with srep := none } })) ∧
        ∀ t ∈ p.tileList, (u.tile t).launch = none ∧ (u.tile t).store = [] ∧ ∀ k, (u.slot t k).active = false ∧ (u.slot t k).ops = []) ∧
    (∀ r c, p.restoring = some r → r.fn = f → r.train = none → p.train = none → r.at_ ≤ s.time.tai → p.resident = none → p.stopping = none →
      mapFind s.saved f.val = some c → s.partRead tg r.base p.imageSize = c.image → PortsEmpty s → (c.tiles.map (·.1)).Nodup →
      ∃ u, exec (.contextRestore tag) s = .next u ∧ (u.part tg).resident = some f ∧ (u.part tg).restoring = none ∧
        mapFind u.saved f.val = none ∧
        ∀ x ∈ c.tiles, (u.tile x.1).store = x.2.store ∧ (u.tile x.1).halted = false ∧ (u.tile x.1).launch = x.2.launch ∧
          (u.tile x.1).round = x.2.round ∧ ∀ k, (u.slot x.1 k).g = (x.2.slot k).g ∧ (u.slot x.1 k).v = (x.2.slot k).v ∧
            (u.slot x.1 k).pc = (x.2.slot k).pc ∧ (u.slot x.1 k).active = (x.2.slot k).active ∧
            (u.slot x.1 k).ctxGen = (x.2.slot k).ctxGen + 1) ∧
    (s.fnTag f = tg → tg ≠ 0 → p.stopping = none → p.restoring = none → p.resident = some f ∨ s.hasSaved f = false →
      ∃ u, exec (.functionLevelReset f) s = .next u ∧ (u.func f).ctxbase = 0 ∧ (u.func f).flrstat = 0x100 ∧ .flrDone f ∈ u.out ∧
        ∀ e l, LiveOf s tg e l f → Ending u tg e 4) ∧
    (∀ vf : BitVec 8, f.val = vf.toNat + 1 → s.booted = true → (s.func 0).posted = [] → ∃ u, exec (.flrstatRead vf) s = .next u ∧
      u.out = s.out ++ [.hostRead 0 (s.func f).flrstat.toNat false] ∧ (u.func f).flrstat = (s.func f).flrstat &&& ~~~0x100)

/-! ## The time unit and trains -/

/-- R449 to R453: without Sync the locked unit enters holdover, keeping its error; at LOSTLIM it is lost; a small offset locks it again, the
first lock sets it forward, later ones leave their offset to the servo, a large one drops it to holdover; TBCFG cannot change while an entry is armed. -/
def Sys2Proof.Claims.TimeUnitLocksHoldsAndLoses : Prop :=
  ∀ (s : State) (off : Int) (v : Word), s.power ≠ .off →
    let c := s.time
    (c.clock = .locked → ∃ u, exec .holdoverEntry s = .next u ∧ u.time.clock = .holdover ∧ u.time.e0 = min 65535 c.e ∧
      u.time.since = c.tai ∧ u.time.tai = c.tai) ∧
    (c.clock ≠ .locked → exec .holdoverEntry s = .next s) ∧
    (c.clock = .holdover →
      (max 1 (bitsAt c.tbcfg.toNat 32 16) ≤ min 65535 (c.e0 + (c.tai - c.since) / 2000) →
        ∃ u, exec .clockLost s = .next u ∧ u.time.clock = .lost ∧ u.time.tai = c.tai) ∧
      (min 65535 (c.e0 + (c.tai - c.since) / 2000) < max 1 (bitsAt c.tbcfg.toNat 32 16) → exec .clockLost s = .next s)) ∧
    (c.tbcfg.getLsbD 16 = true →
      (c.isSet = true → off.natAbs ≤ 50 → ∃ u, exec (.ptpSync false off) s = .next u ∧ u.time.clock = .locked ∧
        u.time.e = off.natAbs + 20 ∧ u.time.tai = c.tai ∧ u.time.owed = off * (3 * 2 ^ 16) ∧ u.time.slew ≤ 16 ∧
        (c.clock = .locked → u.out = s.out ++ [.delayReq (c.tbcfg.extractLsb' 0 8)])) ∧
      (c.isSet = true → 50 < off.natAbs → c.clock = .locked → ∃ u, exec (.ptpSync false off) s = .next u ∧ u.time.clock = .holdover ∧
        u.time.tai = c.tai) ∧
      (c.isSet = false → 0 ≤ off → ∃ u, exec (.ptpSync false off) s = .next u ∧ u.time.clock = .locked ∧ u.time.isSet = true ∧
        u.time.tai = (c.tai + off.natAbs) % 2 ^ 64 ∧ u.nextTurn = s.nextTurn + off.natAbs ∧ u.time.e = 20)) ∧
    (c.tbcfg.getLsbD 16 = false → exec (.ptpSync false off) s = .next s) ∧
    (c.tbcfg.getLsbD 17 = false → exec (.ptpSync true off) s = .next s) ∧
    (s.booted = true → (s.func 0).posted = [] → (∀ p ∈ s.parts, ∀ e ∈ p.2.timetable, e.2.state ≠ 1) → ∃ u, exec (.tbcfgWrite v) s = .next u ∧
      u.time.tbcfg = (c.tbcfg &&& ~~~0x0000FFFF000300FF) ||| (v &&& 0x0000FFFF000300FF) ∧ u.time.tai = c.tai) ∧
    (s.booted = true → (s.func 0).posted = [] → ∀ p ∈ s.parts, ∀ e ∈ p.2.timetable, e.2.state = 1 → exec (.tbcfgWrite v) s = .next s)

namespace Sys2Proof.Claims
open Sys2Proof.Machine

/-- An entry of a partition that is the next to fire, at its instant by this module's own time base; no stop or restore is under way and
no flit waits at a port. -/
structure FiresNow (s : State) (tag n : Nat) (e : TEntry) : Prop where
  entry : (s.part tag).entry n = e
  armed : e.state = 1 ∧ e.waits = false
  due : e.instant ≤ s.time.tai
  timed : s.selfTimed e = true
  first : (s.part tag).firstArmed n e = true
  still : (s.part tag).stopping = none ∧ (s.part tag).restoring = none ∧ PortsEmpty s

/-- A record of the timetable with its action and train (R455). -/
def trainOf (e : TEntry) : Nat := bitsAt e.record 112 16
def actionOf (e : TEntry) : Nat := bitsAt e.record 96 8

/-- The action is a pre-empt or a cancel, and the entry has fired: its action is done, or has failed then (R457). -/
def Halting (e : TEntry) : Prop := (e.state = 3 ∨ (e.state = 4 ∧ e.err = 7)) ∧ (actionOf e = 2 ∨ actionOf e = 4)

end Sys2Proof.Claims

/-- R454 to R458, R465, R466: a record is accepted, refused with its error or clears the entry; the next armed entry fires at its instant,
advances the epoch and starts, pre-empts, resumes or cancels its train, or fails with 7; an entry that the module cannot time itself
at its instant waits from then on for the lead's beacon, and fires with it. -/
def Obligations.TrainsActOnTheirTimetable : Prop :=
  ∀ (s : State) (tag : Tag) (n : Byte) (e : TEntry), s.power ≠ .off →
    let tg := tag.toNat
    let p := s.part tg
    let ep := (mapGet (0, false) p.epochs (trainOf e)).1 + 1
    let now (u : State) : TEntry := (u.part tg).entry n.toNat
    (∀ fn : FnId, s.booted = true → (s.func fn).posted = [] → s.mayWrite fn = true → s.regTag fn = tg → tg ≠ 0 →
      let r := (p.entry n.toNat).window % 2 ^ 448
      (bitsAt r 96 8 = 0 → ∃ u, exec (.timetableWindowCommit fn n) s = .next u ∧ (now u).state = 0) ∧
      (bitsAt r 96 8 ≠ 0 → ∃ u, exec (.timetableWindowCommit fn n) s = .next u ∧ (now u).record = r ∧
        (bitsAt r 112 16 = 0 → (now u).state = 4 ∧ (now u).err = 1) ∧
        (p.recordFine r = true → bitsAt r 0 64 < s.time.tai + 10000 → (now u).state = 4 ∧ (now u).err = 2) ∧
        (s.recordErr tg n.toNat r = 0 → (now u).state = 1))) ∧
    (FiresNow s tg n.toNat e → actionOf e = 1 → p.train = none → (mapGet (0, false) p.epochs (trainOf e)).2 = false →
      ∃ u tr, exec (.timetableFire tag n) s = .next u ∧ (u.part tg).train = some tr ∧ tr.num = trainOf e ∧ tr.epoch = ep ∧
        tr.halted = false ∧ tr.members = e.members ∧ tr.lead = e.leadChip ∧ (now u).state = 3 ∧ (now u).epoch = ep ∧ (now u).bt = false ∧
        (now u).skew = BitVec.ofNat 32 (s.time.tai - e.instant) ∧ (now u).late = decide (e.w < 2 * (s.time.tai - e.instant)) ∧
        (e.leadChip = s.chipId → ∀ c ∈ e.members, c ≠ s.chipId → ∃ kind, .beacon c s.chipId (trainOf e) e.instant ep kind ∈ u.out)) ∧
    (∀ tr, FiresNow s tg n.toNat e → p.train = some tr → tr.num = trainOf e →
      (actionOf e = 2 → tr.halted = false → ∃ u st tr', exec (.timetableFire tag n) s = .next u ∧ (u.part tg).stopping = some st ∧
        st.at_ = s.time.tai ∧ st.base = e.ctx ∧ st.train = some n.toNat ∧ (u.part tg).train = some tr' ∧ tr'.halted = true ∧ tr'.epoch = ep ∧
        .event (.preemptStop tag) ∈ u.agenda) ∧
      (actionOf e = 3 → tr.halted = true → (mapFind s.saved (1000 + tg)).isSome = true → ∃ u r tr', exec (.timetableFire tag n) s = .next u ∧
        (u.part tg).restoring = some r ∧ r.at_ = e.instant ∧ r.base = e.ctx ∧ (u.part tg).train = some tr' ∧ tr'.halted = false ∧ tr'.epoch = ep) ∧
      (actionOf e = 4 → ∃ u, exec (.timetableFire tag n) s = .next u ∧ (u.part tg).train = none ∧ (now u).state = 3 ∧
        ∀ i l j, s.launch tg i = some l → l.ending = none → mapFind p.jobs e.jobIdx = some j → j.inst ∈ l.up → Ending u tg i 3) ∧
      (actionOf e = 2 → tr.halted = true → ∃ u, exec (.timetableFire tag n) s = .next u ∧ (now u).state = 4 ∧ (now u).err = 7)) ∧
    (p.entry n.toNat = e → e.state = 1 →
      (e.waits = true ∨ s.selfTimed e = false → p.firstArmed n.toNat e = true → actionOf e = 1 → p.train = none → (mapGet (0, false) p.epochs (trainOf e)).2 = false →
        PortsEmpty s → ∃ u, exec (.actionBeaconReceive tag n false) s = .next u ∧ (now u).state = 3 ∧ (now u).bt = true ∧ (now u).epoch = ep) ∧
      (e.waits = false → s.selfTimed e = true → exec (.actionBeaconReceive tag n false) s = .next s) ∧
      (e.waits = false → s.selfTimed e = false → p.firstArmed n.toNat e = true → e.instant ≤ s.time.tai →
        ∃ u, exec (.timetableFire tag n) s = .next u ∧ now u = { e with waits := true }) ∧
      (actionOf e ≠ 3 → s.time.tai < e.instant → exec (.timetableFire tag n) s = .next s))

/-- R459, R462 to R464: halt and leave beacons are sent and counted; the lead's verdict is sent once its time has come and members act
on it; failover names the next lead; the flits of a train are delivered, saved, held or discarded by their epoch. -/
def Obligations.TrainMembersExchangeBeaconsVerdictsAndFlits : Prop :=
  ∀ (s : State) (tag : Tag) (n : Byte) (e : TEntry), s.power ≠ .off →
    let tg := tag.toNat
    let p := s.part tg
    let now (u : State) : TEntry := (u.part tg).entry n.toNat
    (p.entry n.toNat = e →
      (Halting e → e.state = 3 → (∀ t ∈ s.trainTiles tg, (s.tile t).halted = true) → s.chipId ∉ e.beacons →
        ∃ u, exec (.haltBeaconSend tag n) s = .next u ∧ (now u).beacons = s.chipId :: e.beacons ∧
          ∀ c ∈ p.membersOf e, c ≠ s.chipId → .beacon c s.chipId (trainOf e) e.instant e.epoch 0 ∈ u.out) ∧
      (∀ src : Chip, (∃ u, exec (.haltBeaconReceive tag n src false) s = .next u ∧ (now u).beacons = src :: e.beacons ∧ (now u).left = e.left) ∧
        ∃ u, exec (.haltBeaconReceive tag n src true) s = .next u ∧ (now u).left = src :: e.left ∧ (now u).beacons = e.beacons) ∧
      (Halting e → e.leads = 0 → e.leadChip = s.chipId → e.verdicts = 0 → e.instant + e.w ≤ s.time.tai →
        ∃ u, exec (.verdictSend tag n) s = .next u ∧ (now u).verdicts = 1 ∧ (now u).strag = (e.strag || !(p.missing e).isEmpty) ∧
          ∀ c ∈ p.membersOf e, c ≠ s.chipId → .verdict c (trainOf e) e.instant e.spol ((p.missing e).take 255) ∈ u.out) ∧
      (e.fired = true → (∃ u, exec (.verdictReceive tag n []) s = .next u ∧ (now u).verdicts = e.verdicts + 1 ∧ (now u).strag = e.strag) ∧
        (∀ m : List Chip, m ≠ [] → ∃ u, exec (.verdictReceive tag n m) s = .next u ∧ (now u).strag = true ∧ (now u).evicted = (e.evicted || decide (s.chipId ∈ m ∧ e.spol ≠ 2 ∧ (e.spol ≠ 0 ∨ e.verdicts ≠ 0))))) ∧
      (Halting e → e.verdicts = 0 → p.actingLead e ≠ some s.chipId → e.instant + (2 + e.leads) * e.w ≤ s.time.tai →
        (∀ d, p.actingLead { e with leads := e.leads + 1 } = some d →
          ∃ u, exec (.leadFailover tag n) s = .next u ∧ (now u).leads = e.leads + 1 ∧
            (d ≠ s.chipId → s.chipId ∈ e.left → .beacon d s.chipId (trainOf e) e.instant e.epoch 1 ∈ u.out) ∧
            (d ≠ s.chipId → s.chipId ∉ e.left → s.chipId ∈ e.beacons → .beacon d s.chipId (trainOf e) e.instant e.epoch 0 ∈ u.out) ∧
            ∀ tr, p.train = some tr → (u.part tg).train = some { tr with lead := d }) ∧
        (p.actingLead { e with leads := e.leads + 1 } = none →
          ∃ u, exec (.leadFailover tag n) s = .next u ∧ (now u).leads = e.leads + 1 ∧ (now u).verdicts = 1 ∧ (now u).evicted = true))) ∧
    (∀ (port : Fin 12) (src : Chip) (m : Msg) (tr : Train), p.train = some tr → src ∉ p.evicted →
      let f (k : Byte) : Flit := { tag, src, epoch := k, msg := m }
      let sorted (k : Byte) : Prop := tr.sorts (f k) = true
      (tr.halted = true → sorted (tr.epoch - 1) → mapFind s.saved (1000 + tg) = none → s.ports[port].save.length < 256 → ∃ u, exec (.trainFlitReceive port tag src (tr.epoch - 1) m) s = .next u ∧
        u.ports[port].save = s.ports[port].save ++ [f (tr.epoch - 1)] ∧ u.hbm = s.hbm) ∧
      (tr.halted = true → sorted (tr.epoch - 1) → 256 ≤ s.ports[port].save.length → exec (.trainFlitReceive port tag src (tr.epoch - 1) m) s = .next s) ∧
      (sorted (tr.epoch + 1) → 256 ≤ s.ports[port].hold.length → exec (.trainFlitReceive port tag src (tr.epoch + 1) m) s = .next s) ∧
      (sorted (tr.epoch + 1) → s.ports[port].hold.length < 256 → ∃ u, exec (.trainFlitReceive port tag src (tr.epoch + 1) m) s = .next u ∧
        u.ports[port].hold = s.ports[port].hold ++ [f (tr.epoch + 1)] ∧ u.hbm = s.hbm) ∧
      (p.held = true → postMsg m = true → ∃ u, exec (.trainFlitReceive port tag src tr.epoch m) s = .next u ∧
        u.ports[port].hold = s.ports[port].hold ++ [f tr.epoch] ∧ u.hbm = s.hbm) ∧
      (∀ tt a x, m = .payload tt a 8 x → p.replaying = false → Homes s tt.toNat a 8 → Memory.wf s.hbm = true → a % 8 = 0 →
        ∃ u, exec (.trainFlitReceive port tag src tr.epoch m) s = .next u ∧ u.readHbm (s.part tt.toNat) a 8 = x % 2 ^ 64) ∧
      (p.fltlog.getLsbD 0 = false → (∀ t ∈ p.tileList, (s.tile t).tag = tag) → ∀ ep', sorted ep' → ep' ≠ tr.epoch → ep' ≠ tr.epoch - 1 → ep' ≠ tr.epoch + 1 →
        exec (.trainFlitReceive port tag src ep' m) s = .next s)) ∧
    (∀ (port : Fin 12) (src : Chip) (m : Msg) (k : Byte), p.train = none →
      (k ≠ 0 → src ∈ p.discard → exec (.trainFlitReceive port tag src k m) s = .next s) ∧
      (src ∉ p.discard → p.awaits = true → s.ports[port].hold.length < 256 → ∃ u, exec (.trainFlitReceive port tag src 1 m) s = .next u ∧
        u.ports[port].hold = s.ports[port].hold ++ [{ tag, src, epoch := 1, msg := m }] ∧ u.hbm = s.hbm))

/-- The time unit's states, and the instructions that read it and the timetable. -/
def Obligations.TimeIsKeptReadAndLost : Prop :=
  Claims.TimeAndTimetable ∧ Claims.TimeUnitLocksHoldsAndLoses


/-! ## The host interface -/

namespace Sys2Proof.Claims
open Sys2Proof.Machine

/-- n bytes at `a` of partition `tag` within one 32-byte granule of HBM, whose slice group it owns (R396) with room for the line in L2,
the block's clear bit not set, memory in canonical form. -/
structure PlainAt (s : State) (tag a n : Nat) : Prop where
  hbm : a + n ≤ (s.part tag).extent ∧ a + n ≤ 2 ^ 39 ∧ 0 < n ∧ a % 32 + n ≤ 32
  wf : Memory.wf s.hbm = true
  clear : s.blockClear ((s.part tag).phys a) = false
  owned : Owned s tag a
  room : L2Room s tag a

/-- HBM changes in the n bytes at `a` of the partition alone, to the low bytes of v. -/
def WrittenIn (s u : State) (p : Part) (a n v : Nat) : Prop :=
  u.readHbm p a n = v % 2 ^ (8 * n) ∧ ∀ ph, ph < p.phys a ∨ p.phys a + n ≤ ph → u.hbmByte ph = s.hbmByte ph

/-- The 32-byte pieces of a write of a partition: the place in HBM, the size, the data (R273, R386). -/
def writePieces (p : Part) (a : Nat) (bytes : List Byte) : List (Nat × Nat × Nat) :=
  (piecesOf .hbm a bytes.length).map fun q => (p.phys q.addr, q.size, bitsAt (bytesNat bytes) (8 * q.pos) (8 * q.size))

/-- The post that a remote access of a partition names is bound by it with that size (R278). -/
def PostBound (s : State) (tag : Tag) (r : RemoteReq) (b : Post) : Prop :=
  mapFind s.posts (postKey (BitVec.ofNat 32 r.addr)) = some b ∧ b.lines * 256 = r.size ∧ ∃ x ∈ b.binders, x.1 = tag.toNat

end Sys2Proof.Claims

/-- R270, R271, R278, R318, R384 to R387, R437: an ordering point holds up to 64 posted writes and sends the head alone, piece by piece;
it leaves once every route has acknowledged it; a write beyond the extent, or of a group that the partition it was sent for no longer
owns (R396), is discarded and logged; reads wait for the writes; an inbound
AtomicOp is unsupported; an access from another module without a remote page table faults as missing, and a post access needs the bound
post with its LINES, an install one that is not exhausted (R282, R293). -/
def Obligations.HostAndRemoteAccessesAreServed : Prop :=
  ∀ (s : State) (fn : FnId), s.power ≠ .off →
    let f := s.func fn
    let tg := s.fnTag fn
    let p := s.part tg
    (∀ bar a bytes,
      (f.posted.length < 64 → bytes.length ≤ 512 → ∃ u, exec (.hostPostedWrite fn bar a bytes) s = .next u ∧
        (u.func fn).posted = f.posted ++ [{ bar, addr := a, bytes, sent := false, tag := 0, left := [] }] ∧ u.hbm = s.hbm ∧ u.parts = s.parts) ∧
      (64 ≤ f.posted.length ∨ 512 < bytes.length → exec (.hostPostedWrite fn bar a bytes) s = .next s)) ∧
    (f.posted = [] → exec (.orderingPointSend fn) s = .next s) ∧
    (∀ w l, f.posted = w :: l →
      (w.sent = false → w.bar = .bar2 → tg ≠ 0 → w.bytes ≠ [] → w.addr + w.bytes.length ≤ p.extent →
        ∃ u, exec (.orderingPointSend fn) s = .next u ∧ u.hbm = s.hbm ∧
          (u.func fn).posted = { w with sent := true, tag := BitVec.ofNat 8 tg, left := writePieces p w.addr w.bytes } :: l ∧
          ∀ die, die ∈ (u.func fn).routes ↔ ∃ c ∈ writePieces p w.addr w.bytes, placeDie c.1 = die) ∧
      (w.sent = false → w.bar = .bar2 → tg = 0 ∨ p.extent < w.addr + w.bytes.length →
        ∃ u, exec (.orderingPointSend fn) s = .next u ∧ u.hbm = s.hbm ∧ (u.func fn).posted = l ∧ (u.func fn).aer = f.aer ++ [w.addr]) ∧
      (w.sent = false → w.bar = .bar0 → w.bytes.length = 8 → w.addr % 8 = 0 → w.addr < 0x81000 → w.addr ≠ 0x40780 →
        exec (.orderingPointSend fn) s = .next ((s.modFunc fn fun f => { f with posted := l, routes := [] }).regWrite fn w.addr
          (w64 (bytesNat w.bytes)))) ∧
      (∀ die a n v, w.sent = true → w.left = [(a, n, v)] → f.routes = [die] → placeDie a = die →
        (∀ g, (s.part w.tag.toNat).guestOf a = some g → PlainAt s w.tag.toNat g n →
          ∃ u, exec (.routeAcknowledge fn die) s = .next u ∧ WrittenIn s u (s.part w.tag.toNat) g n v ∧ (u.func fn).posted = l ∧
            (u.func fn).routes = []) ∧
        ((s.part w.tag.toNat).guestOf a = none →
          ∃ u, exec (.routeAcknowledge fn die) s = .next u ∧ u.hbm = s.hbm ∧ (u.func fn).aer = f.aer ++ [w.addr] ∧
            (u.func fn).posted = l)) ∧
      (∀ die d2, w.sent = true → f.routes = [die, d2] → die ≠ d2 → (∀ c ∈ w.left, placeDie c.1 = d2) →
        ∃ u, exec (.routeAcknowledge fn die) s = .next u ∧ (u.func fn).posted = w :: l ∧ (u.func fn).routes = [d2]) ∧
      ∀ bar a n, exec (.hostRead fn bar a n) s = .next s) ∧
    (f.posted = [] → ∀ a n, n ≤ 4096 →
      (tg = 0 ∨ p.extent < a + n → exec (.hostRead fn .bar2 a n) s = .next { s with out := s.out ++ [.unsupported fn] }) ∧
      (tg ≠ 0 → a + n ≤ p.extent → s.refuses tg a 1 = false → s.refuses tg (a + n - 1) 1 = false → ∃ u, exec (.hostRead fn .bar2 a n) s = .next u ∧ u.hbm = s.hbm ∧
        u.out = s.out ++ [.hostRead fn (s.readHbm p a n) (s.badHbmAt p a n)]) ∧
      (s.booted = true → exec (.hostRead fn .bar0 0x40608 8) s = .next { s with
        out := s.out ++ [.hostRead fn (if fn.val ≠ 0 ∧ tg = 0 then 0 else f.lstat.toNat) false] })) ∧
    exec (.hostAtomicopInbound fn) s = .next { s with out := s.out ++ [.unsupported fn] } ∧
    (∀ (src : Chip) (tag : Tag) (r : RemoteReq),
      let q := s.part tag.toNat
      let answer (st v : Nat) : State := { s with out := s.out ++ [.remoteAnswer src tag q.epoch st v] }
      (r.kind ≠ .install → r.kind ≠ .sample → q.replaying = false → q.remroot.getLsbD 0 = false →
        ∃ u, exec (.remoteAccessReceive src tag r) s = .next u ∧ u.out = s.out ++ [.remoteAnswer src tag q.epoch 4 0] ∧ u.hbm = s.hbm) ∧
      (r.kind = .sample → q.held = false → q.replaying = false → ∀ b, PostBound s tag r b → b.bad = [] →
        exec (.remoteAccessReceive src tag r) s = .next (answer 0 (Memory.readN b.val r.op r.cmp + b.f.toNat * 2 ^ (8 * r.cmp)))) ∧
      (r.kind = .install → q.held = false → q.replaying = false → ∀ b, PostBound s tag r b → b.f.toNat + 2 < 2 ^ 64 →
        ∃ u b', exec (.remoteAccessReceive src tag r) s = .next u ∧ u.out = s.out ++ [.remoteAnswer src tag q.epoch 0 0] ∧
          mapFind u.posts (postKey (BitVec.ofNat 32 r.addr)) = some b' ∧ b'.f = b.f + 1 ∧ b'.lines = b.lines ∧
          ∀ i, i < r.size → (Memory.get b'.val i).toNat = bitsAt r.data (8 * i) 8) ∧
      (r.kind = .install → q.held = false → q.replaying = false → ∀ b, PostBound s tag r b → 2 ^ 64 ≤ b.f.toNat + 2 →
        exec (.remoteAccessReceive src tag r) s = .next (answer 5 0)) ∧
      (r.kind = .sample ∨ r.kind = .install → q.held = false → q.replaying = false → (∀ b, ¬ PostBound s tag r b) →
        exec (.remoteAccessReceive src tag r) s = .next (answer 2 0)) ∧
      (r.kind = .sample ∨ r.kind = .install → q.held = true →
        ∃ u, exec (.remoteAccessReceive src tag r) s = .next u ∧ u.out = s.out ∧ u.posts = s.posts ∧
          ∃ y z, s.ports.toList[0]? = some y ∧ u.ports.toList[0]? = some z ∧ z.save = y.save ∧
            z.hold = y.hold ++ [{ tag, src, epoch := q.epoch, msg := .access tag r }]))

namespace Sys2Proof.Claims
open Sys2Proof.Machine

/-- Two ranges of bytes share one. -/
def Meets (a n b m : Nat) : Prop := a < b + m ∧ b < a + n

/-- Another enabled region of a partition. -/
def OtherRegion (p : Part) (r q : Region) : Prop := q ∈ p.allRegions ∧ q.en = true ∧ q.idx ≠ r.idx

/-- Check `c` of R158 fails for a region of a partition. -/
def RegionFails (p : Part) (r : Region) : Nat → Prop
  | 1 => r.size = 0 ∨ r.size % (if r.st = .e3m2 ∨ r.st = .e2m3 then 768 else 256) ≠ 0
  | 2 => p.extent < r.base + r.size
  | 3 => r.st ∉ [.e4m3, .e5m2, .e3m2, .e2m3, .e2m1, .f16, .bf16] ∨ r.oc ∉ [Ty.f32, .f16, .bf16] ∨ (Fmt.of r.oc).width ≤ (Fmt.of r.st).width
  | 4 => r.blk < 10 ∨ 16 < r.blk
  | 5 => r.noScale = false ∧ (p.extent < r.scaleBase + r.scaleBytes ∨ Meets r.scaleBase r.scaleBytes r.base r.size ∨
      ∃ q, OtherRegion p r q ∧ Meets r.scaleBase r.scaleBytes q.base q.size)
  | 6 => ∃ q, OtherRegion p r q ∧ (Meets r.base r.size q.base q.size ∨ (q.noScale = false ∧ Meets r.base r.size q.scaleBase q.scaleBytes))
  | 7 => ∃ q, OtherRegion p r q ∧ Meets r.viewLo (r.viewHi - r.viewLo) q.viewLo (q.viewHi - q.viewLo)
  | _ => False

/-- The first of the checks 1 to n that fails is c, or none and c is 0. -/
def FirstFails (fails : Nat → Prop) (n c : Nat) : Prop :=
  (c = 0 ∧ ∀ k, k ≤ n → ¬ fails k) ∨ (1 ≤ c ∧ c ≤ n ∧ fails c ∧ ∀ k, k < c → ¬ fails k)

/-- A monitor after a write of its CFG (R412). -/
def MonitorWritten (m m' : Monitor) (v : Word) : Prop :=
  m'.min = BitVec.allOnes 64 ∧ m'.max = 0 ∧ (∀ b ∈ m'.bins.toList, b = 0) ∧
  bitsAt m'.cfg.toNat 32 32 = bitsAt v.toNat 32 32 ∧ bitsAt m'.cfg.toNat 24 5 = bitsAt v.toNat 24 5 ∧
  m'.cfg.getLsbD 16 = v.getLsbD 16 ∧ bitsAt m'.cfg.toNat 0 10 = bitsAt v.toNat 0 10 ∧
  m'.cfg.getLsbD 17 = (m.cfg.getLsbD 17 && !v.getLsbD 17)

end Sys2Proof.Claims

/-- R157, R158, R165, R264, R271, R338, R401, R412, R435: an enabling write of a region runs its checks, EN and CFGERR hold the result; an
enabled region takes only its sticky bits' clears; a clearing write leaves no view line of it; ranges, the order log, monitors, MONSEL and
REMINV take their writes; REMPFRSP answers its request; a function without the right only logs. -/
def Obligations.PartitionRegistersTakeTheirWrites : Prop :=
  ∀ (s : State) (fn : FnId) (v : Word), s.power ≠ .off → s.booted = true → (s.func fn).posted = [] →
    let tg := s.regTag fn
    let p := s.part tg
    let f := s.func fn
    let same (u : State) : Prop := u.hbm = s.hbm ∧ u.tiles = s.tiles
    (s.mayWrite fn = false →
      let logs (i : Instr) (off : Nat) : Prop :=
        ∃ u, exec i s = .next u ∧ (u.func fn).aer = f.aer ++ [off] ∧ u.parts = s.parts ∧ same u
      (∀ (n : Fin 8) (hi : Bool), logs (.protectionRangeWrite fn n hi v) (0x40200 + 16 * n.val + (if hi then 8 else 0))) ∧
      (∀ n : Fin 16, (v.getLsbD 0 = true → logs (.regionEnable fn n v) (0x40010 + 32 * n.val)) ∧
        (v.getLsbD 0 = false → logs (.regionDisable fn n v) (0x40010 + 32 * n.val))) ∧
      logs (.reminv fn) 0x40308 ∧ logs (.rempfrsp fn v) 0x40320 ∧
      (∀ r : Fin 3, logs (.orderLogConfigWrite fn r v) (0x40400 + 8 * r.val)) ∧ logs (.monsel fn v) 0x47000 ∧
      logs (.monitorCfgWrite fn .slice v) 0x47100) ∧
    (s.mayWrite fn = true → tg ≠ 0 →
      (∀ n : Fin 16,
        let word (q : Part) : Nat := q.regWord n.val 2
        (v.getLsbD 0 = true → word p % 2 = 1 → ∃ u, exec (.regionEnable fn n v) s = .next u ∧ same u ∧
          u.part tg = p.setRegion n.val 2 (w64 (word p) &&& ~~~(v &&& 0xE0000))) ∧
        (v.getLsbD 0 = true → word p % 2 = 0 →
          let w := w64 (word p) &&& ~~~(v &&& 0xE0000)
          let q := p.setRegion n.val 2 ((w &&& ~~~0x1FFFC) ||| (v &&& 0x1FFFC))
          ∃ u c, exec (.regionEnable fn n v) s = .next u ∧ same u ∧ FirstFails (RegionFails q (q.region n.val)) 7 c ∧
            bitAt (word (u.part tg)) 0 = decide (c = 0) ∧ bitsAt (word (u.part tg)) 20 4 = c ∧
            bitsAt (word (u.part tg)) 1 19 = bitsAt (word q) 1 19 ∧ ∀ i j, i < 16 → j < 4 → ¬ (i = n.val ∧ j = 2) →
              (u.part tg).regWord i j = p.regWord i j) ∧
        (v.getLsbD 0 = false → word p % 2 = 1 → ∃ u, exec (.regionDisable fn n v) s = .next u ∧ bitAt (word (u.part tg)) 0 = false ∧
          u.tiles = s.tiles ∧ (∀ e ∈ u.views, e.1 / 2 ^ 50 = tg →
            e.1 % 2 ^ 50 * 256 < (p.region n.val).viewLo ∨ (p.region n.val).viewHi ≤ e.1 % 2 ^ 50 * 256) ∧
          (s.views = [] → u.hbm = s.hbm))) ∧
      (∀ (n : Fin 8) (hi : Bool), ∃ u, exec (.protectionRangeWrite fn n hi v) s = .next u ∧ same u ∧
        (u.part tg).ranges.toList[2 * n.val + (if hi then 1 else 0)]? = some (v &&& (if hi then 0x7FFFFF0000 else 0x7FFFFF000F)) ∧
        ∀ i, i ≠ 2 * n.val + (if hi then 1 else 0) → (u.part tg).ranges.toList[i]? = p.ranges.toList[i]?) ∧
      (∃ u, exec (.reminv fn) s = .next u ∧ u.part tg = { p with remCache := [] } ∧ same u) ∧
      (∀ src : Chip,
        (p.rempf = [(v.setWidth 16, src)] → ∃ u, exec (.rempfrsp fn v) s = .next u ∧ same u ∧
          u.out = s.out ++ [.pageAnswer src (BitVec.ofNat 8 tg) p.epoch (v.setWidth 16) (bitsAt v.toNat 16 2)] ∧ (u.part tg).rempf = []) ∧
        ((∀ r ∈ p.rempf, r.1 ≠ v.setWidth 16) → exec (.rempfrsp fn v) s = .next s)) ∧
      (p.running = [] →
        (∃ u, exec (.orderLogConfigWrite fn 0 v) s = .next u ∧ same u ∧
          (let y := (u.part tg).ordctl
           bitsAt y.toNat 32 32 = bitsAt v.toNat 32 32 ∧ y.getLsbD 3 = (p.ordctl.getLsbD 3 && !v.getLsbD 3) ∧
           y.getLsbD 2 = (p.ordctl.getLsbD 2 && !v.getLsbD 2) ∧
           bitsAt y.toNat 0 2 = (if bitsAt v.toNat 0 2 = 3 then bitsAt p.ordctl.toNat 0 2 else bitsAt v.toNat 0 2))) ∧
        (∃ u, exec (.orderLogConfigWrite fn 1 v) s = .next u ∧ same u ∧ (u.part tg).ordbase = v &&& 0x7FFFFF0000) ∧
        (∃ u, exec (.orderLogConfigWrite fn 2 v) s = .next u ∧ same u ∧
          (u.part tg).ordseg = (if 12 ≤ bitsAt v.toNat 0 5 ∧ bitsAt v.toNat 0 5 ≤ 30 then v &&& 31 else p.ordseg))) ∧
      (p.running ≠ [] → ∀ r : Fin 3, ∃ u, exec (.orderLogConfigWrite fn r v) s = .next u ∧ same u ∧
        bitsAt (u.part tg).ordctl.toNat 0 2 = bitsAt p.ordctl.toNat 0 2 ∧ (u.part tg).ordbase = p.ordbase ∧
        (u.part tg).ordseg = p.ordseg) ∧
      (∃ u, exec (.monsel fn v) s = .next u ∧ u.part tg = { p with monsel := v &&& 0x1FFF } ∧ same u) ∧
      (∃ u, exec (.monitorCfgWrite fn .slice v) s = .next u ∧ same u ∧
        MonitorWritten (mapGet Monitor.reset p.sliceMon p.monsel.toNat) (mapGet Monitor.reset (u.part tg).sliceMon p.monsel.toNat) v)) ∧
    (∀ h : Fin 16, (fn.val = 0 → ∃ u m m', exec (.monitorCfgWrite fn (.hub h) v) s = .next u ∧ s.hubMon.toList[h.val]? = some m ∧
        u.hubMon.toList[h.val]? = some m' ∧ MonitorWritten m m' v ∧ u.parts = s.parts ∧ same u) ∧
      (fn.val ≠ 0 → exec (.monitorCfgWrite fn (.hub h) v) s = .next s))

namespace Sys2Proof.Claims
open Sys2Proof.Machine

/-- A group or tile table names `l`: those entries valid in order, every later one invalid. -/
def TableOf (m : Map (BitVec 16)) (l : List Nat) : Prop :=
  l.length ≤ 512 ∧ (∀ i (h : i < l.length), (mapGet 0 m i).getLsbD 15 = true ∧ (mapGet 0 m i).toNat % 512 = l[i]) ∧
  ∀ e ∈ m, l.length ≤ e.1 → e.2.getLsbD 15 = false

/-- Another partition that is enabled or clearing. -/
def OtherOwner (s : State) (tag : Nat) (q : Part) : Prop := ∃ t, t ≠ tag ∧ (t, q) ∈ s.parts ∧ (q.en = true ∨ q.clearing = true)

/-- Check `c` of R398 fails for a partition. -/
def EnableFails (s : State) (tag : Nat) : Nat → Prop
  | 1 => ∀ l, TableOf (s.part tag).groups l → l = []
  | 2 => ∃ l, TableOf (s.part tag).groups l ∧ (¬ l.Nodup ∨ ∃ q, OtherOwner s tag q ∧ ∃ g ∈ l, g ∈ tableNames q.groups q.pgroups)
  | 3 => ∀ l, TableOf (s.part tag).tiles l → l = []
  | 4 => ∃ l, TableOf (s.part tag).tiles l ∧ (¬ l.Nodup ∨ ∃ q, OtherOwner s tag q ∧ ∃ g ∈ l, g ∈ tableNames q.tiles q.ptiles)
  | 5 => ∃ l, TableOf (s.part tag).groups l ∧ l.length * 2 ^ 30 < bitsAt (s.part tag).hier.toNat 16 23 * 2 ^ 16 + 0x5C000
  | 6 => (s.part tag).wbLast < (s.part tag).wbFirst ∨ ∃ t q, t ≠ tag ∧ (t, q) ∈ s.parts ∧ q.en = true ∧
      q.wbFirst ≤ (s.part tag).wbLast ∧ (s.part tag).wbFirst ≤ q.wbLast
  | 7 => (s.part tag).thmax.toNat < 256
  | _ => False

/-- Check `c` of R404 fails for a binding: T_sr is 4,000 + 2 S / (62.5 G) ns, here in units of 1/(125 G) ns. -/
def BindFails (s : State) (f : FnId) (v : Word) : Nat → Prop
  | 1 => bitsAt v.toNat 16 20 = 0
  | 2 => let p := s.part (bitsAt v.toNat 0 8)
         bitsAt v.toNat 16 20 * 1000 * (125 * p.pgroups) < 4000 * (125 * p.pgroups) + 4 * (2359296 * p.ptiles + 67584 * p.pgroups)
  | 3 => (s.part (bitsAt v.toNat 0 8)).en = false
  | 4 => bitsAt v.toNat 0 8 ≠ s.fnTag f ∧ s.holdsContext f = true
  | _ => False

end Sys2Proof.Claims

/-- R397 to R404, R413: a write of EN = 1 runs the checks in order and enables the partition or sets CFGERR; EN = 0 is refused while the
partition is busy and else tears it down: tiles, registers, posts and bindings at reset, every clear bit set; the scrubber zeroes one
block; QCFG, VFBIND and CTXBASE take their writes under their conditions; a register write stands behind the function's
earlier posted writes (R387). That code 9 comes first is the model's reading (log 40); that the management mailbox, which alone takes
writes before boot, is PSEL and PCTL is its choice (log 70). -/
def Obligations.PartitionsEnableTearDownAndBind : Prop :=
  ∀ (s : State), s.power ≠ .off → (s.func 0).posted = [] →
    let tg := s.psel.toNat % 256
    let p := s.part tg
    let entry (l : List Nat) (t : TileId) : Prop := t.val ∈ l
    (tg ≠ 0 → p.en = false → p.clearing = false →
      (s.booted = false → ∃ u, exec .partitionEnable s = .next u ∧ (u.part tg).en = false ∧ (u.part tg).cfgerr = 9) ∧
      (s.booted = true → ∀ c, FirstFails (EnableFails s tg) 7 c → ∃ u, exec .partitionEnable s = .next u ∧ u.hbm = s.hbm ∧
        (u.part tg).en = decide (c = 0) ∧ (u.part tg).cfgerr = BitVec.ofNat 4 c ∧
        ∀ gs ts, TableOf p.groups gs → TableOf p.tiles ts → c = 0 →
          (u.part tg).pgroups = gs.length ∧ (u.part tg).ptiles = ts.length ∧
          ∀ t : TileId, (u.tile t).tag = (if entry ts t then BitVec.ofNat 8 tg else (s.tile t).tag))) ∧
    (s.booted = true → p.en = true → exec .partitionEnable s = .next s) ∧
    (s.booted = true → tg ≠ 0 → p.en = true →
      ((∃ l ∈ p.launches, l.2.live = true) → ∃ u, exec .partitionDisable s = .next u ∧ u.part tg = { p with cfgerr := 8 } ∧
        u.tiles = s.tiles) ∧
      (s.busy tg = false → ∃ u, exec .partitionDisable s = .next u ∧
        (u.part tg).en = false ∧ (u.part tg).clearing = true ∧ (u.part tg).regions = Vector.replicate 64 0 ∧
        (u.part tg).ranges = Vector.replicate 16 0 ∧ (u.part tg).remroot = 0 ∧ (u.part tg).svcbase = 0 ∧
        (u.part tg).hostlim = 0 ∧ (u.part tg).linklim = 0 ∧ (u.part tg).window = [] ∧ (u.part tg).ordctl = 0x000003E800000000 ∧
        (∀ t ∈ p.tileList, u.tile t = Tile.reset) ∧ (∀ f, u.fnTag f ≠ tg) ∧ (∀ e ∈ u.views, e.1 / 2 ^ 50 ≠ tg) ∧
        (∀ ch ∈ tableNames p.groups p.pgroups, (∀ e ∈ u.posts, e.1 / 256 ≠ ch) ∧ ∀ o, o < 2 ^ 30 → u.blockClear (ch * 2 ^ 30 + o) = true))) ∧
    (∀ tag : Tag, ((s.part tag.toNat).clearing = true → ∃ u, exec (.teardownComplete tag) s = .next u ∧ u.part tag.toNat = Part.reset ∧
        ∀ j, j ≠ tag.toNat → u.part j = s.part j) ∧
      ((s.part tag.toNat).clearing = false → exec (.teardownComplete tag) s = .next s)) ∧
    (∀ (ch : Fin 512) lo hi, mapGet [] s.clearMap ch.val = [(lo, hi)] → lo < hi → hi ≤ 16384 → Memory.wf s.hbm = true →
      let b := (ch.val * 2 ^ 30 + lo * 65536) / 65536
      ∃ u, exec (.clearMapScrub ch) s = .next u ∧ u.tiles = s.tiles ∧
        ∀ ph, u.hbmByte ph = s.hbmByte ph ∧ (ph / 65536 = b → u.blockClear ph = false ∧ u.hbmByte ph = 0) ∧
          (ph / 65536 ≠ b → u.blockClear ph = s.blockClear ph)) ∧
    (∀ ch : Fin 512, mapGet [] s.clearMap ch.val = [] → exec (.clearMapScrub ch) s = .next s) ∧
    (s.booted = true → ∀ (q : Fin 64) (v old : Word), s.qcfg.toList[q.val]? = some old →
      let owned := (s.part (bitsAt old.toNat 0 8)).en = true ∨ (s.part (bitsAt v.toNat 0 8)).en = true
      (owned → exec (.qcfgWrite q v) s = .next s) ∧
      (¬ owned → ∃ u, exec (.qcfgWrite q v) s = .next u ∧ u.qcfg.toList[q.val]? = some (v &&& 0x7FF) ∧
        ∀ j, j ≠ q.val → u.qcfg.toList[j]? = s.qcfg.toList[j]?)) ∧
    (s.booted = true → ∀ (vf : BitVec 8) (v : Word),
      let f := fnOf (vf.toNat + 1)
      (bitsAt v.toNat 0 8 = 0 ∨ FirstFails (BindFails s f v) 4 0 → ∃ u, exec (.vfbindWrite vf v) s = .next u ∧
        (u.func f).vfbind = v &&& 0x2FFFFFFFFF ∧ u.binderr = s.binderr) ∧
      (∀ c, bitsAt v.toNat 0 8 ≠ 0 → c ≠ 0 → FirstFails (BindFails s f v) 4 c →
        exec (.vfbindWrite vf v) s = .next { s with binderr := w64 (vf.toNat + c * 2 ^ 8) }) ∧
      ((mapFind s.saved f.val).isSome = true → exec (.vfCtxbaseWrite vf v) s = .next s) ∧
      (mapFind s.saved f.val = none → ∃ u, exec (.vfCtxbaseWrite vf v) s = .next u ∧
        u.func f = { s.func f with ctxbase := v &&& 0x7FFFFF0000 })) ∧
    (∀ v : Word,
      exec (.bar0RegisterWrite 0 0x80000 v) s = .next { s with psel := v &&& 0xFF } ∧
      (∀ fn : FnId, fn.val ≠ 0 → (s.func fn).posted = [] → exec (.bar0RegisterWrite fn 0x80000 v) s = .next s) ∧
      (∀ (fn : FnId) (off : BitVec 20), (s.func fn).posted ≠ [] → (s.func fn).posted.length < 64 → s.booted = true →
        off.toNat < 0x81000 → ∃ u w, exec (.bar0RegisterWrite fn off v) s = .next u ∧ (u.func fn).posted = (s.func fn).posted ++ [w] ∧
          w.bar = .bar0 ∧ w.addr = off.toNat ∧ bytesNat w.bytes = v.toNat ∧ w.sent = false ∧ u.parts = s.parts) ∧
      (s.booted = true → tg ≠ 0 → p.en = true → exec (.bar0RegisterWrite 0 0x80018 v) s = .next s) ∧
      (s.booted = true → tg ≠ 0 → p.en = false → p.clearing = false → ∃ u, exec (.bar0RegisterWrite 0 0x80018 v) s = .next u ∧
        u.part tg = { p with hier := v &&& 0x7FFFFF0000 }))

namespace Sys2Proof.Claims
open Sys2Proof.Machine

/-- n bytes of d written to the host from an address in requests of 512 bytes, the last of what remains (R385). -/
def inRequests (fn : FnId) (a d n : Nat) : List Output :=
  (natsFrom 0 ((n + 511) / 512)).map fun i =>
    .hostWrite fn (a + 512 * i) (min 512 (n - 512 * i)) (bitsAt d (4096 * i) (8 * min 512 (n - 512 * i))) false

end Sys2Proof.Claims

/-- R387, R401, R402, R415 to R417: a submission by LSUBMIT leaves its status, and an accepted launch's identifier, in LSTAT; ATTREQ
brings a report of R415's layout, in requests of at most 512 bytes (R385), consumes a leaf of the module's key (R413) and then is DONE; a
debug request brings a challenge in state 1, level 0 ends the session, and only a response to the outstanding challenge that both
verifications pass grants the level, for an enabled partition that is still the function's own while no other has a session (the last
the model's choice, log 70); an unbound virtual function only logs. -/
def Obligations.FunctionRegistersTakeTheirWrites : Prop :=
  ∀ (s : State) (fn : FnId) (v : Word), s.power ≠ .off → s.booted = true → (s.func fn).posted = [] →
    let f := s.func fn
    let tg := s.fnTag fn
    let unbound := fn.val ≠ 0 ∧ tg = 0
    let a := bitsAt v.toNat 7 32 * 128
    let id := bitsAt f.lstat.toNat 8 32
    (unbound → ∃ u, exec (.lsubmit fn v) s = .next u ∧ (u.func fn).aer = f.aer ++ [0x40600] ∧ (u.func fn).lstat = f.lstat ∧
      u.parts = s.parts) ∧
    (¬ unbound →
      (∀ s1 i, s.submit (s.regTag fn) a fn (fn.val == 0) = (s1, 0, i) → s1.funcs = s.funcs → ∃ u, exec (.lsubmit fn v) s = .next u ∧
        (u.func fn).lstat = w64 (2 ^ 63 + i * 256) ∧ u.parts = s1.parts ∧ (s1.power = .packageIdle → .event .packageWake ∈ u.agenda)) ∧
      (fn.val ≠ 0 → (s.part tg).en = false ∨ (s.part tg).extent < a + 128 → ∃ u, exec (.lsubmit fn v) s = .next u ∧
        (u.func fn).lstat = w64 (2 ^ 63 + id * 256 + 2) ∧ u.parts = s.parts) ∧
      (∀ g : FnId, fn.val = 0 → s.psel.toNat % 256 ≠ 0 → g.val ≠ 0 → s.fnTag g = s.psel.toNat % 256 → ∃ u, exec (.lsubmit fn v) s = .next u ∧
        (u.func fn).lstat = w64 (2 ^ 63 + id * 256 + 8) ∧ u.parts = s.parts) ∧
      (∃ u, exec (.attreq fn v) s = .next u ∧ (u.func fn).attreq = v ∧ (u.func fn).attstat = 0 ∧ (u.func fn).attBusy = true)) ∧
    (f.attBusy = false ∨ 2 ^ 15 ≤ s.lmsLeaf → exec (.attestationReportDone fn) s = .next s) ∧
    (f.attBusy = true → s.lmsLeaf < 2 ^ 15 → ∃ u d, exec (.attestationReportDone fn) s = .next u ∧ u.lmsLeaf = s.lmsLeaf + 1 ∧
      u.out = s.out ++ inRequests fn f.attreq.toNat d (0x134 + Config.lmsLength) ∧ (u.func fn).attstat = 1 ∧ (u.func fn).attBusy = false ∧
      bitsAt d 0 256 = wordsNat f.attnonce.toList % 2 ^ 256 ∧ bitsAt d 0x100 64 = 1 ∧ bitsAt d 0x140 2 = s.security.toNat ∧
      bitsAt d 0x480 64 = s.cfgVersion % 2 ^ 64 ∧ bitsAt d 0x640 12 = s.chipId.toNat ∧ bitsAt d 0x650 8 = (if fn.val = 0 then 0 else tg) ∧
      bitsAt d 0x980 32 = Config.lmsLength % 2 ^ 32) ∧
    (let t := bitsAt v.toNat 0 8
     let lv := bitsAt v.toNat 8 2
     (¬ unbound → fn.val = 0 ∨ t = tg →
       (lv = 0 → ∃ u, exec (.dbgreq fn v) s = .next u ∧ (∀ d ∈ u.dbg, d.1 ≠ t) ∧ (∀ d, d ∈ u.dbg → d ∈ s.dbg)) ∧
       (lv = 1 ∨ lv = 2 → s.security = 1 → ∃ u, exec (.dbgreq fn v) s = .next u ∧ u.dbg = s.dbg ∧ (u.func fn).dbgreq = v &&& 0x3FF ∧ (u.func fn).dbgOpen = true ∧
         ∀ i : Fin 4, (u.func fn).dbgchal.toList[i.val]? = some ((Config.debugNonce s.serial).extractLsb' (64 * i.val) 64)) ∧
       (lv = 1 ∨ lv = 2 → s.security ≠ 1 → ∃ u, exec (.dbgreq fn v) s = .next u ∧ u.dbg = s.dbg ∧ (u.func fn).dbgchal = f.dbgchal)) ∧
     (fn.val ≠ 0 → tg ≠ 0 → t ≠ tg → exec (.dbgreq fn v) s = .next s)) ∧
    (¬ unbound → ∀ ecdsa lms,
      let r := f.dbgreq.toNat
      let granted := f.dbgOpen = true ∧ s.security = 1 ∧ ecdsa = true ∧ lms = true ∧ (bitsAt r 8 2 = 1 ∨ bitsAt r 8 2 = 2) ∧
        (s.part (bitsAt r 0 8)).en = true ∧ (fn.val = 0 ∨ bitsAt r 0 8 = tg) ∧ ∀ d ∈ s.dbg, d.1 = bitsAt r 0 8
      (granted →
        ∃ u, exec (.dbgresp fn ecdsa lms) s = .next u ∧ (bitsAt r 0 8, bitsAt r 8 2, false) ∈ u.dbg ∧
          ∀ d, d.1 ≠ bitsAt r 0 8 → (d ∈ u.dbg ↔ d ∈ s.dbg)) ∧
      (¬ granted → ∃ u, exec (.dbgresp fn ecdsa lms) s = .next u ∧ u.dbg = s.dbg ∧ (u.func fn).dbgOpen = false))

/-! ## Power, boot, soft errors, debug -/

namespace Sys2Proof.Claims
open Sys2Proof.Machine

/-- A chain of objects that are accepted in turn, from one anti-rollback counter to another (R413). -/
def BootAccepts : Nat → List BootObj → Nat → Prop
  | c, [], d => d = c
  | c, o :: l, d => o.ecdsa = true ∧ o.lms = true ∧ c ≤ o.version ∧ BootAccepts (if o.marked then o.version else c) l d

end Sys2Proof.Claims

/-- R99, R413, R416 to R418: a submission's wake makes the package active; the throttle factor stays between 256 and THMAX, changes at
most once in 10 µs, and a need beyond every THMAX holds launches back; shutdown ends every launch and turns the module off; boot
accepts a chain of doubly signed objects or stays in recovery, and a new security state, or another CHIPID (the model's choice, log
70), tears every partition down; invasive debug acts on its own tiles alone, and writes registers and steps only while they are halted;
registers are read at either level, as zero where the tile is gated or the package idle. -/
def Obligations.PowerBootAndDebugAct : Prop :=
  ∀ (s : State) (tag : Tag), s.power ≠ .off →
    let tg := tag.toNat
    let p := s.part tg
    (s.power = .packageIdle → exec .packageWake s = .next { s with power := .active }) ∧
    (s.power = .active → exec .packageWake s = .next s) ∧
    (∀ th : BitVec 16,
      let soon := ∃ a, p.thetaAt = some a ∧ s.time.tai < a + 10000
      (p.en = true → ¬ soon → 256 ≤ th.toNat → ∃ u, exec (.throttleChange tag th) s = .next u ∧ u.tiles = s.tiles ∧
        u.part tg = { p with theta := if th.toNat ≤ p.thmax.toNat then th else p.thmax, thetaAt := some s.time.tai } ∧
        (th.toNat ≤ p.thmax.toNat → u.noStart = false) ∧
        (p.thmax.toNat < th.toNat → (∀ q ∈ s.parts, q.2.en = true → q.1 ≠ tg → q.2.theta = q.2.thmax) →
          (s.parts.map (·.1)).Pairwise (· < ·) → u.noStart = true)) ∧
      (soon ∨ th.toNat < 256 ∨ p.en = false → exec (.throttleChange tag th) s = .next s)) ∧
    (∃ u, exec .thermalShutdown s = .next u ∧ u.power = .off ∧ u.dbg = [] ∧ step u = .fault .off ∧
      ∀ t e, u.launch t e = none) ∧
    (∀ (images : List BootObj) (record : BootObj) (chip : Chip) (sec : BitVec 2) (c : Nat),
      (BootAccepts s.rollback (images ++ [record]) c → sec ≠ 3 →
        (sec = s.security → chip = s.chipId → exec (.boot images record chip sec) s =
          .next { s with rollback := c, booted := true, cfgVersion := record.version, firmware := imagesNat images, config := record.content }) ∧
        (sec ≠ s.security ∨ chip ≠ s.chipId → ∃ u, exec (.boot images record chip sec) s = .next u ∧ u.booted = true ∧ u.security = sec ∧
          u.chipId = chip ∧ u.cfgVersion = record.version ∧ u.dbg = [] ∧ u.saved = [] ∧
          ∀ t, (s.part t).en = true → (u.part t).en = false ∧ (u.part t).clearing = true)) ∧
      ((∃ o ∈ images ++ [record], o.ecdsa = false ∨ o.lms = false) ∨ (images = [] ∧ record.version < s.rollback) →
        ∃ u, exec (.boot images record chip sec) s = .next u ∧ u.booted = false ∧ u.chipId = s.chipId ∧ u.security = s.security ∧
          u.parts = s.parts)) ∧
    (∀ (t : TileId) (k : SlotId) (n : G) (v : Word) (act : DbgAct),
      (s.debugLevel tg ≠ 2 → (∀ j l c, act ≠ .read j l c) → (∀ j l c, act ≠ .readCsr j l c) → exec (.invasiveDebugAccess tag act) s = .next s) ∧
      (tg ≠ 0 → 1 ≤ s.debugLevel tg → (s.tile t).tag = tag →
        (s.dark t = false → exec (.invasiveDebugAccess tag (.read t k (n.setWidth 7))) s =
          .next { s with out := s.out ++ [.debugRead tag ((s.slot t k).gr n).toNat] }) ∧
        (s.dark t = true → ∀ c, exec (.invasiveDebugAccess tag (.read t k c)) s = .next { s with out := s.out ++ [.debugRead tag 0] } ∧
          ∀ r, exec (.invasiveDebugAccess tag (.readCsr t k r)) s = .next { s with out := s.out ++ [.debugRead tag 0] }) ∧
        (s.dark t = false → exec (.invasiveDebugAccess tag (.readCsr t k 0x020)) s =
          .next { s with out := s.out ++ [.debugRead tag (s.slot t k).fcsr.toNat] })) ∧
      (s.debugLevel tg = 0 → ∀ j l, (∀ c, exec (.invasiveDebugAccess tag (.read j l c)) s = .next s) ∧
        ∀ c, exec (.invasiveDebugAccess tag (.readCsr j l c)) s = .next s) ∧
      (tg ≠ 0 → s.debugLevel tg = 2 → (s.tile t).tag = tag →
        (∃ u, exec (.invasiveDebugAccess tag (.halt t)) s = .next u ∧ u.tile t = { s.tile t with dbgHalt := true } ∧
          ∀ j, j ≠ t → u.tile j = s.tile j) ∧
        (∃ u, exec (.invasiveDebugAccess tag (.release t)) s = .next u ∧
          u.tile t = { s.tile t with dbgHalt := false, dbgStep := none }) ∧
        (∃ u, exec (.invasiveDebugAccess tag (.arm true)) s = .next u ∧ (tg, 2, true) ∈ u.dbg ∧ u.tiles = s.tiles) ∧
        ((s.tile t).dbgHalt = true →
          (∃ u, exec (.invasiveDebugAccess tag (.writeG t k n v)) s = .next u ∧ (u.slot t k).gr n = (if n = 0 then 0 else v) ∧
            ∀ m, m ≠ n → (u.slot t k).gr m = (s.slot t k).gr m) ∧
          (n ≠ 0 → ∃ u, exec (.invasiveDebugAccess tag (.write t k (n.setWidth 7) v.toNat)) s = .next u ∧ (u.slot t k).gr n = v ∧
            ∀ m, m ≠ n → (u.slot t k).gr m = (s.slot t k).gr m) ∧
          (∃ u, exec (.invasiveDebugAccess tag (.writeCsr t k 0x020 v)) s = .next u ∧ u.cur = s.cur ∧
            (u.slot t k).fcsr = ((s.slot t k).fcsr &&& ~~~0x31F1F) ||| (v &&& 0x31F1F) ∧ ∀ m, (u.slot t k).gr m = (s.slot t k).gr m) ∧
          (∃ u, exec (.invasiveDebugAccess tag (.writePc t k v)) s = .next u ∧ u.slot t k = { s.slot t k with pc := v }) ∧
          (∃ u, exec (.invasiveDebugAccess tag (.step t k)) s = .next u ∧ (u.tile t).dbgStep = some k ∧
            u.agenda = s.agenda ++ [.turn t k])) ∧
        ((s.tile t).dbgHalt = false → exec (.invasiveDebugAccess tag (.writeG t k n v)) s = .next s)) ∧
      (tg ≠ 0 → (s.tile t).tag ≠ tag → exec (.invasiveDebugAccess tag (.halt t)) s = .next s))

/-- R426 to R428: a corrected error changes no slot and is recorded as code 14 at level 7, with its address, while the log is enabled; an
uncorrected one marks its granule alone. The record's tile and slot are the model's choice (log 12). -/
def Obligations.SoftErrorsAreLoggedOrPoison : Prop :=
  ∀ (s : State) (t : TileId) (k : SlotId) (off : Nat), s.power ≠ .off →
    let p := s.part (s.tile t).tag.toNat
    let o := off % 0x200000
    let ring := bitsAt p.fltlog.toNat 13 26 * 2 ^ 13 + 32 * (p.flthead.toNat % 256)
    (p.fltlog.getLsbD 0 = false → exec (.correctedSoftError (.store t off)) s = .next s) ∧
    (p.fltlog.getLsbD 0 = true → p.ptiles ≤ 512 → PlainAt s (s.tile t).tag.toNat ring 32 → ∃ u v, exec (.correctedSoftError (.store t off)) s = .next u ∧
      u.tiles = s.tiles ∧ WrittenIn s u p ring 32 v ∧ bitsAt v 0 8 = 14 ∧ bitsAt v 8 8 = 0 ∧ bitsAt v 16 3 = 7 ∧
      bitsAt v 128 64 = linBase + o ∧ (u.part (s.tile t).tag.toNat).flthead = p.flthead + 1) ∧
    (∃ u, exec (.uncorrectedSoftError (.store t off)) s = .next u ∧
      u.tile t = { s.tile t with badChunks := o / 64 :: (s.tile t).badChunks } ∧ ∀ j, j ≠ t → u.tile j = s.tile j) ∧
    (∀ g : Fin 512, exec (.uncorrectedSoftError (.hbm g off)) s =
      .next { s with badHbm := (g.val * 2 ^ 30 + off % 2 ^ 30) / 32 :: s.badHbm }) ∧
    (∀ c : BitVec 7, c ≠ 0 → c ≠ 96 →
      (c.toNat < 120 → ∃ u, exec (.uncorrectedSoftError (.reg t k c)) s = .next u ∧
        u.slot t k = { s.slot t k with bad := c.toNat :: (s.slot t k).bad }) ∧
      (120 ≤ c.toNat → ∃ u, exec (.uncorrectedSoftError (.reg t k c)) s = .next u ∧
        u.tile t = { s.tile t with badYZ := c.toNat :: (s.tile t).badYZ })) ∧
    (∀ (n : BitVec 32) (b : Post), s.posts = [(postKey n, b)] → 0 < b.lines →
      ∃ u b', exec (.uncorrectedSoftError (.post n off)) s = .next u ∧ mapFind u.posts (postKey n) = some b' ∧
        b' = { b with bad := off % 256 / 32 :: b.bad } ∧ u.tiles = s.tiles) ∧
    (∀ line, ∃ u, exec (.uncorrectedSoftError (.pin t line)) s = .next u ∧
      (u.tile t).pins = (s.tile t).pins.map (fun p : Pin => if p.line = line then { p with bad := true } else p) ∧
      (∀ m ∈ (u.tile t).macs, ∀ q ∈ m.held, q.line = line → q.bad = true) ∧
      (u.tile t).slots = (s.tile t).slots ∧ (u.tile t).store = (s.tile t).store ∧ (u.tile t).fetches = (s.tile t).fetches ∧
      ∀ j, j ≠ t → u.tile j = s.tile j) ∧
    (∀ (tag : Tag) (a : Nat) (l : ViewLine), mapFind s.views (viewKey tag.toNat a) = some l →
      ∃ u, exec (.uncorrectedSoftError (.view tag a)) s = .next u ∧ u.hbm = s.hbm ∧
        mapFind u.views (viewKey tag.toNat a) = some { l with bad := l.bad ||| 2 ^ (a % 256 / 32) }) ∧
    (∀ (tag : Tag) (die : Fin 4) (a : Nat), ∃ u, exec (.uncorrectedSoftError (.rdc tag die a)) s = .next u ∧ u.hbm = s.hbm ∧
      u.badHbm = s.badHbm ∧ ∀ l ∈ mapGet [] u.rdc (4 * tag.toNat + die.val), l.key = (s.part tag.toNat).lineKey tag.toNat a →
        l.bad.testBit (a % 256 / 32) = true)

/-- R420 to R425, R445: without a handler the fault goes to containment: ignored, the instruction's register is zero and the slot goes on
after it; retried once, and passed on when it comes again; or its slot ends. In trap mode a second fault goes to containment and
`trap` passes the first to the launch level. The launch level ends the slot, has the round run again once, or kills the launch. -/
def Obligations.FaultsAreContained : Prop :=
  ∀ (s : State) (h : Hdr) (n : BitVec 12) (sz : Size) (d : G) (m : MemRef),
    Ready s h [rG m.base, rG m.index] [rG d] → s.me.longs = 0 → s.myPart.fltlog.getLsbD 0 = false →
    let x := s.myTile
    let bare := x.trapvec &&& ~~~3 = 0 ∧ s.me.tm = false
    let hole := 2 ^ 39 ≤ (s.me.ea m).toNat ∧ (s.me.ea m).toNat < 2 ^ 40
    let ends (i : Instr) : Prop := ∃ t, exec i s = .next t ∧ t.me.active = false ∧ t.me.tm = false
    let passedOn (i : Instr) : Prop := ∀ e l, x.launch = some e → s.launch x.tag.toNat e = some l → l.ending = none →
      (l.policy = 0 → ends i) ∧
      (l.policy = 1 → x.idem = true → x.inRerun = false → ∃ t, exec i s = .next t ∧ t.myTile.rerun = some x.roundNo ∧
        t.myTile.inRound = false ∧ t.me.active = false) ∧
      (l.policy = 2 ∨ (l.policy = 1 ∧ (x.idem = false ∨ x.inRerun = true)) →
        ∃ t, exec i s = .next t ∧ Ending t x.tag.toNat e 4)
    (bare → bitsAt x.trapvec.toNat 0 2 = 0 →
      (∃ t, exec (.trap h n) s = .next t ∧ t.me.pc = s.me.pc + 12 ∧ t.me.tm = false ∧ t.me.active = s.me.active ∧
        t.me.tcode = 17 ∧ t.me.tinfo = 1 ∧ t.me.trapval = n.setWidth 64) ∧
      (hole → (s.fetchInsn s.cur.1 s.cur.2 s.me.pc).2 = .ok (.ld h sz (.g d) m) → fetchFault s.myPart s.me.pc.toNat = none →
        ∃ t, exec (.ld h sz (.g d) m) s = .next t ∧ t.me.pc = s.me.pc + 12 ∧ t.me.gr d = 0 ∧ t.me.tm = false ∧ t.me.tcode = 4 ∧
          (∀ e, e ≠ d → t.me.gr e = s.me.gr e) ∧ t.myTile.store = s.myTile.store ∧ t.hbm = s.hbm)) ∧
    (bare → bitsAt x.trapvec.toNat 0 2 = 1 → hole →
      (s.me.retry ≠ some (s.me.pc, 4) → ∃ t, exec (.ld h sz (.g d) m) s = .next t ∧ t.me.pc = s.me.pc ∧ t.me.tm = false ∧
        t.me.retry = some (s.me.pc, 4) ∧ t.me.g = s.me.g) ∧
      (s.me.retry = some (s.me.pc, 4) → passedOn (.ld h sz (.g d) m))) ∧
    (bare → bitsAt x.trapvec.toNat 0 2 = 2 → ends (.trap h n) ∧ (hole → ends (.ld h sz (.g d) m))) ∧
    (bare → bitsAt x.trapvec.toNat 0 2 = 3 → passedOn (.trap h n) ∧ (hole → passedOn (.ld h sz (.g d) m))) ∧
    (s.me.tm = true → hole →
      (bitsAt x.trapvec.toNat 0 2 = 2 → ends (.ld h sz (.g d) m)) ∧
      (bitsAt x.trapvec.toNat 0 2 = 3 → passedOn (.ld h sz (.g d) m))) ∧
    (s.me.tm = true → s.me.tcode ≠ 12 → s.me.tcode ≠ 13 → passedOn (.trap h n) ∧
      (∀ e l, x.launch = some e → s.launch x.tag.toNat e = some l → l.policy = 0 → ∃ t, exec (.trap h n) s = .next t ∧
        t.me.active = false ∧ t.me.tcode = s.me.tcode ∧ t.me.trappc = s.me.trappc ∧ t.me.trapval = s.me.trapval))

/-! ## Reset and the whole machine -/

/-- The reset values the spec states: R397 (THMAX 256, SHARE, PSEL and QCFG 0), R338 (TIMEOUT 1,000, SEGLOG 12), R426 (PRTMO 10,000,
FLTLOG 0), R403 (VFBIND 0), R387 (LSTAT 0), R395 (PARTTAG 0), R419 (UPOL 3, no handler), R412 (MIN all ones), R451 and R452 (LOSTLIM
2,000; lost, E at its greatest), R106 (queue 63 served last at every priority); every queue is empty, no partition is enabled, no slot
active or in trap mode, p0 reads true, and memory is in its canonical form. -/
def Obligations.ResetLeavesWhatTheSpecStates : Prop :=
  let s := State.reset
  HbmInv s ∧ StoreInv s ∧ s.psel = 0 ∧ (∀ q ∈ s.qcfg.toList, q = 0) ∧
  (∀ q ∈ s.lastServed.toList, q = 63) ∧ (∀ q ∈ s.queues.toList, q = []) ∧
  s.time.clock = .lost ∧ s.time.isSet = false ∧ s.time.e = 65535 ∧ bitsAt s.time.tbcfg.toNat 32 16 = 2000 ∧
  (∀ m ∈ s.hubMon.toList, m.cfg = 0 ∧ m.min = BitVec.allOnes 64 ∧ m.max = 0) ∧
  (∀ t, (s.part t).en = false ∧ (s.part t).thmax = 256 ∧ (s.part t).share = 0 ∧ bitsAt (s.part t).ordctl.toNat 32 32 = 1000 ∧
    (s.part t).ordseg = 12 ∧ (s.part t).fltcfg = 10000 ∧ (s.part t).fltlog = 0) ∧
  (∀ f, (s.func f).vfbind = 0 ∧ (s.func f).lstat = 0) ∧
  ∀ t, bitsAt (s.tile t).trapvec.toNat 0 2 = 3 ∧ (s.tile t).trapvec &&& ~~~3 = 0 ∧ (s.tile t).tag = 0 ∧
    ∀ k, (s.slot t k).active = false ∧ (s.slot t k).tm = false ∧ (s.slot t k).pr 0 = true

/-- R2 as the model keeps it: every step leaves HBM in its canonical form, addresses strictly rising and no byte listed that an unlisted
address reads as, whatever the turn or the event, from every state in that form. -/
def Obligations.StepKeepsHbmCanonical : Prop :=
  ∀ s t : State, HbmInv s → step s = .next t → HbmInv t
end

