-- ==== Sys2Proof/Laws/Data.lean ====
section
/-! SUPPORT. What the operations on maps and on bytes of memory do: reads after writes, and the canonical form kept. -/
namespace Sys2Proof.Machine

/-! ## Maps -/

@[simp] theorem mapGet_mapSet_same {α : Type} (d : α) (m : Map α) (n : Nat) (x : α) : mapGet d (mapSet m n x) n = x := by
  induction m with
  | nil => simp [mapSet, mapGet]
  | cons c m ih =>
    simp only [mapSet]
    split
    · simp [mapGet]
    · split
      · simp [mapGet]
      · rename_i h _
        simp [mapGet, h, ih]

theorem mapGet_mapSet_other {α : Type} (d : α) (m : Map α) (n k : Nat) (x : α) (h : k ≠ n) :
    mapGet d (mapSet m n x) k = mapGet d m k := by
  induction m with
  | nil => simp [mapSet, mapGet, h]
  | cons c m ih =>
    simp only [mapSet]
    split
    · rename_i e; subst e; simp [mapGet, h]
    · split
      · simp [mapGet, h]
      · simp [mapGet, ih]

@[simp] theorem mapSet_mapSet {α : Type} (m : Map α) (n : Nat) (x y : α) : mapSet (mapSet m n x) n y = mapSet m n y := by
  induction m with
  | nil => simp [mapSet]
  | cons c m ih =>
    simp only [mapSet]
    split
    · simp [mapSet]
    · split
      · simp [mapSet]
      · rename_i h h'
        simp [mapSet, h, h', ih]

@[simp] theorem mapFind_mapSet_same {α : Type} (m : Map α) (n : Nat) (x : α) : mapFind (mapSet m n x) n = some x := by
  induction m with
  | nil => simp [mapSet, mapFind]
  | cons c m ih =>
    simp only [mapSet]
    split
    · simp [mapFind]
    · split
      · simp [mapFind]
      · rename_i h _
        simp [mapFind, h, ih]

theorem mapFind_mapSet_other {α : Type} (m : Map α) (n k : Nat) (x : α) (h : k ≠ n) :
    mapFind (mapSet m n x) k = mapFind m k := by
  induction m with
  | nil => simp [mapSet, mapFind, h]
  | cons c m ih =>
    simp only [mapSet]
    split
    · rename_i e; subst e; simp [mapFind, h]
    · split
      · simp [mapFind, h]
      · simp [mapFind, ih]

/-! ## Memory -/

/-- Every address of a canonical tail lies above its head's. -/
theorem Memory.wf_cons (c : Host.Cell) (m : Mem) :
    Memory.wf (c :: m) = true ↔ c.2 ≠ Memory.unlisted ∧ Memory.wf m = true ∧ ∀ q ∈ m, c.1 < q.1 := by
  induction m generalizing c with
  | nil => simp [Memory.wf]
  | cons e m ih =>
    simp only [Memory.wf, Bool.and_eq_true, decide_eq_true_eq, bne_iff_ne, ne_eq]
    rw [ih e]
    constructor
    · rintro ⟨⟨h1, h2⟩, h3, h4, h5⟩
      refine ⟨h2, ⟨h3, h4, h5⟩, fun q hq => ?_⟩
      rcases List.mem_cons.mp hq with rfl | hq
      · exact h1
      · exact Nat.lt_trans h1 (h5 q hq)
    · rintro ⟨h1, h2, h3⟩
      exact ⟨⟨h3 e (List.mem_cons_self ..), h1⟩, h2⟩

theorem Memory.get_absent (m : Mem) (a : Nat) (h : ∀ q ∈ m, q.1 ≠ a) : Memory.get m a = Memory.unlisted := by
  induction m with
  | nil => rfl
  | cons c m ih =>
    have h1 : a ≠ c.1 := fun e => h c (List.mem_cons_self ..) e.symm
    simp only [Memory.get]
    rw [if_neg h1]
    exact ih fun q hq => h q (List.mem_cons_of_mem _ hq)

theorem Memory.mem_put (m : Mem) (a : Nat) (x : Byte) (q : Host.Cell) (h : q ∈ Memory.put m a x) : q ∈ m ∨ q.1 = a := by
  induction m with
  | nil =>
    simp only [Memory.put] at h
    split at h
    · cases h
    · simp only [List.mem_singleton] at h; exact .inr (by rw [h])
  | cons c m ih =>
    simp only [Memory.put] at h
    split at h
    · split at h
      · exact .inl (List.mem_cons_of_mem _ h)
      · rcases List.mem_cons.mp h with h | h
        · exact .inr (by rw [h])
        · exact .inl (List.mem_cons_of_mem _ h)
    · split at h
      · split at h
        · exact .inl h
        · rcases List.mem_cons.mp h with h | h
          · exact .inr (by rw [h])
          · exact .inl h
      · rcases List.mem_cons.mp h with h | h
        · exact .inl (by rw [h]; exact List.mem_cons_self ..)
        · rcases ih h with h | h
          · exact .inl (List.mem_cons_of_mem _ h)
          · exact .inr h

/-- Putting a byte keeps the canonical form. -/
theorem Memory.put_wf (m : Mem) (a : Nat) (x : Byte) (h : Memory.wf m = true) : Memory.wf (Memory.put m a x) = true := by
  induction m with
  | nil =>
    simp only [Memory.put]
    split
    · rfl
    · simpa [Memory.wf] using ‹_›
  | cons c m ih =>
    have hc := (Memory.wf_cons c m).mp h
    simp only [Memory.put]
    split
    · rename_i e
      split
      · exact hc.2.1
      · rename_i hx
        exact (Memory.wf_cons _ _).mpr ⟨hx, hc.2.1, fun q hq => by rw [e]; exact hc.2.2 q hq⟩
    · rename_i ne
      split
      · rename_i lt
        split
        · exact h
        · rename_i hx
          refine (Memory.wf_cons _ _).mpr ⟨hx, h, fun q hq => ?_⟩
          rcases List.mem_cons.mp hq with rfl | hq
          · exact lt
          · exact Nat.lt_trans lt (hc.2.2 q hq)
      · rename_i nlt
        refine (Memory.wf_cons _ _).mpr ⟨hc.1, ih hc.2.1, fun q hq => ?_⟩
        rcases Memory.mem_put m a x q hq with hq | hq
        · exact hc.2.2 q hq
        · show c.1 < q.1
          omega

/-- Taking bytes off keeps the canonical form. -/
theorem Memory.clear_wf (m : Mem) (lo hi : Nat) (h : Memory.wf m = true) : Memory.wf (Memory.clear m lo hi) = true := by
  unfold Memory.clear
  induction m with
  | nil => rfl
  | cons c m ih =>
    have hc := (Memory.wf_cons c m).mp h
    simp only [List.filter_cons]
    split
    · exact (Memory.wf_cons _ _).mpr ⟨hc.1, ih hc.2.1, fun q hq => hc.2.2 q (List.mem_filter.mp hq).1⟩
    · exact ih hc.2.1

/-- Writing bytes keeps the canonical form. -/
theorem Memory.writeN_wf (n : Nat) : ∀ (m : Mem) (a x : Nat), Memory.wf m = true → Memory.wf (Memory.writeN m a x n) = true := by
  induction n with
  | zero => intro m a x h; exact h
  | succ n ih => intro m a x h; exact ih _ _ _ (Memory.put_wf m a _ h)

/-- A byte put is the byte read, and no other address changes. -/
theorem Memory.get_put (m : Mem) (a : Nat) (x : Byte) (b : Nat) (h : Memory.wf m = true) :
    Memory.get (Memory.put m a x) b = if b = a then x else Memory.get m b := by
  induction m with
  | nil =>
    simp only [Memory.put]
    split
    · rename_i hx; subst hx; simp [Memory.get]
    · simp [Memory.get]
  | cons c m ih =>
    have hc := (Memory.wf_cons c m).mp h
    have above : ∀ a, a ≤ c.1 → Memory.get m a = Memory.unlisted := fun a ha =>
      Memory.get_absent m a fun q hq => by have := hc.2.2 q hq; omega
    simp only [Memory.put]
    split
    · rename_i e
      split
      · rename_i hx
        by_cases hb : b = a
        · rw [if_pos hb, hb, hx]; exact above a (Nat.le_of_eq e)
        · rw [if_neg hb]; simp only [Memory.get]; rw [if_neg (by omega)]
      · by_cases hb : b = a
        · simp [Memory.get, hb]
        · simp only [Memory.get]; rw [if_neg hb, if_neg hb, if_neg (by omega)]
    · rename_i ne
      split
      · rename_i lt
        split
        · rename_i hx
          by_cases hb : b = a
          · rw [if_pos hb, hb, hx]; simp only [Memory.get]; rw [if_neg ne]; exact above a (Nat.le_of_lt lt)
          · rw [if_neg hb]
        · by_cases hb : b = a
          · simp [Memory.get, hb]
          · simp only [Memory.get]
      · simp only [Memory.get]
        by_cases hb : b = c.1
        · rw [if_pos hb, if_pos hb, if_neg (by omega)]
        · rw [if_neg hb, if_neg hb]; exact ih hc.2.1

/-- Bytes outside those written read as before. -/
theorem Memory.get_writeN_other (n : Nat) : ∀ (m : Mem) (a x b : Nat), Memory.wf m = true → (b < a ∨ a + n ≤ b) →
    Memory.get (Memory.writeN m a x n) b = Memory.get m b := by
  induction n with
  | zero => intro m a x b _ _; rfl
  | succ n ih =>
    intro m a x b h hb
    simp only [Memory.writeN]
    rw [ih _ _ _ _ (Memory.put_wf m a _ h) (by omega), Memory.get_put _ _ _ _ h, if_neg (by omega)]

/-- The i-th of the bytes written. -/
theorem Memory.get_writeN_at (n : Nat) : ∀ (m : Mem) (a x i : Nat), Memory.wf m = true → i < n →
    Memory.get (Memory.writeN m a x n) (a + i) = BitVec.ofNat 8 (x / 256 ^ i) := by
  induction n with
  | zero => intro m a x i _ hi; omega
  | succ n ih =>
    intro m a x i h hi
    simp only [Memory.writeN]
    cases i with
    | zero =>
      rw [Memory.get_writeN_other _ _ _ _ _ (Memory.put_wf m a _ h) (by omega), Memory.get_put _ _ _ _ h]
      simp
    | succ i =>
      rw [show a + (i + 1) = a + 1 + i by omega, ih _ _ _ _ (Memory.put_wf m a _ h) (by omega),
        Nat.div_div_eq_div_mul, Nat.pow_succ, Nat.mul_comm]

/-- What is written is what is read. -/
theorem Memory.readN_writeN (n : Nat) : ∀ (m : Mem) (a x : Nat), Memory.wf m = true →
    Memory.readN (Memory.writeN m a x n) a n = x % 256 ^ n := by
  induction n with
  | zero => intro m a x _; simp [Memory.readN, Nat.mod_one]
  | succ n ih =>
    intro m a x h
    simp only [Memory.writeN, Memory.readN]
    rw [ih _ _ _ (Memory.put_wf m a _ h), Memory.get_writeN_other _ _ _ _ _ (Memory.put_wf m a _ h) (by omega),
      Memory.get_put _ _ _ _ h, if_pos rfl, Nat.pow_succ, Nat.mul_comm (256 ^ n) 256, Nat.mod_mul]
    simp

end Sys2Proof.Machine
end

