-- ==== Sys2Proof/Laws/State.lean ====
section
/-! SUPPORT. One lemma per field per update of the module's, a tile's and a slot's record, so that no proof unfolds one. -/
namespace Sys2Proof.Machine

/-! ## The module -/

@[simp] theorem State.setTile_parts (s : State) (t : TileId) (x : Tile) : (s.setTile t x).parts = s.parts := rfl
@[simp] theorem State.setTile_funcs (s : State) (t : TileId) (x : Tile) : (s.setTile t x).funcs = s.funcs := rfl
@[simp] theorem State.setTile_hbm (s : State) (t : TileId) (x : Tile) : (s.setTile t x).hbm = s.hbm := rfl
@[simp] theorem State.setTile_badHbm (s : State) (t : TileId) (x : Tile) : (s.setTile t x).badHbm = s.badHbm := rfl
@[simp] theorem State.setTile_clearMap (s : State) (t : TileId) (x : Tile) : (s.setTile t x).clearMap = s.clearMap := rfl
@[simp] theorem State.setTile_views (s : State) (t : TileId) (x : Tile) : (s.setTile t x).views = s.views := rfl
@[simp] theorem State.setTile_l2 (s : State) (t : TileId) (x : Tile) : (s.setTile t x).l2 = s.l2 := rfl
@[simp] theorem State.setTile_rdc (s : State) (t : TileId) (x : Tile) : (s.setTile t x).rdc = s.rdc := rfl
@[simp] theorem State.setTile_dirs (s : State) (t : TileId) (x : Tile) : (s.setTile t x).dirs = s.dirs := rfl
@[simp] theorem State.setTile_posts (s : State) (t : TileId) (x : Tile) : (s.setTile t x).posts = s.posts := rfl
@[simp] theorem State.setTile_waybills (s : State) (t : TileId) (x : Tile) : (s.setTile t x).waybills = s.waybills := rfl
@[simp] theorem State.setTile_queues (s : State) (t : TileId) (x : Tile) : (s.setTile t x).queues = s.queues := rfl
@[simp] theorem State.setTile_qcfg (s : State) (t : TileId) (x : Tile) : (s.setTile t x).qcfg = s.qcfg := rfl
@[simp] theorem State.setTile_lastServed (s : State) (t : TileId) (x : Tile) : (s.setTile t x).lastServed = s.lastServed := rfl
@[simp] theorem State.setTile_nextTurn (s : State) (t : TileId) (x : Tile) : (s.setTile t x).nextTurn = s.nextTurn := rfl
@[simp] theorem State.setTile_psel (s : State) (t : TileId) (x : Tile) : (s.setTile t x).psel = s.psel := rfl
@[simp] theorem State.setTile_binderr (s : State) (t : TileId) (x : Tile) : (s.setTile t x).binderr = s.binderr := rfl
@[simp] theorem State.setTile_allow (s : State) (t : TileId) (x : Tile) : (s.setTile t x).allow = s.allow := rfl
@[simp] theorem State.setTile_hubMon (s : State) (t : TileId) (x : Tile) : (s.setTile t x).hubMon = s.hubMon := rfl
@[simp] theorem State.setTile_time (s : State) (t : TileId) (x : Tile) : (s.setTile t x).time = s.time := rfl
@[simp] theorem State.setTile_ports (s : State) (t : TileId) (x : Tile) : (s.setTile t x).ports = s.ports := rfl
@[simp] theorem State.setTile_chipId (s : State) (t : TileId) (x : Tile) : (s.setTile t x).chipId = s.chipId := rfl
@[simp] theorem State.setTile_booted (s : State) (t : TileId) (x : Tile) : (s.setTile t x).booted = s.booted := rfl
@[simp] theorem State.setTile_security (s : State) (t : TileId) (x : Tile) : (s.setTile t x).security = s.security := rfl
@[simp] theorem State.setTile_cfgVersion (s : State) (t : TileId) (x : Tile) : (s.setTile t x).cfgVersion = s.cfgVersion := rfl
@[simp] theorem State.setTile_rollback (s : State) (t : TileId) (x : Tile) : (s.setTile t x).rollback = s.rollback := rfl
@[simp] theorem State.setTile_firmware (s : State) (t : TileId) (x : Tile) : (s.setTile t x).firmware = s.firmware := rfl
@[simp] theorem State.setTile_config (s : State) (t : TileId) (x : Tile) : (s.setTile t x).config = s.config := rfl
@[simp] theorem State.setTile_lmsLeaf (s : State) (t : TileId) (x : Tile) : (s.setTile t x).lmsLeaf = s.lmsLeaf := rfl
@[simp] theorem State.setTile_lost (s : State) (t : TileId) (x : Tile) : (s.setTile t x).lost = s.lost := rfl
@[simp] theorem State.setTile_power (s : State) (t : TileId) (x : Tile) : (s.setTile t x).power = s.power := rfl
@[simp] theorem State.setTile_dbg (s : State) (t : TileId) (x : Tile) : (s.setTile t x).dbg = s.dbg := rfl
@[simp] theorem State.setTile_saved (s : State) (t : TileId) (x : Tile) : (s.setTile t x).saved = s.saved := rfl
@[simp] theorem State.setTile_noStart (s : State) (t : TileId) (x : Tile) : (s.setTile t x).noStart = s.noStart := rfl
@[simp] theorem State.setTile_cur (s : State) (t : TileId) (x : Tile) : (s.setTile t x).cur = s.cur := rfl
@[simp] theorem State.setTile_agenda (s : State) (t : TileId) (x : Tile) : (s.setTile t x).agenda = s.agenda := rfl
@[simp] theorem State.setTile_out (s : State) (t : TileId) (x : Tile) : (s.setTile t x).out = s.out := rfl
@[simp] theorem State.setTile_free (s : State) (t : TileId) (x : Tile) : (s.setTile t x).free = s.free := rfl
@[simp] theorem State.setTile_serial (s : State) (t : TileId) (x : Tile) : (s.setTile t x).serial = s.serial := rfl
@[simp] theorem State.modTile_parts (s : State) (t : TileId) (f : Tile → Tile) : (s.modTile t f).parts = s.parts := rfl
@[simp] theorem State.modTile_funcs (s : State) (t : TileId) (f : Tile → Tile) : (s.modTile t f).funcs = s.funcs := rfl
@[simp] theorem State.modTile_hbm (s : State) (t : TileId) (f : Tile → Tile) : (s.modTile t f).hbm = s.hbm := rfl
@[simp] theorem State.modTile_badHbm (s : State) (t : TileId) (f : Tile → Tile) : (s.modTile t f).badHbm = s.badHbm := rfl
@[simp] theorem State.modTile_clearMap (s : State) (t : TileId) (f : Tile → Tile) : (s.modTile t f).clearMap = s.clearMap := rfl
@[simp] theorem State.modTile_views (s : State) (t : TileId) (f : Tile → Tile) : (s.modTile t f).views = s.views := rfl
@[simp] theorem State.modTile_l2 (s : State) (t : TileId) (f : Tile → Tile) : (s.modTile t f).l2 = s.l2 := rfl
@[simp] theorem State.modTile_rdc (s : State) (t : TileId) (f : Tile → Tile) : (s.modTile t f).rdc = s.rdc := rfl
@[simp] theorem State.modTile_dirs (s : State) (t : TileId) (f : Tile → Tile) : (s.modTile t f).dirs = s.dirs := rfl
@[simp] theorem State.modTile_posts (s : State) (t : TileId) (f : Tile → Tile) : (s.modTile t f).posts = s.posts := rfl
@[simp] theorem State.modTile_waybills (s : State) (t : TileId) (f : Tile → Tile) : (s.modTile t f).waybills = s.waybills := rfl
@[simp] theorem State.modTile_queues (s : State) (t : TileId) (f : Tile → Tile) : (s.modTile t f).queues = s.queues := rfl
@[simp] theorem State.modTile_qcfg (s : State) (t : TileId) (f : Tile → Tile) : (s.modTile t f).qcfg = s.qcfg := rfl
@[simp] theorem State.modTile_lastServed (s : State) (t : TileId) (f : Tile → Tile) : (s.modTile t f).lastServed = s.lastServed := rfl
@[simp] theorem State.modTile_nextTurn (s : State) (t : TileId) (f : Tile → Tile) : (s.modTile t f).nextTurn = s.nextTurn := rfl
@[simp] theorem State.modTile_psel (s : State) (t : TileId) (f : Tile → Tile) : (s.modTile t f).psel = s.psel := rfl
@[simp] theorem State.modTile_binderr (s : State) (t : TileId) (f : Tile → Tile) : (s.modTile t f).binderr = s.binderr := rfl
@[simp] theorem State.modTile_allow (s : State) (t : TileId) (f : Tile → Tile) : (s.modTile t f).allow = s.allow := rfl
@[simp] theorem State.modTile_hubMon (s : State) (t : TileId) (f : Tile → Tile) : (s.modTile t f).hubMon = s.hubMon := rfl
@[simp] theorem State.modTile_time (s : State) (t : TileId) (f : Tile → Tile) : (s.modTile t f).time = s.time := rfl
@[simp] theorem State.modTile_ports (s : State) (t : TileId) (f : Tile → Tile) : (s.modTile t f).ports = s.ports := rfl
@[simp] theorem State.modTile_chipId (s : State) (t : TileId) (f : Tile → Tile) : (s.modTile t f).chipId = s.chipId := rfl
@[simp] theorem State.modTile_booted (s : State) (t : TileId) (f : Tile → Tile) : (s.modTile t f).booted = s.booted := rfl
@[simp] theorem State.modTile_security (s : State) (t : TileId) (f : Tile → Tile) : (s.modTile t f).security = s.security := rfl
@[simp] theorem State.modTile_cfgVersion (s : State) (t : TileId) (f : Tile → Tile) : (s.modTile t f).cfgVersion = s.cfgVersion := rfl
@[simp] theorem State.modTile_rollback (s : State) (t : TileId) (f : Tile → Tile) : (s.modTile t f).rollback = s.rollback := rfl
@[simp] theorem State.modTile_firmware (s : State) (t : TileId) (f : Tile → Tile) : (s.modTile t f).firmware = s.firmware := rfl
@[simp] theorem State.modTile_config (s : State) (t : TileId) (f : Tile → Tile) : (s.modTile t f).config = s.config := rfl
@[simp] theorem State.modTile_lmsLeaf (s : State) (t : TileId) (f : Tile → Tile) : (s.modTile t f).lmsLeaf = s.lmsLeaf := rfl
@[simp] theorem State.modTile_lost (s : State) (t : TileId) (f : Tile → Tile) : (s.modTile t f).lost = s.lost := rfl
@[simp] theorem State.modTile_power (s : State) (t : TileId) (f : Tile → Tile) : (s.modTile t f).power = s.power := rfl
@[simp] theorem State.modTile_dbg (s : State) (t : TileId) (f : Tile → Tile) : (s.modTile t f).dbg = s.dbg := rfl
@[simp] theorem State.modTile_saved (s : State) (t : TileId) (f : Tile → Tile) : (s.modTile t f).saved = s.saved := rfl
@[simp] theorem State.modTile_noStart (s : State) (t : TileId) (f : Tile → Tile) : (s.modTile t f).noStart = s.noStart := rfl
@[simp] theorem State.modTile_cur (s : State) (t : TileId) (f : Tile → Tile) : (s.modTile t f).cur = s.cur := rfl
@[simp] theorem State.modTile_agenda (s : State) (t : TileId) (f : Tile → Tile) : (s.modTile t f).agenda = s.agenda := rfl
@[simp] theorem State.modTile_out (s : State) (t : TileId) (f : Tile → Tile) : (s.modTile t f).out = s.out := rfl
@[simp] theorem State.modTile_free (s : State) (t : TileId) (f : Tile → Tile) : (s.modTile t f).free = s.free := rfl
@[simp] theorem State.modTile_serial (s : State) (t : TileId) (f : Tile → Tile) : (s.modTile t f).serial = s.serial := rfl
@[simp] theorem State.setSlot_parts (s : State) (t : TileId) (k : SlotId) (x : Slot) : (s.setSlot t k x).parts = s.parts := rfl
@[simp] theorem State.setSlot_funcs (s : State) (t : TileId) (k : SlotId) (x : Slot) : (s.setSlot t k x).funcs = s.funcs := rfl
@[simp] theorem State.setSlot_hbm (s : State) (t : TileId) (k : SlotId) (x : Slot) : (s.setSlot t k x).hbm = s.hbm := rfl
@[simp] theorem State.setSlot_badHbm (s : State) (t : TileId) (k : SlotId) (x : Slot) : (s.setSlot t k x).badHbm = s.badHbm := rfl
@[simp] theorem State.setSlot_clearMap (s : State) (t : TileId) (k : SlotId) (x : Slot) : (s.setSlot t k x).clearMap = s.clearMap := rfl
@[simp] theorem State.setSlot_views (s : State) (t : TileId) (k : SlotId) (x : Slot) : (s.setSlot t k x).views = s.views := rfl
@[simp] theorem State.setSlot_l2 (s : State) (t : TileId) (k : SlotId) (x : Slot) : (s.setSlot t k x).l2 = s.l2 := rfl
@[simp] theorem State.setSlot_rdc (s : State) (t : TileId) (k : SlotId) (x : Slot) : (s.setSlot t k x).rdc = s.rdc := rfl
@[simp] theorem State.setSlot_dirs (s : State) (t : TileId) (k : SlotId) (x : Slot) : (s.setSlot t k x).dirs = s.dirs := rfl
@[simp] theorem State.setSlot_posts (s : State) (t : TileId) (k : SlotId) (x : Slot) : (s.setSlot t k x).posts = s.posts := rfl
@[simp] theorem State.setSlot_waybills (s : State) (t : TileId) (k : SlotId) (x : Slot) : (s.setSlot t k x).waybills = s.waybills := rfl
@[simp] theorem State.setSlot_queues (s : State) (t : TileId) (k : SlotId) (x : Slot) : (s.setSlot t k x).queues = s.queues := rfl
@[simp] theorem State.setSlot_qcfg (s : State) (t : TileId) (k : SlotId) (x : Slot) : (s.setSlot t k x).qcfg = s.qcfg := rfl
@[simp] theorem State.setSlot_lastServed (s : State) (t : TileId) (k : SlotId) (x : Slot) : (s.setSlot t k x).lastServed = s.lastServed := rfl
@[simp] theorem State.setSlot_nextTurn (s : State) (t : TileId) (k : SlotId) (x : Slot) : (s.setSlot t k x).nextTurn = s.nextTurn := rfl
@[simp] theorem State.setSlot_psel (s : State) (t : TileId) (k : SlotId) (x : Slot) : (s.setSlot t k x).psel = s.psel := rfl
@[simp] theorem State.setSlot_binderr (s : State) (t : TileId) (k : SlotId) (x : Slot) : (s.setSlot t k x).binderr = s.binderr := rfl
@[simp] theorem State.setSlot_allow (s : State) (t : TileId) (k : SlotId) (x : Slot) : (s.setSlot t k x).allow = s.allow := rfl
@[simp] theorem State.setSlot_hubMon (s : State) (t : TileId) (k : SlotId) (x : Slot) : (s.setSlot t k x).hubMon = s.hubMon := rfl
@[simp] theorem State.setSlot_time (s : State) (t : TileId) (k : SlotId) (x : Slot) : (s.setSlot t k x).time = s.time := rfl
@[simp] theorem State.setSlot_ports (s : State) (t : TileId) (k : SlotId) (x : Slot) : (s.setSlot t k x).ports = s.ports := rfl
@[simp] theorem State.setSlot_chipId (s : State) (t : TileId) (k : SlotId) (x : Slot) : (s.setSlot t k x).chipId = s.chipId := rfl
@[simp] theorem State.setSlot_booted (s : State) (t : TileId) (k : SlotId) (x : Slot) : (s.setSlot t k x).booted = s.booted := rfl
@[simp] theorem State.setSlot_security (s : State) (t : TileId) (k : SlotId) (x : Slot) : (s.setSlot t k x).security = s.security := rfl
@[simp] theorem State.setSlot_cfgVersion (s : State) (t : TileId) (k : SlotId) (x : Slot) : (s.setSlot t k x).cfgVersion = s.cfgVersion := rfl
@[simp] theorem State.setSlot_rollback (s : State) (t : TileId) (k : SlotId) (x : Slot) : (s.setSlot t k x).rollback = s.rollback := rfl
@[simp] theorem State.setSlot_firmware (s : State) (t : TileId) (k : SlotId) (x : Slot) : (s.setSlot t k x).firmware = s.firmware := rfl
@[simp] theorem State.setSlot_config (s : State) (t : TileId) (k : SlotId) (x : Slot) : (s.setSlot t k x).config = s.config := rfl
@[simp] theorem State.setSlot_lmsLeaf (s : State) (t : TileId) (k : SlotId) (x : Slot) : (s.setSlot t k x).lmsLeaf = s.lmsLeaf := rfl
@[simp] theorem State.setSlot_lost (s : State) (t : TileId) (k : SlotId) (x : Slot) : (s.setSlot t k x).lost = s.lost := rfl
@[simp] theorem State.setSlot_power (s : State) (t : TileId) (k : SlotId) (x : Slot) : (s.setSlot t k x).power = s.power := rfl
@[simp] theorem State.setSlot_dbg (s : State) (t : TileId) (k : SlotId) (x : Slot) : (s.setSlot t k x).dbg = s.dbg := rfl
@[simp] theorem State.setSlot_saved (s : State) (t : TileId) (k : SlotId) (x : Slot) : (s.setSlot t k x).saved = s.saved := rfl
@[simp] theorem State.setSlot_noStart (s : State) (t : TileId) (k : SlotId) (x : Slot) : (s.setSlot t k x).noStart = s.noStart := rfl
@[simp] theorem State.setSlot_cur (s : State) (t : TileId) (k : SlotId) (x : Slot) : (s.setSlot t k x).cur = s.cur := rfl
@[simp] theorem State.setSlot_agenda (s : State) (t : TileId) (k : SlotId) (x : Slot) : (s.setSlot t k x).agenda = s.agenda := rfl
@[simp] theorem State.setSlot_out (s : State) (t : TileId) (k : SlotId) (x : Slot) : (s.setSlot t k x).out = s.out := rfl
@[simp] theorem State.setSlot_free (s : State) (t : TileId) (k : SlotId) (x : Slot) : (s.setSlot t k x).free = s.free := rfl
@[simp] theorem State.setSlot_serial (s : State) (t : TileId) (k : SlotId) (x : Slot) : (s.setSlot t k x).serial = s.serial := rfl
@[simp] theorem State.modSlot_parts (s : State) (t : TileId) (k : SlotId) (f : Slot → Slot) : (s.modSlot t k f).parts = s.parts := rfl
@[simp] theorem State.modSlot_funcs (s : State) (t : TileId) (k : SlotId) (f : Slot → Slot) : (s.modSlot t k f).funcs = s.funcs := rfl
@[simp] theorem State.modSlot_hbm (s : State) (t : TileId) (k : SlotId) (f : Slot → Slot) : (s.modSlot t k f).hbm = s.hbm := rfl
@[simp] theorem State.modSlot_badHbm (s : State) (t : TileId) (k : SlotId) (f : Slot → Slot) : (s.modSlot t k f).badHbm = s.badHbm := rfl
@[simp] theorem State.modSlot_clearMap (s : State) (t : TileId) (k : SlotId) (f : Slot → Slot) : (s.modSlot t k f).clearMap = s.clearMap := rfl
@[simp] theorem State.modSlot_views (s : State) (t : TileId) (k : SlotId) (f : Slot → Slot) : (s.modSlot t k f).views = s.views := rfl
@[simp] theorem State.modSlot_l2 (s : State) (t : TileId) (k : SlotId) (f : Slot → Slot) : (s.modSlot t k f).l2 = s.l2 := rfl
@[simp] theorem State.modSlot_rdc (s : State) (t : TileId) (k : SlotId) (f : Slot → Slot) : (s.modSlot t k f).rdc = s.rdc := rfl
@[simp] theorem State.modSlot_dirs (s : State) (t : TileId) (k : SlotId) (f : Slot → Slot) : (s.modSlot t k f).dirs = s.dirs := rfl
@[simp] theorem State.modSlot_posts (s : State) (t : TileId) (k : SlotId) (f : Slot → Slot) : (s.modSlot t k f).posts = s.posts := rfl
@[simp] theorem State.modSlot_waybills (s : State) (t : TileId) (k : SlotId) (f : Slot → Slot) : (s.modSlot t k f).waybills = s.waybills := rfl
@[simp] theorem State.modSlot_queues (s : State) (t : TileId) (k : SlotId) (f : Slot → Slot) : (s.modSlot t k f).queues = s.queues := rfl
@[simp] theorem State.modSlot_qcfg (s : State) (t : TileId) (k : SlotId) (f : Slot → Slot) : (s.modSlot t k f).qcfg = s.qcfg := rfl
@[simp] theorem State.modSlot_lastServed (s : State) (t : TileId) (k : SlotId) (f : Slot → Slot) : (s.modSlot t k f).lastServed = s.lastServed := rfl
@[simp] theorem State.modSlot_nextTurn (s : State) (t : TileId) (k : SlotId) (f : Slot → Slot) : (s.modSlot t k f).nextTurn = s.nextTurn := rfl
@[simp] theorem State.modSlot_psel (s : State) (t : TileId) (k : SlotId) (f : Slot → Slot) : (s.modSlot t k f).psel = s.psel := rfl
@[simp] theorem State.modSlot_binderr (s : State) (t : TileId) (k : SlotId) (f : Slot → Slot) : (s.modSlot t k f).binderr = s.binderr := rfl
@[simp] theorem State.modSlot_allow (s : State) (t : TileId) (k : SlotId) (f : Slot → Slot) : (s.modSlot t k f).allow = s.allow := rfl
@[simp] theorem State.modSlot_hubMon (s : State) (t : TileId) (k : SlotId) (f : Slot → Slot) : (s.modSlot t k f).hubMon = s.hubMon := rfl
@[simp] theorem State.modSlot_time (s : State) (t : TileId) (k : SlotId) (f : Slot → Slot) : (s.modSlot t k f).time = s.time := rfl
@[simp] theorem State.modSlot_ports (s : State) (t : TileId) (k : SlotId) (f : Slot → Slot) : (s.modSlot t k f).ports = s.ports := rfl
@[simp] theorem State.modSlot_chipId (s : State) (t : TileId) (k : SlotId) (f : Slot → Slot) : (s.modSlot t k f).chipId = s.chipId := rfl
@[simp] theorem State.modSlot_booted (s : State) (t : TileId) (k : SlotId) (f : Slot → Slot) : (s.modSlot t k f).booted = s.booted := rfl
@[simp] theorem State.modSlot_security (s : State) (t : TileId) (k : SlotId) (f : Slot → Slot) : (s.modSlot t k f).security = s.security := rfl
@[simp] theorem State.modSlot_cfgVersion (s : State) (t : TileId) (k : SlotId) (f : Slot → Slot) : (s.modSlot t k f).cfgVersion = s.cfgVersion := rfl
@[simp] theorem State.modSlot_rollback (s : State) (t : TileId) (k : SlotId) (f : Slot → Slot) : (s.modSlot t k f).rollback = s.rollback := rfl
@[simp] theorem State.modSlot_firmware (s : State) (t : TileId) (k : SlotId) (f : Slot → Slot) : (s.modSlot t k f).firmware = s.firmware := rfl
@[simp] theorem State.modSlot_config (s : State) (t : TileId) (k : SlotId) (f : Slot → Slot) : (s.modSlot t k f).config = s.config := rfl
@[simp] theorem State.modSlot_lmsLeaf (s : State) (t : TileId) (k : SlotId) (f : Slot → Slot) : (s.modSlot t k f).lmsLeaf = s.lmsLeaf := rfl
@[simp] theorem State.modSlot_lost (s : State) (t : TileId) (k : SlotId) (f : Slot → Slot) : (s.modSlot t k f).lost = s.lost := rfl
@[simp] theorem State.modSlot_power (s : State) (t : TileId) (k : SlotId) (f : Slot → Slot) : (s.modSlot t k f).power = s.power := rfl
@[simp] theorem State.modSlot_dbg (s : State) (t : TileId) (k : SlotId) (f : Slot → Slot) : (s.modSlot t k f).dbg = s.dbg := rfl
@[simp] theorem State.modSlot_saved (s : State) (t : TileId) (k : SlotId) (f : Slot → Slot) : (s.modSlot t k f).saved = s.saved := rfl
@[simp] theorem State.modSlot_noStart (s : State) (t : TileId) (k : SlotId) (f : Slot → Slot) : (s.modSlot t k f).noStart = s.noStart := rfl
@[simp] theorem State.modSlot_cur (s : State) (t : TileId) (k : SlotId) (f : Slot → Slot) : (s.modSlot t k f).cur = s.cur := rfl
@[simp] theorem State.modSlot_agenda (s : State) (t : TileId) (k : SlotId) (f : Slot → Slot) : (s.modSlot t k f).agenda = s.agenda := rfl
@[simp] theorem State.modSlot_out (s : State) (t : TileId) (k : SlotId) (f : Slot → Slot) : (s.modSlot t k f).out = s.out := rfl
@[simp] theorem State.modSlot_free (s : State) (t : TileId) (k : SlotId) (f : Slot → Slot) : (s.modSlot t k f).free = s.free := rfl
@[simp] theorem State.modSlot_serial (s : State) (t : TileId) (k : SlotId) (f : Slot → Slot) : (s.modSlot t k f).serial = s.serial := rfl
@[simp] theorem State.upd_parts (s : State) (f : Slot → Slot) : (s.upd f).parts = s.parts := rfl
@[simp] theorem State.upd_funcs (s : State) (f : Slot → Slot) : (s.upd f).funcs = s.funcs := rfl
@[simp] theorem State.upd_hbm (s : State) (f : Slot → Slot) : (s.upd f).hbm = s.hbm := rfl
@[simp] theorem State.upd_badHbm (s : State) (f : Slot → Slot) : (s.upd f).badHbm = s.badHbm := rfl
@[simp] theorem State.upd_clearMap (s : State) (f : Slot → Slot) : (s.upd f).clearMap = s.clearMap := rfl
@[simp] theorem State.upd_views (s : State) (f : Slot → Slot) : (s.upd f).views = s.views := rfl
@[simp] theorem State.upd_l2 (s : State) (f : Slot → Slot) : (s.upd f).l2 = s.l2 := rfl
@[simp] theorem State.upd_rdc (s : State) (f : Slot → Slot) : (s.upd f).rdc = s.rdc := rfl
@[simp] theorem State.upd_dirs (s : State) (f : Slot → Slot) : (s.upd f).dirs = s.dirs := rfl
@[simp] theorem State.upd_posts (s : State) (f : Slot → Slot) : (s.upd f).posts = s.posts := rfl
@[simp] theorem State.upd_waybills (s : State) (f : Slot → Slot) : (s.upd f).waybills = s.waybills := rfl
@[simp] theorem State.upd_queues (s : State) (f : Slot → Slot) : (s.upd f).queues = s.queues := rfl
@[simp] theorem State.upd_qcfg (s : State) (f : Slot → Slot) : (s.upd f).qcfg = s.qcfg := rfl
@[simp] theorem State.upd_lastServed (s : State) (f : Slot → Slot) : (s.upd f).lastServed = s.lastServed := rfl
@[simp] theorem State.upd_nextTurn (s : State) (f : Slot → Slot) : (s.upd f).nextTurn = s.nextTurn := rfl
@[simp] theorem State.upd_psel (s : State) (f : Slot → Slot) : (s.upd f).psel = s.psel := rfl
@[simp] theorem State.upd_binderr (s : State) (f : Slot → Slot) : (s.upd f).binderr = s.binderr := rfl
@[simp] theorem State.upd_allow (s : State) (f : Slot → Slot) : (s.upd f).allow = s.allow := rfl
@[simp] theorem State.upd_hubMon (s : State) (f : Slot → Slot) : (s.upd f).hubMon = s.hubMon := rfl
@[simp] theorem State.upd_time (s : State) (f : Slot → Slot) : (s.upd f).time = s.time := rfl
@[simp] theorem State.upd_ports (s : State) (f : Slot → Slot) : (s.upd f).ports = s.ports := rfl
@[simp] theorem State.upd_chipId (s : State) (f : Slot → Slot) : (s.upd f).chipId = s.chipId := rfl
@[simp] theorem State.upd_booted (s : State) (f : Slot → Slot) : (s.upd f).booted = s.booted := rfl
@[simp] theorem State.upd_security (s : State) (f : Slot → Slot) : (s.upd f).security = s.security := rfl
@[simp] theorem State.upd_cfgVersion (s : State) (f : Slot → Slot) : (s.upd f).cfgVersion = s.cfgVersion := rfl
@[simp] theorem State.upd_rollback (s : State) (f : Slot → Slot) : (s.upd f).rollback = s.rollback := rfl
@[simp] theorem State.upd_firmware (s : State) (f : Slot → Slot) : (s.upd f).firmware = s.firmware := rfl
@[simp] theorem State.upd_config (s : State) (f : Slot → Slot) : (s.upd f).config = s.config := rfl
@[simp] theorem State.upd_lmsLeaf (s : State) (f : Slot → Slot) : (s.upd f).lmsLeaf = s.lmsLeaf := rfl
@[simp] theorem State.upd_lost (s : State) (f : Slot → Slot) : (s.upd f).lost = s.lost := rfl
@[simp] theorem State.upd_power (s : State) (f : Slot → Slot) : (s.upd f).power = s.power := rfl
@[simp] theorem State.upd_dbg (s : State) (f : Slot → Slot) : (s.upd f).dbg = s.dbg := rfl
@[simp] theorem State.upd_saved (s : State) (f : Slot → Slot) : (s.upd f).saved = s.saved := rfl
@[simp] theorem State.upd_noStart (s : State) (f : Slot → Slot) : (s.upd f).noStart = s.noStart := rfl
@[simp] theorem State.upd_cur (s : State) (f : Slot → Slot) : (s.upd f).cur = s.cur := rfl
@[simp] theorem State.upd_agenda (s : State) (f : Slot → Slot) : (s.upd f).agenda = s.agenda := rfl
@[simp] theorem State.upd_out (s : State) (f : Slot → Slot) : (s.upd f).out = s.out := rfl
@[simp] theorem State.upd_free (s : State) (f : Slot → Slot) : (s.upd f).free = s.free := rfl
@[simp] theorem State.upd_serial (s : State) (f : Slot → Slot) : (s.upd f).serial = s.serial := rfl
@[simp] theorem State.updTile_parts (s : State) (f : Tile → Tile) : (s.updTile f).parts = s.parts := rfl
@[simp] theorem State.updTile_funcs (s : State) (f : Tile → Tile) : (s.updTile f).funcs = s.funcs := rfl
@[simp] theorem State.updTile_hbm (s : State) (f : Tile → Tile) : (s.updTile f).hbm = s.hbm := rfl
@[simp] theorem State.updTile_badHbm (s : State) (f : Tile → Tile) : (s.updTile f).badHbm = s.badHbm := rfl
@[simp] theorem State.updTile_clearMap (s : State) (f : Tile → Tile) : (s.updTile f).clearMap = s.clearMap := rfl
@[simp] theorem State.updTile_views (s : State) (f : Tile → Tile) : (s.updTile f).views = s.views := rfl
@[simp] theorem State.updTile_l2 (s : State) (f : Tile → Tile) : (s.updTile f).l2 = s.l2 := rfl
@[simp] theorem State.updTile_rdc (s : State) (f : Tile → Tile) : (s.updTile f).rdc = s.rdc := rfl
@[simp] theorem State.updTile_dirs (s : State) (f : Tile → Tile) : (s.updTile f).dirs = s.dirs := rfl
@[simp] theorem State.updTile_posts (s : State) (f : Tile → Tile) : (s.updTile f).posts = s.posts := rfl
@[simp] theorem State.updTile_waybills (s : State) (f : Tile → Tile) : (s.updTile f).waybills = s.waybills := rfl
@[simp] theorem State.updTile_queues (s : State) (f : Tile → Tile) : (s.updTile f).queues = s.queues := rfl
@[simp] theorem State.updTile_qcfg (s : State) (f : Tile → Tile) : (s.updTile f).qcfg = s.qcfg := rfl
@[simp] theorem State.updTile_lastServed (s : State) (f : Tile → Tile) : (s.updTile f).lastServed = s.lastServed := rfl
@[simp] theorem State.updTile_nextTurn (s : State) (f : Tile → Tile) : (s.updTile f).nextTurn = s.nextTurn := rfl
@[simp] theorem State.updTile_psel (s : State) (f : Tile → Tile) : (s.updTile f).psel = s.psel := rfl
@[simp] theorem State.updTile_binderr (s : State) (f : Tile → Tile) : (s.updTile f).binderr = s.binderr := rfl
@[simp] theorem State.updTile_allow (s : State) (f : Tile → Tile) : (s.updTile f).allow = s.allow := rfl
@[simp] theorem State.updTile_hubMon (s : State) (f : Tile → Tile) : (s.updTile f).hubMon = s.hubMon := rfl
@[simp] theorem State.updTile_time (s : State) (f : Tile → Tile) : (s.updTile f).time = s.time := rfl
@[simp] theorem State.updTile_ports (s : State) (f : Tile → Tile) : (s.updTile f).ports = s.ports := rfl
@[simp] theorem State.updTile_chipId (s : State) (f : Tile → Tile) : (s.updTile f).chipId = s.chipId := rfl
@[simp] theorem State.updTile_booted (s : State) (f : Tile → Tile) : (s.updTile f).booted = s.booted := rfl
@[simp] theorem State.updTile_security (s : State) (f : Tile → Tile) : (s.updTile f).security = s.security := rfl
@[simp] theorem State.updTile_cfgVersion (s : State) (f : Tile → Tile) : (s.updTile f).cfgVersion = s.cfgVersion := rfl
@[simp] theorem State.updTile_rollback (s : State) (f : Tile → Tile) : (s.updTile f).rollback = s.rollback := rfl
@[simp] theorem State.updTile_firmware (s : State) (f : Tile → Tile) : (s.updTile f).firmware = s.firmware := rfl
@[simp] theorem State.updTile_config (s : State) (f : Tile → Tile) : (s.updTile f).config = s.config := rfl
@[simp] theorem State.updTile_lmsLeaf (s : State) (f : Tile → Tile) : (s.updTile f).lmsLeaf = s.lmsLeaf := rfl
@[simp] theorem State.updTile_lost (s : State) (f : Tile → Tile) : (s.updTile f).lost = s.lost := rfl
@[simp] theorem State.updTile_power (s : State) (f : Tile → Tile) : (s.updTile f).power = s.power := rfl
@[simp] theorem State.updTile_dbg (s : State) (f : Tile → Tile) : (s.updTile f).dbg = s.dbg := rfl
@[simp] theorem State.updTile_saved (s : State) (f : Tile → Tile) : (s.updTile f).saved = s.saved := rfl
@[simp] theorem State.updTile_noStart (s : State) (f : Tile → Tile) : (s.updTile f).noStart = s.noStart := rfl
@[simp] theorem State.updTile_cur (s : State) (f : Tile → Tile) : (s.updTile f).cur = s.cur := rfl
@[simp] theorem State.updTile_agenda (s : State) (f : Tile → Tile) : (s.updTile f).agenda = s.agenda := rfl
@[simp] theorem State.updTile_out (s : State) (f : Tile → Tile) : (s.updTile f).out = s.out := rfl
@[simp] theorem State.updTile_free (s : State) (f : Tile → Tile) : (s.updTile f).free = s.free := rfl
@[simp] theorem State.updTile_serial (s : State) (f : Tile → Tile) : (s.updTile f).serial = s.serial := rfl
@[simp] theorem State.setPart_tiles (s : State) (p : Nat) (x : Part) : (s.setPart p x).tiles = s.tiles := rfl
@[simp] theorem State.setPart_funcs (s : State) (p : Nat) (x : Part) : (s.setPart p x).funcs = s.funcs := rfl
@[simp] theorem State.setPart_hbm (s : State) (p : Nat) (x : Part) : (s.setPart p x).hbm = s.hbm := rfl
@[simp] theorem State.setPart_badHbm (s : State) (p : Nat) (x : Part) : (s.setPart p x).badHbm = s.badHbm := rfl
@[simp] theorem State.setPart_clearMap (s : State) (p : Nat) (x : Part) : (s.setPart p x).clearMap = s.clearMap := rfl
@[simp] theorem State.setPart_views (s : State) (p : Nat) (x : Part) : (s.setPart p x).views = s.views := rfl
@[simp] theorem State.setPart_l2 (s : State) (p : Nat) (x : Part) : (s.setPart p x).l2 = s.l2 := rfl
@[simp] theorem State.setPart_rdc (s : State) (p : Nat) (x : Part) : (s.setPart p x).rdc = s.rdc := rfl
@[simp] theorem State.setPart_dirs (s : State) (p : Nat) (x : Part) : (s.setPart p x).dirs = s.dirs := rfl
@[simp] theorem State.setPart_posts (s : State) (p : Nat) (x : Part) : (s.setPart p x).posts = s.posts := rfl
@[simp] theorem State.setPart_waybills (s : State) (p : Nat) (x : Part) : (s.setPart p x).waybills = s.waybills := rfl
@[simp] theorem State.setPart_queues (s : State) (p : Nat) (x : Part) : (s.setPart p x).queues = s.queues := rfl
@[simp] theorem State.setPart_qcfg (s : State) (p : Nat) (x : Part) : (s.setPart p x).qcfg = s.qcfg := rfl
@[simp] theorem State.setPart_lastServed (s : State) (p : Nat) (x : Part) : (s.setPart p x).lastServed = s.lastServed := rfl
@[simp] theorem State.setPart_nextTurn (s : State) (p : Nat) (x : Part) : (s.setPart p x).nextTurn = s.nextTurn := rfl
@[simp] theorem State.setPart_psel (s : State) (p : Nat) (x : Part) : (s.setPart p x).psel = s.psel := rfl
@[simp] theorem State.setPart_binderr (s : State) (p : Nat) (x : Part) : (s.setPart p x).binderr = s.binderr := rfl
@[simp] theorem State.setPart_allow (s : State) (p : Nat) (x : Part) : (s.setPart p x).allow = s.allow := rfl
@[simp] theorem State.setPart_hubMon (s : State) (p : Nat) (x : Part) : (s.setPart p x).hubMon = s.hubMon := rfl
@[simp] theorem State.setPart_time (s : State) (p : Nat) (x : Part) : (s.setPart p x).time = s.time := rfl
@[simp] theorem State.setPart_ports (s : State) (p : Nat) (x : Part) : (s.setPart p x).ports = s.ports := rfl
@[simp] theorem State.setPart_chipId (s : State) (p : Nat) (x : Part) : (s.setPart p x).chipId = s.chipId := rfl
@[simp] theorem State.setPart_booted (s : State) (p : Nat) (x : Part) : (s.setPart p x).booted = s.booted := rfl
@[simp] theorem State.setPart_security (s : State) (p : Nat) (x : Part) : (s.setPart p x).security = s.security := rfl
@[simp] theorem State.setPart_cfgVersion (s : State) (p : Nat) (x : Part) : (s.setPart p x).cfgVersion = s.cfgVersion := rfl
@[simp] theorem State.setPart_rollback (s : State) (p : Nat) (x : Part) : (s.setPart p x).rollback = s.rollback := rfl
@[simp] theorem State.setPart_firmware (s : State) (p : Nat) (x : Part) : (s.setPart p x).firmware = s.firmware := rfl
@[simp] theorem State.setPart_config (s : State) (p : Nat) (x : Part) : (s.setPart p x).config = s.config := rfl
@[simp] theorem State.setPart_lmsLeaf (s : State) (p : Nat) (x : Part) : (s.setPart p x).lmsLeaf = s.lmsLeaf := rfl
@[simp] theorem State.setPart_lost (s : State) (p : Nat) (x : Part) : (s.setPart p x).lost = s.lost := rfl
@[simp] theorem State.setPart_power (s : State) (p : Nat) (x : Part) : (s.setPart p x).power = s.power := rfl
@[simp] theorem State.setPart_dbg (s : State) (p : Nat) (x : Part) : (s.setPart p x).dbg = s.dbg := rfl
@[simp] theorem State.setPart_saved (s : State) (p : Nat) (x : Part) : (s.setPart p x).saved = s.saved := rfl
@[simp] theorem State.setPart_noStart (s : State) (p : Nat) (x : Part) : (s.setPart p x).noStart = s.noStart := rfl
@[simp] theorem State.setPart_cur (s : State) (p : Nat) (x : Part) : (s.setPart p x).cur = s.cur := rfl
@[simp] theorem State.setPart_agenda (s : State) (p : Nat) (x : Part) : (s.setPart p x).agenda = s.agenda := rfl
@[simp] theorem State.setPart_out (s : State) (p : Nat) (x : Part) : (s.setPart p x).out = s.out := rfl
@[simp] theorem State.setPart_free (s : State) (p : Nat) (x : Part) : (s.setPart p x).free = s.free := rfl
@[simp] theorem State.setPart_serial (s : State) (p : Nat) (x : Part) : (s.setPart p x).serial = s.serial := rfl
@[simp] theorem State.modPart_tiles (s : State) (p : Nat) (f : Part → Part) : (s.modPart p f).tiles = s.tiles := rfl
@[simp] theorem State.modPart_funcs (s : State) (p : Nat) (f : Part → Part) : (s.modPart p f).funcs = s.funcs := rfl
@[simp] theorem State.modPart_hbm (s : State) (p : Nat) (f : Part → Part) : (s.modPart p f).hbm = s.hbm := rfl
@[simp] theorem State.modPart_badHbm (s : State) (p : Nat) (f : Part → Part) : (s.modPart p f).badHbm = s.badHbm := rfl
@[simp] theorem State.modPart_clearMap (s : State) (p : Nat) (f : Part → Part) : (s.modPart p f).clearMap = s.clearMap := rfl
@[simp] theorem State.modPart_views (s : State) (p : Nat) (f : Part → Part) : (s.modPart p f).views = s.views := rfl
@[simp] theorem State.modPart_l2 (s : State) (p : Nat) (f : Part → Part) : (s.modPart p f).l2 = s.l2 := rfl
@[simp] theorem State.modPart_rdc (s : State) (p : Nat) (f : Part → Part) : (s.modPart p f).rdc = s.rdc := rfl
@[simp] theorem State.modPart_dirs (s : State) (p : Nat) (f : Part → Part) : (s.modPart p f).dirs = s.dirs := rfl
@[simp] theorem State.modPart_posts (s : State) (p : Nat) (f : Part → Part) : (s.modPart p f).posts = s.posts := rfl
@[simp] theorem State.modPart_waybills (s : State) (p : Nat) (f : Part → Part) : (s.modPart p f).waybills = s.waybills := rfl
@[simp] theorem State.modPart_queues (s : State) (p : Nat) (f : Part → Part) : (s.modPart p f).queues = s.queues := rfl
@[simp] theorem State.modPart_qcfg (s : State) (p : Nat) (f : Part → Part) : (s.modPart p f).qcfg = s.qcfg := rfl
@[simp] theorem State.modPart_lastServed (s : State) (p : Nat) (f : Part → Part) : (s.modPart p f).lastServed = s.lastServed := rfl
@[simp] theorem State.modPart_nextTurn (s : State) (p : Nat) (f : Part → Part) : (s.modPart p f).nextTurn = s.nextTurn := rfl
@[simp] theorem State.modPart_psel (s : State) (p : Nat) (f : Part → Part) : (s.modPart p f).psel = s.psel := rfl
@[simp] theorem State.modPart_binderr (s : State) (p : Nat) (f : Part → Part) : (s.modPart p f).binderr = s.binderr := rfl
@[simp] theorem State.modPart_allow (s : State) (p : Nat) (f : Part → Part) : (s.modPart p f).allow = s.allow := rfl
@[simp] theorem State.modPart_hubMon (s : State) (p : Nat) (f : Part → Part) : (s.modPart p f).hubMon = s.hubMon := rfl
@[simp] theorem State.modPart_time (s : State) (p : Nat) (f : Part → Part) : (s.modPart p f).time = s.time := rfl
@[simp] theorem State.modPart_ports (s : State) (p : Nat) (f : Part → Part) : (s.modPart p f).ports = s.ports := rfl
@[simp] theorem State.modPart_chipId (s : State) (p : Nat) (f : Part → Part) : (s.modPart p f).chipId = s.chipId := rfl
@[simp] theorem State.modPart_booted (s : State) (p : Nat) (f : Part → Part) : (s.modPart p f).booted = s.booted := rfl
@[simp] theorem State.modPart_security (s : State) (p : Nat) (f : Part → Part) : (s.modPart p f).security = s.security := rfl
@[simp] theorem State.modPart_cfgVersion (s : State) (p : Nat) (f : Part → Part) : (s.modPart p f).cfgVersion = s.cfgVersion := rfl
@[simp] theorem State.modPart_rollback (s : State) (p : Nat) (f : Part → Part) : (s.modPart p f).rollback = s.rollback := rfl
@[simp] theorem State.modPart_firmware (s : State) (p : Nat) (f : Part → Part) : (s.modPart p f).firmware = s.firmware := rfl
@[simp] theorem State.modPart_config (s : State) (p : Nat) (f : Part → Part) : (s.modPart p f).config = s.config := rfl
@[simp] theorem State.modPart_lmsLeaf (s : State) (p : Nat) (f : Part → Part) : (s.modPart p f).lmsLeaf = s.lmsLeaf := rfl
@[simp] theorem State.modPart_lost (s : State) (p : Nat) (f : Part → Part) : (s.modPart p f).lost = s.lost := rfl
@[simp] theorem State.modPart_power (s : State) (p : Nat) (f : Part → Part) : (s.modPart p f).power = s.power := rfl
@[simp] theorem State.modPart_dbg (s : State) (p : Nat) (f : Part → Part) : (s.modPart p f).dbg = s.dbg := rfl
@[simp] theorem State.modPart_saved (s : State) (p : Nat) (f : Part → Part) : (s.modPart p f).saved = s.saved := rfl
@[simp] theorem State.modPart_noStart (s : State) (p : Nat) (f : Part → Part) : (s.modPart p f).noStart = s.noStart := rfl
@[simp] theorem State.modPart_cur (s : State) (p : Nat) (f : Part → Part) : (s.modPart p f).cur = s.cur := rfl
@[simp] theorem State.modPart_agenda (s : State) (p : Nat) (f : Part → Part) : (s.modPart p f).agenda = s.agenda := rfl
@[simp] theorem State.modPart_out (s : State) (p : Nat) (f : Part → Part) : (s.modPart p f).out = s.out := rfl
@[simp] theorem State.modPart_free (s : State) (p : Nat) (f : Part → Part) : (s.modPart p f).free = s.free := rfl
@[simp] theorem State.modPart_serial (s : State) (p : Nat) (f : Part → Part) : (s.modPart p f).serial = s.serial := rfl
@[simp] theorem State.setFunc_tiles (s : State) (n : FnId) (x : Func) : (s.setFunc n x).tiles = s.tiles := rfl
@[simp] theorem State.setFunc_parts (s : State) (n : FnId) (x : Func) : (s.setFunc n x).parts = s.parts := rfl
@[simp] theorem State.setFunc_hbm (s : State) (n : FnId) (x : Func) : (s.setFunc n x).hbm = s.hbm := rfl
@[simp] theorem State.setFunc_badHbm (s : State) (n : FnId) (x : Func) : (s.setFunc n x).badHbm = s.badHbm := rfl
@[simp] theorem State.setFunc_clearMap (s : State) (n : FnId) (x : Func) : (s.setFunc n x).clearMap = s.clearMap := rfl
@[simp] theorem State.setFunc_views (s : State) (n : FnId) (x : Func) : (s.setFunc n x).views = s.views := rfl
@[simp] theorem State.setFunc_l2 (s : State) (n : FnId) (x : Func) : (s.setFunc n x).l2 = s.l2 := rfl
@[simp] theorem State.setFunc_rdc (s : State) (n : FnId) (x : Func) : (s.setFunc n x).rdc = s.rdc := rfl
@[simp] theorem State.setFunc_dirs (s : State) (n : FnId) (x : Func) : (s.setFunc n x).dirs = s.dirs := rfl
@[simp] theorem State.setFunc_posts (s : State) (n : FnId) (x : Func) : (s.setFunc n x).posts = s.posts := rfl
@[simp] theorem State.setFunc_waybills (s : State) (n : FnId) (x : Func) : (s.setFunc n x).waybills = s.waybills := rfl
@[simp] theorem State.setFunc_queues (s : State) (n : FnId) (x : Func) : (s.setFunc n x).queues = s.queues := rfl
@[simp] theorem State.setFunc_qcfg (s : State) (n : FnId) (x : Func) : (s.setFunc n x).qcfg = s.qcfg := rfl
@[simp] theorem State.setFunc_lastServed (s : State) (n : FnId) (x : Func) : (s.setFunc n x).lastServed = s.lastServed := rfl
@[simp] theorem State.setFunc_nextTurn (s : State) (n : FnId) (x : Func) : (s.setFunc n x).nextTurn = s.nextTurn := rfl
@[simp] theorem State.setFunc_psel (s : State) (n : FnId) (x : Func) : (s.setFunc n x).psel = s.psel := rfl
@[simp] theorem State.setFunc_binderr (s : State) (n : FnId) (x : Func) : (s.setFunc n x).binderr = s.binderr := rfl
@[simp] theorem State.setFunc_allow (s : State) (n : FnId) (x : Func) : (s.setFunc n x).allow = s.allow := rfl
@[simp] theorem State.setFunc_hubMon (s : State) (n : FnId) (x : Func) : (s.setFunc n x).hubMon = s.hubMon := rfl
@[simp] theorem State.setFunc_time (s : State) (n : FnId) (x : Func) : (s.setFunc n x).time = s.time := rfl
@[simp] theorem State.setFunc_ports (s : State) (n : FnId) (x : Func) : (s.setFunc n x).ports = s.ports := rfl
@[simp] theorem State.setFunc_chipId (s : State) (n : FnId) (x : Func) : (s.setFunc n x).chipId = s.chipId := rfl
@[simp] theorem State.setFunc_booted (s : State) (n : FnId) (x : Func) : (s.setFunc n x).booted = s.booted := rfl
@[simp] theorem State.setFunc_security (s : State) (n : FnId) (x : Func) : (s.setFunc n x).security = s.security := rfl
@[simp] theorem State.setFunc_cfgVersion (s : State) (n : FnId) (x : Func) : (s.setFunc n x).cfgVersion = s.cfgVersion := rfl
@[simp] theorem State.setFunc_rollback (s : State) (n : FnId) (x : Func) : (s.setFunc n x).rollback = s.rollback := rfl
@[simp] theorem State.setFunc_firmware (s : State) (n : FnId) (x : Func) : (s.setFunc n x).firmware = s.firmware := rfl
@[simp] theorem State.setFunc_config (s : State) (n : FnId) (x : Func) : (s.setFunc n x).config = s.config := rfl
@[simp] theorem State.setFunc_lmsLeaf (s : State) (n : FnId) (x : Func) : (s.setFunc n x).lmsLeaf = s.lmsLeaf := rfl
@[simp] theorem State.setFunc_lost (s : State) (n : FnId) (x : Func) : (s.setFunc n x).lost = s.lost := rfl
@[simp] theorem State.setFunc_power (s : State) (n : FnId) (x : Func) : (s.setFunc n x).power = s.power := rfl
@[simp] theorem State.setFunc_dbg (s : State) (n : FnId) (x : Func) : (s.setFunc n x).dbg = s.dbg := rfl
@[simp] theorem State.setFunc_saved (s : State) (n : FnId) (x : Func) : (s.setFunc n x).saved = s.saved := rfl
@[simp] theorem State.setFunc_noStart (s : State) (n : FnId) (x : Func) : (s.setFunc n x).noStart = s.noStart := rfl
@[simp] theorem State.setFunc_cur (s : State) (n : FnId) (x : Func) : (s.setFunc n x).cur = s.cur := rfl
@[simp] theorem State.setFunc_agenda (s : State) (n : FnId) (x : Func) : (s.setFunc n x).agenda = s.agenda := rfl
@[simp] theorem State.setFunc_out (s : State) (n : FnId) (x : Func) : (s.setFunc n x).out = s.out := rfl
@[simp] theorem State.setFunc_free (s : State) (n : FnId) (x : Func) : (s.setFunc n x).free = s.free := rfl
@[simp] theorem State.setFunc_serial (s : State) (n : FnId) (x : Func) : (s.setFunc n x).serial = s.serial := rfl
@[simp] theorem State.modFunc_tiles (s : State) (n : FnId) (f : Func → Func) : (s.modFunc n f).tiles = s.tiles := rfl
@[simp] theorem State.modFunc_parts (s : State) (n : FnId) (f : Func → Func) : (s.modFunc n f).parts = s.parts := rfl
@[simp] theorem State.modFunc_hbm (s : State) (n : FnId) (f : Func → Func) : (s.modFunc n f).hbm = s.hbm := rfl
@[simp] theorem State.modFunc_badHbm (s : State) (n : FnId) (f : Func → Func) : (s.modFunc n f).badHbm = s.badHbm := rfl
@[simp] theorem State.modFunc_clearMap (s : State) (n : FnId) (f : Func → Func) : (s.modFunc n f).clearMap = s.clearMap := rfl
@[simp] theorem State.modFunc_views (s : State) (n : FnId) (f : Func → Func) : (s.modFunc n f).views = s.views := rfl
@[simp] theorem State.modFunc_l2 (s : State) (n : FnId) (f : Func → Func) : (s.modFunc n f).l2 = s.l2 := rfl
@[simp] theorem State.modFunc_rdc (s : State) (n : FnId) (f : Func → Func) : (s.modFunc n f).rdc = s.rdc := rfl
@[simp] theorem State.modFunc_dirs (s : State) (n : FnId) (f : Func → Func) : (s.modFunc n f).dirs = s.dirs := rfl
@[simp] theorem State.modFunc_posts (s : State) (n : FnId) (f : Func → Func) : (s.modFunc n f).posts = s.posts := rfl
@[simp] theorem State.modFunc_waybills (s : State) (n : FnId) (f : Func → Func) : (s.modFunc n f).waybills = s.waybills := rfl
@[simp] theorem State.modFunc_queues (s : State) (n : FnId) (f : Func → Func) : (s.modFunc n f).queues = s.queues := rfl
@[simp] theorem State.modFunc_qcfg (s : State) (n : FnId) (f : Func → Func) : (s.modFunc n f).qcfg = s.qcfg := rfl
@[simp] theorem State.modFunc_lastServed (s : State) (n : FnId) (f : Func → Func) : (s.modFunc n f).lastServed = s.lastServed := rfl
@[simp] theorem State.modFunc_nextTurn (s : State) (n : FnId) (f : Func → Func) : (s.modFunc n f).nextTurn = s.nextTurn := rfl
@[simp] theorem State.modFunc_psel (s : State) (n : FnId) (f : Func → Func) : (s.modFunc n f).psel = s.psel := rfl
@[simp] theorem State.modFunc_binderr (s : State) (n : FnId) (f : Func → Func) : (s.modFunc n f).binderr = s.binderr := rfl
@[simp] theorem State.modFunc_allow (s : State) (n : FnId) (f : Func → Func) : (s.modFunc n f).allow = s.allow := rfl
@[simp] theorem State.modFunc_hubMon (s : State) (n : FnId) (f : Func → Func) : (s.modFunc n f).hubMon = s.hubMon := rfl
@[simp] theorem State.modFunc_time (s : State) (n : FnId) (f : Func → Func) : (s.modFunc n f).time = s.time := rfl
@[simp] theorem State.modFunc_ports (s : State) (n : FnId) (f : Func → Func) : (s.modFunc n f).ports = s.ports := rfl
@[simp] theorem State.modFunc_chipId (s : State) (n : FnId) (f : Func → Func) : (s.modFunc n f).chipId = s.chipId := rfl
@[simp] theorem State.modFunc_booted (s : State) (n : FnId) (f : Func → Func) : (s.modFunc n f).booted = s.booted := rfl
@[simp] theorem State.modFunc_security (s : State) (n : FnId) (f : Func → Func) : (s.modFunc n f).security = s.security := rfl
@[simp] theorem State.modFunc_cfgVersion (s : State) (n : FnId) (f : Func → Func) : (s.modFunc n f).cfgVersion = s.cfgVersion := rfl
@[simp] theorem State.modFunc_rollback (s : State) (n : FnId) (f : Func → Func) : (s.modFunc n f).rollback = s.rollback := rfl
@[simp] theorem State.modFunc_firmware (s : State) (n : FnId) (f : Func → Func) : (s.modFunc n f).firmware = s.firmware := rfl
@[simp] theorem State.modFunc_config (s : State) (n : FnId) (f : Func → Func) : (s.modFunc n f).config = s.config := rfl
@[simp] theorem State.modFunc_lmsLeaf (s : State) (n : FnId) (f : Func → Func) : (s.modFunc n f).lmsLeaf = s.lmsLeaf := rfl
@[simp] theorem State.modFunc_lost (s : State) (n : FnId) (f : Func → Func) : (s.modFunc n f).lost = s.lost := rfl
@[simp] theorem State.modFunc_power (s : State) (n : FnId) (f : Func → Func) : (s.modFunc n f).power = s.power := rfl
@[simp] theorem State.modFunc_dbg (s : State) (n : FnId) (f : Func → Func) : (s.modFunc n f).dbg = s.dbg := rfl
@[simp] theorem State.modFunc_saved (s : State) (n : FnId) (f : Func → Func) : (s.modFunc n f).saved = s.saved := rfl
@[simp] theorem State.modFunc_noStart (s : State) (n : FnId) (f : Func → Func) : (s.modFunc n f).noStart = s.noStart := rfl
@[simp] theorem State.modFunc_cur (s : State) (n : FnId) (f : Func → Func) : (s.modFunc n f).cur = s.cur := rfl
@[simp] theorem State.modFunc_agenda (s : State) (n : FnId) (f : Func → Func) : (s.modFunc n f).agenda = s.agenda := rfl
@[simp] theorem State.modFunc_out (s : State) (n : FnId) (f : Func → Func) : (s.modFunc n f).out = s.out := rfl
@[simp] theorem State.modFunc_free (s : State) (n : FnId) (f : Func → Func) : (s.modFunc n f).free = s.free := rfl
@[simp] theorem State.modFunc_serial (s : State) (n : FnId) (f : Func → Func) : (s.modFunc n f).serial = s.serial := rfl
@[simp] theorem State.emit_tiles (s : State) (o : Output) : (s.emit o).tiles = s.tiles := rfl
@[simp] theorem State.emit_parts (s : State) (o : Output) : (s.emit o).parts = s.parts := rfl
@[simp] theorem State.emit_funcs (s : State) (o : Output) : (s.emit o).funcs = s.funcs := rfl
@[simp] theorem State.emit_hbm (s : State) (o : Output) : (s.emit o).hbm = s.hbm := rfl
@[simp] theorem State.emit_badHbm (s : State) (o : Output) : (s.emit o).badHbm = s.badHbm := rfl
@[simp] theorem State.emit_clearMap (s : State) (o : Output) : (s.emit o).clearMap = s.clearMap := rfl
@[simp] theorem State.emit_views (s : State) (o : Output) : (s.emit o).views = s.views := rfl
@[simp] theorem State.emit_l2 (s : State) (o : Output) : (s.emit o).l2 = s.l2 := rfl
@[simp] theorem State.emit_rdc (s : State) (o : Output) : (s.emit o).rdc = s.rdc := rfl
@[simp] theorem State.emit_dirs (s : State) (o : Output) : (s.emit o).dirs = s.dirs := rfl
@[simp] theorem State.emit_posts (s : State) (o : Output) : (s.emit o).posts = s.posts := rfl
@[simp] theorem State.emit_waybills (s : State) (o : Output) : (s.emit o).waybills = s.waybills := rfl
@[simp] theorem State.emit_queues (s : State) (o : Output) : (s.emit o).queues = s.queues := rfl
@[simp] theorem State.emit_qcfg (s : State) (o : Output) : (s.emit o).qcfg = s.qcfg := rfl
@[simp] theorem State.emit_lastServed (s : State) (o : Output) : (s.emit o).lastServed = s.lastServed := rfl
@[simp] theorem State.emit_nextTurn (s : State) (o : Output) : (s.emit o).nextTurn = s.nextTurn := rfl
@[simp] theorem State.emit_psel (s : State) (o : Output) : (s.emit o).psel = s.psel := rfl
@[simp] theorem State.emit_binderr (s : State) (o : Output) : (s.emit o).binderr = s.binderr := rfl
@[simp] theorem State.emit_allow (s : State) (o : Output) : (s.emit o).allow = s.allow := rfl
@[simp] theorem State.emit_hubMon (s : State) (o : Output) : (s.emit o).hubMon = s.hubMon := rfl
@[simp] theorem State.emit_time (s : State) (o : Output) : (s.emit o).time = s.time := rfl
@[simp] theorem State.emit_ports (s : State) (o : Output) : (s.emit o).ports = s.ports := rfl
@[simp] theorem State.emit_chipId (s : State) (o : Output) : (s.emit o).chipId = s.chipId := rfl
@[simp] theorem State.emit_booted (s : State) (o : Output) : (s.emit o).booted = s.booted := rfl
@[simp] theorem State.emit_security (s : State) (o : Output) : (s.emit o).security = s.security := rfl
@[simp] theorem State.emit_cfgVersion (s : State) (o : Output) : (s.emit o).cfgVersion = s.cfgVersion := rfl
@[simp] theorem State.emit_rollback (s : State) (o : Output) : (s.emit o).rollback = s.rollback := rfl
@[simp] theorem State.emit_firmware (s : State) (o : Output) : (s.emit o).firmware = s.firmware := rfl
@[simp] theorem State.emit_config (s : State) (o : Output) : (s.emit o).config = s.config := rfl
@[simp] theorem State.emit_lmsLeaf (s : State) (o : Output) : (s.emit o).lmsLeaf = s.lmsLeaf := rfl
@[simp] theorem State.emit_lost (s : State) (o : Output) : (s.emit o).lost = s.lost := rfl
@[simp] theorem State.emit_power (s : State) (o : Output) : (s.emit o).power = s.power := rfl
@[simp] theorem State.emit_dbg (s : State) (o : Output) : (s.emit o).dbg = s.dbg := rfl
@[simp] theorem State.emit_saved (s : State) (o : Output) : (s.emit o).saved = s.saved := rfl
@[simp] theorem State.emit_noStart (s : State) (o : Output) : (s.emit o).noStart = s.noStart := rfl
@[simp] theorem State.emit_cur (s : State) (o : Output) : (s.emit o).cur = s.cur := rfl
@[simp] theorem State.emit_agenda (s : State) (o : Output) : (s.emit o).agenda = s.agenda := rfl
@[simp] theorem State.emit_free (s : State) (o : Output) : (s.emit o).free = s.free := rfl
@[simp] theorem State.emit_serial (s : State) (o : Output) : (s.emit o).serial = s.serial := rfl
@[simp] theorem State.event_tiles (s : State) (i : Instr) : (s.event i).tiles = s.tiles := rfl
@[simp] theorem State.event_parts (s : State) (i : Instr) : (s.event i).parts = s.parts := rfl
@[simp] theorem State.event_funcs (s : State) (i : Instr) : (s.event i).funcs = s.funcs := rfl
@[simp] theorem State.event_hbm (s : State) (i : Instr) : (s.event i).hbm = s.hbm := rfl
@[simp] theorem State.event_badHbm (s : State) (i : Instr) : (s.event i).badHbm = s.badHbm := rfl
@[simp] theorem State.event_clearMap (s : State) (i : Instr) : (s.event i).clearMap = s.clearMap := rfl
@[simp] theorem State.event_views (s : State) (i : Instr) : (s.event i).views = s.views := rfl
@[simp] theorem State.event_l2 (s : State) (i : Instr) : (s.event i).l2 = s.l2 := rfl
@[simp] theorem State.event_rdc (s : State) (i : Instr) : (s.event i).rdc = s.rdc := rfl
@[simp] theorem State.event_dirs (s : State) (i : Instr) : (s.event i).dirs = s.dirs := rfl
@[simp] theorem State.event_posts (s : State) (i : Instr) : (s.event i).posts = s.posts := rfl
@[simp] theorem State.event_waybills (s : State) (i : Instr) : (s.event i).waybills = s.waybills := rfl
@[simp] theorem State.event_queues (s : State) (i : Instr) : (s.event i).queues = s.queues := rfl
@[simp] theorem State.event_qcfg (s : State) (i : Instr) : (s.event i).qcfg = s.qcfg := rfl
@[simp] theorem State.event_lastServed (s : State) (i : Instr) : (s.event i).lastServed = s.lastServed := rfl
@[simp] theorem State.event_nextTurn (s : State) (i : Instr) : (s.event i).nextTurn = s.nextTurn := rfl
@[simp] theorem State.event_psel (s : State) (i : Instr) : (s.event i).psel = s.psel := rfl
@[simp] theorem State.event_binderr (s : State) (i : Instr) : (s.event i).binderr = s.binderr := rfl
@[simp] theorem State.event_allow (s : State) (i : Instr) : (s.event i).allow = s.allow := rfl
@[simp] theorem State.event_hubMon (s : State) (i : Instr) : (s.event i).hubMon = s.hubMon := rfl
@[simp] theorem State.event_time (s : State) (i : Instr) : (s.event i).time = s.time := rfl
@[simp] theorem State.event_ports (s : State) (i : Instr) : (s.event i).ports = s.ports := rfl
@[simp] theorem State.event_chipId (s : State) (i : Instr) : (s.event i).chipId = s.chipId := rfl
@[simp] theorem State.event_booted (s : State) (i : Instr) : (s.event i).booted = s.booted := rfl
@[simp] theorem State.event_security (s : State) (i : Instr) : (s.event i).security = s.security := rfl
@[simp] theorem State.event_cfgVersion (s : State) (i : Instr) : (s.event i).cfgVersion = s.cfgVersion := rfl
@[simp] theorem State.event_rollback (s : State) (i : Instr) : (s.event i).rollback = s.rollback := rfl
@[simp] theorem State.event_firmware (s : State) (i : Instr) : (s.event i).firmware = s.firmware := rfl
@[simp] theorem State.event_config (s : State) (i : Instr) : (s.event i).config = s.config := rfl
@[simp] theorem State.event_lmsLeaf (s : State) (i : Instr) : (s.event i).lmsLeaf = s.lmsLeaf := rfl
@[simp] theorem State.event_lost (s : State) (i : Instr) : (s.event i).lost = s.lost := rfl
@[simp] theorem State.event_power (s : State) (i : Instr) : (s.event i).power = s.power := rfl
@[simp] theorem State.event_dbg (s : State) (i : Instr) : (s.event i).dbg = s.dbg := rfl
@[simp] theorem State.event_saved (s : State) (i : Instr) : (s.event i).saved = s.saved := rfl
@[simp] theorem State.event_noStart (s : State) (i : Instr) : (s.event i).noStart = s.noStart := rfl
@[simp] theorem State.event_cur (s : State) (i : Instr) : (s.event i).cur = s.cur := rfl
@[simp] theorem State.event_out (s : State) (i : Instr) : (s.event i).out = s.out := rfl
@[simp] theorem State.event_free (s : State) (i : Instr) : (s.event i).free = s.free := rfl
@[simp] theorem State.event_serial (s : State) (i : Instr) : (s.event i).serial = s.serial := rfl
@[simp] theorem State.emit_out (s : State) (o : Output) : (s.emit o).out = s.out ++ [o] := rfl
@[simp] theorem State.event_agenda (s : State) (i : Instr) : (s.event i).agenda = s.agenda ++ [.event i] := rfl
@[simp] theorem State.flip_tiles (s : State) : s.flip.1.tiles = s.tiles := rfl
@[simp] theorem State.flip_parts (s : State) : s.flip.1.parts = s.parts := rfl
@[simp] theorem State.flip_funcs (s : State) : s.flip.1.funcs = s.funcs := rfl
@[simp] theorem State.flip_hbm (s : State) : s.flip.1.hbm = s.hbm := rfl
@[simp] theorem State.flip_badHbm (s : State) : s.flip.1.badHbm = s.badHbm := rfl
@[simp] theorem State.flip_clearMap (s : State) : s.flip.1.clearMap = s.clearMap := rfl
@[simp] theorem State.flip_views (s : State) : s.flip.1.views = s.views := rfl
@[simp] theorem State.flip_l2 (s : State) : s.flip.1.l2 = s.l2 := rfl
@[simp] theorem State.flip_rdc (s : State) : s.flip.1.rdc = s.rdc := rfl
@[simp] theorem State.flip_dirs (s : State) : s.flip.1.dirs = s.dirs := rfl
@[simp] theorem State.flip_posts (s : State) : s.flip.1.posts = s.posts := rfl
@[simp] theorem State.flip_waybills (s : State) : s.flip.1.waybills = s.waybills := rfl
@[simp] theorem State.flip_queues (s : State) : s.flip.1.queues = s.queues := rfl
@[simp] theorem State.flip_qcfg (s : State) : s.flip.1.qcfg = s.qcfg := rfl
@[simp] theorem State.flip_lastServed (s : State) : s.flip.1.lastServed = s.lastServed := rfl
@[simp] theorem State.flip_nextTurn (s : State) : s.flip.1.nextTurn = s.nextTurn := rfl
@[simp] theorem State.flip_psel (s : State) : s.flip.1.psel = s.psel := rfl
@[simp] theorem State.flip_binderr (s : State) : s.flip.1.binderr = s.binderr := rfl
@[simp] theorem State.flip_allow (s : State) : s.flip.1.allow = s.allow := rfl
@[simp] theorem State.flip_hubMon (s : State) : s.flip.1.hubMon = s.hubMon := rfl
@[simp] theorem State.flip_time (s : State) : s.flip.1.time = s.time := rfl
@[simp] theorem State.flip_ports (s : State) : s.flip.1.ports = s.ports := rfl
@[simp] theorem State.flip_chipId (s : State) : s.flip.1.chipId = s.chipId := rfl
@[simp] theorem State.flip_booted (s : State) : s.flip.1.booted = s.booted := rfl
@[simp] theorem State.flip_security (s : State) : s.flip.1.security = s.security := rfl
@[simp] theorem State.flip_cfgVersion (s : State) : s.flip.1.cfgVersion = s.cfgVersion := rfl
@[simp] theorem State.flip_rollback (s : State) : s.flip.1.rollback = s.rollback := rfl
@[simp] theorem State.flip_firmware (s : State) : s.flip.1.firmware = s.firmware := rfl
@[simp] theorem State.flip_config (s : State) : s.flip.1.config = s.config := rfl
@[simp] theorem State.flip_lmsLeaf (s : State) : s.flip.1.lmsLeaf = s.lmsLeaf := rfl
@[simp] theorem State.flip_lost (s : State) : s.flip.1.lost = s.lost := rfl
@[simp] theorem State.flip_power (s : State) : s.flip.1.power = s.power := rfl
@[simp] theorem State.flip_dbg (s : State) : s.flip.1.dbg = s.dbg := rfl
@[simp] theorem State.flip_saved (s : State) : s.flip.1.saved = s.saved := rfl
@[simp] theorem State.flip_noStart (s : State) : s.flip.1.noStart = s.noStart := rfl
@[simp] theorem State.flip_cur (s : State) : s.flip.1.cur = s.cur := rfl
@[simp] theorem State.flip_agenda (s : State) : s.flip.1.agenda = s.agenda := rfl
@[simp] theorem State.flip_out (s : State) : s.flip.1.out = s.out := rfl
@[simp] theorem State.flip_serial (s : State) : s.flip.1.serial = s.serial := rfl
@[simp] theorem State.fresh_tiles (s : State) : s.fresh.1.tiles = s.tiles := rfl
@[simp] theorem State.fresh_parts (s : State) : s.fresh.1.parts = s.parts := rfl
@[simp] theorem State.fresh_funcs (s : State) : s.fresh.1.funcs = s.funcs := rfl
@[simp] theorem State.fresh_hbm (s : State) : s.fresh.1.hbm = s.hbm := rfl
@[simp] theorem State.fresh_badHbm (s : State) : s.fresh.1.badHbm = s.badHbm := rfl
@[simp] theorem State.fresh_clearMap (s : State) : s.fresh.1.clearMap = s.clearMap := rfl
@[simp] theorem State.fresh_views (s : State) : s.fresh.1.views = s.views := rfl
@[simp] theorem State.fresh_l2 (s : State) : s.fresh.1.l2 = s.l2 := rfl
@[simp] theorem State.fresh_rdc (s : State) : s.fresh.1.rdc = s.rdc := rfl
@[simp] theorem State.fresh_dirs (s : State) : s.fresh.1.dirs = s.dirs := rfl
@[simp] theorem State.fresh_posts (s : State) : s.fresh.1.posts = s.posts := rfl
@[simp] theorem State.fresh_waybills (s : State) : s.fresh.1.waybills = s.waybills := rfl
@[simp] theorem State.fresh_queues (s : State) : s.fresh.1.queues = s.queues := rfl
@[simp] theorem State.fresh_qcfg (s : State) : s.fresh.1.qcfg = s.qcfg := rfl
@[simp] theorem State.fresh_lastServed (s : State) : s.fresh.1.lastServed = s.lastServed := rfl
@[simp] theorem State.fresh_nextTurn (s : State) : s.fresh.1.nextTurn = s.nextTurn := rfl
@[simp] theorem State.fresh_psel (s : State) : s.fresh.1.psel = s.psel := rfl
@[simp] theorem State.fresh_binderr (s : State) : s.fresh.1.binderr = s.binderr := rfl
@[simp] theorem State.fresh_allow (s : State) : s.fresh.1.allow = s.allow := rfl
@[simp] theorem State.fresh_hubMon (s : State) : s.fresh.1.hubMon = s.hubMon := rfl
@[simp] theorem State.fresh_time (s : State) : s.fresh.1.time = s.time := rfl
@[simp] theorem State.fresh_ports (s : State) : s.fresh.1.ports = s.ports := rfl
@[simp] theorem State.fresh_chipId (s : State) : s.fresh.1.chipId = s.chipId := rfl
@[simp] theorem State.fresh_booted (s : State) : s.fresh.1.booted = s.booted := rfl
@[simp] theorem State.fresh_security (s : State) : s.fresh.1.security = s.security := rfl
@[simp] theorem State.fresh_cfgVersion (s : State) : s.fresh.1.cfgVersion = s.cfgVersion := rfl
@[simp] theorem State.fresh_rollback (s : State) : s.fresh.1.rollback = s.rollback := rfl
@[simp] theorem State.fresh_firmware (s : State) : s.fresh.1.firmware = s.firmware := rfl
@[simp] theorem State.fresh_config (s : State) : s.fresh.1.config = s.config := rfl
@[simp] theorem State.fresh_lmsLeaf (s : State) : s.fresh.1.lmsLeaf = s.lmsLeaf := rfl
@[simp] theorem State.fresh_lost (s : State) : s.fresh.1.lost = s.lost := rfl
@[simp] theorem State.fresh_power (s : State) : s.fresh.1.power = s.power := rfl
@[simp] theorem State.fresh_dbg (s : State) : s.fresh.1.dbg = s.dbg := rfl
@[simp] theorem State.fresh_saved (s : State) : s.fresh.1.saved = s.saved := rfl
@[simp] theorem State.fresh_noStart (s : State) : s.fresh.1.noStart = s.noStart := rfl
@[simp] theorem State.fresh_cur (s : State) : s.fresh.1.cur = s.cur := rfl
@[simp] theorem State.fresh_agenda (s : State) : s.fresh.1.agenda = s.agenda := rfl
@[simp] theorem State.fresh_out (s : State) : s.fresh.1.out = s.out := rfl
@[simp] theorem State.fresh_free (s : State) : s.fresh.1.free = s.free := rfl

/-! ## A tile -/

@[simp] theorem Tile.setSlot_store (t : Tile) (k : SlotId) (x : Slot) : (t.setSlot k x).store = t.store := rfl
@[simp] theorem Tile.setSlot_badChunks (t : Tile) (k : SlotId) (x : Slot) : (t.setSlot k x).badChunks = t.badChunks := rfl
@[simp] theorem Tile.setSlot_y (t : Tile) (k : SlotId) (x : Slot) : (t.setSlot k x).y = t.y := rfl
@[simp] theorem Tile.setSlot_z (t : Tile) (k : SlotId) (x : Slot) : (t.setSlot k x).z = t.z := rfl
@[simp] theorem Tile.setSlot_badYZ (t : Tile) (k : SlotId) (x : Slot) : (t.setSlot k x).badYZ = t.badYZ := rfl
@[simp] theorem Tile.setSlot_acc (t : Tile) (k : SlotId) (x : Slot) : (t.setSlot k x).acc = t.acc := rfl
@[simp] theorem Tile.setSlot_matcfg (t : Tile) (k : SlotId) (x : Slot) : (t.setSlot k x).matcfg = t.matcfg := rfl
@[simp] theorem Tile.setSlot_matstat (t : Tile) (k : SlotId) (x : Slot) : (t.setSlot k x).matstat = t.matstat := rfl
@[simp] theorem Tile.setSlot_arrivals (t : Tile) (k : SlotId) (x : Slot) : (t.setSlot k x).arrivals = t.arrivals := rfl
@[simp] theorem Tile.setSlot_gangs (t : Tile) (k : SlotId) (x : Slot) : (t.setSlot k x).gangs = t.gangs := rfl
@[simp] theorem Tile.setSlot_running (t : Tile) (k : SlotId) (x : Slot) : (t.setSlot k x).running = t.running := rfl
@[simp] theorem Tile.setSlot_qops (t : Tile) (k : SlotId) (x : Slot) : (t.setSlot k x).qops = t.qops := rfl
@[simp] theorem Tile.setSlot_pins (t : Tile) (k : SlotId) (x : Slot) : (t.setSlot k x).pins = t.pins := rfl
@[simp] theorem Tile.setSlot_fetches (t : Tile) (k : SlotId) (x : Slot) : (t.setSlot k x).fetches = t.fetches := rfl
@[simp] theorem Tile.setSlot_channels (t : Tile) (k : SlotId) (x : Slot) : (t.setSlot k x).channels = t.channels := rfl
@[simp] theorem Tile.setSlot_board (t : Tile) (k : SlotId) (x : Slot) : (t.setSlot k x).board = t.board := rfl
@[simp] theorem Tile.setSlot_watch (t : Tile) (k : SlotId) (x : Slot) : (t.setSlot k x).watch = t.watch := rfl
@[simp] theorem Tile.setSlot_watchF (t : Tile) (k : SlotId) (x : Slot) : (t.setSlot k x).watchF = t.watchF := rfl
@[simp] theorem Tile.setSlot_pmsel (t : Tile) (k : SlotId) (x : Slot) : (t.setSlot k x).pmsel = t.pmsel := rfl
@[simp] theorem Tile.setSlot_pmcnt (t : Tile) (k : SlotId) (x : Slot) : (t.setSlot k x).pmcnt = t.pmcnt := rfl
@[simp] theorem Tile.setSlot_pmstat (t : Tile) (k : SlotId) (x : Slot) : (t.setSlot k x).pmstat = t.pmstat := rfl
@[simp] theorem Tile.setSlot_monitors (t : Tile) (k : SlotId) (x : Slot) : (t.setSlot k x).monitors = t.monitors := rfl
@[simp] theorem Tile.setSlot_trapvec (t : Tile) (k : SlotId) (x : Slot) : (t.setSlot k x).trapvec = t.trapvec := rfl
@[simp] theorem Tile.setSlot_tag (t : Tile) (k : SlotId) (x : Slot) : (t.setSlot k x).tag = t.tag := rfl
@[simp] theorem Tile.setSlot_tokDecl (t : Tile) (k : SlotId) (x : Slot) : (t.setSlot k x).tokDecl = t.tokDecl := rfl
@[simp] theorem Tile.setSlot_tokUsed (t : Tile) (k : SlotId) (x : Slot) : (t.setSlot k x).tokUsed = t.tokUsed := rfl
@[simp] theorem Tile.setSlot_pwrPower (t : Tile) (k : SlotId) (x : Slot) : (t.setSlot k x).pwrPower = t.pwrPower := rfl
@[simp] theorem Tile.setSlot_stretch (t : Tile) (k : SlotId) (x : Slot) : (t.setSlot k x).stretch = t.stretch := rfl
@[simp] theorem Tile.setSlot_tileIdx (t : Tile) (k : SlotId) (x : Slot) : (t.setSlot k x).tileIdx = t.tileIdx := rfl
@[simp] theorem Tile.setSlot_period (t : Tile) (k : SlotId) (x : Slot) : (t.setSlot k x).period = t.period := rfl
@[simp] theorem Tile.setSlot_lparam (t : Tile) (k : SlotId) (x : Slot) : (t.setSlot k x).lparam = t.lparam := rfl
@[simp] theorem Tile.setSlot_launchId (t : Tile) (k : SlotId) (x : Slot) : (t.setSlot k x).launchId = t.launchId := rfl
@[simp] theorem Tile.setSlot_idem (t : Tile) (k : SlotId) (x : Slot) : (t.setSlot k x).idem = t.idem := rfl
@[simp] theorem Tile.setSlot_overFault (t : Tile) (k : SlotId) (x : Slot) : (t.setSlot k x).overFault = t.overFault := rfl
@[simp] theorem Tile.setSlot_nTiles (t : Tile) (k : SlotId) (x : Slot) : (t.setSlot k x).nTiles = t.nTiles := rfl
@[simp] theorem Tile.setSlot_round (t : Tile) (k : SlotId) (x : Slot) : (t.setSlot k x).round = t.round := rfl
@[simp] theorem Tile.setSlot_overruns (t : Tile) (k : SlotId) (x : Slot) : (t.setSlot k x).overruns = t.overruns := rfl
@[simp] theorem Tile.setSlot_begun (t : Tile) (k : SlotId) (x : Slot) : (t.setSlot k x).begun = t.begun := rfl
@[simp] theorem Tile.setSlot_inRound (t : Tile) (k : SlotId) (x : Slot) : (t.setSlot k x).inRound = t.inRound := rfl
@[simp] theorem Tile.setSlot_roundNo (t : Tile) (k : SlotId) (x : Slot) : (t.setSlot k x).roundNo = t.roundNo := rfl
@[simp] theorem Tile.setSlot_roundAt (t : Tile) (k : SlotId) (x : Slot) : (t.setSlot k x).roundAt = t.roundAt := rfl
@[simp] theorem Tile.setSlot_rerun (t : Tile) (k : SlotId) (x : Slot) : (t.setSlot k x).rerun = t.rerun := rfl
@[simp] theorem Tile.setSlot_inRerun (t : Tile) (k : SlotId) (x : Slot) : (t.setSlot k x).inRerun = t.inRerun := rfl
@[simp] theorem Tile.setSlot_roundsOver (t : Tile) (k : SlotId) (x : Slot) : (t.setSlot k x).roundsOver = t.roundsOver := rfl
@[simp] theorem Tile.setSlot_cycle (t : Tile) (k : SlotId) (x : Slot) : (t.setSlot k x).cycle = t.cycle := rfl
@[simp] theorem Tile.setSlot_toExpiry (t : Tile) (k : SlotId) (x : Slot) : (t.setSlot k x).toExpiry = t.toExpiry := rfl
@[simp] theorem Tile.setSlot_s0 (t : Tile) (k : SlotId) (x : Slot) : (t.setSlot k x).s0 = t.s0 := rfl
@[simp] theorem Tile.setSlot_going (t : Tile) (k : SlotId) (x : Slot) : (t.setSlot k x).going = t.going := rfl
@[simp] theorem Tile.setSlot_phase (t : Tile) (k : SlotId) (x : Slot) : (t.setSlot k x).phase = t.phase := rfl
@[simp] theorem Tile.setSlot_due (t : Tile) (k : SlotId) (x : Slot) : (t.setSlot k x).due = t.due := rfl
@[simp] theorem Tile.setSlot_halted (t : Tile) (k : SlotId) (x : Slot) : (t.setSlot k x).halted = t.halted := rfl
@[simp] theorem Tile.setSlot_dbgHalt (t : Tile) (k : SlotId) (x : Slot) : (t.setSlot k x).dbgHalt = t.dbgHalt := rfl
@[simp] theorem Tile.setSlot_dbgStep (t : Tile) (k : SlotId) (x : Slot) : (t.setSlot k x).dbgStep = t.dbgStep := rfl
@[simp] theorem Tile.setSlot_pendingTraps (t : Tile) (k : SlotId) (x : Slot) : (t.setSlot k x).pendingTraps = t.pendingTraps := rfl
@[simp] theorem Tile.setSlot_l1 (t : Tile) (k : SlotId) (x : Slot) : (t.setSlot k x).l1 = t.l1 := rfl
@[simp] theorem Tile.setSlot_icache (t : Tile) (k : SlotId) (x : Slot) : (t.setSlot k x).icache = t.icache := rfl
@[simp] theorem Tile.setSlot_posts (t : Tile) (k : SlotId) (x : Slot) : (t.setSlot k x).posts = t.posts := rfl
@[simp] theorem Tile.setSlot_entries (t : Tile) (k : SlotId) (x : Slot) : (t.setSlot k x).entries = t.entries := rfl
@[simp] theorem Tile.setSlot_launch (t : Tile) (k : SlotId) (x : Slot) : (t.setSlot k x).launch = t.launch := rfl
@[simp] theorem Tile.setSlot_chkInit (t : Tile) (k : SlotId) (x : Slot) : (t.setSlot k x).chkInit = t.chkInit := rfl
@[simp] theorem Tile.setSlot_csrNext (t : Tile) (k : SlotId) (x : Slot) : (t.setSlot k x).csrNext = t.csrNext := rfl

/-! ## A slot -/

@[simp] theorem Slot.wrote_g (x : Slot) (c : Nat) : (x.wrote c).g = x.g := rfl
@[simp] theorem Slot.wrote_f (x : Slot) (c : Nat) : (x.wrote c).f = x.f := rfl
@[simp] theorem Slot.wrote_v (x : Slot) (c : Nat) : (x.wrote c).v = x.v := rfl
@[simp] theorem Slot.wrote_p (x : Slot) (c : Nat) : (x.wrote c).p = x.p := rfl
@[simp] theorem Slot.wrote_k (x : Slot) (c : Nat) : (x.wrote c).k = x.k := rfl
@[simp] theorem Slot.wrote_pc (x : Slot) (c : Nat) : (x.wrote c).pc = x.pc := rfl
@[simp] theorem Slot.wrote_active (x : Slot) (c : Nat) : (x.wrote c).active = x.active := rfl
@[simp] theorem Slot.wrote_park (x : Slot) (c : Nat) : (x.wrote c).park = x.park := rfl
@[simp] theorem Slot.wrote_sPark (x : Slot) (c : Nat) : (x.wrote c).sPark = x.sPark := rfl
@[simp] theorem Slot.wrote_yPark (x : Slot) (c : Nat) : (x.wrote c).yPark = x.yPark := rfl
@[simp] theorem Slot.wrote_forfeit (x : Slot) (c : Nat) : (x.wrote c).forfeit = x.forfeit := rfl
@[simp] theorem Slot.wrote_starting (x : Slot) (c : Nat) : (x.wrote c).starting = x.starting := rfl
@[simp] theorem Slot.wrote_fcsr (x : Slot) (c : Nat) : (x.wrote c).fcsr = x.fcsr := rfl
@[simp] theorem Slot.wrote_normturns (x : Slot) (c : Nat) : (x.wrote c).normturns = x.normturns := rfl
@[simp] theorem Slot.wrote_cntl (x : Slot) (c : Nat) : (x.wrote c).cntl = x.cntl := rfl
@[simp] theorem Slot.wrote_cnts (x : Slot) (c : Nat) : (x.wrote c).cnts = x.cnts := rfl
@[simp] theorem Slot.wrote_chkPower (x : Slot) (c : Nat) : (x.wrote c).chkPower = x.chkPower := rfl
@[simp] theorem Slot.wrote_chkHazard (x : Slot) (c : Nat) : (x.wrote c).chkHazard = x.chkHazard := rfl
@[simp] theorem Slot.wrote_tm (x : Slot) (c : Nat) : (x.wrote c).tm = x.tm := rfl
@[simp] theorem Slot.wrote_tinfo (x : Slot) (c : Nat) : (x.wrote c).tinfo = x.tinfo := rfl
@[simp] theorem Slot.wrote_tcode (x : Slot) (c : Nat) : (x.wrote c).tcode = x.tcode := rfl
@[simp] theorem Slot.wrote_trappc (x : Slot) (c : Nat) : (x.wrote c).trappc = x.trappc := rfl
@[simp] theorem Slot.wrote_trapval (x : Slot) (c : Nat) : (x.wrote c).trapval = x.trapval := rfl
@[simp] theorem Slot.wrote_save (x : Slot) (c : Nat) : (x.wrote c).save = x.save := rfl
@[simp] theorem Slot.wrote_trapOnly (x : Slot) (c : Nat) : (x.wrote c).trapOnly = x.trapOnly := rfl
@[simp] theorem Slot.wrote_retry (x : Slot) (c : Nat) : (x.wrote c).retry = x.retry := rfl
@[simp] theorem Slot.wrote_waive (x : Slot) (c : Nat) : (x.wrote c).waive = x.waive := rfl
@[simp] theorem Slot.wrote_deferred (x : Slot) (c : Nat) : (x.wrote c).deferred = x.deferred := rfl
@[simp] theorem Slot.wrote_streams (x : Slot) (c : Nat) : (x.wrote c).streams = x.streams := rfl
@[simp] theorem Slot.wrote_srep (x : Slot) (c : Nat) : (x.wrote c).srep = x.srep := rfl
@[simp] theorem Slot.wrote_sbarCnt (x : Slot) (c : Nat) : (x.wrote c).sbarCnt = x.sbarCnt := rfl
@[simp] theorem Slot.wrote_drawCnt (x : Slot) (c : Nat) : (x.wrote c).drawCnt = x.drawCnt := rfl
@[simp] theorem Slot.wrote_fseq (x : Slot) (c : Nat) : (x.wrote c).fseq = x.fseq := rfl
@[simp] theorem Slot.wrote_failed (x : Slot) (c : Nat) : (x.wrote c).failed = x.failed := rfl
@[simp] theorem Slot.wrote_faults (x : Slot) (c : Nat) : (x.wrote c).faults = x.faults := rfl
@[simp] theorem Slot.wrote_ctxGen (x : Slot) (c : Nat) : (x.wrote c).ctxGen = x.ctxGen := rfl
@[simp] theorem Slot.wrote_hostOrd (x : Slot) (c : Nat) : (x.wrote c).hostOrd = x.hostOrd := rfl
@[simp] theorem Slot.gw_f (x : Slot) (n : G) (v : Word) : (x.gw n v).f = x.f := by unfold Slot.gw; split <;> rfl
@[simp] theorem Slot.gw_v (x : Slot) (n : G) (v : Word) : (x.gw n v).v = x.v := by unfold Slot.gw; split <;> rfl
@[simp] theorem Slot.gw_p (x : Slot) (n : G) (v : Word) : (x.gw n v).p = x.p := by unfold Slot.gw; split <;> rfl
@[simp] theorem Slot.gw_k (x : Slot) (n : G) (v : Word) : (x.gw n v).k = x.k := by unfold Slot.gw; split <;> rfl
@[simp] theorem Slot.gw_pc (x : Slot) (n : G) (v : Word) : (x.gw n v).pc = x.pc := by unfold Slot.gw; split <;> rfl
@[simp] theorem Slot.gw_active (x : Slot) (n : G) (v : Word) : (x.gw n v).active = x.active := by unfold Slot.gw; split <;> rfl
@[simp] theorem Slot.gw_park (x : Slot) (n : G) (v : Word) : (x.gw n v).park = x.park := by unfold Slot.gw; split <;> rfl
@[simp] theorem Slot.gw_sPark (x : Slot) (n : G) (v : Word) : (x.gw n v).sPark = x.sPark := by unfold Slot.gw; split <;> rfl
@[simp] theorem Slot.gw_yPark (x : Slot) (n : G) (v : Word) : (x.gw n v).yPark = x.yPark := by unfold Slot.gw; split <;> rfl
@[simp] theorem Slot.gw_forfeit (x : Slot) (n : G) (v : Word) : (x.gw n v).forfeit = x.forfeit := by unfold Slot.gw; split <;> rfl
@[simp] theorem Slot.gw_starting (x : Slot) (n : G) (v : Word) : (x.gw n v).starting = x.starting := by unfold Slot.gw; split <;> rfl
@[simp] theorem Slot.gw_fcsr (x : Slot) (n : G) (v : Word) : (x.gw n v).fcsr = x.fcsr := by unfold Slot.gw; split <;> rfl
@[simp] theorem Slot.gw_normturns (x : Slot) (n : G) (v : Word) : (x.gw n v).normturns = x.normturns := by unfold Slot.gw; split <;> rfl
@[simp] theorem Slot.gw_cntl (x : Slot) (n : G) (v : Word) : (x.gw n v).cntl = x.cntl := by unfold Slot.gw; split <;> rfl
@[simp] theorem Slot.gw_cnts (x : Slot) (n : G) (v : Word) : (x.gw n v).cnts = x.cnts := by unfold Slot.gw; split <;> rfl
@[simp] theorem Slot.gw_chkPower (x : Slot) (n : G) (v : Word) : (x.gw n v).chkPower = x.chkPower := by unfold Slot.gw; split <;> rfl
@[simp] theorem Slot.gw_chkHazard (x : Slot) (n : G) (v : Word) : (x.gw n v).chkHazard = x.chkHazard := by unfold Slot.gw; split <;> rfl
@[simp] theorem Slot.gw_tm (x : Slot) (n : G) (v : Word) : (x.gw n v).tm = x.tm := by unfold Slot.gw; split <;> rfl
@[simp] theorem Slot.gw_tinfo (x : Slot) (n : G) (v : Word) : (x.gw n v).tinfo = x.tinfo := by unfold Slot.gw; split <;> rfl
@[simp] theorem Slot.gw_tcode (x : Slot) (n : G) (v : Word) : (x.gw n v).tcode = x.tcode := by unfold Slot.gw; split <;> rfl
@[simp] theorem Slot.gw_trappc (x : Slot) (n : G) (v : Word) : (x.gw n v).trappc = x.trappc := by unfold Slot.gw; split <;> rfl
@[simp] theorem Slot.gw_trapval (x : Slot) (n : G) (v : Word) : (x.gw n v).trapval = x.trapval := by unfold Slot.gw; split <;> rfl
@[simp] theorem Slot.gw_save (x : Slot) (n : G) (v : Word) : (x.gw n v).save = x.save := by unfold Slot.gw; split <;> rfl
@[simp] theorem Slot.gw_trapOnly (x : Slot) (n : G) (v : Word) : (x.gw n v).trapOnly = x.trapOnly := by unfold Slot.gw; split <;> rfl
@[simp] theorem Slot.gw_retry (x : Slot) (n : G) (v : Word) : (x.gw n v).retry = x.retry := by unfold Slot.gw; split <;> rfl
@[simp] theorem Slot.gw_waive (x : Slot) (n : G) (v : Word) : (x.gw n v).waive = x.waive := by unfold Slot.gw; split <;> rfl
@[simp] theorem Slot.gw_deferred (x : Slot) (n : G) (v : Word) : (x.gw n v).deferred = x.deferred := by unfold Slot.gw; split <;> rfl
@[simp] theorem Slot.gw_streams (x : Slot) (n : G) (v : Word) : (x.gw n v).streams = x.streams := by unfold Slot.gw; split <;> rfl
@[simp] theorem Slot.gw_srep (x : Slot) (n : G) (v : Word) : (x.gw n v).srep = x.srep := by unfold Slot.gw; split <;> rfl
@[simp] theorem Slot.gw_sbarCnt (x : Slot) (n : G) (v : Word) : (x.gw n v).sbarCnt = x.sbarCnt := by unfold Slot.gw; split <;> rfl
@[simp] theorem Slot.gw_drawCnt (x : Slot) (n : G) (v : Word) : (x.gw n v).drawCnt = x.drawCnt := by unfold Slot.gw; split <;> rfl
@[simp] theorem Slot.gw_fseq (x : Slot) (n : G) (v : Word) : (x.gw n v).fseq = x.fseq := by unfold Slot.gw; split <;> rfl
@[simp] theorem Slot.gw_failed (x : Slot) (n : G) (v : Word) : (x.gw n v).failed = x.failed := by unfold Slot.gw; split <;> rfl
@[simp] theorem Slot.gw_faults (x : Slot) (n : G) (v : Word) : (x.gw n v).faults = x.faults := by unfold Slot.gw; split <;> rfl
@[simp] theorem Slot.gw_ctxGen (x : Slot) (n : G) (v : Word) : (x.gw n v).ctxGen = x.ctxGen := by unfold Slot.gw; split <;> rfl
@[simp] theorem Slot.gw_hostOrd (x : Slot) (n : G) (v : Word) : (x.gw n v).hostOrd = x.hostOrd := by unfold Slot.gw; split <;> rfl
@[simp] theorem Slot.fw_g (x : Slot) (n : F) (v : Word) : (x.fw n v).g = x.g := rfl
@[simp] theorem Slot.fw_v (x : Slot) (n : F) (v : Word) : (x.fw n v).v = x.v := rfl
@[simp] theorem Slot.fw_p (x : Slot) (n : F) (v : Word) : (x.fw n v).p = x.p := rfl
@[simp] theorem Slot.fw_k (x : Slot) (n : F) (v : Word) : (x.fw n v).k = x.k := rfl
@[simp] theorem Slot.fw_pc (x : Slot) (n : F) (v : Word) : (x.fw n v).pc = x.pc := rfl
@[simp] theorem Slot.fw_active (x : Slot) (n : F) (v : Word) : (x.fw n v).active = x.active := rfl
@[simp] theorem Slot.fw_park (x : Slot) (n : F) (v : Word) : (x.fw n v).park = x.park := rfl
@[simp] theorem Slot.fw_sPark (x : Slot) (n : F) (v : Word) : (x.fw n v).sPark = x.sPark := rfl
@[simp] theorem Slot.fw_yPark (x : Slot) (n : F) (v : Word) : (x.fw n v).yPark = x.yPark := rfl
@[simp] theorem Slot.fw_forfeit (x : Slot) (n : F) (v : Word) : (x.fw n v).forfeit = x.forfeit := rfl
@[simp] theorem Slot.fw_starting (x : Slot) (n : F) (v : Word) : (x.fw n v).starting = x.starting := rfl
@[simp] theorem Slot.fw_fcsr (x : Slot) (n : F) (v : Word) : (x.fw n v).fcsr = x.fcsr := rfl
@[simp] theorem Slot.fw_normturns (x : Slot) (n : F) (v : Word) : (x.fw n v).normturns = x.normturns := rfl
@[simp] theorem Slot.fw_cntl (x : Slot) (n : F) (v : Word) : (x.fw n v).cntl = x.cntl := rfl
@[simp] theorem Slot.fw_cnts (x : Slot) (n : F) (v : Word) : (x.fw n v).cnts = x.cnts := rfl
@[simp] theorem Slot.fw_chkPower (x : Slot) (n : F) (v : Word) : (x.fw n v).chkPower = x.chkPower := rfl
@[simp] theorem Slot.fw_chkHazard (x : Slot) (n : F) (v : Word) : (x.fw n v).chkHazard = x.chkHazard := rfl
@[simp] theorem Slot.fw_tm (x : Slot) (n : F) (v : Word) : (x.fw n v).tm = x.tm := rfl
@[simp] theorem Slot.fw_tinfo (x : Slot) (n : F) (v : Word) : (x.fw n v).tinfo = x.tinfo := rfl
@[simp] theorem Slot.fw_tcode (x : Slot) (n : F) (v : Word) : (x.fw n v).tcode = x.tcode := rfl
@[simp] theorem Slot.fw_trappc (x : Slot) (n : F) (v : Word) : (x.fw n v).trappc = x.trappc := rfl
@[simp] theorem Slot.fw_trapval (x : Slot) (n : F) (v : Word) : (x.fw n v).trapval = x.trapval := rfl
@[simp] theorem Slot.fw_save (x : Slot) (n : F) (v : Word) : (x.fw n v).save = x.save := rfl
@[simp] theorem Slot.fw_trapOnly (x : Slot) (n : F) (v : Word) : (x.fw n v).trapOnly = x.trapOnly := rfl
@[simp] theorem Slot.fw_retry (x : Slot) (n : F) (v : Word) : (x.fw n v).retry = x.retry := rfl
@[simp] theorem Slot.fw_waive (x : Slot) (n : F) (v : Word) : (x.fw n v).waive = x.waive := rfl
@[simp] theorem Slot.fw_deferred (x : Slot) (n : F) (v : Word) : (x.fw n v).deferred = x.deferred := rfl
@[simp] theorem Slot.fw_streams (x : Slot) (n : F) (v : Word) : (x.fw n v).streams = x.streams := rfl
@[simp] theorem Slot.fw_srep (x : Slot) (n : F) (v : Word) : (x.fw n v).srep = x.srep := rfl
@[simp] theorem Slot.fw_sbarCnt (x : Slot) (n : F) (v : Word) : (x.fw n v).sbarCnt = x.sbarCnt := rfl
@[simp] theorem Slot.fw_drawCnt (x : Slot) (n : F) (v : Word) : (x.fw n v).drawCnt = x.drawCnt := rfl
@[simp] theorem Slot.fw_fseq (x : Slot) (n : F) (v : Word) : (x.fw n v).fseq = x.fseq := rfl
@[simp] theorem Slot.fw_failed (x : Slot) (n : F) (v : Word) : (x.fw n v).failed = x.failed := rfl
@[simp] theorem Slot.fw_faults (x : Slot) (n : F) (v : Word) : (x.fw n v).faults = x.faults := rfl
@[simp] theorem Slot.fw_ctxGen (x : Slot) (n : F) (v : Word) : (x.fw n v).ctxGen = x.ctxGen := rfl
@[simp] theorem Slot.fw_hostOrd (x : Slot) (n : F) (v : Word) : (x.fw n v).hostOrd = x.hostOrd := rfl
@[simp] theorem Slot.vw_g (x : Slot) (n : V) (v : VWord) : (x.vw n v).g = x.g := rfl
@[simp] theorem Slot.vw_f (x : Slot) (n : V) (v : VWord) : (x.vw n v).f = x.f := rfl
@[simp] theorem Slot.vw_p (x : Slot) (n : V) (v : VWord) : (x.vw n v).p = x.p := rfl
@[simp] theorem Slot.vw_k (x : Slot) (n : V) (v : VWord) : (x.vw n v).k = x.k := rfl
@[simp] theorem Slot.vw_pc (x : Slot) (n : V) (v : VWord) : (x.vw n v).pc = x.pc := rfl
@[simp] theorem Slot.vw_active (x : Slot) (n : V) (v : VWord) : (x.vw n v).active = x.active := rfl
@[simp] theorem Slot.vw_park (x : Slot) (n : V) (v : VWord) : (x.vw n v).park = x.park := rfl
@[simp] theorem Slot.vw_sPark (x : Slot) (n : V) (v : VWord) : (x.vw n v).sPark = x.sPark := rfl
@[simp] theorem Slot.vw_yPark (x : Slot) (n : V) (v : VWord) : (x.vw n v).yPark = x.yPark := rfl
@[simp] theorem Slot.vw_forfeit (x : Slot) (n : V) (v : VWord) : (x.vw n v).forfeit = x.forfeit := rfl
@[simp] theorem Slot.vw_starting (x : Slot) (n : V) (v : VWord) : (x.vw n v).starting = x.starting := rfl
@[simp] theorem Slot.vw_fcsr (x : Slot) (n : V) (v : VWord) : (x.vw n v).fcsr = x.fcsr := rfl
@[simp] theorem Slot.vw_normturns (x : Slot) (n : V) (v : VWord) : (x.vw n v).normturns = x.normturns := rfl
@[simp] theorem Slot.vw_cntl (x : Slot) (n : V) (v : VWord) : (x.vw n v).cntl = x.cntl := rfl
@[simp] theorem Slot.vw_cnts (x : Slot) (n : V) (v : VWord) : (x.vw n v).cnts = x.cnts := rfl
@[simp] theorem Slot.vw_chkPower (x : Slot) (n : V) (v : VWord) : (x.vw n v).chkPower = x.chkPower := rfl
@[simp] theorem Slot.vw_chkHazard (x : Slot) (n : V) (v : VWord) : (x.vw n v).chkHazard = x.chkHazard := rfl
@[simp] theorem Slot.vw_tm (x : Slot) (n : V) (v : VWord) : (x.vw n v).tm = x.tm := rfl
@[simp] theorem Slot.vw_tinfo (x : Slot) (n : V) (v : VWord) : (x.vw n v).tinfo = x.tinfo := rfl
@[simp] theorem Slot.vw_tcode (x : Slot) (n : V) (v : VWord) : (x.vw n v).tcode = x.tcode := rfl
@[simp] theorem Slot.vw_trappc (x : Slot) (n : V) (v : VWord) : (x.vw n v).trappc = x.trappc := rfl
@[simp] theorem Slot.vw_trapval (x : Slot) (n : V) (v : VWord) : (x.vw n v).trapval = x.trapval := rfl
@[simp] theorem Slot.vw_save (x : Slot) (n : V) (v : VWord) : (x.vw n v).save = x.save := rfl
@[simp] theorem Slot.vw_trapOnly (x : Slot) (n : V) (v : VWord) : (x.vw n v).trapOnly = x.trapOnly := rfl
@[simp] theorem Slot.vw_retry (x : Slot) (n : V) (v : VWord) : (x.vw n v).retry = x.retry := rfl
@[simp] theorem Slot.vw_waive (x : Slot) (n : V) (v : VWord) : (x.vw n v).waive = x.waive := rfl
@[simp] theorem Slot.vw_deferred (x : Slot) (n : V) (v : VWord) : (x.vw n v).deferred = x.deferred := rfl
@[simp] theorem Slot.vw_streams (x : Slot) (n : V) (v : VWord) : (x.vw n v).streams = x.streams := rfl
@[simp] theorem Slot.vw_srep (x : Slot) (n : V) (v : VWord) : (x.vw n v).srep = x.srep := rfl
@[simp] theorem Slot.vw_sbarCnt (x : Slot) (n : V) (v : VWord) : (x.vw n v).sbarCnt = x.sbarCnt := rfl
@[simp] theorem Slot.vw_drawCnt (x : Slot) (n : V) (v : VWord) : (x.vw n v).drawCnt = x.drawCnt := rfl
@[simp] theorem Slot.vw_fseq (x : Slot) (n : V) (v : VWord) : (x.vw n v).fseq = x.fseq := rfl
@[simp] theorem Slot.vw_failed (x : Slot) (n : V) (v : VWord) : (x.vw n v).failed = x.failed := rfl
@[simp] theorem Slot.vw_faults (x : Slot) (n : V) (v : VWord) : (x.vw n v).faults = x.faults := rfl
@[simp] theorem Slot.vw_ctxGen (x : Slot) (n : V) (v : VWord) : (x.vw n v).ctxGen = x.ctxGen := rfl
@[simp] theorem Slot.vw_hostOrd (x : Slot) (n : V) (v : VWord) : (x.vw n v).hostOrd = x.hostOrd := rfl
@[simp] theorem Slot.pw_g (x : Slot) (n : P) (v : Bool) : (x.pw n v).g = x.g := by unfold Slot.pw; split <;> rfl
@[simp] theorem Slot.pw_f (x : Slot) (n : P) (v : Bool) : (x.pw n v).f = x.f := by unfold Slot.pw; split <;> rfl
@[simp] theorem Slot.pw_v (x : Slot) (n : P) (v : Bool) : (x.pw n v).v = x.v := by unfold Slot.pw; split <;> rfl
@[simp] theorem Slot.pw_k (x : Slot) (n : P) (v : Bool) : (x.pw n v).k = x.k := by unfold Slot.pw; split <;> rfl
@[simp] theorem Slot.pw_pc (x : Slot) (n : P) (v : Bool) : (x.pw n v).pc = x.pc := by unfold Slot.pw; split <;> rfl
@[simp] theorem Slot.pw_active (x : Slot) (n : P) (v : Bool) : (x.pw n v).active = x.active := by unfold Slot.pw; split <;> rfl
@[simp] theorem Slot.pw_park (x : Slot) (n : P) (v : Bool) : (x.pw n v).park = x.park := by unfold Slot.pw; split <;> rfl
@[simp] theorem Slot.pw_sPark (x : Slot) (n : P) (v : Bool) : (x.pw n v).sPark = x.sPark := by unfold Slot.pw; split <;> rfl
@[simp] theorem Slot.pw_yPark (x : Slot) (n : P) (v : Bool) : (x.pw n v).yPark = x.yPark := by unfold Slot.pw; split <;> rfl
@[simp] theorem Slot.pw_forfeit (x : Slot) (n : P) (v : Bool) : (x.pw n v).forfeit = x.forfeit := by unfold Slot.pw; split <;> rfl
@[simp] theorem Slot.pw_starting (x : Slot) (n : P) (v : Bool) : (x.pw n v).starting = x.starting := by unfold Slot.pw; split <;> rfl
@[simp] theorem Slot.pw_fcsr (x : Slot) (n : P) (v : Bool) : (x.pw n v).fcsr = x.fcsr := by unfold Slot.pw; split <;> rfl
@[simp] theorem Slot.pw_normturns (x : Slot) (n : P) (v : Bool) : (x.pw n v).normturns = x.normturns := by unfold Slot.pw; split <;> rfl
@[simp] theorem Slot.pw_cntl (x : Slot) (n : P) (v : Bool) : (x.pw n v).cntl = x.cntl := by unfold Slot.pw; split <;> rfl
@[simp] theorem Slot.pw_cnts (x : Slot) (n : P) (v : Bool) : (x.pw n v).cnts = x.cnts := by unfold Slot.pw; split <;> rfl
@[simp] theorem Slot.pw_chkPower (x : Slot) (n : P) (v : Bool) : (x.pw n v).chkPower = x.chkPower := by unfold Slot.pw; split <;> rfl
@[simp] theorem Slot.pw_chkHazard (x : Slot) (n : P) (v : Bool) : (x.pw n v).chkHazard = x.chkHazard := by unfold Slot.pw; split <;> rfl
@[simp] theorem Slot.pw_tm (x : Slot) (n : P) (v : Bool) : (x.pw n v).tm = x.tm := by unfold Slot.pw; split <;> rfl
@[simp] theorem Slot.pw_tinfo (x : Slot) (n : P) (v : Bool) : (x.pw n v).tinfo = x.tinfo := by unfold Slot.pw; split <;> rfl
@[simp] theorem Slot.pw_tcode (x : Slot) (n : P) (v : Bool) : (x.pw n v).tcode = x.tcode := by unfold Slot.pw; split <;> rfl
@[simp] theorem Slot.pw_trappc (x : Slot) (n : P) (v : Bool) : (x.pw n v).trappc = x.trappc := by unfold Slot.pw; split <;> rfl
@[simp] theorem Slot.pw_trapval (x : Slot) (n : P) (v : Bool) : (x.pw n v).trapval = x.trapval := by unfold Slot.pw; split <;> rfl
@[simp] theorem Slot.pw_save (x : Slot) (n : P) (v : Bool) : (x.pw n v).save = x.save := by unfold Slot.pw; split <;> rfl
@[simp] theorem Slot.pw_trapOnly (x : Slot) (n : P) (v : Bool) : (x.pw n v).trapOnly = x.trapOnly := by unfold Slot.pw; split <;> rfl
@[simp] theorem Slot.pw_retry (x : Slot) (n : P) (v : Bool) : (x.pw n v).retry = x.retry := by unfold Slot.pw; split <;> rfl
@[simp] theorem Slot.pw_waive (x : Slot) (n : P) (v : Bool) : (x.pw n v).waive = x.waive := by unfold Slot.pw; split <;> rfl
@[simp] theorem Slot.pw_deferred (x : Slot) (n : P) (v : Bool) : (x.pw n v).deferred = x.deferred := by unfold Slot.pw; split <;> rfl
@[simp] theorem Slot.pw_streams (x : Slot) (n : P) (v : Bool) : (x.pw n v).streams = x.streams := by unfold Slot.pw; split <;> rfl
@[simp] theorem Slot.pw_srep (x : Slot) (n : P) (v : Bool) : (x.pw n v).srep = x.srep := by unfold Slot.pw; split <;> rfl
@[simp] theorem Slot.pw_sbarCnt (x : Slot) (n : P) (v : Bool) : (x.pw n v).sbarCnt = x.sbarCnt := by unfold Slot.pw; split <;> rfl
@[simp] theorem Slot.pw_drawCnt (x : Slot) (n : P) (v : Bool) : (x.pw n v).drawCnt = x.drawCnt := by unfold Slot.pw; split <;> rfl
@[simp] theorem Slot.pw_fseq (x : Slot) (n : P) (v : Bool) : (x.pw n v).fseq = x.fseq := by unfold Slot.pw; split <;> rfl
@[simp] theorem Slot.pw_failed (x : Slot) (n : P) (v : Bool) : (x.pw n v).failed = x.failed := by unfold Slot.pw; split <;> rfl
@[simp] theorem Slot.pw_faults (x : Slot) (n : P) (v : Bool) : (x.pw n v).faults = x.faults := by unfold Slot.pw; split <;> rfl
@[simp] theorem Slot.pw_ctxGen (x : Slot) (n : P) (v : Bool) : (x.pw n v).ctxGen = x.ctxGen := by unfold Slot.pw; split <;> rfl
@[simp] theorem Slot.pw_hostOrd (x : Slot) (n : P) (v : Bool) : (x.pw n v).hostOrd = x.hostOrd := by unfold Slot.pw; split <;> rfl
@[simp] theorem Slot.kw_g (x : Slot) (n : K) (v : Word) : (x.kw n v).g = x.g := rfl
@[simp] theorem Slot.kw_f (x : Slot) (n : K) (v : Word) : (x.kw n v).f = x.f := rfl
@[simp] theorem Slot.kw_v (x : Slot) (n : K) (v : Word) : (x.kw n v).v = x.v := rfl
@[simp] theorem Slot.kw_p (x : Slot) (n : K) (v : Word) : (x.kw n v).p = x.p := rfl
@[simp] theorem Slot.kw_pc (x : Slot) (n : K) (v : Word) : (x.kw n v).pc = x.pc := rfl
@[simp] theorem Slot.kw_active (x : Slot) (n : K) (v : Word) : (x.kw n v).active = x.active := rfl
@[simp] theorem Slot.kw_park (x : Slot) (n : K) (v : Word) : (x.kw n v).park = x.park := rfl
@[simp] theorem Slot.kw_sPark (x : Slot) (n : K) (v : Word) : (x.kw n v).sPark = x.sPark := rfl
@[simp] theorem Slot.kw_yPark (x : Slot) (n : K) (v : Word) : (x.kw n v).yPark = x.yPark := rfl
@[simp] theorem Slot.kw_forfeit (x : Slot) (n : K) (v : Word) : (x.kw n v).forfeit = x.forfeit := rfl
@[simp] theorem Slot.kw_starting (x : Slot) (n : K) (v : Word) : (x.kw n v).starting = x.starting := rfl
@[simp] theorem Slot.kw_fcsr (x : Slot) (n : K) (v : Word) : (x.kw n v).fcsr = x.fcsr := rfl
@[simp] theorem Slot.kw_normturns (x : Slot) (n : K) (v : Word) : (x.kw n v).normturns = x.normturns := rfl
@[simp] theorem Slot.kw_cntl (x : Slot) (n : K) (v : Word) : (x.kw n v).cntl = x.cntl := rfl
@[simp] theorem Slot.kw_cnts (x : Slot) (n : K) (v : Word) : (x.kw n v).cnts = x.cnts := rfl
@[simp] theorem Slot.kw_chkPower (x : Slot) (n : K) (v : Word) : (x.kw n v).chkPower = x.chkPower := rfl
@[simp] theorem Slot.kw_chkHazard (x : Slot) (n : K) (v : Word) : (x.kw n v).chkHazard = x.chkHazard := rfl
@[simp] theorem Slot.kw_tm (x : Slot) (n : K) (v : Word) : (x.kw n v).tm = x.tm := rfl
@[simp] theorem Slot.kw_tinfo (x : Slot) (n : K) (v : Word) : (x.kw n v).tinfo = x.tinfo := rfl
@[simp] theorem Slot.kw_tcode (x : Slot) (n : K) (v : Word) : (x.kw n v).tcode = x.tcode := rfl
@[simp] theorem Slot.kw_trappc (x : Slot) (n : K) (v : Word) : (x.kw n v).trappc = x.trappc := rfl
@[simp] theorem Slot.kw_trapval (x : Slot) (n : K) (v : Word) : (x.kw n v).trapval = x.trapval := rfl
@[simp] theorem Slot.kw_save (x : Slot) (n : K) (v : Word) : (x.kw n v).save = x.save := rfl
@[simp] theorem Slot.kw_trapOnly (x : Slot) (n : K) (v : Word) : (x.kw n v).trapOnly = x.trapOnly := rfl
@[simp] theorem Slot.kw_retry (x : Slot) (n : K) (v : Word) : (x.kw n v).retry = x.retry := rfl
@[simp] theorem Slot.kw_waive (x : Slot) (n : K) (v : Word) : (x.kw n v).waive = x.waive := rfl
@[simp] theorem Slot.kw_deferred (x : Slot) (n : K) (v : Word) : (x.kw n v).deferred = x.deferred := rfl
@[simp] theorem Slot.kw_streams (x : Slot) (n : K) (v : Word) : (x.kw n v).streams = x.streams := rfl
@[simp] theorem Slot.kw_srep (x : Slot) (n : K) (v : Word) : (x.kw n v).srep = x.srep := rfl
@[simp] theorem Slot.kw_sbarCnt (x : Slot) (n : K) (v : Word) : (x.kw n v).sbarCnt = x.sbarCnt := rfl
@[simp] theorem Slot.kw_drawCnt (x : Slot) (n : K) (v : Word) : (x.kw n v).drawCnt = x.drawCnt := rfl
@[simp] theorem Slot.kw_fseq (x : Slot) (n : K) (v : Word) : (x.kw n v).fseq = x.fseq := rfl
@[simp] theorem Slot.kw_failed (x : Slot) (n : K) (v : Word) : (x.kw n v).failed = x.failed := rfl
@[simp] theorem Slot.kw_faults (x : Slot) (n : K) (v : Word) : (x.kw n v).faults = x.faults := rfl
@[simp] theorem Slot.kw_ctxGen (x : Slot) (n : K) (v : Word) : (x.kw n v).ctxGen = x.ctxGen := rfl
@[simp] theorem Slot.kw_hostOrd (x : Slot) (n : K) (v : Word) : (x.kw n v).hostOrd = x.hostOrd := rfl
@[simp] theorem Slot.raise_g (x : Slot) (n : Nat) : (x.raise n).g = x.g := rfl
@[simp] theorem Slot.raise_f (x : Slot) (n : Nat) : (x.raise n).f = x.f := rfl
@[simp] theorem Slot.raise_v (x : Slot) (n : Nat) : (x.raise n).v = x.v := rfl
@[simp] theorem Slot.raise_p (x : Slot) (n : Nat) : (x.raise n).p = x.p := rfl
@[simp] theorem Slot.raise_k (x : Slot) (n : Nat) : (x.raise n).k = x.k := rfl
@[simp] theorem Slot.raise_pc (x : Slot) (n : Nat) : (x.raise n).pc = x.pc := rfl
@[simp] theorem Slot.raise_active (x : Slot) (n : Nat) : (x.raise n).active = x.active := rfl
@[simp] theorem Slot.raise_park (x : Slot) (n : Nat) : (x.raise n).park = x.park := rfl
@[simp] theorem Slot.raise_sPark (x : Slot) (n : Nat) : (x.raise n).sPark = x.sPark := rfl
@[simp] theorem Slot.raise_yPark (x : Slot) (n : Nat) : (x.raise n).yPark = x.yPark := rfl
@[simp] theorem Slot.raise_forfeit (x : Slot) (n : Nat) : (x.raise n).forfeit = x.forfeit := rfl
@[simp] theorem Slot.raise_starting (x : Slot) (n : Nat) : (x.raise n).starting = x.starting := rfl
@[simp] theorem Slot.raise_normturns (x : Slot) (n : Nat) : (x.raise n).normturns = x.normturns := rfl
@[simp] theorem Slot.raise_cntl (x : Slot) (n : Nat) : (x.raise n).cntl = x.cntl := rfl
@[simp] theorem Slot.raise_cnts (x : Slot) (n : Nat) : (x.raise n).cnts = x.cnts := rfl
@[simp] theorem Slot.raise_chkPower (x : Slot) (n : Nat) : (x.raise n).chkPower = x.chkPower := rfl
@[simp] theorem Slot.raise_chkHazard (x : Slot) (n : Nat) : (x.raise n).chkHazard = x.chkHazard := rfl
@[simp] theorem Slot.raise_tm (x : Slot) (n : Nat) : (x.raise n).tm = x.tm := rfl
@[simp] theorem Slot.raise_tinfo (x : Slot) (n : Nat) : (x.raise n).tinfo = x.tinfo := rfl
@[simp] theorem Slot.raise_tcode (x : Slot) (n : Nat) : (x.raise n).tcode = x.tcode := rfl
@[simp] theorem Slot.raise_trappc (x : Slot) (n : Nat) : (x.raise n).trappc = x.trappc := rfl
@[simp] theorem Slot.raise_trapval (x : Slot) (n : Nat) : (x.raise n).trapval = x.trapval := rfl
@[simp] theorem Slot.raise_save (x : Slot) (n : Nat) : (x.raise n).save = x.save := rfl
@[simp] theorem Slot.raise_trapOnly (x : Slot) (n : Nat) : (x.raise n).trapOnly = x.trapOnly := rfl
@[simp] theorem Slot.raise_retry (x : Slot) (n : Nat) : (x.raise n).retry = x.retry := rfl
@[simp] theorem Slot.raise_waive (x : Slot) (n : Nat) : (x.raise n).waive = x.waive := rfl
@[simp] theorem Slot.raise_deferred (x : Slot) (n : Nat) : (x.raise n).deferred = x.deferred := rfl
@[simp] theorem Slot.raise_streams (x : Slot) (n : Nat) : (x.raise n).streams = x.streams := rfl
@[simp] theorem Slot.raise_srep (x : Slot) (n : Nat) : (x.raise n).srep = x.srep := rfl
@[simp] theorem Slot.raise_sbarCnt (x : Slot) (n : Nat) : (x.raise n).sbarCnt = x.sbarCnt := rfl
@[simp] theorem Slot.raise_drawCnt (x : Slot) (n : Nat) : (x.raise n).drawCnt = x.drawCnt := rfl
@[simp] theorem Slot.raise_ops (x : Slot) (n : Nat) : (x.raise n).ops = x.ops := rfl
@[simp] theorem Slot.raise_fseq (x : Slot) (n : Nat) : (x.raise n).fseq = x.fseq := rfl
@[simp] theorem Slot.raise_bad (x : Slot) (n : Nat) : (x.raise n).bad = x.bad := rfl
@[simp] theorem Slot.raise_ra (x : Slot) (n : Nat) : (x.raise n).ra = x.ra := rfl
@[simp] theorem Slot.raise_failed (x : Slot) (n : Nat) : (x.raise n).failed = x.failed := rfl
@[simp] theorem Slot.raise_faults (x : Slot) (n : Nat) : (x.raise n).faults = x.faults := rfl
@[simp] theorem Slot.raise_ctxGen (x : Slot) (n : Nat) : (x.raise n).ctxGen = x.ctxGen := rfl
@[simp] theorem Slot.raise_hostOrd (x : Slot) (n : Nat) : (x.raise n).hostOrd = x.hostOrd := rfl
@[simp] theorem Slot.normalise_g (x : Slot) (b : Bool) : (x.normalise b).g = x.g := by unfold Slot.normalise; split <;> rfl
@[simp] theorem Slot.normalise_f (x : Slot) (b : Bool) : (x.normalise b).f = x.f := by unfold Slot.normalise; split <;> rfl
@[simp] theorem Slot.normalise_v (x : Slot) (b : Bool) : (x.normalise b).v = x.v := by unfold Slot.normalise; split <;> rfl
@[simp] theorem Slot.normalise_p (x : Slot) (b : Bool) : (x.normalise b).p = x.p := by unfold Slot.normalise; split <;> rfl
@[simp] theorem Slot.normalise_k (x : Slot) (b : Bool) : (x.normalise b).k = x.k := by unfold Slot.normalise; split <;> rfl
@[simp] theorem Slot.normalise_pc (x : Slot) (b : Bool) : (x.normalise b).pc = x.pc := by unfold Slot.normalise; split <;> rfl
@[simp] theorem Slot.normalise_active (x : Slot) (b : Bool) : (x.normalise b).active = x.active := by unfold Slot.normalise; split <;> rfl
@[simp] theorem Slot.normalise_park (x : Slot) (b : Bool) : (x.normalise b).park = x.park := by unfold Slot.normalise; split <;> rfl
@[simp] theorem Slot.normalise_sPark (x : Slot) (b : Bool) : (x.normalise b).sPark = x.sPark := by unfold Slot.normalise; split <;> rfl
@[simp] theorem Slot.normalise_yPark (x : Slot) (b : Bool) : (x.normalise b).yPark = x.yPark := by unfold Slot.normalise; split <;> rfl
@[simp] theorem Slot.normalise_starting (x : Slot) (b : Bool) : (x.normalise b).starting = x.starting := by unfold Slot.normalise; split <;> rfl
@[simp] theorem Slot.normalise_fcsr (x : Slot) (b : Bool) : (x.normalise b).fcsr = x.fcsr := by unfold Slot.normalise; split <;> rfl
@[simp] theorem Slot.normalise_cntl (x : Slot) (b : Bool) : (x.normalise b).cntl = x.cntl := by unfold Slot.normalise; split <;> rfl
@[simp] theorem Slot.normalise_cnts (x : Slot) (b : Bool) : (x.normalise b).cnts = x.cnts := by unfold Slot.normalise; split <;> rfl
@[simp] theorem Slot.normalise_chkPower (x : Slot) (b : Bool) : (x.normalise b).chkPower = x.chkPower := by unfold Slot.normalise; split <;> rfl
@[simp] theorem Slot.normalise_chkHazard (x : Slot) (b : Bool) : (x.normalise b).chkHazard = x.chkHazard := by unfold Slot.normalise; split <;> rfl
@[simp] theorem Slot.normalise_tm (x : Slot) (b : Bool) : (x.normalise b).tm = x.tm := by unfold Slot.normalise; split <;> rfl
@[simp] theorem Slot.normalise_tinfo (x : Slot) (b : Bool) : (x.normalise b).tinfo = x.tinfo := by unfold Slot.normalise; split <;> rfl
@[simp] theorem Slot.normalise_tcode (x : Slot) (b : Bool) : (x.normalise b).tcode = x.tcode := by unfold Slot.normalise; split <;> rfl
@[simp] theorem Slot.normalise_trappc (x : Slot) (b : Bool) : (x.normalise b).trappc = x.trappc := by unfold Slot.normalise; split <;> rfl
@[simp] theorem Slot.normalise_trapval (x : Slot) (b : Bool) : (x.normalise b).trapval = x.trapval := by unfold Slot.normalise; split <;> rfl
@[simp] theorem Slot.normalise_save (x : Slot) (b : Bool) : (x.normalise b).save = x.save := by unfold Slot.normalise; split <;> rfl
@[simp] theorem Slot.normalise_trapOnly (x : Slot) (b : Bool) : (x.normalise b).trapOnly = x.trapOnly := by unfold Slot.normalise; split <;> rfl
@[simp] theorem Slot.normalise_retry (x : Slot) (b : Bool) : (x.normalise b).retry = x.retry := by unfold Slot.normalise; split <;> rfl
@[simp] theorem Slot.normalise_waive (x : Slot) (b : Bool) : (x.normalise b).waive = x.waive := by unfold Slot.normalise; split <;> rfl
@[simp] theorem Slot.normalise_deferred (x : Slot) (b : Bool) : (x.normalise b).deferred = x.deferred := by unfold Slot.normalise; split <;> rfl
@[simp] theorem Slot.normalise_streams (x : Slot) (b : Bool) : (x.normalise b).streams = x.streams := by unfold Slot.normalise; split <;> rfl
@[simp] theorem Slot.normalise_srep (x : Slot) (b : Bool) : (x.normalise b).srep = x.srep := by unfold Slot.normalise; split <;> rfl
@[simp] theorem Slot.normalise_sbarCnt (x : Slot) (b : Bool) : (x.normalise b).sbarCnt = x.sbarCnt := by unfold Slot.normalise; split <;> rfl
@[simp] theorem Slot.normalise_drawCnt (x : Slot) (b : Bool) : (x.normalise b).drawCnt = x.drawCnt := by unfold Slot.normalise; split <;> rfl
@[simp] theorem Slot.normalise_ops (x : Slot) (b : Bool) : (x.normalise b).ops = x.ops := by unfold Slot.normalise; split <;> rfl
@[simp] theorem Slot.normalise_fseq (x : Slot) (b : Bool) : (x.normalise b).fseq = x.fseq := by unfold Slot.normalise; split <;> rfl
@[simp] theorem Slot.normalise_bad (x : Slot) (b : Bool) : (x.normalise b).bad = x.bad := by unfold Slot.normalise; split <;> rfl
@[simp] theorem Slot.normalise_ra (x : Slot) (b : Bool) : (x.normalise b).ra = x.ra := by unfold Slot.normalise; split <;> rfl
@[simp] theorem Slot.normalise_failed (x : Slot) (b : Bool) : (x.normalise b).failed = x.failed := by unfold Slot.normalise; split <;> rfl
@[simp] theorem Slot.normalise_faults (x : Slot) (b : Bool) : (x.normalise b).faults = x.faults := by unfold Slot.normalise; split <;> rfl
@[simp] theorem Slot.normalise_ctxGen (x : Slot) (b : Bool) : (x.normalise b).ctxGen = x.ctxGen := by unfold Slot.normalise; split <;> rfl
@[simp] theorem Slot.normalise_hostOrd (x : Slot) (b : Bool) : (x.normalise b).hostOrd = x.hostOrd := by unfold Slot.normalise; split <;> rfl
@[simp] theorem Slot.hints_g (x : Slot) (h : Hdr) (m b : Nat) : (x.hints h m b).g = x.g := rfl
@[simp] theorem Slot.hints_f (x : Slot) (h : Hdr) (m b : Nat) : (x.hints h m b).f = x.f := rfl
@[simp] theorem Slot.hints_v (x : Slot) (h : Hdr) (m b : Nat) : (x.hints h m b).v = x.v := rfl
@[simp] theorem Slot.hints_p (x : Slot) (h : Hdr) (m b : Nat) : (x.hints h m b).p = x.p := rfl
@[simp] theorem Slot.hints_k (x : Slot) (h : Hdr) (m b : Nat) : (x.hints h m b).k = x.k := rfl
@[simp] theorem Slot.hints_pc (x : Slot) (h : Hdr) (m b : Nat) : (x.hints h m b).pc = x.pc := rfl
@[simp] theorem Slot.hints_active (x : Slot) (h : Hdr) (m b : Nat) : (x.hints h m b).active = x.active := rfl
@[simp] theorem Slot.hints_park (x : Slot) (h : Hdr) (m b : Nat) : (x.hints h m b).park = x.park := rfl
@[simp] theorem Slot.hints_forfeit (x : Slot) (h : Hdr) (m b : Nat) : (x.hints h m b).forfeit = x.forfeit := rfl
@[simp] theorem Slot.hints_starting (x : Slot) (h : Hdr) (m b : Nat) : (x.hints h m b).starting = x.starting := rfl
@[simp] theorem Slot.hints_fcsr (x : Slot) (h : Hdr) (m b : Nat) : (x.hints h m b).fcsr = x.fcsr := rfl
@[simp] theorem Slot.hints_normturns (x : Slot) (h : Hdr) (m b : Nat) : (x.hints h m b).normturns = x.normturns := rfl
@[simp] theorem Slot.hints_cntl (x : Slot) (h : Hdr) (m b : Nat) : (x.hints h m b).cntl = x.cntl := rfl
@[simp] theorem Slot.hints_cnts (x : Slot) (h : Hdr) (m b : Nat) : (x.hints h m b).cnts = x.cnts := rfl
@[simp] theorem Slot.hints_chkPower (x : Slot) (h : Hdr) (m b : Nat) : (x.hints h m b).chkPower = x.chkPower := rfl
@[simp] theorem Slot.hints_chkHazard (x : Slot) (h : Hdr) (m b : Nat) : (x.hints h m b).chkHazard = x.chkHazard := rfl
@[simp] theorem Slot.hints_tm (x : Slot) (h : Hdr) (m b : Nat) : (x.hints h m b).tm = x.tm := rfl
@[simp] theorem Slot.hints_tinfo (x : Slot) (h : Hdr) (m b : Nat) : (x.hints h m b).tinfo = x.tinfo := rfl
@[simp] theorem Slot.hints_tcode (x : Slot) (h : Hdr) (m b : Nat) : (x.hints h m b).tcode = x.tcode := rfl
@[simp] theorem Slot.hints_trappc (x : Slot) (h : Hdr) (m b : Nat) : (x.hints h m b).trappc = x.trappc := rfl
@[simp] theorem Slot.hints_trapval (x : Slot) (h : Hdr) (m b : Nat) : (x.hints h m b).trapval = x.trapval := rfl
@[simp] theorem Slot.hints_save (x : Slot) (h : Hdr) (m b : Nat) : (x.hints h m b).save = x.save := rfl
@[simp] theorem Slot.hints_trapOnly (x : Slot) (h : Hdr) (m b : Nat) : (x.hints h m b).trapOnly = x.trapOnly := rfl
@[simp] theorem Slot.hints_retry (x : Slot) (h : Hdr) (m b : Nat) : (x.hints h m b).retry = x.retry := rfl
@[simp] theorem Slot.hints_waive (x : Slot) (h : Hdr) (m b : Nat) : (x.hints h m b).waive = x.waive := rfl
@[simp] theorem Slot.hints_deferred (x : Slot) (h : Hdr) (m b : Nat) : (x.hints h m b).deferred = x.deferred := rfl
@[simp] theorem Slot.hints_streams (x : Slot) (h : Hdr) (m b : Nat) : (x.hints h m b).streams = x.streams := rfl
@[simp] theorem Slot.hints_srep (x : Slot) (h : Hdr) (m b : Nat) : (x.hints h m b).srep = x.srep := rfl
@[simp] theorem Slot.hints_sbarCnt (x : Slot) (h : Hdr) (m b : Nat) : (x.hints h m b).sbarCnt = x.sbarCnt := rfl
@[simp] theorem Slot.hints_drawCnt (x : Slot) (h : Hdr) (m b : Nat) : (x.hints h m b).drawCnt = x.drawCnt := rfl
@[simp] theorem Slot.hints_ops (x : Slot) (h : Hdr) (m b : Nat) : (x.hints h m b).ops = x.ops := rfl
@[simp] theorem Slot.hints_fseq (x : Slot) (h : Hdr) (m b : Nat) : (x.hints h m b).fseq = x.fseq := rfl
@[simp] theorem Slot.hints_bad (x : Slot) (h : Hdr) (m b : Nat) : (x.hints h m b).bad = x.bad := rfl
@[simp] theorem Slot.hints_ra (x : Slot) (h : Hdr) (m b : Nat) : (x.hints h m b).ra = x.ra := rfl
@[simp] theorem Slot.hints_failed (x : Slot) (h : Hdr) (m b : Nat) : (x.hints h m b).failed = x.failed := rfl
@[simp] theorem Slot.hints_faults (x : Slot) (h : Hdr) (m b : Nat) : (x.hints h m b).faults = x.faults := rfl
@[simp] theorem Slot.hints_ctxGen (x : Slot) (h : Hdr) (m b : Nat) : (x.hints h m b).ctxGen = x.ctxGen := rfl
@[simp] theorem Slot.hints_hostOrd (x : Slot) (h : Hdr) (m b : Nat) : (x.hints h m b).hostOrd = x.hostOrd := rfl
@[simp] theorem Slot.advance_g (h : Hdr) (m b : Nat) (x : Slot) : (Slot.advance h m b x).g = x.g := by unfold Slot.advance; (repeat' split) <;> rfl
@[simp] theorem Slot.advance_f (h : Hdr) (m b : Nat) (x : Slot) : (Slot.advance h m b x).f = x.f := by unfold Slot.advance; (repeat' split) <;> rfl
@[simp] theorem Slot.advance_v (h : Hdr) (m b : Nat) (x : Slot) : (Slot.advance h m b x).v = x.v := by unfold Slot.advance; (repeat' split) <;> rfl
@[simp] theorem Slot.advance_p (h : Hdr) (m b : Nat) (x : Slot) : (Slot.advance h m b x).p = x.p := by unfold Slot.advance; (repeat' split) <;> rfl
@[simp] theorem Slot.advance_k (h : Hdr) (m b : Nat) (x : Slot) : (Slot.advance h m b x).k = x.k := by unfold Slot.advance; (repeat' split) <;> rfl
@[simp] theorem Slot.advance_active (h : Hdr) (m b : Nat) (x : Slot) : (Slot.advance h m b x).active = x.active := by unfold Slot.advance; (repeat' split) <;> rfl
@[simp] theorem Slot.advance_park (h : Hdr) (m b : Nat) (x : Slot) : (Slot.advance h m b x).park = x.park := by unfold Slot.advance; (repeat' split) <;> rfl
@[simp] theorem Slot.advance_forfeit (h : Hdr) (m b : Nat) (x : Slot) : (Slot.advance h m b x).forfeit = x.forfeit := by unfold Slot.advance; (repeat' split) <;> rfl
@[simp] theorem Slot.advance_starting (h : Hdr) (m b : Nat) (x : Slot) : (Slot.advance h m b x).starting = x.starting := by unfold Slot.advance; (repeat' split) <;> rfl
@[simp] theorem Slot.advance_fcsr (h : Hdr) (m b : Nat) (x : Slot) : (Slot.advance h m b x).fcsr = x.fcsr := by unfold Slot.advance; (repeat' split) <;> rfl
@[simp] theorem Slot.advance_normturns (h : Hdr) (m b : Nat) (x : Slot) : (Slot.advance h m b x).normturns = x.normturns := by unfold Slot.advance; (repeat' split) <;> rfl
@[simp] theorem Slot.advance_cntl (h : Hdr) (m b : Nat) (x : Slot) : (Slot.advance h m b x).cntl = x.cntl := by unfold Slot.advance; (repeat' split) <;> rfl
@[simp] theorem Slot.advance_cnts (h : Hdr) (m b : Nat) (x : Slot) : (Slot.advance h m b x).cnts = x.cnts := by unfold Slot.advance; (repeat' split) <;> rfl
@[simp] theorem Slot.advance_chkPower (h : Hdr) (m b : Nat) (x : Slot) : (Slot.advance h m b x).chkPower = x.chkPower := by unfold Slot.advance; (repeat' split) <;> rfl
@[simp] theorem Slot.advance_chkHazard (h : Hdr) (m b : Nat) (x : Slot) : (Slot.advance h m b x).chkHazard = x.chkHazard := by unfold Slot.advance; (repeat' split) <;> rfl
@[simp] theorem Slot.advance_tm (h : Hdr) (m b : Nat) (x : Slot) : (Slot.advance h m b x).tm = x.tm := by unfold Slot.advance; (repeat' split) <;> rfl
@[simp] theorem Slot.advance_tinfo (h : Hdr) (m b : Nat) (x : Slot) : (Slot.advance h m b x).tinfo = x.tinfo := by unfold Slot.advance; (repeat' split) <;> rfl
@[simp] theorem Slot.advance_tcode (h : Hdr) (m b : Nat) (x : Slot) : (Slot.advance h m b x).tcode = x.tcode := by unfold Slot.advance; (repeat' split) <;> rfl
@[simp] theorem Slot.advance_trappc (h : Hdr) (m b : Nat) (x : Slot) : (Slot.advance h m b x).trappc = x.trappc := by unfold Slot.advance; (repeat' split) <;> rfl
@[simp] theorem Slot.advance_trapval (h : Hdr) (m b : Nat) (x : Slot) : (Slot.advance h m b x).trapval = x.trapval := by unfold Slot.advance; (repeat' split) <;> rfl
@[simp] theorem Slot.advance_save (h : Hdr) (m b : Nat) (x : Slot) : (Slot.advance h m b x).save = x.save := by unfold Slot.advance; (repeat' split) <;> rfl
@[simp] theorem Slot.advance_trapOnly (h : Hdr) (m b : Nat) (x : Slot) : (Slot.advance h m b x).trapOnly = x.trapOnly := by unfold Slot.advance; (repeat' split) <;> rfl
@[simp] theorem Slot.advance_deferred (h : Hdr) (m b : Nat) (x : Slot) : (Slot.advance h m b x).deferred = x.deferred := by unfold Slot.advance; (repeat' split) <;> rfl
@[simp] theorem Slot.advance_streams (h : Hdr) (m b : Nat) (x : Slot) : (Slot.advance h m b x).streams = x.streams := by unfold Slot.advance; (repeat' split) <;> rfl
@[simp] theorem Slot.advance_sbarCnt (h : Hdr) (m b : Nat) (x : Slot) : (Slot.advance h m b x).sbarCnt = x.sbarCnt := by unfold Slot.advance; (repeat' split) <;> rfl
@[simp] theorem Slot.advance_drawCnt (h : Hdr) (m b : Nat) (x : Slot) : (Slot.advance h m b x).drawCnt = x.drawCnt := by unfold Slot.advance; (repeat' split) <;> rfl
@[simp] theorem Slot.advance_ops (h : Hdr) (m b : Nat) (x : Slot) : (Slot.advance h m b x).ops = x.ops := by unfold Slot.advance; (repeat' split) <;> rfl
@[simp] theorem Slot.advance_fseq (h : Hdr) (m b : Nat) (x : Slot) : (Slot.advance h m b x).fseq = x.fseq := by unfold Slot.advance; (repeat' split) <;> rfl
@[simp] theorem Slot.advance_bad (h : Hdr) (m b : Nat) (x : Slot) : (Slot.advance h m b x).bad = x.bad := by unfold Slot.advance; (repeat' split) <;> rfl
@[simp] theorem Slot.advance_ra (h : Hdr) (m b : Nat) (x : Slot) : (Slot.advance h m b x).ra = x.ra := by unfold Slot.advance; (repeat' split) <;> rfl
@[simp] theorem Slot.advance_failed (h : Hdr) (m b : Nat) (x : Slot) : (Slot.advance h m b x).failed = x.failed := by unfold Slot.advance; (repeat' split) <;> rfl
@[simp] theorem Slot.advance_faults (h : Hdr) (m b : Nat) (x : Slot) : (Slot.advance h m b x).faults = x.faults := by unfold Slot.advance; (repeat' split) <;> rfl
@[simp] theorem Slot.advance_ctxGen (h : Hdr) (m b : Nat) (x : Slot) : (Slot.advance h m b x).ctxGen = x.ctxGen := by unfold Slot.advance; (repeat' split) <;> rfl
@[simp] theorem Slot.advance_hostOrd (h : Hdr) (m b : Nat) (x : Slot) : (Slot.advance h m b x).hostOrd = x.hostOrd := by unfold Slot.advance; (repeat' split) <;> rfl
@[simp] theorem Slot.order_g (x y : Slot) (h : Hdr) (q : Req) (j : Bool) : (x.order y h q j).g = y.g := rfl
@[simp] theorem Slot.order_f (x y : Slot) (h : Hdr) (q : Req) (j : Bool) : (x.order y h q j).f = y.f := rfl
@[simp] theorem Slot.order_v (x y : Slot) (h : Hdr) (q : Req) (j : Bool) : (x.order y h q j).v = y.v := rfl
@[simp] theorem Slot.order_p (x y : Slot) (h : Hdr) (q : Req) (j : Bool) : (x.order y h q j).p = y.p := rfl
@[simp] theorem Slot.order_k (x y : Slot) (h : Hdr) (q : Req) (j : Bool) : (x.order y h q j).k = y.k := rfl
@[simp] theorem Slot.order_pc (x y : Slot) (h : Hdr) (q : Req) (j : Bool) : (x.order y h q j).pc = y.pc := rfl
@[simp] theorem Slot.order_active (x y : Slot) (h : Hdr) (q : Req) (j : Bool) : (x.order y h q j).active = y.active := rfl
@[simp] theorem Slot.order_park (x y : Slot) (h : Hdr) (q : Req) (j : Bool) : (x.order y h q j).park = y.park := rfl
@[simp] theorem Slot.order_sPark (x y : Slot) (h : Hdr) (q : Req) (j : Bool) : (x.order y h q j).sPark = y.sPark := rfl
@[simp] theorem Slot.order_yPark (x y : Slot) (h : Hdr) (q : Req) (j : Bool) : (x.order y h q j).yPark = y.yPark := rfl
@[simp] theorem Slot.order_forfeit (x y : Slot) (h : Hdr) (q : Req) (j : Bool) : (x.order y h q j).forfeit = y.forfeit := rfl
@[simp] theorem Slot.order_starting (x y : Slot) (h : Hdr) (q : Req) (j : Bool) : (x.order y h q j).starting = y.starting := rfl
@[simp] theorem Slot.order_fcsr (x y : Slot) (h : Hdr) (q : Req) (j : Bool) : (x.order y h q j).fcsr = y.fcsr := rfl
@[simp] theorem Slot.order_normturns (x y : Slot) (h : Hdr) (q : Req) (j : Bool) : (x.order y h q j).normturns = y.normturns := rfl
@[simp] theorem Slot.order_cntl (x y : Slot) (h : Hdr) (q : Req) (j : Bool) : (x.order y h q j).cntl = y.cntl := rfl
@[simp] theorem Slot.order_cnts (x y : Slot) (h : Hdr) (q : Req) (j : Bool) : (x.order y h q j).cnts = y.cnts := rfl
@[simp] theorem Slot.order_chkPower (x y : Slot) (h : Hdr) (q : Req) (j : Bool) : (x.order y h q j).chkPower = y.chkPower := rfl
@[simp] theorem Slot.order_chkHazard (x y : Slot) (h : Hdr) (q : Req) (j : Bool) : (x.order y h q j).chkHazard = y.chkHazard := rfl
@[simp] theorem Slot.order_tm (x y : Slot) (h : Hdr) (q : Req) (j : Bool) : (x.order y h q j).tm = y.tm := rfl
@[simp] theorem Slot.order_tinfo (x y : Slot) (h : Hdr) (q : Req) (j : Bool) : (x.order y h q j).tinfo = y.tinfo := rfl
@[simp] theorem Slot.order_tcode (x y : Slot) (h : Hdr) (q : Req) (j : Bool) : (x.order y h q j).tcode = y.tcode := rfl
@[simp] theorem Slot.order_trappc (x y : Slot) (h : Hdr) (q : Req) (j : Bool) : (x.order y h q j).trappc = y.trappc := rfl
@[simp] theorem Slot.order_trapval (x y : Slot) (h : Hdr) (q : Req) (j : Bool) : (x.order y h q j).trapval = y.trapval := rfl
@[simp] theorem Slot.order_save (x y : Slot) (h : Hdr) (q : Req) (j : Bool) : (x.order y h q j).save = y.save := rfl
@[simp] theorem Slot.order_trapOnly (x y : Slot) (h : Hdr) (q : Req) (j : Bool) : (x.order y h q j).trapOnly = y.trapOnly := rfl
@[simp] theorem Slot.order_retry (x y : Slot) (h : Hdr) (q : Req) (j : Bool) : (x.order y h q j).retry = y.retry := rfl
@[simp] theorem Slot.order_waive (x y : Slot) (h : Hdr) (q : Req) (j : Bool) : (x.order y h q j).waive = y.waive := rfl
@[simp] theorem Slot.order_deferred (x y : Slot) (h : Hdr) (q : Req) (j : Bool) : (x.order y h q j).deferred = y.deferred := rfl
@[simp] theorem Slot.order_streams (x y : Slot) (h : Hdr) (q : Req) (j : Bool) : (x.order y h q j).streams = y.streams := rfl
@[simp] theorem Slot.order_srep (x y : Slot) (h : Hdr) (q : Req) (j : Bool) : (x.order y h q j).srep = y.srep := rfl
@[simp] theorem Slot.order_sbarCnt (x y : Slot) (h : Hdr) (q : Req) (j : Bool) : (x.order y h q j).sbarCnt = y.sbarCnt := rfl
@[simp] theorem Slot.order_drawCnt (x y : Slot) (h : Hdr) (q : Req) (j : Bool) : (x.order y h q j).drawCnt = y.drawCnt := rfl
@[simp] theorem Slot.order_fseq (x y : Slot) (h : Hdr) (q : Req) (j : Bool) : (x.order y h q j).fseq = y.fseq := rfl
@[simp] theorem Slot.order_bad (x y : Slot) (h : Hdr) (q : Req) (j : Bool) : (x.order y h q j).bad = y.bad := rfl
@[simp] theorem Slot.order_ra (x y : Slot) (h : Hdr) (q : Req) (j : Bool) : (x.order y h q j).ra = y.ra := rfl
@[simp] theorem Slot.order_failed (x y : Slot) (h : Hdr) (q : Req) (j : Bool) : (x.order y h q j).failed = y.failed := rfl
@[simp] theorem Slot.order_faults (x y : Slot) (h : Hdr) (q : Req) (j : Bool) : (x.order y h q j).faults = y.faults := rfl
@[simp] theorem Slot.order_ctxGen (x y : Slot) (h : Hdr) (q : Req) (j : Bool) : (x.order y h q j).ctxGen = y.ctxGen := rfl

end Sys2Proof.Machine
end

