-- ==== Sys2Proof/Laws/Ops.lean ====
section
/-!
SUPPORT. What the shared operations do: reading a tile or a slot after writing one, two updates of the current slot as
one, the issue of an instruction that is ready, the end of one that completes, and the frames that follow.
-/
namespace Sys2Proof.Machine

/-! ## Tiles and slots -/

@[simp] theorem State.tile_setTile_same (s : State) (t : TileId) (x : Tile) : (s.setTile t x).tile t = x := by
  simp [State.tile, State.setTile]

theorem State.tile_setTile_other (s : State) (t u : TileId) (x : Tile) (h : u ≠ t) : (s.setTile t x).tile u = s.tile u := by
  simp only [State.tile, State.setTile]
  exact mapGet_mapSet_other _ _ _ _ _ fun e => h (Fin.ext e)

@[simp] theorem State.setTile_setTile (s : State) (t : TileId) (x y : Tile) : (s.setTile t x).setTile t y = s.setTile t y := by
  simp [State.setTile]

@[simp] theorem Tile.slot_setSlot_same (t : Tile) (k : SlotId) (x : Slot) : (t.setSlot k x).slot k = x := by
  simp [Tile.slot, Tile.setSlot]

theorem Tile.slot_setSlot_other (t : Tile) (k j : SlotId) (x : Slot) (h : j ≠ k) : (t.setSlot k x).slot j = t.slot j := by
  simp only [Tile.slot, Tile.setSlot]
  exact Vector.getElem_set_ne _ _ fun e => h (Fin.ext e.symm)

@[simp] theorem Tile.setSlot_setSlot (t : Tile) (k : SlotId) (x y : Slot) : (t.setSlot k x).setSlot k y = t.setSlot k y := by
  simp [Tile.setSlot]

@[simp] theorem State.tile_modTile_same (s : State) (t : TileId) (f : Tile → Tile) : (s.modTile t f).tile t = f (s.tile t) := by
  simp [State.modTile]

theorem State.tile_modTile_other (s : State) (t u : TileId) (f : Tile → Tile) (h : u ≠ t) : (s.modTile t f).tile u = s.tile u :=
  State.tile_setTile_other _ _ _ _ h

@[simp] theorem State.tile_modSlot_same (s : State) (t : TileId) (k : SlotId) (f : Slot → Slot) :
    (s.modSlot t k f).tile t = (s.tile t).setSlot k (f (s.slot t k)) := by simp [State.modSlot, State.setSlot]

theorem State.tile_modSlot_other (s : State) (t u : TileId) (k : SlotId) (f : Slot → Slot) (h : u ≠ t) :
    (s.modSlot t k f).tile u = s.tile u := State.tile_setTile_other _ _ _ _ h

@[simp] theorem State.slot_modSlot_same (s : State) (t : TileId) (k : SlotId) (f : Slot → Slot) :
    (s.modSlot t k f).slot t k = f (s.slot t k) := by
  simp [State.slot]

theorem State.slot_modSlot_other (s : State) (t : TileId) (k j : SlotId) (f : Slot → Slot) (h : j ≠ k) :
    (s.modSlot t k f).slot t j = s.slot t j := by
  simp [State.slot, Tile.slot_setSlot_other _ _ _ _ h]

@[simp] theorem State.modSlot_modSlot (s : State) (t : TileId) (k : SlotId) (f g : Slot → Slot) :
    (s.modSlot t k f).modSlot t k g = s.modSlot t k (fun x => g (f x)) := by
  simp only [State.modSlot, State.setSlot, State.modTile]
  simp [State.slot]

@[simp] theorem State.modTile_modTile (s : State) (t : TileId) (f g : Tile → Tile) :
    (s.modTile t f).modTile t g = s.modTile t (fun x => g (f x)) := by
  simp only [State.modTile]; simp

theorem State.tile_of_tiles {s t : State} (h : t.tiles = s.tiles) : t.tile = s.tile := by
  funext u; simp [State.tile, h]

/-! ## The current slot -/

@[simp] theorem State.me_upd (s : State) (f : Slot → Slot) : (s.upd f).me = f s.me := by simp [State.me, State.upd]

@[simp] theorem State.upd_upd (s : State) (f g : Slot → Slot) : (s.upd f).upd g = s.upd (fun x => g (f x)) := by
  simp [State.upd]

@[simp] theorem State.me_updTile (s : State) (f : Tile → Tile) : (s.updTile f).me = (f s.myTile).slot s.cur.2 := by
  simp [State.me, State.updTile, State.slot, State.myTile]

@[simp] theorem State.myTile_updTile (s : State) (f : Tile → Tile) : (s.updTile f).myTile = f s.myTile := by
  simp [State.updTile, State.myTile]

@[simp] theorem State.myTile_upd (s : State) (f : Slot → Slot) : (s.upd f).myTile = s.myTile.setSlot s.cur.2 (f s.me) := by
  simp [State.upd, State.myTile, State.me]

/-! ## Issue -/

/-- What an instruction that is ready comes to: its effect, concluded. -/
theorem State.issue_ready {s : State} {h : Hdr} {q : Req} {body : State → Eff} (hr : Ready s h q.reads q.writes)
    (ht : q.tokens = 0) : s.issue h q body = .next (s.conclude h q (body s)) := by
  obtain ⟨on, guard, free, sound, plain, sure⟩ := hr
  have noHaz : ∀ cs, (∀ c ∈ cs, c ∈ rP h.gp :: q.reads) → s.me.hazard cs = none := by
    intro cs hcs
    unfold Slot.hazard
    split
    · rename_i hz
      rw [List.find?_eq_none]
      intro c hc
      have := free hz c (hcs c hc)
      simpa using this
    · rfl
  have hahead : s.me.ahead = false := by simp [Slot.ahead, sure]
  have hmark : s.runsMarked h q = none := by simp [State.runsMarked, hahead]
  have hbad : (rP h.gp :: q.reads).find? (fun c => s.me.bad.contains c) = none := by
    rw [List.find?_eq_none]; intro c hc; have := sound c hc; simpa using this
  have hbound : (q.writes ++ q.reads).find? s.me.boundAt = none := by
    rw [List.find?_eq_none]; intro c hc; have := plain c hc; simp [this]
  unfold State.issue
  cases hp : s.power with
  | off => exact absurd hp on
  | active | packageIdle =>
    simp only [noHaz [rP h.gp] (by simp), hahead, guard, Bool.false_and, Bool.false_eq_true, if_false, if_true]
    unfold State.issueChecked
    simp only [hmark, noHaz q.reads (by intro c hc; exact List.mem_cons_of_mem _ hc), hbad, hbound, ite_self, sure, ht,
      Option.isSome_none, Bool.false_eq_true, and_false, false_and, if_false, ne_eq, not_true_eq_false]

@[simp] theorem State.charge_zero (s : State) : s.charge 0 = s := by simp [State.charge]

theorem State.countAhead_sure {s : State} (h : s.me.ra = none) : s.countAhead = s := by simp [State.countAhead, h]

/-- What becomes of the slot record at the end of an instruction that does not transfer control. -/
@[simp] theorem Slot.advance_pc (h : Hdr) (m b : Nat) (x : Slot) : (Slot.advance h m b x).pc = x.pcAfter := by
  unfold Slot.advance Slot.pcAfter
  cases x.srep with
  | none => rfl
  | some n => simp only; split <;> rfl

@[simp] theorem Slot.advance_srep (h : Hdr) (m b : Nat) (x : Slot) : (Slot.advance h m b x).srep = x.repsAfter := by
  unfold Slot.advance Slot.repsAfter
  cases hs : x.srep with
  | none => simp [Slot.hints]
  | some n => simp only; split <;> simp [Slot.hints]

/-! ## Frames -/

/-- An update of the current slot leaves everything outside it alone. -/
theorem OutsideKept.of_upd (s : State) (f : Slot → Slot) : OutsideKept s (s.upd f) where
  slots k hk := State.slot_modSlot_other _ _ _ _ _ hk
  tile := by simp [Tile.setSlot]
  tiles u hu := State.tile_modSlot_other _ _ _ _ _ hu
  rest := rfl
  hbm _ := rfl
  store u a := by
    by_cases hu : u = s.cur.1
    · subst hu; simp [State.upd]
    · rw [State.upd, State.tile_modSlot_other _ _ _ _ _ hu]

/-- An instruction that is ready and whose effect is an update of its slot completes with that update and the advance. -/
theorem State.issue_done {s : State} {h : Hdr} {q : Req} {body : State → Eff} (f : Slot → Slot) (hr : Ready s h q.reads q.writes)
    (ht : q.tokens = 0) (hb : body s = .go (s.upd f)) (hf : (f s.me).ra = none) :
    s.issue h q body =
      .next (s.upd fun x => s.me.order (Slot.advance h s.me.longs s.serial (f x)) h q false) := by
  rw [State.issue_ready hr ht, hb]
  simp only [State.conclude, ht, State.charge_zero, State.upd_upd]
  rw [State.countAhead_sure]
  simp [hf]

/-- The place of the slot after such an instruction. -/
theorem Advanced.of_upd {s : State} {h : Hdr} {m b : Nat} {q : Req} {f : Slot → Slot} (hp : (f s.me).pc = s.me.pc)
    (hs : (f s.me).srep = s.me.srep) : Advanced s (s.upd fun x => s.me.order (Slot.advance h m b (f x)) h q false) where
  pc := by simp [Slot.pcAfter, hp, hs]
  srep := by simp [Slot.repsAfter, hs]
  cur := rfl

/-- A slot that keeps its registers keeps them through the advance. -/
theorem SlotKept.advance {x y o : Slot} {cs : List Nat} {h : Hdr} {m b : Nat} {q : Req} (k : SlotKept x y cs) :
    SlotKept x (o.order (Slot.advance h m b y) h q false) cs where
  g n hn := by simpa [Slot.gr] using k.g n hn
  f n hn := by simpa [Slot.fr] using k.f n hn
  v n hn := by simpa [Slot.vr] using k.v n hn
  p n hn := by simpa [Slot.pr] using k.p n hn
  k n hn := by simpa [Slot.kr] using k.k n hn
  counters := by simpa using k.counters
  checked := by simpa using k.checked
  trap := by simpa using k.trap
  streams := by simpa using k.streams
  active := by simpa using k.active

theorem FpKept.advance {x y o : Slot} {h : Hdr} {m b : Nat} {q : Req} (k : FpKept x y) :
    FpKept x (o.order (Slot.advance h m b y) h q false) where
  fcsr := by simpa using k.fcsr
  turns := by simpa using k.turns

theorem Kept.of_upd {s : State} {h : Hdr} {m b : Nat} {f : Slot → Slot} {cs : List Nat} {q : Req} (k : SlotKept s.me (f s.me) cs)
    (fp : FpKept s.me (f s.me)) : Kept s (s.upd fun x => s.me.order (Slot.advance h m b (f x)) h q false) cs where
  slot := by simpa using k.advance
  fp := by simpa using fp.advance
  outside := OutsideKept.of_upd _ _

theorem KeptFp.of_upd {s : State} {h : Hdr} {m b : Nat} {f : Slot → Slot} {cs : List Nat} {q : Req} (k : SlotKept s.me (f s.me) cs) :
    KeptFp s (s.upd fun x => s.me.order (Slot.advance h m b (f x)) h q false) cs where
  slot := by simpa using k.advance
  outside := OutsideKept.of_upd _ _

/-! ## Registers: reads after writes, and what a write keeps -/

@[simp] theorem Slot.gr_gw (x : Slot) (n : G) (v : Word) : (x.gw n v).gr n = if n = 0 then 0 else v := by
  unfold Slot.gr Slot.gw
  by_cases h : n = 0
  · simp [h]
  · rw [if_neg h, if_neg h, if_neg h]; simp

@[simp] theorem Slot.fr_fw (x : Slot) (n : F) (v : Word) : (x.fw n v).fr n = v := by simp [Slot.fr, Slot.fw]
@[simp] theorem Slot.vr_vw (x : Slot) (n : V) (v : VWord) : (x.vw n v).vr n = v := by simp [Slot.vr, Slot.vw]
@[simp] theorem Slot.kr_kw (x : Slot) (n : K) (v : Word) : (x.kw n v).kr n = v := by simp [Slot.kr, Slot.kw]
@[simp] theorem Slot.pr_pw (x : Slot) (n : P) (v : Bool) : (x.pw n v).pr n = if n = 0 then true else v := by
  unfold Slot.pr Slot.pw
  by_cases h : n = 0
  · simp [h]
  · rw [if_neg h, if_neg h, if_neg h]; simp

@[simp] theorem Slot.wrote_ra (x : Slot) (c : Nat) (h : x.ra = none) : (x.wrote c).ra = none := by simp [Slot.wrote, h]
@[simp] theorem Slot.gw_ra (x : Slot) (n : G) (v : Word) (h : x.ra = none) : (x.gw n v).ra = none := by
  unfold Slot.gw; split
  · exact h
  · exact Slot.wrote_ra _ _ h
@[simp] theorem Slot.fw_ra (x : Slot) (n : F) (v : Word) (h : x.ra = none) : (x.fw n v).ra = none := Slot.wrote_ra _ _ h
@[simp] theorem Slot.vw_ra (x : Slot) (n : V) (v : VWord) (h : x.ra = none) : (x.vw n v).ra = none := Slot.wrote_ra _ _ h
@[simp] theorem Slot.kw_ra (x : Slot) (n : K) (v : Word) (h : x.ra = none) : (x.kw n v).ra = none := Slot.wrote_ra _ _ h
@[simp] theorem Slot.pw_ra (x : Slot) (n : P) (v : Bool) (h : x.ra = none) : (x.pw n v).ra = none := by
  unfold Slot.pw; split
  · exact h
  · exact Slot.wrote_ra _ _ h

theorem SlotKept.gw (x : Slot) (n : G) (v : Word) : SlotKept x (x.gw n v) [rG n] where
  g m hm := by
    have hne : m ≠ n := fun e => hm (by simp [e])
    unfold Slot.gr Slot.gw
    by_cases h0 : n = 0
    · simp [h0]
    · by_cases hm0 : m = 0
      · simp [hm0]
      · rw [if_neg hm0, if_neg hm0, if_neg h0]
        refine Vector.getElem_set_ne ?_ _ fun e => hne (BitVec.eq_of_toNat_eq e.symm)
        exact n.isLt
  f m _ := by simp [Slot.fr]
  v m _ := by simp [Slot.vr]
  p m _ := by simp [Slot.pr]
  k m _ := by simp [Slot.kr]
  counters := by simp
  checked := by simp
  trap := by simp
  streams := by simp
  active := by simp

theorem FpKept.gw (x : Slot) (n : G) (v : Word) : FpKept x (x.gw n v) := ⟨by simp, by simp⟩

theorem SlotKept.fw (x : Slot) (n : F) (v : Word) : SlotKept x (x.fw n v) [rF n] where
  g m _ := by simp [Slot.gr]
  f m hm := by
    have hne : m ≠ n := fun e => hm (by simp [e])
    simp only [Slot.fr, Slot.fw]
    exact Vector.getElem_set_ne _ _ fun e => hne (BitVec.eq_of_toNat_eq e.symm)
  v m _ := by simp [Slot.vr]
  p m _ := by simp [Slot.pr]
  k m _ := by simp [Slot.kr]
  counters := by simp
  checked := by simp
  trap := by simp
  streams := by simp
  active := by simp

theorem FpKept.fw (x : Slot) (n : F) (v : Word) : FpKept x (x.fw n v) := ⟨by simp, by simp⟩

theorem SlotKept.vw (x : Slot) (n : V) (v : VWord) : SlotKept x (x.vw n v) [rV n] where
  g m _ := by simp [Slot.gr]
  f m _ := by simp [Slot.fr]
  v m hm := by
    have hne : m ≠ n := fun e => hm (by simp [e])
    simp only [Slot.vr, Slot.vw]
    exact Vector.getElem_set_ne _ _ fun e => hne (BitVec.eq_of_toNat_eq e.symm)
  p m _ := by simp [Slot.pr]
  k m _ := by simp [Slot.kr]
  counters := by simp
  checked := by simp
  trap := by simp
  streams := by simp
  active := by simp

theorem FpKept.vw (x : Slot) (n : V) (v : VWord) : FpKept x (x.vw n v) := ⟨by simp, by simp⟩

theorem SlotKept.pw (x : Slot) (n : P) (v : Bool) : SlotKept x (x.pw n v) [rP n] where
  g m _ := by simp [Slot.gr]
  f m _ := by simp [Slot.fr]
  v m _ := by simp [Slot.vr]
  p m hm := by
    have hne : m ≠ n := fun e => hm (by simp [e])
    unfold Slot.pr Slot.pw
    by_cases h0 : n = 0
    · simp [h0]
    · by_cases hm0 : m = 0
      · simp [hm0]
      · rw [if_neg hm0, if_neg hm0, if_neg h0]
        refine Vector.getElem_set_ne ?_ _ fun e => hne (BitVec.eq_of_toNat_eq e.symm)
        exact n.isLt
  k m _ := by simp [Slot.kr]
  counters := by simp
  checked := by simp
  trap := by simp
  streams := by simp
  active := by simp

theorem FpKept.pw (x : Slot) (n : P) (v : Bool) : FpKept x (x.pw n v) := ⟨by simp, by simp⟩

theorem SlotKept.kw (x : Slot) (n : K) (v : Word) : SlotKept x (x.kw n v) [rK n] where
  g m _ := by simp [Slot.gr]
  f m _ := by simp [Slot.fr]
  v m _ := by simp [Slot.vr]
  p m _ := by simp [Slot.pr]
  k m hm := by
    have hne : m ≠ n := fun e => hm (by simp [e])
    simp only [Slot.kr, Slot.kw]
    exact Vector.getElem_set_ne _ _ fun e => hne (BitVec.eq_of_toNat_eq e.symm)
  counters := by simp
  checked := by simp
  trap := by simp
  streams := by simp
  active := by simp

theorem FpKept.kw (x : Slot) (n : K) (v : Word) : FpKept x (x.kw n v) := ⟨by simp, by simp⟩

end Sys2Proof.Machine
end

