-- ==== Sys2Proof/Tests/Slice0.lean ====
section
/-!
SUPPORT. Tests: ill-formed terms that WellFormed refuses; words written out from the spec's encodings; single steps with
results worked out by hand from the rules; and for every statement with hypotheses concrete states and operands that meet
them, clause by clause, at the boundaries of their ranges.
-/
namespace Sys2Proof.Tests
open Sys2Proof Sys2Proof.Machine Sys2Proof.Claims

set_option Elab.async false

/-! ## Small states -/

/-- A partition of one slice group and tile 0, with a link-window entry for this module. -/
def demoPart : Part :=
  { Part.reset with en := true, ptiles := 1, pgroups := 1, groups := [(0, 0x8000)], tiles := [(0, 0x8000)], window := [(0, 0x101)],
                    wayb := 0x000000FF00000000 }

/-- A module whose slot 0 of tile 0 runs at PC 0x40, with a trap handler at 0x1000 and containment at the launch level. -/
def demo : State :=
  let s : State := { State.reset with tiles := [(0, { Tile.reset with tag := 1, trapvec := 0x1003, tokDecl := 8 })],
                                      parts := [(1, demoPart)], booted := true }
  s.upd fun x => { x with active := true, pc := 0x40 }

/-- A g, f, v or p register set by hand. -/
def setG (s : State) (n : G) (v : Word) : State := s.upd fun x => { x with g := x.g.set n.toNat v }
def setF (s : State) (n : F) (v : Word) : State := s.upd fun x => { x with f := x.f.set n.toNat v }
def setV (s : State) (n : V) (v : VWord) : State := s.upd fun x => { x with v := x.v.set n.toNat v }
def setP (s : State) (n : P) (v : Bool) : State := s.upd fun x => { x with p := x.p.set n.toNat v }

/-- The state after one instruction or event, and after one step. -/
def after (i : Instr) (s : State) : Option State := match exec i s with | .next t => some t | _ => none
def stepped (s : State) : Option State := match step s with | .next t => some t | _ => none

/-- A plain operation on memory, confirmed and not held. -/
def demoOp (kind : OpKind) (addr size : Nat) (dests : List Dest) : Op :=
  { Op.plain kind with id := 7, addr, size, pieces := [{ addr, size, pos := 0 }], dests, conf := true }

/-- A slot that is not in the way of an instruction is ready for it, whatever its operands. -/
theorem ready (s : State) (r w : List Nat) (h1 : s.power = .active := by decide +kernel)
    (h2 : s.me.chkHazard = false := by decide +kernel) (h3 : s.me.bad = [] := by decide +kernel)
    (h4 : s.me.ra = none := by decide +kernel) (h5 : s.me.streams = Vector.replicate 8 none := by decide +kernel) :
    Ready s Hdr.plain r w :=
  ⟨by simp [h1], by simp [Slot.guardOk, Hdr.plain, Slot.pr], by simp [h2], by simp [h3],
   by intro c _; simp [Slot.boundAt, h5], h4⟩

theorem trappable (s : State) (h1 : s.power ≠ .off := by decide +kernel) (h2 : s.me.tm = false := by decide +kernel)
    (h3 : s.myTile.trapvec &&& ~~~3 ≠ 0 := by decide +kernel) (h4 : s.me.longs = 0 := by decide +kernel)
    (h5 : s.me.ra = none := by decide +kernel) : Trappable s := ⟨h1, h2, h3, h4, h5⟩

theorem guardSound (s : State) (h1 : s.power = .active := by decide +kernel) (h2 : s.me.ra = none := by decide +kernel)
    (h3 : rP 0 ∉ s.me.pending := by decide +kernel) (h4 : rP 0 ∉ s.me.bad := by decide +kernel) : GuardSound s Hdr.plain :=
  ⟨by simp [h1], by simp [Slot.guardOk, Hdr.plain, Slot.pr], fun _ => h3, h4, h2⟩

/-! ## WellFormed: an ill-formed term for each check, refused -/

def kept : Hdr := { Hdr.plain with cache := .keep }
def noM : MmacSub := ⟨.s8, .s8, false, false, false, false, false, false, 0, false, 0, false⟩

/-- R55: a cache hint outside the classes that take one; on a load it is well formed. -/
theorem test_wf_cache : (Instr.add kept false 1 2 3).wf = false ∧ (Instr.nop kept).wf = false ∧ (Instr.waitcL kept 0).wf = false ∧
    (Instr.vrcp kept .f32 noMask 1 2).wf = false ∧ (Instr.time kept 1).wf = false ∧
    (Instr.ld kept .b8 (.g 1) ⟨0, 0, 0, 0⟩).wf = true ∧ (Instr.mwait kept 1 2 3 4).wf = true := by decide

/-- R67, R69: a 32-bit shift by 32; conversions to the same type and to a narrow integer. -/
theorem test_wf_scalar : (Instr.shli Hdr.plain true 1 2 32).wf = false ∧ (Instr.shli Hdr.plain true 1 2 31).wf = true ∧
    (Instr.shai Hdr.plain false 1 2 63).wf = true ∧ (Instr.fcvt Hdr.plain .f32 .f32 .dyn 1 2).wf = false ∧
    (Instr.fcvti Hdr.plain .s8 .f32 .dyn 1 2).wf = false ∧ (Instr.icvtf Hdr.plain .f32 .z16 .dyn 1 2).wf = false := by decide

/-- R57, R211, R213, R217, R219: lane types, the rounding mode with integers, unordered with integers, a pair that is not converted,
zeroing in a reduction. -/
theorem test_wf_vector : (Instr.vadd Hdr.plain .e4m3 .dyn noMask 1 2 3).wf = false ∧ (Instr.vadd Hdr.plain .s32 .rtz noMask 1 2 3).wf = false ∧
    (Instr.vfma Hdr.plain .z8 .rne noMask 1 2 3 4).wf = false ∧ (Instr.vabs Hdr.plain .z8 noMask 1 2).wf = false ∧
    (Instr.vand Hdr.plain .f32 noMask 1 2 3).wf = false ∧ (Instr.vshl Hdr.plain .f64 noMask 1 2 (.g 3)).wf = false ∧
    (Instr.vcmp Hdr.plain .s8 .eq noMask 1 2 3).wf = false ∧ (Instr.vcmp Hdr.plain .s32 .un noMask 1 2 3).wf = false ∧
    (Instr.vcmp Hdr.plain .f32 .un noMask 1 2 3).wf = true ∧ (Instr.vmin Hdr.plain .s128 noMask 1 2 3).wf = false ∧
    (Instr.vsel Hdr.plain .none 1 2 3 1).wf = false ∧ (Instr.vbcast Hdr.plain .rns10 noMask 1 (.g 1)).wf = false ∧
    (Instr.vcvt Hdr.plain .s8 .f32 .dyn noMask 1 2).wf = true ∧ (Instr.vcvt Hdr.plain .rns10 .f32 .dyn noMask 1 2).wf = false ∧
    (Instr.vredadd Hdr.plain .s32 .dyn ⟨true, 1, true⟩ (.g 1) 2).wf = false := by decide

/-- R244, R249: types, four-bit inputs and predicates of the matrix instructions. -/
theorem test_wf_matrix : (Instr.mmac Hdr.plain 0 1 2 { noM with ta := .s16 }).wf = false ∧
    (Instr.mmac Hdr.plain 0 1 2 { noM with ta := .f16, a4 := true }).wf = false ∧
    (Instr.mmac Hdr.plain 0 1 2 { noM with tb := .f16, b4 := true }).wf = false ∧ (Instr.mmac Hdr.plain 0 1 2 { noM with ys := 1 }).wf = false ∧
    (Instr.mmac Hdr.plain 0 1 2 { noM with zs := 1 }).wf = false ∧ (Instr.mmac Hdr.plain 0 1 2 { noM with zk := true }).wf = false ∧
    (Instr.mmac Hdr.plain 0 1 2 noM).wf = true ∧ (Instr.mdrain Hdr.plain 0 1 1 .s8 false).wf = false ∧
    (Instr.mldt Hdr.plain 0 1 .fp64 .f32).wf = false ∧ (Instr.mldt Hdr.plain 0 1 .rns .rns10).wf = true := by decide

/-- R61, R74 to R78, R352, R377: pairs, sizes, no-return forms, copy stamps, block counts, arguments, items. -/
theorem test_wf_memory : (Instr.ldSigned Hdr.plain .b64 1 ⟨0, 0, 0, 0⟩).wf = false ∧ (Instr.ldB128 Hdr.plain 1 ⟨0, 0, 0, 0⟩).wf = false ∧
    (Instr.stB128 Hdr.plain ⟨0, 0, 0, 0⟩ 31).wf = false ∧ (Instr.ldB128 Hdr.plain 30 ⟨0, 0, 0, 0⟩).wf = true ∧
    (Instr.amoadd Hdr.plain .b128 false 1 2 4).wf = false ∧ (Instr.amoadd Hdr.plain .b32 true 1 2 4).wf = false ∧
    (Instr.amocas Hdr.plain .b128 false 1 2 3 4).wf = false ∧ (Instr.amofadd Hdr.plain .f32 true 1 (.f 0) (.f 1)).wf = false ∧
    (Instr.cpy Hdr.plain 0 false .tile 0 0 1 2 3 4).wf = false ∧ (Instr.cpybt Hdr.plain 0 true .tile 0 1 2 3 4 5).wf = false ∧
    (Instr.pputv Hdr.plain 1 3).wf = false ∧ (Instr.pgetv Hdr.plain 3 1 2 0).wf = false ∧
    (Instr.invoke Hdr.plain 1 2 3 0 0 9 0 false false).wf = false ∧ (Instr.invoke Hdr.plain 1 2 3 0 0 1 2 false false).wf = false ∧
    (Instr.invoke Hdr.plain 1 2 3 4 0 1 1 false false).wf = false ∧ (Instr.wbstate Hdr.plain 1 2 2).wf = false ∧
    (Instr.wbcause Hdr.plain 1 2 3).wf = false := by decide

/-- Events whose data cannot be. -/
theorem test_wf_events : (Instr.hostPostedWrite 0 .bar2 0 []).wf = false ∧ (Instr.hostRead 0 .bar2 0 0).wf = false ∧
    (Instr.hostRead 0 .bar2 0 4096).wf = true ∧ (Instr.verdictReceive 1 0 (List.replicate 256 0)).wf = false ∧
    (Instr.grantArrive 1 0 (List.replicate 33 (0, 0))).wf = false ∧
    (Instr.pageBatchAnswered 0 0 0 0 (List.replicate 18 ⟨0, true, false, ⟨true, true⟩, 0, 0⟩)).wf = false ∧
    (Instr.dispatcherInvocationArrive 1 ⟨0, 0, none, List.replicate 9 0, 0, none, 0, 0, 0, 0, [], []⟩).wf = false := by decide +kernel

/-! ## Decoding: words written out from R53 to R79 and the chapters' own examples, a family at a time -/

/-- Classes 0x00 to 0x02: csrr TRAPCAUSE, csrs, a guarded trap, brk; call with its link, loop, a guarded rdone; sstart with S and yield. -/
theorem test_decode_control :
    decode (words 0x00180020 0x00000000 0x00000100) = .ok (.csrr Hdr.plain 8 0x100) ∧
    decode (words 0x00280004 0x10000000 0x00000020) = .ok (.csrs Hdr.plain 1 0x20 2) ∧
    decode (words 0x00084000 0x00000000 0x00000000) = .ok (.trap { Hdr.plain with gp := 1 } 0) ∧
    decode (words 0x00380000 0x00000000 0x0000FFFF) = .ok (.brk Hdr.plain 65535) ∧ decode 0 = .ok (.nop Hdr.plain) ∧
    decode (words 0x0408007C 0x00000000 0x00000003) = .ok (.call Hdr.plain 31 3) ∧
    decode (words 0x042C4000 0x00000000 0x00000000) = .ok (.rdone { Hdr.plain with gs := true, gp := 1 }) ∧
    decode (words 0x08002200 0x08200000 0x00000000) = .ok (.sstart { Hdr.plain with sw := true, sched := .yield } 1 2) := by decide

/-- Classes 0x03 to 0x06: add.b32, bfi with five operands, movi, lea with a negative displacement, pand, fadd.rtz. -/
theorem test_decode_scalar :
    decode (words 0x0C08000C 0x08200000 0x00000000) = .ok (.add Hdr.plain true 3 1 2) ∧
    decode (words 0x0DB00004 0x10308140 0x00000000) = .ok (.bfi Hdr.plain false 1 2 3 4 5) ∧
    decode (words 0x10400018 0x00000000 0xFFF01800) = .ok (.movi Hdr.plain 6 0xFFF01800) ∧
    decode (words 0x10800004 0x103CFFFF 0xFFFFFFF0) = .ok (.lea Hdr.plain 1 ⟨2, 3, 3, -16⟩) ∧
    decode (words 0x14000187 0x16300000 0x00000000) = .ok (.pand Hdr.plain 1 2 3) ∧
    decode (words 0x18000085 0x12300013 0x00000000) = .ok (.fadd Hdr.plain .f32 .rtz 1 2 3) := by decide

/-- Classes 0x07 to 0x0A: a masked vfma, kpop, sbind and srep, mmac in three forms, msety. -/
theorem test_decode_vector :
    decode (words 0x1C18010E 0x2458C003 0x01200000) = .ok (.vfma Hdr.plain .f32 .dyn ⟨true, 1, false⟩ 3 4 5 6) ∧
    decode (words 0x20180017 0x90000000 0x00000000) = .ok (.kpop Hdr.plain 5 2) ∧
    decode (words 0x24000100 0x38000000 0x00000000) = .ok (.sbind Hdr.plain 0 7) ∧ decode (words 0x24100000 0 0) = .ok (.srep Hdr.plain) ∧
    decode (words 0x28200000 0x50B00002 0x10080000) = .ok (.mmac Hdr.plain 0 10 11 { noM with ze := true }) ∧
    decode (words 0x28A001E8 0x28000000 0x00000000) = .ok (.msety Hdr.plain 2 5 false) := by decide

/-- Classes 0x0B to 0x0E: an indexed byte load, vst, an acquire at system scope, waitc.s, mwait with a hint, a 128-bit amocas, a
no-return amofadd. -/
theorem test_decode_memory :
    decode (words 0x2C000070 0x09600000 0x000000A0) = .ok (.ld Hdr.plain .b8 (.g 28) ⟨1, 22, 0, 0xA0⟩) ∧
    decode (words 0x2C480124 0x08280000 0x00000040) = .ok (.vst Hdr.plain ⟨1, 2, 2, 64⟩ 9) ∧
    decode (words 0x2CA8200C 0x50030000 0x00000000) = .ok (.ldacq { Hdr.plain with sw := true } .b64 .sys 3 ⟨10, 0, 0, 0⟩) ∧
    decode (words 0x30080000 0x00000000 0x00000007) = .ok (.waitcS Hdr.plain 7) ∧
    decode (words 0x30100984 0x10308000 0x00000000) = .ok (.mwait kept 1 2 3 4) ∧
    decode (words 0x36600010 0x50610000 0x00000000) = .ok (.amocas Hdr.plain .b128 false 10 4 6 8) ∧
    decode (words 0x38280000 0x0A400000 0x00000000) = .ok (.amofadd Hdr.plain .f32 true 1 (.g 0) (.f 4)) := by decide

/-- Classes 0x0F to 0x12: cpy with a stamp, post reads and installs, invoke, wbcause, ttab and tstat. -/
theorem test_decode_engines :
    decode (words 0x3C000020 0x48A1601A 0x00000000) = .ok (.cpy Hdr.plain 1 true .tile 0 0 8 9 10 11) ∧
    decode (words 0x40180024 0x30700000 0x00000000) = .ok (.pget Hdr.plain 9 6 7) ∧
    decode (words 0x4028C060 0x78032000 0x00000000) = .ok (.pgetg { Hdr.plain with gp := 3 } 24 15 25 0) ∧
    decode (words 0x40000000 0x69100000 0x00000000) = .ok (.pput Hdr.plain 13 17) ∧
    decode (words 0x44000024 0x50B18000 0x14807000) = .ok (.invoke Hdr.plain 9 10 11 12 5 2 1 true true) ∧
    decode (words 0x44200048 0x68000000 0x00000001) = .ok (.wbcause Hdr.plain 18 13 1) ∧
    decode (words 0x48080000 0x30700000 0x00000000) = .ok (.ttab Hdr.plain 6 7) ∧
    decode (words 0x48100024 0x50000000 0x00000000) = .ok (.tstat Hdr.plain 9 10) := by decide

/-- R62: words that break one check, with its reason and bit: a class, a function, a hint, a bit, an operand's kind, an odd pair, an
immediate, a size. -/
theorem test_decode_refuses :
    decode (words 0x4C000000 0 0) = .illegal 1 90 ∧ decode (words 0x00480000 0 0) = .illegal 2 83 ∧
    decode (words 0x00000600 0 0) = .illegal 3 73 ∧ decode (words 0x0C000804 0x10300000 0) = .illegal 3 75 ∧
    decode (words 0x0C000004 0x10300000 0x00000100) = .illegal 4 8 ∧ decode (words 0x0C000084 0x10300000 0) = .illegal 5 66 ∧
    decode (words 0x2C100004 0x10000000 0) = .illegal 5 66 ∧ decode (words 0x2C100008 0x18000000 0) = .ok (.ldB128 Hdr.plain 2 ⟨3, 0, 0, 0⟩) ∧
    decode (words 0x00080000 0 0x00001000) = .illegal 6 0 ∧ decode (words 0x10180004 0x10000000 0x00000020) = .illegal 6 0 ∧
    decode (words 0x2C080004 0x10030000 0) = .illegal 6 48 := by decide

/-! ## One instruction: results worked out by hand from the rules -/

/-- R168, R66: .b32 wraps at 32 bits and zero-extends. -/
theorem test_add_b32_wraps : (after (.add Hdr.plain true 3 1 2) (setG (setG demo 1 0xFFFFFFFF) 2 2)).map (·.me.gr 3) = some 1 := by
  decide +kernel

/-- R171: the most negative number divided by −1 wraps; division by zero gives all ones and the dividend. -/
theorem test_division_corners :
    (after (.div Hdr.plain false 3 1 2) (setG (setG demo 1 0x8000000000000000) 2 0xFFFFFFFFFFFFFFFF)).map (·.me.gr 3) = some 0x8000000000000000 ∧
    (after (.divz Hdr.plain true 3 1 0) (setG demo 1 5)).map (·.me.gr 3) = some 0xFFFFFFFF ∧
    (after (.rem Hdr.plain false 3 1 2) (setG (setG demo 1 (-7)) 2 2)).map (·.me.gr 3) = some (-1) := by decide +kernel

/-- R170, R169, R172: high product of negatives, a rotation by more than the width, leading zeros of nothing. -/
theorem test_products_shifts_counts :
    (after (.mulh Hdr.plain false 3 1 2) (setG (setG demo 1 (-1)) 2 2)).map (·.me.gr 3) = some (-1) ∧
    (after (.mulhz Hdr.plain false 3 1 2) (setG (setG demo 1 (-1)) 2 2)).map (·.me.gr 3) = some 1 ∧
    (after (.rot Hdr.plain true 3 1 2) (setG (setG demo 1 0x80000001) 2 33)).map (·.me.gr 3) = some 3 ∧
    (after (.clz Hdr.plain true 3 1) demo).map (·.me.gr 3) = some 32 ∧
    (after (.bswap Hdr.plain true 3 1) (setG demo 1 0x11223344)).map (·.me.gr 3) = some 0x44332211 := by decide +kernel

/-- R61, R176, R177, R175: g0 discards; movhi keeps the low 52 bits; unsigned against signed comparison. -/
theorem test_constants_and_comparisons :
    (after (.movi Hdr.plain 0 5) demo).map (·.me.gr 0) = some 0 ∧
    (after (.movhi Hdr.plain 3 1 0x7FF) (setG demo 1 (-1))).map (·.me.gr 3) = some 0x7FFFFFFFFFFFFFFF ∧
    (after (.cmpLt Hdr.plain false 1 1 0) (setG demo 1 (-1))).map (·.me.pr 1) = some true ∧
    (after (.cmpLtz Hdr.plain false 1 1 0) (setP (setG demo 1 (-1)) 1 true)).map (·.me.pr 1) = some false := by decide +kernel

/-- R54: a failed guard leaves the register and moves on 12 bytes. -/
theorem test_failed_guard :
    (after (.movi { Hdr.plain with gp := 1 } 3 5) demo).map (fun t => (t.me.gr 3, t.me.pc)) = some (0, 0x4C) := by decide +kernel

/-- R124, R125: a loop ends at 1 and branches at 2; jmpi reads its target before it writes its link. -/
theorem test_control :
    (after (.loop Hdr.plain 9 (-2)) (setG demo 9 1)).map (fun t => (t.me.gr 9, t.me.pc)) = some (0, 0x4C) ∧
    (after (.loop Hdr.plain 9 (-2)) (setG demo 9 2)).map (fun t => (t.me.gr 9, t.me.pc)) = some (1, 0x28) ∧
    (after (.jmpi Hdr.plain 9 9) (setG demo 9 0x80)).map (fun t => (t.me.gr 9, t.me.pc)) = some (0x4C, 0x80) := by decide +kernel

/-- R421, R445, R446: trap with n goes to the handler with TRAPPC past it; eret returns there. -/
theorem test_trap_and_return :
    (after (.trap Hdr.plain 9) demo).map (fun t => (t.me.pc, t.me.tm, t.me.tcode, t.me.tinfo, t.me.trappc, t.me.trapval)) =
      some (0x1000, true, 17, 1, 0x4C, 9) ∧
    ((after (.trap Hdr.plain 9) demo).bind (after (.eret Hdr.plain))).map (fun t => (t.me.pc, t.me.tm)) = some (0x4C, false) := by
  decide +kernel

/-- R447: csrw's D is the old value, csrs's the new one; MATSTAT's bits clear by writing one, for the tile with its next cycle. R19: the
physical bounds that CSR 0x00A reports. -/
theorem test_control_registers :
    (after (.csrw Hdr.plain 2 0x101 1) (setG demo 1 7)).map (fun t => (t.me.gr 2, t.me.trappc)) = some (0, 7) ∧
    (after (.csrs Hdr.plain 2 0x020 1) (setG demo 1 1)).map (fun t => (t.me.gr 2, t.me.fcsr)) = some (1, 1) ∧
    (after (.csrw Hdr.plain 2 0x031 1) (setG (demo.updTile fun x => { x with matstat := 7 }) 1 2)).map
      (fun t => (t.me.gr 2, t.myTile.matstat, (t.csrCommit 0).myTile.matstat)) = some (7, 7, 5) ∧
    (after (.csrr Hdr.plain 2 0x00A) demo).map (fun t => t.me.gr 2) = some 0x09600FA0143E8100 := by decide +kernel

/-- R140, R144, R185: 1 + 2^−24 rounds to 1 toward zero and up toward positive, inexact; a product beyond range overflows. -/
theorem test_float_rounding :
    (after (.fadd Hdr.plain .f32 .rtz 3 1 2) (setF (setF demo 1 0x3F800000) 2 0x33800000)).map (fun t => (t.me.fr 3, t.me.fcsr)) =
      some (0x3F800000, 0x1000) ∧
    (after (.fadd Hdr.plain .f32 .rup 3 1 2) (setF (setF demo 1 0x3F800000) 2 0x33800000)).map (fun t => t.me.fr 3) = some 0x3F800001 ∧
    (after (.fmul Hdr.plain .f32 .rne 3 1 1) (setF demo 1 0x7F7FFFFF)).map (fun t => (t.me.fr 3, t.me.fcsr)) = some (0x7F800000, 0x1400) := by
  decide +kernel

/-- R187 to R192: the root of 2 in f64; minimum of the two zeros; a NaN compares unordered; −1.5 to an integer toward zero. -/
theorem test_float_others :
    (after (.fsqrt Hdr.plain .f64 .rne 3 1) (setF demo 1 0x4000000000000000)).map (fun t => (t.me.fr 3, t.myTile.tokUsed)) =
      some (0x3FF6A09E667F3BCD, 1) ∧
    (after (.fmin Hdr.plain .f32 3 1 2) (setF demo 2 0x80000000)).map (fun t => t.me.fr 3) = some 0x80000000 ∧
    (after (.fcmp Hdr.plain .f32 .un 1 1 2) (setF demo 1 0x7FC00000)).map (fun t => t.me.pr 1) = some true ∧
    (after (.fcvti Hdr.plain .s32 .f32 .rtz 3 1) (setF demo 1 0xBFC00000)).map (fun t => t.me.gr 3) = some (-1) := by decide +kernel

/-- R194 to R196, R215, R219: s8 lanes wrap; a masked lane keeps its value; the maximum over no lane; vext sign-extends. -/
theorem test_vectors :
    (after (.vadd Hdr.plain .s8 .dyn noMask 3 1 2) (setV (setV demo 1 0x017F) 2 0x0101)).map (fun t => laneB 16 (t.me.vr 3) 0) = some 0x0280 ∧
    (after (.vadd Hdr.plain .s16 .dyn ⟨true, 1, false⟩ 3 1 2) (setV (setV demo 1 1) 3 9)).map (fun t => laneB 16 (t.me.vr 3) 0) = some 9 ∧
    (after (.vredmax Hdr.plain .s16 ⟨true, 1, false⟩ (.g 3) 1) demo).map (fun t => t.me.gr 3) = some (-32768) ∧
    (after (.vext Hdr.plain .s8 (.g 3) 1 0) (setV demo 1 0xFF)).map (fun t => t.me.gr 3) = some (-1) := by decide +kernel

/-- R2, R324, R325: a store is little-endian, and at once. -/
theorem test_tile_store :
    ((after (.st Hdr.plain .b32 ⟨1, 0, 0, 0⟩ (.g 2)) (setG (setG demo 1 0x0001000000000040) 2 0x11223344)).bind
      (after (.ld Hdr.plain .b8 (.g 3) ⟨1, 0, 0, 1⟩))).map (fun t => (t.me.gr 3, t.me.cnts)) = some (0x33, 0) := by decide +kernel

/-- R85, R322: a load from HBM delivers nothing yet and counts on CNTL; its return writes the register and lowers CNTL. -/
theorem test_long_result :
    let s := setG (demo.writeHbm demoPart 0x2000 0x80 1) 1 0x2000
    let one := after (.ldSigned Hdr.plain .b8 3 ⟨1, 0, 0, 0⟩) s
    one.map (fun t => (t.me.gr 3, t.me.cntl, t.me.longs)) = some (0, 1, 1) ∧
    ((one.bind (after (.longResultReturn 0 0 1 0 0))).bind (after (.longResultReturn 0 0 1 0 0))).map (fun t => (t.me.gr 3, t.me.cntl, t.me.longs)) =
      some (-128, 0, 0) := by decide +kernel

/-- R323, R421: a misaligned acquire takes the alignment trap with its address. -/
theorem test_alignment_trap :
    (after (.ldacq Hdr.plain .b64 .pkg 3 ⟨1, 0, 0, 0⟩) (setG demo 1 0x2004)).map (fun t => (t.me.tcode, t.me.trapval, t.me.trappc)) =
      some (3, 0x2004, 0x40) := by decide +kernel

/-- R335: a signed minimum at its home returns the old value. -/
theorem test_atomic :
    let s := setG (setG (demo.writeHbm demoPart 0x2000 5 4) 1 0x2000) 2 0xFFFFFFFF
    (((after (.amomin Hdr.plain .b32 false 1 3 2) s).bind (after (.atomicPerform 0 0 1 0))).bind (after (.longResultReturn 0 0 1 0 0))).map
      (fun t => (t.me.gr 3, t.readHbm demoPart 0x2000 4)) = some (5, 0xFFFFFFFF) := by decide +kernel

/-- R343, R344, R345: an 8-byte row from the tile store to HBM: the command starts, reads, writes, and WPOS counts it. -/
theorem test_copy :
    let s := setG (setG (setG (demo.updTile fun x => x.storeWrite 0x0001000000000000 0xABCD 8) 1 0x2000) 2 0x0001000000000000) 3 8
    ((((after (.cpy Hdr.plain 1 false .slot 0 0 1 2 3 0) s).bind (after (.copyCommandStart 0 1))).bind (after (.copyPieceWrite 0 1 0))).bind
      (after (.copyPieceWrite 0 1 0))).map (fun t => (t.readHbm demoPart 0x2000 8, ((t.tile 0).channel 1).wpos)) = some (0xABCD, 8) := by
  decide +kernel

/-- R50, R80, with the placed word: the first step after reset runs `add g3, g1, g2`. -/
theorem test_first_step :
    (stepped (State.reset.withFetchWord 96 0x0C00000C0820000000000000)).map (fun t => (t.me.pc, t.me.active)) = some (12, true) := by
  decide +kernel

/-! ## Witnesses: encoding and the step -/

/-- An instruction placed where demo issues next. -/
def placed (w : Nat) : State := demo.withFetchWord 96 w

/-- A state that holds no L2 line has room for every line. -/
theorem l2Room_empty (s : State) (tag a : Nat) (h : s.l2 = [] := by decide +kernel) : L2Room s tag a := by
  right; simp [h, mapGet]

theorem placed_issues (w : Nat)
    (h : fetchFault ((placed w).part ((placed w).tile 0).tag.toNat) 64 = none := by decide +kernel)
    (h1 : (placed w).awake 0 0 = true ∧ ((placed w).slot 0 0).starting = none := by decide +kernel)
    (h2 : ((placed w).slot 0 0).forfeit = 0 ∧ ((placed w).slot 0 0).srep = none := by decide +kernel)
    (h3 : ((placed w).slot 0 0).parked = false ∧ ((placed w).slot 0 0).deferred = [] := by decide +kernel)
    (h5 : ((placed w).slot 0 0).issueAt = 0x40 := by decide +kernel)
    (h6 : (∀ e ∈ ((placed w).tile 0).icache[0], e.2.toNat = (placed w).readHbm ((placed w).part ((placed w).tile 0).tag.toNat) e.1 4) ∧
      (placed w).l2 = [] ∧ (placed w).fetchRefused 0 (coreOf 0) 0x40 = false := by decide +kernel)
    (h7 : (placed w).agenda = [.turn 0 0] ∧ (placed w).power = .active := by decide +kernel)
    (h9 : ((placed w).tile 0).cycle % 8 = 0 ∧ ((placed w).tile 0).due = [0] := by decide +kernel) : IssuesNext (placed w) 0 0 [] [] 0x40 :=
  ⟨by simp [h7.2], h7.1, h9, h1, h2.1, h3.1, h3.2, by simp [h2.2], h5, h, fun a _ w hw => h6.1 _ hw, h6.2.2, fun a _ => l2Room_empty _ _ a h6.2.1⟩

theorem witness_DecodeInvertsEncode :
    (Instr.add Hdr.plain true 3 1 2).wf = true ∧ encode (.add Hdr.plain true 3 1 2) = some (words 0x0C08000C 0x08200000 0) := by decide

theorem witness_EncodeInvertsDecode : decode (words 0x0C08000C 0x08200000 0) = .ok (.add Hdr.plain true 3 1 2) := by decide

theorem witness_StepRunsTheDecodedInstruction : IssuesNext (placed 0x0C00000C0820000000000000) 0 0 [] [] 0x40 ∧
    decode (BitVec.ofNat 96 ((placed 0x0C00000C0820000000000000).readHbm ((placed 0x0C00000C0820000000000000).part 1) 0x40 12)) =
      .ok (.add Hdr.plain false 3 1 2) := by
  exact ⟨placed_issues _, by decide +kernel⟩

/-- A class, the three functions after the last of their classes, a reserved hint, a cache hint on add. -/
theorem witness_WordsDecodeAsTheSpecWorksThem :
    0x12 < ((words 0x4C000000 0 0).extractLsb' 90 6).toNat ∧
    ((words 0x00480000 0 0).extractLsb' 90 6 = 0 ∧ 8 < ((words 0x00480000 0 0).extractLsb' 83 7).toNat) ∧
    ((words 0x0E500000 0 0).extractLsb' 90 6 = 3 ∧ 0x49 < ((words 0x0E500000 0 0).extractLsb' 83 7).toNat) ∧
    ((words 0x1D000000 0 0).extractLsb' 90 6 = 7 ∧ 0x1F < ((words 0x1D000000 0 0).extractLsb' 83 7).toNat) ∧
    ((words 0x0C000600 0 0).extractLsb' 90 6 = 3 ∧ (words 0x0C000600 0 0).extractLsb' 73 2 = 3) ∧
    ((words 0x0C000800 0 0).extractLsb' 90 6 = 3 ∧ (words 0x0C000800 0 0).extractLsb' 75 2 ≠ 0) := by decide

/-- The illegal word, an event first on the agenda, the module off. -/
theorem witness_StepTrapsOnIllegalWordsAndPerformsEvents :
    (IssuesNext (placed 0x4C0000000000000000000000) 0 0 [] [] 0x40 ∧
      decode (BitVec.ofNat 96 ((placed 0x4C0000000000000000000000).readHbm ((placed 0x4C0000000000000000000000).part 1) 0x40 12)) = .illegal 1 90 ∧
      ((placed 0x4C0000000000000000000000).slot 0 0).srep = none ∧ Trappable { placed 0x4C0000000000000000000000 with cur := (0, 0) }) ∧
    (∃ s : State, s.power ≠ .off ∧ s.agenda = .event .launchProcessorTurn :: []) ∧ ∃ s : State, s.power = .off :=
  ⟨⟨placed_issues _,
    by decide +kernel, by decide +kernel, trappable _⟩,
   ⟨{ demo with agenda := [.event .launchProcessorTurn] }, by decide +kernel, by decide +kernel⟩, ⟨{ demo with power := .off }, rfl⟩⟩

/-! ## Witnesses: integers and predicates -/

theorem witness_IntegerArithmetic : Ready demo Hdr.plain [rG 1, rG 2] [rG 3] := ready _ _ _

theorem witness_IntegerProductsAndQuotients :
    Ready demo Hdr.plain [rG 1, rG 2] [rG 3] ∧ Ready demo Hdr.plain [rG 1, rG 2, rG 4] [rG 3] := ⟨ready _ _ _, ready _ _ _⟩

/-- The greatest shift counts of the two widths. -/
theorem witness_IntegerFieldsAndConstants :
    Ready demo Hdr.plain [rG 1, rG 2, rG 4, rG 5] [rG 3] ∧ Ready demo Hdr.plain [rG 1] [rG 3] ∧ Ready demo Hdr.plain [] [rG 0] ∧
      (31#6).toNat < (if true then 32 else 64) ∧ (63#6).toNat < (if false then 32 else 64) :=
  ⟨ready _ _ _, ready _ _ _, ready _ _ _, by decide, by decide⟩

theorem witness_ComparisonsAndPredicates : Ready demo Hdr.plain [rG 1, rG 2] [rP 15] ∧ Ready demo Hdr.plain [rP 1, rP 2] [rP 0] :=
  ⟨ready _ _ _, ready _ _ _⟩

/-! ## Witnesses: issue and system instructions -/

/-- A load of g1 outstanding under CHECKED.HAZARD. -/
def hazardous : State := demo.upd fun x => { x with chkHazard := true, ops := [demoOp .load 0x2000 8 [⟨rG 1, 0, 64, false⟩]] }
def poisoned : State := demo.upd fun x => { x with bad := [rG 1, rF 1] }
/-- A stream of two elements at the start of the store, on v0. -/
def demoStream : Binding := { base := linBase, b0 := 2, b1 := 1, b2 := 1, s0 := 128, s1 := 0, s2 := 0, rcur := 0, wcur := 0,
                              under := false, overrun := false }
def streaming : State := demo.upd fun x => { x with streams := x.streams.set 0 (some demoStream) }

theorem witness_OperandChecksTrapBeforeAnyEffect :
    (GuardSound hazardous Hdr.plain ∧ hazardous.me.chkHazard = true ∧ rG 1 ∈ hazardous.me.pending ∧ hazardous.me.longs ≠ 0) ∧
    (GuardSound poisoned Hdr.plain ∧ Trappable poisoned ∧ poisoned.me.waive = none ∧ rG 1 ∈ poisoned.me.bad ∧ rF 1 ∈ poisoned.me.bad ∧
      poisoned.me.chkHazard = false) ∧
    (GuardSound streaming Hdr.plain ∧ Trappable streaming ∧ streaming.me.chkHazard = false ∧ streaming.me.bad = [] ∧
      (streaming.me.streams[(0#3).toNat]).isSome ∧
      streaming.myPart.permits ((streaming.myPart.classOf (streaming.me.ea ⟨0, 0, 0, 0x2000⟩).toNat 128).getD .hbm)
        (streaming.me.ea ⟨0, 0, 0, 0x2000⟩).toNat 128 needR = true ∧
      ∃ c, checkAccess streaming streaming.myPart .ld (streaming.me.ea ⟨0, 0, 0, 0x2000⟩).toNat 128 = .ok c) := by
  refine ⟨⟨guardSound _, ?_, ?_, ?_⟩, ⟨guardSound _, trappable _, ?_, ?_, ?_, ?_⟩,
    guardSound _, trappable _, ?_, ?_, ?_, ?_, .hbm, ?_⟩ <;> first | rfl | decide +kernel

def inTrap : State := demo.upd fun x => { x with tm := true, trappc := 0x80 }

theorem witness_TrapsAreTakenAndLeft :
    (Ready demo Hdr.plain [] [] ∧ Trappable demo ∧ demo.brkArmed = false) ∧
    (Ready inTrap Hdr.plain [] [] ∧ inTrap.me.tm = true ∧ inTrap.brkArmed = false ∧ inTrap.me.trapOnly = false) ∧
    ∃ s, Ready s Hdr.plain [] [] ∧ s.me.tm = true ∧ s.me.trapOnly = true ∧ s.me.longs = 0 := by
  refine ⟨⟨ready _ _ _, trappable _, ?_⟩, ⟨ready _ _ _, ?_, ?_, ?_⟩, inTrap.upd fun x => { x with trapOnly := true },
    ready _ _ _, ?_, ?_, ?_⟩ <;> decide +kernel

/-- No write of the tile's registers waits; its own counters are open to it; the first and the last read-only number. -/
theorem witness_ControlRegistersReadAndWrite : Ready demo Hdr.plain [rG 1] [rG 2] ∧ Trappable demo ∧ demo.myTile.csrNext = [] ∧
    demo.tileDenied demo.myTile = false ∧ ReadOnlyCsr 0x008 ∧ (demo.csrGet (0x008 : BitVec 12).toNat).isSome = true ∧
    ReadOnlyCsr 0x0F2 ∧ (demo.csrGet (0x0F2 : BitVec 12).toNat).isSome = true :=
  ⟨ready _ _ _, trappable _, by decide +kernel, by decide +kernel, by unfold ReadOnlyCsr; decide, by decide +kernel, by unfold ReadOnlyCsr; decide,
   by decide +kernel⟩

def storing : State := demo.upd fun x => { x with cnts := 1 }

theorem witness_GuardsHintsAndInstructionFences :
    (∃ r, (Instr.add { Hdr.plain with gp := 1 } true 3 1 2).raw = some r ∧ demo.power ≠ .off ∧ demo.me.guardOk r.hdr = false ∧
      demo.me.chkHazard = false ∧ demo.me.ra = none) ∧
    (Ready demo Hdr.plain [] [] ∧ demo.me.srep = none ∧ demo.me.cnts = 0) ∧ (Ready storing Hdr.plain [] [] ∧ storing.me.cnts ≠ 0) := by
  refine ⟨⟨_, rfl, ?_, ?_, ?_, ?_⟩, ⟨ready _ _ _, ?_, ?_⟩, ready _ _ _, ?_⟩ <;> decide +kernel

/-! ## Witnesses: floating point -/

theorem quiet_demo (fl : Nat) : Quiet demo fl := by
  have h : demo.me.fcsr.toNat % 32 = 0 := by decide +kernel
  simp [Quiet, h]

/-- Every flag traps; with 1 + 2^−23 and 2^−24 the sum, the difference, the quotient of the second by the first, the first's root, its
square and its square plus and minus zero are inexact. -/
def strict : State := setF (setF (demo.upd fun x => { x with fcsr := 0x1F }) 1 0x3F800001) 2 0x33800000

theorem witness_FloatArithmeticAndItsTrap :
    (Ready strict Hdr.plain [rF 1, rF 2] [rF 3] ∧ Trappable strict ∧ strict.me.waive = none ∧
      ¬ Quiet strict (fpAdd (FTy.fmt .f32) (strict.me.rmMode .rne) (fval strict .f32 1) (fval strict .f32 2)).fl) ∧
    (Ready strict Hdr.plain [rF 1, rF 1] [rF 3] ∧
      ¬ Quiet strict (fpMul (FTy.fmt .f32) (strict.me.rmMode .rne) (fval strict .f32 1) (fval strict .f32 1)).fl ∧
      ¬ Quiet strict (fpAdd (FTy.fmt .f32) (strict.me.rmMode .rne) (fval strict .f32 1) (fval strict .f32 2).flip).fl) ∧
    (TokensLeft strict 1 ∧ Ready strict Hdr.plain [rF 2, rF 1] [rF 3] ∧
      ¬ Quiet strict (fpDiv (FTy.fmt .f32) (strict.me.rmMode .rne) (fval strict .f32 2) (fval strict .f32 1)).fl ∧
      Ready strict Hdr.plain [rF 1] [rF 3] ∧ ¬ Quiet strict (fpSqrt (FTy.fmt .f32) (strict.me.rmMode .rne) (fval strict .f32 1)).fl) ∧
    (Ready strict Hdr.plain [rF 1, rF 1, rF 4] [rF 3] ∧
      ∀ n, ¬ Quiet strict (fpFma (FTy.fmt .f32) (strict.me.rmMode .rne) n (fval strict .f32 1) (fval strict .f32 1) (fval strict .f32 4)).fl ∧
        ¬ Quiet strict (fpFma (FTy.fmt .f32) (strict.me.rmMode .rne) n (fval strict .f32 1) (fval strict .f32 1) (fval strict .f32 4).flip).fl) ∧
    (Ready demo Hdr.plain [rF 1, rF 2, rF 4] [rF 3] ∧ (∀ fl, Quiet demo fl) ∧ demo.myTile.stretch = false ∧
      TokensLeft (demo.updTile fun x => { x with tokUsed := 7 }) 1) := by
  refine ⟨⟨ready _ _ _, trappable _, ?_, ?_⟩, ⟨ready _ _ _, ?_, ?_⟩, ⟨?_, ready _ _ _, ?_, ready _ _ _, ?_⟩, ⟨ready _ _ _, ?_⟩, ready _ _ _,
      quiet_demo, ?_, ?_, ?_⟩ <;>
    first | (unfold Quiet; decide +kernel) | (unfold TokensLeft; decide +kernel) | decide +kernel

/-- Two numbers; a NaN on the left, on the right, on both sides. -/
theorem witness_FloatBitsComparisonsConversions :
    Ready demo Hdr.plain [rF 1, rF 2] [rF 3] ∧ Ready demo Hdr.plain [rF 1, rF 2] [rP 1] ∧ Ready demo Hdr.plain [rG 0] [rF 3] ∧
    (∀ fl, Quiet demo fl) ∧ ((fval demo .f32 1).isNan || (fval demo .f32 2).isNan) = false ∧
    (∃ s, Ready s Hdr.plain [rF 1, rF 2] [rF 3] ∧ (fval s .f32 1).isNan = true ∧ (fval s .f32 2).isNan = false ∧ (fval s .f32 1).isSnan = true) ∧
    (∃ s, Ready s Hdr.plain [rF 1, rF 2] [rF 3] ∧ (fval s .f32 1).isNan = false ∧ (fval s .f32 2).isNan = true) ∧
    ∃ s, Ready s Hdr.plain [rF 1, rF 1] [rF 3] ∧ (fval s .f32 1).isNan = true := by
  refine ⟨ready _ _ _, ready _ _ _, ready _ _ _, quiet_demo, ?_, ⟨setF demo 1 0x7F800001, ready _ _ _, ?_, ?_, ?_⟩,
    ⟨setF demo 2 0x7FC00000, ready _ _ _, ?_, ?_⟩, setF demo 1 0xFFC00000, ready _ _ _, ?_⟩ <;> decide +kernel

/-- 1/3 in f32 lies between two patterns and rounds to the upper; 2^128 is beyond the largest finite value. -/
theorem witness_RoundingIsCorrect :
    (IsRounded (Fmt.of .f32) .rne false (1 * 2 ^ 149) (3 * 2 ^ 0) 0x3EAAAAAB ∧ 0x3EAAAAAB ≤ (Fmt.of .f32).maxFinite) ∧
    (IsRounded (Fmt.of .f32) .rtz true (2 ^ 128 * 2 ^ 149) 1 0x7F800000 ∧ (Fmt.of .f32).maxFinite < 0x7F800000) ∧
    (0 : Int) - (1 - ((Fmt.of .f32).bias : Int) - ((Fmt.of .f32).m : Int)) = 149 :=
  ⟨⟨⟨0x3EAAAAAA, ⟨by decide +kernel, by decide +kernel⟩, Or.inr (Or.inl (by decide +kernel))⟩, by decide +kernel⟩,
   ⟨⟨by decide +kernel, by decide +kernel⟩, by decide +kernel⟩, by decide +kernel⟩

/-! ## Witnesses: control and hierarchy -/

theorem witness_ControlTransfers : Ready demo Hdr.plain [rG 9] [rG 9] ∧
    (setG demo 9 2).me.gr 9 - 1 ≠ 0 ∧ Ready (setG demo 9 2) Hdr.plain [rG 9] [rG 9] ∧
    (setG demo 9 1).me.gr 9 - 1 = 0 ∧ Ready (setG demo 9 1) Hdr.plain [rG 9] [rG 9] := by
  refine ⟨ready _ _ _, ?_, ready _ _ _, ?_, ready _ _ _⟩ <;> decide +kernel

/-- Slot 32 does not exist; slot 31 inactive, active, and running ahead; slot 0 itself. -/
theorem witness_SlotsStartStopAndMeet :
    (let s := setG demo 1 32
     Ready s Hdr.plain [rG 1, rG 2] [] ∧ 31 < (s.me.gr 1).toNat ∧ Trappable s) ∧
    (let s := setG demo 1 31
     Ready s Hdr.plain [rG 1, rG 2] [] ∧ (s.me.gr 1).toNat ≤ 31 ∧ (s.slot s.cur.1 (slotOf 31)).active = false ∧ slotOf 31 ≠ s.cur.2) ∧
    (let s := (setG demo 1 31).modSlot 0 31 fun x => { x with active := true }
     Ready s Hdr.plain [rG 1, rG 2] [] ∧ (s.slot s.cur.1 (slotOf 31)).active = true ∧ slotOf 31 ≠ s.cur.2 ∧
       (s.slot s.cur.1 (slotOf 31)).ahead = false ∧
       ((s.modSlot 0 31 fun x => { x with ra := some { ckpts := [], issued := 0, fault := some 7, marks := [], pages := [], pre := [] } }).slot
         s.cur.1 (slotOf 31)).ahead = true) ∧
    slotOf (demo.me.gr 1).toNat = demo.cur.2 ∧ demo.me.longs = 0 ∧ hazardous.me.longs ≠ 0 ∧
    (let s := setG (demo.modSlot 0 31 fun x => { x with starting := some 8 }) 1 31
     Ready s Hdr.plain [rG 1, rG 2] [] ∧ (s.slot s.cur.1 (slotOf (s.me.gr 1).toNat)).starting = some 8 ∧ ¬ 8 ≤ s.myTile.cycle ∧
       8 ≤ (s.updTile fun x => { x with cycle := 8 }).myTile.cycle) ∧
    (let s := demo.updTile fun x => { x with inRound := true }
     s.me.longs = 0 ∧ s.myTile.inRound = true ∧
       ∀ j, (s.slot s.cur.1 j).starting = none ∧ (j ≠ s.cur.2 → (s.slot s.cur.1 j).active = false)) := by
  refine ⟨⟨ready _ _ _, ?_, trappable _⟩, ⟨ready _ _ _, ?_, ?_, ?_⟩, ⟨ready _ _ _, ?_, ?_, ?_, ?_⟩, ?_, ?_, ?_, ⟨ready _ _ _, ?_, ?_, ?_⟩, ?_⟩ <;>
    decide +kernel

/-- Launch 3 of graph 0, with no period. -/
def demoLaunch : Launch :=
  { gen := 1, fn := 0, param := 0, period := 1000, periods := [], tile0 := 0, n := 1, budget := none, tokens := 8, queue := 0, policy := 2,
    overFault := false, idem := false, chk := (false, false), graph := 0, up := [1, 2, 3], start := 0, doneAddr := 0, handler := 0, entries := [(0, 0x40)],
    binds := [], buffers := [], order := 0, live := true, started := true, counter := 0, fin := none, ending := none }

/-- demo with that launch on its tile. -/
def launched : State :=
  (demo.updTile fun x => { x with launch := some 3, entries := [(0, 0x40)] }).modPart 1 fun p => { p with launches := [(3, demoLaunch)] }

theorem witness_LaunchesFinishCancelCount :
    (let s := setG demo 1 0x2004
     Ready s Hdr.plain [rG 1] [rG 2, rP 1] ∧ (s.me.gr 1).toNat % 128 ≠ 0 ∧ Trappable s) ∧
    (let s := setG demo 1 0x40000000
     (s.me.gr 1).toNat % 128 = 0 ∧ s.myPart.pgroups * 2 ^ 30 < (s.me.gr 1).toNat + 128 ∧ Trappable s) ∧
    (let s := setG demo 1 0x3FFFFF80
     (s.me.gr 1).toNat % 128 = 0 ∧ (s.me.gr 1).toNat + 128 ≤ s.myPart.pgroups * 2 ^ 30 ∧ s.me.cnts = 0 ∧
       (setG storing 1 0x3FFFFF80).me.cnts ≠ 0) ∧
    (Ready launched Hdr.plain [rG 1] [] ∧ launched.myTile.launch = some 3 ∧ launched.launch launched.myTag 3 = some demoLaunch ∧
      demoLaunch.fin = none ∧ demoLaunch.ending = none) ∧
    (let s := setG (setG launched 1 1) 2 0x103
     Ready s Hdr.plain [rG 1, rG 2] [] ∧ underObject s 1 0x103 3 = true) ∧
    (let s := setG (setG demo 1 4) 2 256
     (s.me.gr 1 = 4 ∧ 255 < (s.me.gr 2).toNat) ∧ Trappable s) := by
  refine ⟨⟨ready _ _ _, ?_, trappable _⟩, ⟨?_, ?_, trappable _⟩, ⟨?_, ?_, ?_, ?_⟩,
    ⟨ready _ _ _, ?_, ?_, ?_, ?_⟩, ⟨ready _ _ _, ?_⟩, ?_, trappable _⟩ <;> decide +kernel

/-! ## Witnesses: vectors and streams -/

theorem witness_VectorFloatLanes : Ready demo Hdr.plain (vecReads [1, 2, 4] ⟨true, 1, false⟩) [rV 3] ∧
    Ready demo Hdr.plain (vecReads [1, 2] noMask) [rK 1] ∧ (∀ fl, Quiet demo fl) ∧ TokensLeft (demo.updTile fun x => { x with tokUsed := 7 }) 1 ∧
    demo.myTile.stretch = false := by
  refine ⟨ready _ _ _, ready _ _ _, quiet_demo, ⟨?_, ?_⟩, ?_⟩ <;> decide +kernel

/-- 1/8 and 8, 2^−6 and 8, 3 and 8, −3 and 1/8, 2^−3 and −3. -/
theorem witness_VectorSpecialFunctions : Ready demo Hdr.plain (vecReads [1] noMask) [rV 3] ∧ (∀ fl, Quiet demo fl) ∧ TokensLeft demo 1 ∧
    (FV.decode (FTy.fmt .f32) 0x7F800001).isNan = true ∧ (FV.decode (FTy.fmt .f32) 0x80000000).isZero = true ∧
    (FV.decode (FTy.fmt .f32) 0xFF800000).isInf = true ∧
    (let v := FV.decode (FTy.fmt .f32) 0x80000001
     v.isNan = false ∧ v.isInf = false ∧ v.isZero = false ∧ v.neg = true) ∧
    (let f := FTy.fmt .f32
     Encodes f 0x3E000000 false 1 (-3) ∧ Encodes f 0x41000000 false 1 (-(-3)) ∧ Encodes f 0x3C800000 false 1 (2 * (-3)) ∧
       Encodes f 0x40400000 false 3 0 ∧ Encodes f 0x41000000 false 1 3 ∧ Encodes f 0xC0400000 true 3 0 ∧ Encodes f 0x3E000000 false 1 (-((3 : Nat) : Int)) ∧
       Encodes f 0xC0400000 (decide ((-3 : Int) < 0)) (-3 : Int).natAbs 0) := by
  have enc (x n m q s e) (h : x < 2 ^ (FTy.fmt .f32).width ∧ FV.decode (FTy.fmt .f32) x = .num n s e ∧
      s * 2 ^ (e - q).toNat = m * 2 ^ (q - e).toNat) : Encodes (FTy.fmt .f32) x n m q := ⟨h.1, s, e, h.2⟩
  refine ⟨ready _ _ _, quiet_demo, ⟨?_, ?_⟩, ?_, ?_, ?_, ?_, enc _ _ _ _ 0x800000 (-26) ?_, enc _ _ _ _ 0x800000 (-20) ?_,
    enc _ _ _ _ 0x800000 (-29) ?_, enc _ _ _ _ 0xC00000 (-22) ?_, enc _ _ _ _ 0x800000 (-20) ?_, enc _ _ _ _ 0xC00000 (-22) ?_,
    enc _ _ _ _ 0x800000 (-26) ?_, enc _ _ _ _ 0xC00000 (-22) ?_⟩ <;> decide +kernel

theorem witness_VectorReductionsAndConversions : Ready demo Hdr.plain (vecReads [1] ⟨true, 1, false⟩) [rGF (.g 3)] ∧
    Ty.isI .s8 = true ∧ Ty.isF .bf16 = true ∧ (∀ fl, Quiet demo fl) ∧
    (vcvtPair .f32 .e2m1 = true ∧ vcvtPair .e4m3 .f32 = true ∧ vcvtPair .rns10 .s64 = true ∧ Ready demo Hdr.plain (vecReads [1] noMask) [rV 3]) := by
  refine ⟨ready _ _ _, ?_, ?_, quiet_demo, ?_, ?_, ?_, ready _ _ _⟩ <;> decide

theorem witness_VectorIntegersMovesAndMasks :
    (Ty.isI .z64 = true ∧ Ready demo Hdr.plain (vecReads [1, 2, 4] ⟨true, 1, true⟩) [rV 3] ∧
      Ready demo Hdr.plain (rG 1 :: vecReads [1] noMask) [rV 3]) ∧
    (Ready demo Hdr.plain (vecReads [1, 2] noMask) [rK 1] ∧ Ty.isI .s16 = true ∧ Ty.width .s16 ≠ 8 ∧ Cnd.ge ≠ .un ∧ Cnd.ge ≠ .ord) ∧
    Ready demo Hdr.plain [rV 1, rV 2, rK 1] [rV 3] ∧ Ready demo Hdr.plain [rGF (.f 1)] [rV 3] ∧ Ready demo Hdr.plain [rV 1, rG 2] [rGF (.g 3)] ∧
    Ready demo Hdr.plain [rK 1, rK 2] [rK 3] ∧ Ready demo Hdr.plain [rK 1] [rG 3] := by
  refine ⟨⟨?_, ready _ _ _, ready _ _ _⟩, ⟨ready _ _ _, ?_, ?_, ?_, ?_⟩, ready _ _ _, ready _ _ _, ready _ _ _, ready _ _ _, ready _ _ _⟩ <;> decide

theorem readyVec (s : State) (r : List Nat) (h : GuardSound s Hdr.plain) (h1 : s.me.chkHazard = false := by decide +kernel)
    (h2 : s.me.bad = [] := by decide +kernel) : ReadyVec s Hdr.plain r := ⟨h, fun _ _ => ⟨by simp [h1], by simp [h2]⟩⟩

theorem cacheFresh (s : State) (a n : Nat) (h : s.myTile.icache = Vector.replicate 4 [] := by decide +kernel)
    (h2 : s.l2 = [] := by decide +kernel) (h3 : ∀ i, i < n → s.refuses s.myTag (a + 4 * i) 4 = false := by decide +kernel) : CacheFresh s a n := by
  intro i hi; exact ⟨fun w hw => by simp [h] at hw, h3 i hi, l2Room_empty _ _ _ h2⟩

/-- A descriptor of demoStream at 0x2000. -/
def described : State := setG (demo.writeHbm demoPart 0x2000 (linBase + 2 * 2 ^ 64 + 128 * 2 ^ 96 + 2 ^ 128 + 2 ^ 192) 32) 7 0x2000

/-- The last element of the stream; a descriptor in order, misaligned, past the extent, all zero; a bound and an unbound register; srep
before a nop and before a vneg that reads the stream. -/
theorem witness_StreamsBindDeliverAndReport :
    (demoStream.ok = true ∧ 1 < demoStream.b0 * demoStream.b1 * demoStream.b2) ∧
    (ReadyVec described Hdr.plain [rG 7] ∧ (described.me.gr 7).toNat % 32 = 0 ∧ (described.me.gr 7).toNat + 32 ≤ described.myPart.pgroups * 2 ^ 30 ∧
      described.myPart.grants (described.me.gr 7).toNat 32 needR = true ∧ CacheFresh described 0x2000 8 ∧
      descriptor (described.readHbm described.myPart 0x2000 32) = demoStream) ∧
    ((setG demo 7 0x2010).me.gr 7).toNat % 32 ≠ 0 ∧
    (((setG demo 7 0x3FFFFFF0).me.gr 7).toNat % 32 ≠ 0 ∧ ((setG demo 7 0x40000000).me.gr 7).toNat % 32 = 0 ∧
      ¬ ((setG demo 7 0x40000000).me.gr 7).toNat + 32 ≤ demo.myPart.pgroups * 2 ^ 30) ∧
    (descriptor (demo.readHbm demo.myPart 0x2000 32)).ok = false ∧ Trappable demo ∧
    (ReadyVec streaming Hdr.plain [] ∧ streaming.me.streams[(0#3).toNat] ≠ none ∧ demo.me.streams[(0#3).toNat] = none) ∧
    ((demoStream.rcur < 2 ^ 29 ∧ demoStream.wcur < 2 ^ 29) ∧
      (streaming.upd fun x => { x with srep := some 0 }).me.srep = some 0 ∧ decode (BitVec.ofNat 96 (streaming.readHbm streaming.myPart 0x4C 12)) = .ok (.nop Hdr.plain) ∧
      fetchFault streaming.myPart 0x4C = none ∧ CacheFresh streaming 0x4C 3) ∧
    (let s := streaming.writeHbm demoPart 0x4C 0x1C40012200000000C0000000 12
     decode (BitVec.ofNat 96 (s.readHbm s.myPart 0x4C 12)) = .ok (.vneg Hdr.plain .s32 noMask 8 0) ∧ s.me.boundAt (rV 8) = false ∧
       s.me.streamOf 0 = some demoStream) := by
  refine ⟨⟨?_, ?_⟩, ⟨readyVec _ _ (guardSound _), ?_, ?_, ?_, cacheFresh _ _ _, ?_⟩, ?_, ⟨?_, ?_, ?_⟩, ?_, trappable _,
    ⟨readyVec _ _ (guardSound _), ?_, ?_⟩, ⟨⟨?_, ?_⟩, ?_, ?_, ?_, cacheFresh _ _ _⟩, ?_, ?_, ?_⟩ <;> decide +kernel

/-- A pop and a push with an element left, and at the end of the stream. -/
theorem witness_VectorInstructionsPopAndPush :
    (let s := streaming
     ReadyVec s Hdr.plain [rV 0, rV 9] ∧ s.me.boundAt (rV 9) = false ∧ s.me.acquiring = false ∧ s.myTile.board = [] ∧
       s.me.streams[0] = some demoStream ∧ demoStream.rcur < demoStream.total ∧ s.me.boundAt (rV 8) = false ∧ s.myTile.badChunks = [] ∧
       Memory.wf s.myTile.store = true ∧ demoStream.ok = true ∧ demoStream.wcur < demoStream.total) ∧
    (let e := { demoStream with rcur := 2, wcur := 2 }
     let s := demo.upd fun x => { x with streams := x.streams.set 0 (some e) }
     ReadyVec s Hdr.plain [rV 0, rV 9] ∧ s.me.streams[0] = some e ∧ ¬ e.rcur < e.total ∧ e.total ≤ e.wcur ∧ e.ok = true) := by
  refine ⟨⟨readyVec _ _ (guardSound _), ?_, ?_, ?_, ?_, ?_, ?_, ?_, ?_, ?_, ?_⟩, readyVec _ _ (guardSound _), ?_, ?_, ?_, ?_⟩ <;> decide +kernel

/-! ## Witnesses: the matrix array -/

/-- The ends of the range of the residues. -/
theorem witness_ResidueNumbersAreExact :
    ((-536870400 : Int) ≤ -536870400 ∧ (-536870400 : Int) < 536870400 ∧ (-536870400 : Int) ≤ -536870400 + 1) ∧
    ((-536870400 : Int) ≤ 536870399 ∧ (536870399 : Int) < 536870400 ∧ ¬ (536870399 + 1 : Int) < 536870400) := by decide

/-- An mmac of s8 from the tile store, at its first chunk. -/
def mac0 : Mac := { q := 0, slot := 0, pc := 0x40, set := 0, kind := .rns, sub := noM, a := linBase, b := linBase, y := 0, z := 0,
                    waived := false, board := 0, qid := 3, early := [], lines := [], held := [] }

theorem mayArrive (s : State) (h : s.cur.2.val % 8 = s.myTile.matcfg.toNat % 8 := by decide +kernel) (h1 : s.myTile.arrivals = [] := by decide +kernel) :
    MayArrive s := ⟨h, by simp [h1]⟩

/-- Operands in the store, at HBM's last bytes (`.al2`), outside the windows, off a chunk; types of no kind; a slot of the core parked already; the
scoreboard one short of full. -/
theorem witness_MatrixArrivals :
    (let s := setG (setG demo 1 (w64 linBase)) 2 (w64 linBase)
     Ready s Hdr.plain [rG 1, rG 2] [] ∧ MayArrive s ∧ kindOf noM.ta noM.tb (s.myTile.matcfg.getLsbD 6) = some .rns ∧
       operandTrap s (s.me.gr 1).toNat (aBytes .rns noM) noM.sa = none ∧ operandTrap s (s.me.gr 2).toNat (bBytes .rns noM) noM.sb = none ∧
       s.myTile.badYZ = [] ∧ (s.updTile fun x => { x with board := List.replicate 63 ⟨0, [], [], []⟩ }).myTile.board.length < 64) ∧
    (let s := setG (setG demo 1 (w64 linBase)) 2 (w64 (linBase + 32))
     operandTrap s (s.me.gr 2).toNat (bBytes .rns noM) noM.sb = some 3 ∧ operandTrap s 0x2000 (aBytes .rns noM) noM.sa = some 4 ∧
       operandTrap s (0x40000000 - aBytes .rns noM) (aBytes .rns noM) true = none ∧
       operandTrap s (0x40000040 - aBytes .rns noM) (aBytes .rns noM) true = some 4) ∧
    (Trappable demo ∧ MayArrive demo ∧ kindOf .f64 .f32 (demo.myTile.matcfg.getLsbD 6) = none) ∧
    (let s := demo.updTile fun x => { x with arrivals := [{ slot := 1, n := 1, pc := 0, mac := none }] }
     Ready s Hdr.plain [] [] ∧ Trappable s ∧ ¬ MayArrive s) := by
  refine ⟨⟨ready _ _ _, mayArrive _, ?_, ?_, ?_, ?_, ?_⟩, ⟨?_, ?_, ?_, ?_⟩, ⟨trappable _, mayArrive _, ?_⟩, ready _ _ _, trappable _, ?_⟩ <;>
    first | (unfold MayArrive; decide +kernel) | decide +kernel

/-- Ranges of mldt and mdrain that end at the end of the window, one chunk further, and off a chunk; RSTOP set and not; mfetch of 1 and 229,376
bytes; a y address off 8 bytes and outside; a quarter number of 3 and 4. -/
theorem witness_MatrixTransfersAndRegisters :
    (let a := linBase + storeSize - 4096
     Ready (setG demo 1 (w64 a)) Hdr.plain [rG 1] [] ∧ rangeTrap ((setG demo 1 (w64 a)).me.gr 1).toNat 4096 = none ∧
       rangeTrap (a + 64) 4096 = some 4 ∧ rangeTrap (a + 8) 1024 = some 3 ∧ rangeTrap 0 4096 = some 4 ∧ Trappable demo) ∧
    (let s := setG demo 1 (w64 linBase)
     Ready s Hdr.plain [rG 1] [rG 1, rP 1] ∧ TokensLeft s 1 ∧ s.me.srep = none ∧ s.myTile.qops = [] ∧ s.myTile.board.length < 64 ∧
       rangeTrap (s.me.gr 1).toNat (1024 * (Ty.width .s32 / 8)) = none ∧ s.myTile.matcfg.getLsbD 7 = false) ∧
    (demo.updTile fun x => { x with matcfg := x.matcfg ||| 0x80 }).myTile.matcfg.getLsbD 7 = true ∧
    (let s := setG (setG demo 1 0x2000) 2 229376
     Ready s Hdr.plain [rG 1, rG 2] [] ∧ 1 ≤ (s.me.gr 2).toNat ∧ (s.me.gr 2).toNat ≤ 229376 ∧ (s.me.gr 1).toNat < 2 ^ 39 ∧
       (s.me.gr 1).toNat + (s.me.gr 2).toNat ≤ s.myPart.extent ∧ s.myPart.grants (s.me.gr 1).toNat (s.me.gr 2).toNat 1 = true) ∧
    ¬ 1 ≤ (demo.me.gr 2).toNat ∧
    (inWindow (linBase + 8) 1 = true ∧ (linBase + 8) % 8 = 0 ∧ (linBase + 4) % 8 ≠ 0 ∧ inWindow (linBase - 1) 1 = false ∧
      demo.me.acquiring = false ∧ demo.myTile.badChunks = []) ∧
    (3 < ((setG demo 1 4).me.gr 1).toNat ∧ ((setG demo 1 3).me.gr 1).toNat = (3 : Fin 4).val) := by
  refine ⟨⟨ready _ _ _, ?_, ?_, ?_, ?_, trappable _⟩, ⟨ready _ _ _, ⟨?_, ?_⟩, ?_, ?_, ?_, ?_, ?_⟩, ?_, ⟨ready _ _ _, ?_, ?_, ?_, ?_, ?_⟩, ?_,
    ⟨?_, ?_, ?_, ?_, ?_, ?_⟩, ?_, ?_⟩ <;> decide +kernel

/-- The next quarter's member of mac0's gang, with another B. -/
def mac1 : Mac := { mac0 with q := 1, slot := 8, b := linBase + 0x1000, qid := 4 }

/-- One core's mmac alone, and beside a participant that has arrived as often; two cores' mmacs; two cores that differ; a formed gang of two to start;
one that completes; a line to fetch. -/
theorem witness_MatrixGangs :
    (let a : Arrival := { slot := 0, n := 1, pc := 0x40, mac := some mac0 }
     let s := (demo.updTile fun x => { x with arrivals := [a], tokUsed := 4 }).modSlot 0 8 fun y => { y with active := true, drawCnt := 1 }
     let x := s.tile 0
     s.power ≠ .off ∧ s.frozen 0 = false ∧ x.arrivals = [a] ∧ mac0.kind = .rns ∧
       (∀ c : Fin 4, a.slot.val / 8 = c.val ∨
         let k := slotOf (8 * c.val + x.matcfg.toNat % 8); (x.slot k).active = false ∨ 1 ≤ (x.slot k).drawCnt) ∧
       x.gangs.length < 4 ∧ x.tokUsed + 4 ≤ x.tokDecl ∧ x.tokUsed + 4 ≤ 65535 ∧ x.stretch = false) ∧
    (let a : Arrival := { slot := 0, n := 1, pc := 0x40, mac := some mac0 }
     let b : Arrival := { slot := 8, n := 1, pc := 0x40, mac := some mac1 }
     let x := (demo.updTile fun x => { x with arrivals := [a, b] }).tile 0
     x.arrivals = [a, b] ∧ (∀ y ∈ [a, b], y.n = 1 ∧ y.mac.isSome = true ∧ y.mac.map (·.kind) = some .rns) ∧
       (∀ c : Fin 4, (∃ y ∈ [a, b], y.slot.val / 8 = c.val) ∨
         let k := slotOf (8 * c.val + x.matcfg.toNat % 8); (x.slot k).active = false ∨ 1 ≤ (x.slot k).drawCnt)) ∧
    (let a : Arrival := { slot := 0, n := 1, pc := 0x40, mac := some mac0 }
     let b : Arrival := { slot := 8, n := 1, pc := 0x40, mac := none }
     let s := (demo.updTile fun x => { x with arrivals := [a, b] }).modSlot 0 8 fun y => { y with active := true }
     let x := s.tile 0
     s.frozen 0 = false ∧ x.gangs.length < 4 ∧ x.arrivals = [a, b] ∧ a.n = b.n ∧ a.slot.val / 8 ≠ b.slot.val / 8 ∧
       (∀ k, (x.slot k).active = true → k = a.slot ∨ k = b.slot) ∧
       (∀ k, k = a.slot ∨ k = b.slot → (x.slot k).longs = 0 ∧ (x.slot k).ra = none ∧ (x.slot k).tm = false) ∧ x.trapvec &&& ~~~3 ≠ 0) ∧
    (let l : List QOp := [{ id := 3, q := 0, set := 0, what := .mac, board := 0 }, { id := 4, q := 1, set := 0, what := .mac, board := 0 }]
     let x := (demo.updTile fun x => { x with gangs := [[mac0, mac1]], qops := l }).tile 0
     x.gangs = [mac0, mac1] :: [] ∧ x.running = none ∧ x.board = [] ∧ ([mac0, mac1].Pairwise fun m n => m.q ≠ n.q) ∧
       ∀ m ∈ [mac0, mac1], m.sub.sa = false ∧ m.sub.sb = false ∧ m.lines = [] ∧ (∀ o ∈ x.qops, o.id < m.qid → o.q ≠ m.q ∨ o.set ≠ m.set) ∧
         ∀ o ∈ x.qops, o.id = m.qid → o.q = m.q ∧ o.set = m.set) ∧
    (let x := (demo.updTile fun x => { x with running := some ([mac0], 16), cycle := 16 }).tile 0
     x.running = some ([mac0], 16) ∧ 16 ≤ x.cycle) ∧
    (let f : Fetch := { line := 0x20, byMac := false, wanted := true, hint := .none, slot := 0 }
     let x := (demo.updTile fun x => { x with fetches := [f] }).tile 0
     x.fetches = f :: [] ∧ (∀ i, i < 4 → demo.refuses x.tag.toNat (256 * 0x20 + 64 * i) 64 = false) ∧ 256 * 0x20 + 256 ≤ 2 ^ 39) := by
  refine ⟨?_, ?_, ?_, ?_, ?_, ?_⟩ <;> decide +kernel

/-- The partition of demo owns its slice group and its line has room; a member's first chunk read early and not. -/
theorem witness_MatrixGangs_homes : Owned demo 1 0x2000 ∧ L2Room demo 1 0x2000 ∧ mac0.early = [] ∧
    mapFind ({ mac0 with early := [(0, 5, false)] }).early 0 = some (5, false) :=
  ⟨by unfold Owned; decide +kernel, l2Room_empty _ _ _, by decide, by decide⟩

/-- A tile with one operation of quarter 0 in its order, its turn come. -/
def withQ (w : QWhat) (op : List Op) : State :=
  (demo.updTile fun x => { x with qops := [{ id := 5, q := 0, set := 0, what := w, board := 0 }] }).upd fun x => { x with ops := op }

theorem withQ_turn (w : QWhat) (op : List Op) : TurnOf ((withQ w op).tile 0) { id := 5, q := 0, set := 0, what := w, board := 0 } := by
  have h : ((withQ w op).tile 0).qops = [{ id := 5, q := 0, set := 0, what := w, board := 0 }] := rfl
  have h2 : ((withQ w op).tile 0).board = [] := rfl
  exact ⟨by simp [h], by intro p hp; simp [h] at hp; subst hp; simp, by simp [h2]⟩

/-- An accumulator with one element listed holds no greater one. -/
theorem acc_fits (a : Acc) (v n : Nat) (h : a.elems = [(0, v)]) (hv : v < n) : ∀ e, a.elem e < n := by
  intro e; simp only [Acc.elem, h, mapGet]; split <;> omega

/-- mzero; mldt of residues; mbound; mdrain with `.zr` of an FP64 tile; one that waits under RANGETRAP, with RANGE set and not. -/
theorem witness_MatrixQuarterOperations :
    (let o : QOp := { id := 5, q := 0, set := 0, what := .zero .rns, board := 0 }
     (withQ o.what []).power ≠ .off ∧ (withQ o.what []).frozen 0 = false ∧ TurnOf ((withQ o.what []).tile 0) o ∧
       (((withQ o.what []).tile 0).qops.filter fun y => y.q == o.q)[0]? = some o) ∧
    (TurnOf ((withQ (.load 0 linBase .rns .s32) []).tile 0) { id := 5, q := 0, set := 0, what := .load 0 linBase .rns .s32, board := 0 } ∧
      ((withQ (.load 0 linBase .rns .s32) []).tile 0).badChunks = []) ∧
    (let op := demoOp (.query .drain) 0 0 [⟨rG 1, 0, 64, false⟩]
     ((withQ (.bound 0 7) [op]).slot 0 0).ops = [op] ∧ op.id = 7) ∧
    (let op := demoOp (.query .drain) 0 0 [⟨rG 1, 0, 64, false⟩]
     let s := (withQ (.drain 0 7 linBase .f64 true 0 false) [op]).updTile fun x =>
       { x with acc := [(0, { Acc.reset with kind := some .fp64, elems := [(0, 2 ^ 64 - 1)] })] }
     let old := (s.tile 0).accAt 0 0
     (s.slot 0 0).ops = [op] ∧ old.bad = false ∧ old.kind = some .fp64 ∧ (∀ e, old.elem e < 2 ^ (if MKind.fp64 = .fp64 then 64 else 32)) ∧
       Memory.wf (s.tile 0).store = true ∧
       rangeTrap linBase (1024 * (Ty.width .f64 / 8)) = none ∧ Ty.isDrain .f64 = true) ∧
    (let w := QWhat.drain 0 0 linBase .s8 false 0x80 true
     let o : QOp := { id := 5, q := 0, set := 0, what := w, board := 0 }
     let s := (withQ w []).upd fun x => { x with park := .range 0 Hdr.plain 1 1 }
     let r := s.updTile fun x => { x with acc := [(0, { Acc.reset with kind := some .rns, range := true })] }
     (s.slot 0 0).park = .range 0 Hdr.plain 1 1 ∧ (s.slot 0 0).active = true ∧ (s.slot 0 0).sPark = false ∧ (s.slot 0 0).yPark = none ∧
       (s.slot 0 0).ra = none ∧ (s.tile 0).qops = [o] ∧ ((s.tile 0).accAt 0 0).kind ≠ some .rns ∧
       ((r.tile 0).accAt 0 0).kind = some .rns ∧ ((r.tile 0).accAt 0 0).range = true ∧ (r.slot 0 0).waive ≠ some 9 ∧
       (r.slot 0 0).tm = false ∧ (r.slot 0 0).longs = 0 ∧ (r.tile 0).trapvec &&& ~~~3 ≠ 0) := by
  refine ⟨⟨?_, ?_, withQ_turn _ _, ?_⟩, ⟨withQ_turn _ _, ?_⟩, ⟨?_, ?_⟩, ⟨?_, ?_, ?_,
    acc_fits _ (2 ^ 64 - 1) _ (by decide +kernel) (by decide), ?_, ?_, ?_⟩, ?_⟩ <;> decide +kernel

/-- R235, R236: at its start an mmac of s8 adds the products of row 0 and column 0: 3 · 3 + 5 · 5. -/
theorem test_gang :
    let s := demo.updTile fun x => { (x.storeWrite linBase 0x0503 2) with gangs := [[mac0]], qops := [{ id := 3, q := 0, set := 0, what := .mac, board := 0 }] }
    (after (.gangStart 0) s).map (fun t => rnsVal (((t.tile 0).accAt 0 0).elem 0)) = some 34 := by decide +kernel

/-! ## Witnesses: memory -/

theorem hbmOk (s : State) (a n need : Nat) (h1 : a < 2 ^ 39 := by decide +kernel) (h2 : a + n ≤ s.myPart.extent := by decide +kernel)
    (h3 : a / 4096 = (a + n - 1) / 4096 := by decide +kernel) (h4 : s.myPart.grants a n need = true := by decide +kernel) : HbmOk s a n need :=
  ⟨h1, h2, h3, h4⟩

theorem storeOk (a n : Nat) (h1 : inWindow a n = true := by decide +kernel) (h2 : a / 4096 = (a + n - 1) / 4096 := by decide +kernel) :
    StoreOk a n := ⟨h1, h2⟩

/-- The last bytes of HBM and of both windows. -/
theorem witness_MemoryKeepsWhatIsWritten :
    (Memory.wf demo.myTile.store = true ∧ inWindow (linBase + storeSize - 4096) 4096 = true ∧ inWindow swzBase 1 = true ∧ 2 ^ 21 - 1 < 2 ^ 21) ∧
    (Memory.wf demo.hbm = true ∧ 0x3FFFFFF0 / 65536 = (0x3FFFFFF0 + 16 - 1) / 65536 ∧ demo.blockClear (demoPart.phys 0x3FFFFFF0) = false) ∧
    ({ demo with clearMap := [(0, [(0, 1)])] } : State).blockClear (demoPart.phys 0xFFF0) = true := by decide +kernel

/-- Every lane of vgather at the last word of the window, or of HBM. -/
theorem laneAddr_zero (s : State) (g : G) (b : V) (disp : BitVec 48) (a : Nat) (hv : s.me.vr b = 0)
    (h : (s.me.gr g + disp.signExtend 64).toNat = a) (i : Nat) : laneAddr s g b 0 disp i = a := by
  simp [laneAddr, laneB, hv, h]

theorem witness_LoadsDeliverOrQueue :
    (let s := setG demo 1 (w64 (linBase + storeSize - 16))
     Ready s Hdr.plain [rG 1, rG 0] [rG 2, rG 3] ∧ StoreOk (s.me.ea ⟨1, 0, 0, 0⟩).toNat 16 ∧ StoreOk (s.me.ea ⟨1, 0, 0, 8⟩).toNat 8 ∧
       (s.me.ea ⟨1, 0, 0, 8⟩).toNat % 8 = 0 ∧ StoreOk (s.me.ea ⟨1, 0, 0, -112⟩).toNat 128 ∧ s.me.acquiring = false ∧ s.myTile.badChunks = []) ∧
    (let s := setG demo 1 0x3FFFFF80
     Ready s Hdr.plain [rG 1, rG 0] [rGF (.f 2)] ∧ HbmOk s (s.me.ea ⟨1, 0, 0, 0⟩).toNat 128 1 ∧ HbmOk s (s.me.ea ⟨1, 0, 0, 112⟩).toNat 16 1 ∧
       HbmOk s (s.me.ea ⟨1, 0, 0, 127⟩).toNat 1 1 ∧ HbmOk s (s.me.ea ⟨1, 0, 0, 120⟩).toNat 8 1 ∧ (s.me.ea ⟨1, 0, 0, 120⟩).toNat % 8 = 0) ∧
    (let s := setG demo 1 (w64 (linBase + storeSize - 4))
     Ready s Hdr.plain [rG 1, rV 2] [rV 3] ∧ ∀ i, i < 32 → StoreOk (laneAddr s 1 2 0 0 i) 4) ∧
    (let s := setG demo 1 0x3FFFFFFC
     Ready s Hdr.plain [rG 1, rV 2] [rV 3] ∧ ∀ i, i < 32 → HbmOk s (laneAddr s 1 2 0 0 i) 4 1) ∧ (30 : G) ≠ 31 :=
  ⟨⟨ready _ _ _, storeOk _ _, storeOk _ _, by decide +kernel, storeOk _ _, by decide +kernel, by decide +kernel⟩,
   ⟨ready _ _ _, hbmOk _ _ _ _, hbmOk _ _ _ _, hbmOk _ _ _ _, hbmOk _ _ _ _, by decide +kernel⟩,
   ⟨ready _ _ _, fun i _ => by rw [laneAddr_zero _ 1 2 0 (linBase + storeSize - 4) (by decide +kernel) (by decide +kernel) i]; exact storeOk _ _⟩,
   ⟨ready _ _ _, fun i _ => by rw [laneAddr_zero _ 1 2 0 0x3FFFFFFC (by decide +kernel) (by decide +kernel) i]; exact hbmOk _ _ _ _⟩, by decide⟩

theorem witness_StoresWriteOrQueue :
    (Memory.wf demo.myTile.store = true ∧ demo.me.acquiring = false ∧ demo.me.counted = [] ∧
      StoreOk ((setG demo 1 (w64 linBase)).me.ea ⟨1, 0, 0, 0⟩).toNat 128 ∧ Ready (setG demo 1 (w64 linBase)) Hdr.plain [rGF (.f 2), rG 1, rG 0] []) ∧
    (let s := setG demo 1 0x3FFFFF80
     Ready s Hdr.plain [rG 2, rG 3, rG 1, rG 0] [] ∧ HbmOk s (s.me.ea ⟨1, 0, 0, 0⟩).toNat 128 2 ∧ HbmOk s (s.me.ea ⟨1, 0, 0, 112⟩).toNat 16 2 ∧
       (s.me.ea ⟨1, 0, 0, 120⟩).toNat % 8 = 0) ∧
    (let s := demo.upd fun x => { x with ops := [{ demoOp .store 0x2000 8 [] with cntS := true }] }
     s.me.counted ≠ [] ∧ Ready s Hdr.plain [rG 2, rG 1, rG 0] []) ∧
    (let s := setG demo 1 (w64 (linBase + storeSize - 4))
     Ready s Hdr.plain [rV 3, rG 1, rV 2] [] ∧ ∀ i, i < 32 → StoreOk (laneAddr s 1 2 0 0 i) 4) ∧
    (let s := setG demo 1 0x3FFFFFFC
     Ready s Hdr.plain [rV 3, rG 1, rV 2] [] ∧ ∀ i, i < 32 → HbmOk s (laneAddr s 1 2 0 0 i) 4 2) ∧
    ((demo.me.ea ⟨0, 0, 0, 0x2010⟩).toNat < 2 ^ 39 ∧ (demo.me.ea ⟨0, 0, 0, 0x2010⟩).toNat + 1 ≤ demo.myPart.extent ∧
      demo.myPart.grants ((demo.me.ea ⟨0, 0, 0, 0x2010⟩).toNat / 256 * 256) 256 1 = true ∧
      demo.myPart.classOf (demo.me.ea ⟨0, 0, 0, 0x2010⟩).toNat 1 ≠ some .view) ∧
    (demo.power ≠ .off ∧ demo.me.guardOk Hdr.plain = true ∧ demo.me.ra = none ∧ (demo.me.ea ⟨0, 0, 0, 0x2010⟩).toNat < 2 ^ 39 ∧
      L2Room demo demo.myTag ((demo.me.ea ⟨0, 0, 0, 0x2010⟩).toNat / 256 * 256)) :=
  ⟨⟨by decide +kernel, by decide +kernel, by decide +kernel, storeOk _ _, ready _ _ _⟩,
   ⟨ready _ _ _, hbmOk _ _ _ _, hbmOk _ _ _ _, by decide +kernel⟩, ⟨by decide +kernel, ready _ _ _⟩,
   ⟨ready _ _ _, fun i _ => by rw [laneAddr_zero _ 1 2 0 (linBase + storeSize - 4) (by decide +kernel) (by decide +kernel) i]; exact storeOk _ _⟩,
   ⟨ready _ _ _, fun i _ => by rw [laneAddr_zero _ 1 2 0 0x3FFFFFFC (by decide +kernel) (by decide +kernel) i]; exact hbmOk _ _ _ _⟩,
   ⟨by decide +kernel, by decide +kernel, by decide +kernel, by decide +kernel⟩, by decide +kernel, by decide +kernel, by decide +kernel,
   by decide +kernel, l2Room_empty _ _ _⟩

/-- The first byte past the extent, and each hole at both ends; a remote address with a bit that must be zero, and one of a chip without a
link; across 4 KiB with its first byte in HBM; off its size; a range without the permission. -/
theorem witness_AccessChecksInOrder :
    (Trappable demo ∧ Ready demo Hdr.plain [rGF (.g 2), rG 3, rG 4, rG 1, rG 0] [rGF (.g 2), rG 3] ∧ (demo.myPart.extent ≤ 0x40000000 ∧ 0x3FFFFFFF < demo.myPart.extent) ∧
      (2 ^ 39 ≤ 2 ^ 39 ∧ 2 ^ 40 - 1 < 2 ^ 40) ∧ inWindow (2 ^ 49 - 1) 1 = false ∧ inWindow (linBase + storeSize - 3) 4 = false ∧
      (2 ^ 40 ≤ 2 ^ 48 - 1 ∧ demo.myPart.findRegion (2 ^ 48 - 1) 1 = none) ∧ (2 ^ 50 ≤ 2 ^ 63 - 1 ∧ 2 ^ 63 - 1 < 2 ^ 63) ∧
      (2 ^ 63 + 2 ^ 60) / 2 ^ 60 % 8 ≠ 0 ∧ demo.myPart.link (remoteChip demo (2 ^ 63 + 5 * 2 ^ 48)) = none) ∧
    (0x1FFD < demo.myPart.extent ∧ 2 ^ 49 ≤ 2 ^ 50 - 3 ∧ (2 ^ 50 - 3) / 4096 ≠ (2 ^ 50 - 3 + 4 - 1) / 4096 ∧ 0x1FFD / 4096 ≠ (0x1FFD + 4 - 1) / 4096 ∧ 0x1FFD + 4 ≤ demo.myPart.extent ∧ 0x2004 % 8 ≠ 0 ∧ 0x2004 / 4096 = (0x2004 + 8 - 1) / 4096) ∧
    (let s := demo.modPart 1 fun p => { p with ranges := p.ranges.set 0 0xC }
     s.myPart.grants 0x2000 8 1 = false ∧ s.myPart.grants 0x2000 8 2 = false) ∧
    inWindow ((setG demo 3 (w64 linBase)).me.gr 3).toNat 8 = true := by
  refine ⟨⟨trappable _, ready _ _ _, ?_, ?_, ?_, ?_, ?_, ?_, ?_, ?_⟩, ?_, ?_, ?_⟩ <;> decide +kernel

/-- HBM's last bytes; past the extent, in the hole at both ends, in the store; off its size; a range without the permissions. -/
theorem witness_AtomicsAreQueued :
    (let s := setG demo 1 0x3FFFFFF0
     Ready s Hdr.plain [rG 1, rG 4, rG 5, rG 6, rG 7] [rG 2, rG 3] ∧ HbmOk s (s.me.gr 1).toNat 16 3 ∧ (s.me.gr 1).toNat % 16 = 0) ∧
    (let s := setG demo 1 0x3FFFFFF8
     Ready s Hdr.plain [rG 1, rGF (.f 4)] [rGF (.f 2)] ∧ HbmOk s (s.me.gr 1).toNat 8 3 ∧ (s.me.gr 1).toNat % amofBytes .f64 = 0 ∧ AmoW.b64 ≠ .b128) ∧
    (Trappable demo ∧ Ready demo Hdr.plain [rG 1, rG 4, rG 5, rG 6, rG 7] [rG 2, rG 3] ∧ Ready demo Hdr.plain [rG 1, rGF (.f 4)] [rGF (.f 2)] ∧
      (demo.myPart.extent ≤ ((setG demo 1 0x40000000).me.gr 1).toNat ∧ ((setG demo 1 0x40000000).me.gr 1).toNat < 2 ^ 39) ∧
      ((setG demo 1 0x8000000000).me.gr 1).toNat = 2 ^ 39 ∧ ((setG demo 1 0xFFFFFFFFFF).me.gr 1).toNat = 2 ^ 40 - 1 ∧
      inWindow ((setG demo 1 (w64 linBase)).me.gr 1).toNat 16 = true ∧
      ((setG demo 1 0x3FFFFFFF).me.gr 1).toNat < demo.myPart.extent ∧ ((setG demo 1 0x3FFFFFFF).me.gr 1).toNat % 2 ≠ 0 ∧
      (∀ need, need < 4 → 0 < need → (demo.modPart 1 fun p => { p with ranges := p.ranges.set 0 0xC }).myPart.grants 0x2000 16 need = false)) :=
  ⟨⟨ready _ _ _, hbmOk _ _ _ _, by decide +kernel⟩, ⟨ready _ _ _, hbmOk _ _ _ _, by decide +kernel, by decide⟩, trappable _, ready _ _ _, ready _ _ _,
   by decide +kernel, by decide +kernel, by decide +kernel, by decide +kernel, by decide +kernel, by decide +kernel, by decide +kernel⟩

/-! ## Witnesses: operations performed, waits that end -/

/-- demo with one operation outstanding. -/
def withOp (o : Op) : State := demo.upd fun x => { x with ops := [o], cntl := if o.cntL then 1 else 0, cnts := if o.cntS then 1 else 0 }

theorem hasOp (o : Op) (h : o.id = 7) (h1 : (withOp o).frozen 0 = false := by decide +kernel) : HasOp (withOp o) 0 0 7 o := by
  refine ⟨?_, ?_, h1⟩
  · have : (withOp o).slot 0 0 = { demo.me with ops := [o], cntl := if o.cntL then 1 else 0, cnts := if o.cntS then 1 else 0 } := rfl
    simp [Slot.opOf, this, h]
  · exact fun h => by cases h

theorem plainHbm (s : State) (t : TileId) (a n : Nat) (h1 : a + n ≤ 2 ^ 39 ∧ 0 < n ∧ a % 32 + n ≤ 32 := by decide +kernel)
    (h2 : Memory.wf s.hbm = true := by decide +kernel) (h3 : s.blockClear ((partOf s t).phys a) = false := by decide +kernel)
    (h4 : s.badHbm = [] := by decide +kernel) (h5 : s.rdc = [] := by decide +kernel)
    (h6 : s.owner ((s.part (s.tile t).tag.toNat).homeGroup a) = some (s.tile t).tag.toNat := by decide +kernel)
    (h7 : s.l2 = [] := by decide +kernel) : PlainHbm s t a n :=
  ⟨h1, h2, h3, h4, by simp [h5, mapGet], h6, l2Room_empty _ _ _ h7⟩

def aLoad : Op := { demoOp .load 0x2018 8 [⟨rG 3, 0, 64, false⟩] with cntL := true }
def aStore : Op := { demoOp .store 0x2018 8 [] with cntS := true }

theorem witness_OperationsPerformAtTheirHomes :
    (HasOp (withOp aLoad) 0 0 7 aLoad ∧ aLoad.mark = false ∧ aLoad.pieces[0]? = some ⟨0x2018, 8, 0, false, none⟩ ∧
      ((withOp aLoad).slot 0 0).sendable aLoad 0 ⟨0x2018, 8, 0, false, none⟩ = true ∧ PlainHbm (withOp aLoad) 0 0x2018 8 ∧
      (∀ y ∈ ((withOp aLoad).tile 0).l1[(0 : SlotId).val / 8], y.addr ≠ 0x2018 / 64 * 64) ∧
      ((withOp aLoad).tile 0).atomOn (coreOf 0) 7 (0x2018 / 64) = false) ∧
    (HasOp (withOp { aLoad with ready := true }) 0 0 7 { aLoad with ready := true } ∧ aLoad.bad = false ∧ (3 : G) ≠ 0) ∧
    (HasOp (withOp aStore) 0 0 7 aStore ∧ aStore.pieces = [⟨0x2018, 8, 0, false, none⟩] ∧ ((withOp aStore).slot 0 0).sendable aStore 0 ⟨0x2018, 8, 0, false, none⟩ = true ∧
      PlainHbm (withOp aStore) 0 0x2018 8) ∧
    (let o := demoOp (.query .time) 0 0 [⟨rG 3, 0, 64, false⟩]
     HasOp (withOp o) 0 0 7 o ∧ o.ready = false ∧ ((withOp o).slot 0 0).free o = true) := by
  refine ⟨⟨hasOp _ rfl, ?_, ?_, ?_, plainHbm _ _ _ _, ?_, ?_⟩, ⟨hasOp _ rfl, ?_, ?_⟩, ⟨hasOp _ rfl, ?_, ?_, plainHbm _ _ _ _⟩, hasOp _ rfl, ?_, ?_⟩ <;>
    decide +kernel

/-- An atomic of the greatest operands; a floating-point one, order logging off; one held in replay with its record first, and overdue. -/
theorem witness_AtomicsPerformAsOneAccess :
    (let o := { demoOp (.amo .min .b128 (2 ^ 128 - 1) (2 ^ 128 - 1)) 0x2010 16 [⟨rG 2, 0, 64, false⟩] with cntL := true }
     HasOp (withOp o) 0 0 7 o ∧ o.pieces = [⟨0x2010, 16, 0, false, none⟩] ∧ ((withOp o).slot 0 0).sendable o 0 ⟨0x2010, 16, 0, false, none⟩ = true ∧
       (partOf (withOp o) 0).logHeld = [] ∧ PlainHbm (withOp o) 0 0x2010 16 ∧ 2 ^ 128 - 1 < 2 ^ (8 * o.size)) ∧
    (let o := { demoOp (.amof .add .f32x2 5 0) 0x2018 8 [] with cntS := true }
     HasOp (withOp o) 0 0 7 o ∧ ((withOp o).slot 0 0).sendable o 0 ⟨0x2018, 8, 0, false, none⟩ = true ∧ bitsAt (partOf (withOp o) 0).ordctl.toNat 0 2 = 0 ∧
       PlainHbm (withOp o) 0 0x2018 8 ∧ o.size = amofBytes .f32x2) ∧
    (let o := { demoOp (.amof .add .f32 5 0) 0x2018 4 [] with cntS := true }
     let s := (((withOp o).modPart 1 fun p => { p with logHeld := [(0, 0, 0, 7, 0)], ordbase := 0x10000 }).writeHbm demoPart 0x10000 1 8).writeHbm
       demoPart 0x10010 0x2000 16
     s.replayList 1 0 o.addr = (0, 0x2000) :: [] ∧ recordIs 0x2000 (s.ordRecord 0 0 o.addr 0) = true ∧ HasOp s 0 0 7 o ∧ (partOf s 0).logHeld = [(0, 0, 0, 7, 0)] ∧ 0 ≤ s.time.tai ∧ PlainHbm s 0 0x2018 4) := by
  refine ⟨⟨hasOp _ rfl, ?_, ?_, ?_, plainHbm _ _ _ _, ?_⟩, ⟨hasOp _ rfl, ?_, ?_, plainHbm _ _ _ _, ?_⟩,
    ?_, ?_, ⟨?_, ?_, ?_⟩, ?_, ?_, plainHbm _ _ _ _⟩ <;>
    decide +kernel

/-- A counter at n and one above; a misaligned address, one between HBM and the windows, the last words of both, and of the host window; a
stamp that may be read, and not while an ldacq is outstanding. -/
theorem witness_WaitsParkAndEnd :
    (Ready storing Hdr.plain [] [] ∧ storing.me.cnts.toNat ≤ (1#16).toNat ∧ (0#16).toNat < storing.me.cnts.toNat ∧
      (0#16).toNat < (withOp aLoad).me.cntl.toNat ∧ (withOp aLoad).me.cntl.toNat ≤ (1#16).toNat) ∧
    (Ready demo Hdr.plain [rG 1, rG 2, rG 3] [rP 1] ∧ Trappable demo ∧ ((setG demo 1 0x2004).me.gr 1).toNat % 8 ≠ 0 ∧
      2 ^ 39 ≤ ((setG demo 1 0x8000000000).me.gr 1).toNat ∧ ((setG demo 1 0xFFFFFFFFFFF8).me.gr 1).toNat < 2 ^ 48 ∧
      HbmOk demo 0x3FFFFFF8 8 1 ∧ inWindow (linBase + storeSize - 8) 8 = true ∧
      (let v := (setG demo 1 0x3FFFFFFFFFFF8).me.gr 1
       v.toNat % 8 = 0 ∧ 2 ^ 49 ≤ v.toNat ∧ v.toNat < 2 ^ 50 ∧ demo.me.failed = [])) ∧
    (let s := demo.upd fun x => { x with park := .count true 0 }
     s.power ≠ .off ∧ s.frozen 0 = false ∧ (s.slot 0 0).active = true ∧ (s.slot 0 0).park = .count true 0 ∧ (s.slot 0 0).sPark = false ∧
       (s.slot 0 0).yPark = none ∧ (s.slot 0 0).cnts.toNat ≤ 0 ∧ 0 < ((s.upd fun x => { x with cnts := 1 }).slot 0 0).cnts.toNat) ∧
    (((demo.upd fun x => { x with park := .ending }).slot 0 0).park = .ending ∧ (demo.slot 0 0).longs = 0 ∧
      ((demo.upd fun x => { x with sPark := true }).slot 0 0).sPark = true) ∧
    (let tr : TrapRec := { code := 4, info := 0, pc := 0x40, val := 9, precise := true }
     let s := demo.upd fun x => { x with park := .trap tr, deferred := [tr] }
     (s.slot 0 0).park = .trap tr ∧ (s.slot 0 0).deferred = [tr] ∧ (s.slot 0 0).longs = 0 ∧ (s.slot 0 0).ra = none ∧ (s.slot 0 0).tm = false ∧
       (s.tile 0).trapvec &&& ~~~3 ≠ 0) ∧
    (let s := demo.upd fun x => { x with park := .mwait 1 (w64 linBase) 0 0 5 .none }
     (s.slot 0 0).park = .mwait 1 (w64 linBase) 0 0 5 .none ∧ inWindow (w64 linBase).toNat 8 = true ∧ (s.tile 0).storeRead (w64 linBase).toNat 8 = 0 ∧
       (s.tile 0).cycle - 0 < 5 ∧ 5 ≤ ((s.updTile fun x => { x with cycle := 5 }).tile 0).cycle - 0 ∧
       ((s.updTile fun x => x.storeWrite linBase 1 8).tile 0).storeRead (w64 linBase).toNat 8 ≠ 0 ∧
       (s.slot 0 0).mwaitReady linBase = true ∧ (s.tile 0).badChunks = [] ∧
       ((s.upd fun x => { x with ops := [demoOp (.acq .pkg) 0x2000 8 []] }).slot 0 0).mwaitReady linBase = false) := by
  refine ⟨⟨ready _ _ _, ?_, ?_, ?_, ?_⟩, ⟨ready _ _ _, trappable _, ?_, ?_, ?_, hbmOk _ _ _ _, ?_, ?_⟩, ?_, ?_, ?_, ?_⟩ <;> decide +kernel

/-- The other parks, each with its condition holding and not: sbar on slot 1 arrived, not arrived and inactive; confirmation; an ldacq; a strel; stores;
a full queue; a full scoreboard; a page request; yield; another slot's sstop. -/
theorem witness_WaitsParkAndEnd_conditions :
    (let s := (demo.upd fun x => { x with park := .sbar 2, sbarCnt := 3 }).modSlot 0 1 fun y => { y with active := true, sbarCnt := 3 }
     (s.slot 0 0).park = .sbar 2 ∧ (s.slot 0 0).active = true ∧ s.frozen 0 = false ∧ (s.slot 0 0).sPark = false ∧ (s.slot 0 0).yPark = none ∧
       (∀ j, j ≠ 0 → (2 : Word).getLsbD j.val = true → (s.slot 0 j).active = false ∨ (s.slot 0 0).sbarCnt ≤ (s.slot 0 j).sbarCnt) ∧
       ¬ ∀ j, j ≠ 0 → (2 : Word).getLsbD j.val = true →
         ((s.modSlot 0 1 fun y => { y with sbarCnt := 2 }).slot 0 j).active = false ∨
           ((s.modSlot 0 1 fun y => { y with sbarCnt := 2 }).slot 0 0).sbarCnt ≤ ((s.modSlot 0 1 fun y => { y with sbarCnt := 2 }).slot 0 j).sbarCnt) ∧
    (let s := demo.upd fun x => { x with park := .confirm }
     (s.slot 0 0).park = .confirm ∧ (s.slot 0 0).ra = none ∧
       ((s.upd fun x => { x with ra := some { ckpts := [], issued := 0, fault := none, marks := [], pages := [], pre := [] } }).slot 0 0).ra ≠ none) ∧
    (let s := demo.upd fun x => { x with park := .acquire }
     let u := s.upd fun x => { x with ops := [demoOp (.acq .pkg) 0x2000 8 []] }
     (s.slot 0 0).park = .acquire ∧ (s.slot 0 0).ops = [] ∧ (u.slot 0 0).park = .acquire ∧ (u.slot 0 0).ops = [demoOp (.acq .pkg) 0x2000 8 []]) ∧
    (let s := demo.upd fun x => { x with park := .release }
     let u := s.upd fun x => { x with ops := [{ demoOp .store 0x2000 8 [] with cntS := true }], cnts := 1 }
     (s.slot 0 0).park = .release ∧ (s.slot 0 0).ops = [] ∧ (u.slot 0 0).park = .release ∧ ∃ o ∈ (u.slot 0 0).ops, o.cntS = true) ∧
    (let s := demo.upd fun x => { x with park := .stores }
     (s.slot 0 0).park = .stores ∧ (s.slot 0 0).cnts = 0 ∧ ((s.upd fun x => { x with cnts := 1 }).slot 0 0).cnts ≠ 0) ∧
    (let s := demo.upd fun x => { x with park := .queue 3 }
     (s.slot 0 0).park = .queue 3 ∧ ((s.tile 0).channel 3).queue.length + (s.tile 0).heldCopies 3 < 16) ∧
    (let s := demo.upd fun x => { x with park := .board [(linBase, 64)] [] }
     (s.slot 0 0).park = .board [(linBase, 64)] [] ∧ [(linBase, 64)] ≠ [] ∧ (s.tile 0).board.length < 64 ∧
       ¬ ((s.updTile fun x => { x with board := List.replicate 64 ⟨0, [], [], []⟩ }).tile 0).board.length < 64) ∧
    (let s := demo.upd fun x => { x with park := .page 511 }
     let b : Batch := { group := 511, tile := 0, slot := 0, launchId := 0, ctxGen := 0, pages := [5], due := 10, since := 0 }
     (s.slot 0 0).park = .page 511 ∧ (partOf s 0).batches = [] ∧ (partOf (s.modPart 1 fun p => { p with batches := [b] }) 0).batches = [b] ∧
       (b.tile = 0 ∧ b.slot = 0 ∧ b.group = 511)) ∧
    (let s := demo.upd fun x => { x with yPark := some (0, 0) }
     (s.slot 0 0).park = .none ∧ (s.slot 0 0).sPark = false ∧ (s.slot 0 0).yPark = some (0, 0) ∧
       ((s.upd fun x => { x with yPark := some (0, 64) }).slot 0 0).yPark = some (0, 64)) ∧
    (let s := demo.upd fun x => { x with park := .halting }
     (s.slot 0 0).park = .halting ∧ (s.slot 0 0).longs = 0) ∧
    (let tr : TrapRec := { code := 4, info := 0, pc := 0x40, val := 9, precise := true }
     let s := demo.upd fun x => { x with park := .ending, deferred := [tr] }
     (s.slot 0 0).park = .ending ∧ (s.slot 0 0).longs = 0 ∧ (s.slot 0 0).deferred = [tr] ∧ (s.slot 0 0).tm = false ∧ (s.tile 0).trapvec &&& ~~~3 ≠ 0 ∧
       ∀ y ∈ ((s.upd fun x => { x with deferred := [{ tr with precise := false }] }).slot 0 0).deferred, y.precise = false) := by
  refine ⟨?_, ?_, ?_, ?_, ?_, ?_, ?_, ?_, ?_, ?_, ?_⟩ <;> decide +kernel

/-! ## Witnesses: the copy engine -/

theorem liesIn (s : State) (a n need : Nat) (h : 0 < n := by decide +kernel) (h1 : (inWindow a n = true ∨ (a < 2 ^ 39 ∧ a + n ≤ s.myPart.extent ∧
    s.myPart.grants a n need = true)) := by decide +kernel) : LiesIn s a n need := ⟨h, h1⟩

/-- A command at some point of its work. -/
def job (cmd : Cmd) (stamp : Option (Nat × Scope)) (done got : Nat) : Job :=
  { cmd, stamp, slot := 0, board := 0, done, link := none, got, buf := 0, idxs := [], old := [], after := [], hint := .none,
    relaxed := false, hosted := false, asked := false }

/-- cpy: 2^31 bytes in a row is the limit; a stamp off 8 bytes; a halted channel; a full and a nearly full queue; cpybt of one block; a chain in the
last 64 bytes; channels 3 and 4; item 3 of channel 3. -/
theorem witness_CopyCommandsAreQueued :
    (let s := setG (setG (setG (setG demo 1 0x3FFFFFF8) 2 (w64 linBase)) 3 8) 4 (w64 (linBase + storeSize - 8))
     Ready s Hdr.plain [rG 1, rG 2, rG 3, rG 4] [] ∧ shapeSound (s.me.gr 3) ∧ LiesIn s (s.me.gr 2).toNat 8 1 ∧ LiesIn s (s.me.gr 1).toNat 8 2 ∧
       (s.me.gr 4).toNat % 8 = 0 ∧ LiesIn s (s.me.gr 4).toNat 8 2 ∧ RoomFor s 3) ∧
    (shapeSound 0x80000000 ∧ ¬ shapeSound 0x80000001 ∧ ¬ shapeSound 0 ∧ Trappable demo ∧ 0x2004 % 8 ≠ 0) ∧
    (let s := demo.updTile fun x => { x with channels := x.channels.set 0 { x.channels[0] with halted := true } }
     (s.myTile.channel 0).halted = true) ∧
    (let j := job (.chain 64) none 0 0
     let s := demo.updTile fun x => { x with channels := x.channels.set 0 { x.channels[0] with queue := List.replicate 16 j } }
     (s.myTile.channel 0).halted = false ∧ 16 ≤ (s.myTile.channel 0).queue.length + s.myTile.heldCopies 0) ∧
    (let b := 0x100100
     let s := setG (setG (setG (setG demo 1 (w64 linBase)) 2 0x2000) 3 0x10000) 4 b
     Ready s Hdr.plain [rG 1, rG 2, rG 3, rG 4, rG 5] [] ∧ 1 ≤ (1#8).toNat ∧ bitsAt (s.me.gr 4).toNat 0 16 ≠ 0 ∧
       bitsAt (s.me.gr 4).toNat 16 8 ≠ 0 ∧ bitsAt (s.me.gr 4).toNat 24 8 = 0 ∧ bitsAt (s.me.gr 4).toNat 48 16 = 0 ∧ (s.me.gr 1).toNat % 64 = 0 ∧
       inWindow (s.me.gr 1).toNat ((16 * 256 + 63) / 64 * 64 + 8 * ((16 + 63) / 64)) = true ∧ (s.me.gr 2).toNat % 4 = 0 ∧
       LiesIn s (s.me.gr 2).toNat 4 1 ∧ (s.me.gr 3).toNat < s.myPart.extent ∧ (s.me.gr 3).toNat < 2 ^ 39 ∧ RoomFor s 0) ∧
    (let s := setG (setG demo 1 3) 2 0x3FFFFFC0
     Ready s Hdr.plain [rG 1, rG 2] [] ∧ (s.me.gr 1).toNat = (3 : Fin 4).val ∧ (s.me.gr 2).toNat % 64 = 0 ∧ s.me.gr 2 ≠ 0 ∧
       (s.me.gr 2).toNat + 64 ≤ s.myPart.extent ∧ s.myPart.grants 0x3FFFFFC0 64 1 = true ∧
       ((s.modPart 1 fun p => { p with ranges := p.ranges.set 0 0xC }).myPart.grants 0x2000 64 1 = false) ∧
       (2 ^ 49 ≤ 2 ^ 50 - 64 ∧ 2 ^ 50 - 64 + 64 ≤ 2 ^ 50) ∧ RoomFor s 3 ∧ 3 < ((setG demo 1 4).me.gr 1).toNat ∧ 0x2020 % 64 ≠ 0) ∧
    (let s := setG demo 1 15
     Ready s Hdr.plain [rG 1] [rG 2] ∧ (s.me.gr 1).toNat = (3 : Fin 4).val + 4 * (3#2).toNat ∧ 15 < ((setG demo 1 16).me.gr 1).toNat) := by
  refine ⟨⟨ready _ _ _, ?_, liesIn _ _ _ _, liesIn _ _ _ _, ?_, liesIn _ _ _ _, ?_⟩, ⟨?_, ?_, ?_, trappable _, ?_⟩, ?_, ?_,
    ⟨ready _ _ _, ?_, ?_, ?_, ?_, ?_, ?_, ?_, ?_, liesIn _ _ _ _, ?_, ?_, ?_⟩, ⟨ready _ _ _, ?_, ?_, ?_, ?_, ?_, ?_, ?_, ?_⟩, ready _ _ _, ?_, ?_⟩ <;>
    first | (unfold RoomFor; decide +kernel) | (unfold shapeSound; decide +kernel) | decide +kernel

/-- Channel 0 at work on a job. -/
def working (j : Job) : State := demo.updTile fun x => { x with channels := x.channels.set 0 { x.channels[0] with cur := some j } }

theorem atWork (j : Job) : AtWork (working j) 0 0 j := ⟨(fun h => nomatch h), rfl, rfl, rfl, rfl⟩

/-- No entry of the scoreboard holds a piece back. -/
theorem mayMove (j : Job) (a n : Nat) (h : PlainPiece (working j) 0 a n) (w : State := working j) (e : w = working j := by rfl) :
    MayMove w 0 j a n := by
  subst e
  have : ((working j).tile 0).board = [] := rfl
  exact ⟨h, by simp [Tile.accessFree, this]⟩

def aRow : Rows := { src := 0x2000, dst := 0x3000, nr := 1, rb := 32, ss := 32, ds := 32 }

/-- A piece read and written, in a row and in a chain; a block index read, a row skipped, a row copied, a block outside the pool and a mask
word; a stamp; a chain's record not granted, not to run, invalid, to run, done; a command to start; an error; an overdue page request and its
answer. -/
theorem witness_CopyChannelsPerformCommands :
    (let s := demo.updTile fun x => { x with channels := x.channels.set 0 { x.channels[0] with queue := [job (.rows aRow) none 0 0] } }
     s.power ≠ .off ∧ s.frozen 0 = false ∧ (chan s 0 0).cur = none ∧ (chan s 0 0).queue = job (.rows aRow) none 0 0 :: [] ∧
       (chan s 0 0).halted = false ∧ (s.slot 0 0).ops = []) ∧
    (let j := job (.rows aRow) none 0 0
     AtWork (working j) 0 0 j ∧ aRow.overlaps = false ∧ j.old = [] ∧ 0 < aRow.rb ∧ 0 < aRow.nr * aRow.rb ∧ MayMove (working j) 0 j 0x2000 32) ∧
    (let j := job (.rows aRow) none 0 32
     AtWork (working j) 0 0 j ∧ min 32 (granuleAt 0x3000 - 0x3000 % granuleAt 0x3000) ≤ j.got ∧ MayMove (working j) 0 j 0x3000 32) ∧
    (let j := { job (.chain 0x5000) none 0 0 with link := some { at_ := 0x5000, next := 0, rows := aRow, stamp := none } }
     AtWork (working j) 0 0 j ∧ j.link.isSome ∧ MayMove (working j) 0 j 0x2000 32) ∧
    (let j := job (.blocks linBase 0x2000 0x10000 1 32 1 1) (some (0x3000, .slot)) 0 0
     AtWork (working j) 0 0 j ∧ j.idxs.length ≤ 0 ∧ MayMove (working j) 0 j 0x2000 4) ∧
    (let j := { job (.blocks linBase 0x2000 0x10000 1 32 1 1) (some (0x3000, .slot)) 0 0 with idxs := [0xFFFFFFFF] }
     AtWork (working j) 0 0 j ∧ 0 < j.idxs.length ∧ ¬ j.idxs.getD 0 0xFFFFFFFF ≠ 0xFFFFFFFF) ∧
    (let j := { job (.blocks linBase 0x2000 0x10000 1 32 1 1) (some (0x3000, .slot)) 0 0 with idxs := [0] }
     AtWork (working j) 0 0 j ∧ (0 < j.idxs.length ∧ j.idxs.getD 0 0xFFFFFFFF ≠ 0xFFFFFFFF ∧ 0 < 1) ∧ j.got = 0 ∧ j.old = [] ∧
       (rangeOk (working j) (partOf (working j) 0) 0x10000 32 1 = true ∧ inWindow 0x10000 1 = false) ∧
       rangeOk (working j) (partOf (working j) 0) 0x40000000 32 1 = false ∧ MayMove (working j) 0 j 0x10000 32) ∧
    (let j := { job (.blocks linBase 0x2000 0x10000 1 32 1 1) (some (0x3000, .slot)) 32 0 with idxs := [0] }
     AtWork (working j) 0 0 j ∧ j.done = 1 * 32 + 8 * 0 ∧ 0 < (1 + 63) / 64 ∧ j.stamp.isSome = true ∧ MayMove (working j) 0 j (linBase + 64) 8) ∧
    (let j := job (.rows aRow) (some (0x4000, .slot)) 32 0
     AtWork (working j) 0 0 j ∧ aRow.nr * aRow.rb ≤ j.done ∧ MayMove (working j) 0 j 0x4000 8) ∧
    (let j := { job (.rows aRow) (some (linBase, .slot)) 32 0 with board := 2 }
     let s := (working j).updTile fun x => { x with board := [⟨1, [], [(linBase, 8)], []⟩, ⟨2, [], [(linBase, 8)], []⟩] }
     AtWork s 0 0 j ∧ (s.tile 0).accessFree j.board linBase 8 = false) ∧
    (let j := job (.chain 0x5000) none 0 0
     AtWork (working j) 0 0 j ∧ PlainHbm (working j) 0 0x5000 32 ∧ PlainHbm (working j) 0 0x5020 32 ∧
       (partOf (working j) 0).grants 0x5000 64 1 = true ∧ ((working j).tile 0).board.length < 64 ∧
       { partOf (working j) 0 with ranges := (partOf (working j) 0).ranges.set 0 0xC }.grants 0x5000 64 1 = false) ∧
    (bitAt 0 384 = false ∧ bitAt (2 ^ 384 + 2 ^ 448) 384 = true ∧ bitsAt (2 ^ 384 + 2 ^ 448) 448 64 ≠ 0 ∧ bitsAt (2 ^ 384) 384 32 = 1) ∧
    (let y := 0x2000 * 2 ^ 64 + 0x3000 * 2 ^ 128 + 32 * 2 ^ 192 + 2 ^ 384
     bitsAt y 0 64 = 0 ∧ bitsAt y 288 32 = 0 ∧ bitsAt y 448 64 = 0 ∧ shapeOk (bitsAt y 192 64) = true ∧
       rangeOk demo (partOf demo 0) 0x2000 aRow.srcLen 1 = true ∧ rangeOk demo (partOf demo 0) 0x3000 aRow.dstLen 2 = true) ∧
    (let j := { job (.chain 0x5000) none 32 0 with link := some { at_ := 0x5000, next := 0, rows := aRow, stamp := none } }
     AtWork (working j) 0 0 j ∧ PlainHbm (working j) 0 0x5030 8 ∧ (partOf (working j) 0).grants 0x5030 8 2 = true ∧
       { partOf (working j) 0 with ranges := (partOf (working j) 0).ranges.set 0 0xC }.grants 0x5030 8 2 = false) ∧
    (let s := (working (job (.rows aRow) none 0 0)).updTile fun x =>
       { x with channels := x.channels.set 0 { x.channels[0] with fail := some (255, 0x2000, 0) } }
     (chan s 0 0).fail = some (255, 0x2000, 0) ∧ (chan s 0 0).cur = some (job (.rows aRow) none 0 0) ∧ (s.slot 0 0).active = true) ∧
    (let s := (working (job (.rows aRow) none 0 0)).updTile fun x => { x with channels := x.channels.set 0 { x.channels[0] with page := some (0x20000, 0, 0, 256) } }
     (chan s 0 0).fail = none ∧ (chan s 0 0).page = some (0x20000, 0, 0, 256) ∧ 0 ≤ s.time.tai ∧ (⟨2, false, false, ⟨true, true⟩, 2, 256⟩ : PageAnswer).page = 0x20000 / 65536) :=
  ⟨by decide +kernel,
   ⟨atWork _, by decide +kernel, by decide +kernel, by decide +kernel, by decide +kernel, mayMove _ _ _ (.inl (plainHbm _ _ _ _))⟩,
   ⟨atWork _, by decide +kernel, mayMove _ _ _ (.inl (plainHbm _ _ _ _))⟩,
   ⟨atWork _, by decide +kernel, mayMove _ _ _ (.inl (plainHbm _ _ _ _))⟩,
   ⟨atWork _, by decide +kernel, mayMove _ _ _ (.inl (plainHbm _ _ _ _))⟩, ⟨atWork _, by decide +kernel, by decide +kernel⟩,
   ⟨atWork _, by decide +kernel, by decide +kernel, by decide +kernel, by decide +kernel, by decide +kernel, mayMove _ _ _ (.inl (plainHbm _ _ _ _))⟩,
   ⟨atWork _, by decide +kernel, by decide +kernel, by decide +kernel, mayMove _ _ _ (.inr (by decide +kernel))⟩,
   ⟨atWork _, by decide +kernel, mayMove _ _ _ (.inl (plainHbm _ _ _ _))⟩, ⟨⟨by decide +kernel, by decide +kernel, rfl, rfl, rfl⟩, by decide +kernel⟩,
   ⟨atWork _, plainHbm _ _ _ _, plainHbm _ _ _ _, by decide +kernel, by decide +kernel, by decide +kernel⟩, by decide +kernel, by decide +kernel,
   ⟨atWork _, plainHbm _ _ _ _, by decide +kernel, by decide +kernel⟩, by decide +kernel, by decide +kernel⟩

/-! ## Witnesses: posts -/

/-- A post of one line in group 0, bound IN and OUT on tile 0, whose writer it is. -/
def entryOf (n : BitVec 32) (lines : Nat) : PostEntry :=
  { post := n, lines, isOut := true, isIn := true, lossy := false, exact := false, decl := 0, writer := 0, wchip := 0 }
def posting (e : PostEntry) : State :=
  { demo.updTile fun x => { x with posts := [e] } with
    posts := [(postKey e.post, { lines := e.lines, wchip := 0, writer := 0, f := 5, val := [], bad := [], binders := [(1, 3, true)] })] }

theorem onlyEntry (e : PostEntry) (h : samePost (posting e) e.post e.post = true) : OnlyEntry (posting e) e.post e := by
  have : (posting e).myTile.posts = [e] := rfl
  simp [OnlyEntry, this, h]

/-- A number of no post and one off 8; a post not listed; an entry that is no OUT, another tile's; a buffer at the end of the window, off a chunk,
outside; a watch word with a stray bit; pputv of two lines; line 0 of one and line 1; quad 31 and 32. -/
theorem witness_PostInstructionsIssue :
    (let s := setG (setG (posting (entryOf 0 1)) 1 0) 2 (w64 (linBase + storeSize - 256))
     Ready s Hdr.plain [rG 1, rG 2] [rG 3] ∧ PostNumber (s.me.gr 1) ∧ (s.myTile.posts.filter fun x => samePost s x.post 0) = [entryOf 0 1] ∧
       MayInstall s (entryOf 0 1) ∧ NoRate s 0 ∧ inWindow (s.me.gr 2).toNat 256 = true ∧ (s.me.gr 2).toNat % 64 = 0 ∧ s.me.acquiring = false ∧
       s.myTile.badChunks = [] ∧ Trappable s) ∧
    (¬ PostNumber 4 ∧ ¬ PostNumber 0x100000000 ∧ (demo.myTile.posts.filter fun x => samePost demo x.post 0) = []) ∧
    (OnlyEntry (posting { entryOf 0 1 with isOut := false }) 0 { entryOf 0 1 with isOut := false } ∧
      OnlyEntry (posting { entryOf 0 1 with writer := 1 }) 0 { entryOf 0 1 with writer := 1 } ∧
      (1#16).toNat ≠ (posting { entryOf 0 1 with writer := 1 }).myPart.logical 0) ∧
    (inAnyWindow 0x2000 = false ∧ inAnyWindow (linBase + 32) = true ∧ (linBase + 32) % 64 ≠ 0 ∧ (0x10 : Word) &&& ~~~0xFF0F ≠ 0 ∧
      (0xFF0F : Word) &&& ~~~0xFF0F = 0) ∧
    (OnlyEntry (posting (entryOf 0 2)) 0 (entryOf 0 2) ∧ (entryOf 0 2).lines ≠ 1 ∧ (entryOf 0 1).lines ≤ (1#6).toNat ∧ (0#6).toNat < (entryOf 0 1).lines ∧
      (31#11).toNat < 32 * (entryOf 0 1).lines ∧ 32 * (entryOf 0 1).lines ≤ (32#11).toNat) := by
  refine ⟨⟨ready _ _ _, ?_, ?_, ?_, ?_, ?_, ?_, ?_, ?_, trappable _⟩, ?_, ⟨onlyEntry _ ?_, onlyEntry _ ?_, ?_⟩, ?_, onlyEntry _ ?_, ?_, ?_, ?_, ?_, ?_⟩ <;>
    first | (unfold PostNumber; decide +kernel) | (unfold MayInstall; decide +kernel) | (unfold NoRate; decide +kernel) | decide +kernel

/-- An install and a read of all of it outstanding; the last freshness that takes an install, and the next; a post of chip 5, its request
still to leave and left. -/
theorem witness_InstallsCommitAndReadsSample :
    (let o := { demoOp (.install 0) 0 256 [] with cntS := true, pieces := [] }
     let s := (posting (entryOf 0 1)).upd fun x => { x with ops := [o], cnts := 1 }
     HasOp s 0 0 7 o ∧ (s.slot 0 0).ops = [o] ∧ o.conf = true ∧ o.held = false ∧ o.after = [] ∧ o.ready = false ∧ postChip s 0 = s.chipId ∧
       (mapFind s.posts (postKey 0)).map (·.f) = some 5 ∧ (s.slot 0 0).active = true ∧ o.sent = false ∧ 0xFFFFFFFFFFFFFFFD + 2 < 2 ^ 64 ∧
       2 ^ 64 ≤ 0xFFFFFFFFFFFFFFFE + 2) ∧
    (let o := { demoOp (.sample 0 (some linBase) 0 256) 0 256 [⟨rG 1, 2048, 64, false⟩] with cntL := true, pieces := [] }
     let s := (posting (entryOf 0 1)).upd fun x => { x with ops := [o], cntl := 1 }
     HasOp s 0 0 7 o ∧ (mapFind s.posts (postKey 0)).map (·.bad) = some [] ∧ Memory.wf (s.tile 0).store = true ∧ inWindow linBase 256 = true) ∧
    (let o := { demoOp (.install 0x500000) 0 256 [] with cntS := true, pieces := [] }
     let s := demo.upd fun x => { x with ops := [o], cnts := 1 }
     HasOp s 0 0 7 o ∧ postChip s 0x500000 ≠ s.chipId ∧ o.sent = false ∧ (s.slot 0 0).active = true ∧ (5 : Nat) ≠ 0) ∧
    (let o := { demoOp (.sample 0x500000 none 0 8) 0 256 [⟨rG 1, 0, 64, false⟩] with cntL := true, pieces := [], sent := true }
     let s := demo.upd fun x => { x with ops := [o], cntl := 1 }
     HasOp s 0 0 7 o ∧ o.sent = true ∧ 2 ^ 64 - 1 < 2 ^ (8 * 8)) := by
  refine ⟨⟨⟨?_, ?_, ?_⟩, ?_, ?_, ?_, ?_, ?_, ?_, ?_, ?_, ?_, ?_, ?_⟩, ⟨⟨?_, ?_, ?_⟩, ?_, ?_, ?_⟩, ⟨⟨?_, ?_, ?_⟩, ?_, ?_, ?_, ?_⟩,
    ⟨?_, ?_, ?_⟩, ?_, ?_⟩ <;> decide +kernel

/-- R295, R296: the install replaces the value and adds one to F; a read of it delivers both. -/
theorem test_posts :
    let o := { demoOp (.install 0) 0 256 [] with cntS := true, data := 0xAB, pieces := [] }
    let s := (posting (entryOf 0 1)).upd fun x => { x with ops := [o], cnts := 1 }
    (((after (.postCommit 0 0 7 0) s).bind (after (.pgetg Hdr.plain 3 1 4 0))).bind fun t =>
      ((after (.postSample 0 0 1 0 0 false) t).bind (after (.longResultReturn 0 0 1 0 0))).bind (after (.longResultReturn 0 0 1 0 0))).map
        (fun t => (t.me.gr 3, t.me.gr 4, t.me.cnts, t.me.cntl)) = some (0xAB, 6, 0, 0) := by decide +kernel

/-! ## Witnesses: waybills, the dispatcher -/

/-- The waybill of slot n of this module's table, generation 1. -/
def wbNo (n : BitVec 20) : Word := waybill 0 n 1

/-- g of it, all kinds of malformed words, a FAILED word of this chip and of one beyond the window; arguments at the end of the window; a result post; the
limits of the chip number. -/
theorem witness_WaybillInstructionsIssue :
    (WbGood demo (wbNo 255) ∧ WbGood demo (failedWb 0 4) ∧ WbBad demo 0 ∧ WbBad demo (wbNo 5 ||| 0x80) ∧ WbBad demo 1 ∧
      WbBad demo (waybill 7 5 1) ∧ WbBad demo (failedWb 5 4) ∧ ¬ WbBad demo (failedWb 0 4)) ∧
    (let s := setG (setG demo 1 (wbNo 5)) 2 (w64 (linBase + storeSize - 64))
     Ready s Hdr.plain [rG 1, rG 2, rG 3] [rG 4] ∧ Trappable s ∧ (s.me.gr 2).toNat % 8 = 0 ∧ inWindow (s.me.gr 2).toNat (8 * 8) = true ∧
       s.me.acquiring = false ∧ s.myTile.badChunks = [] ∧ (linBase + 4) % 8 ≠ 0 ∧ WbGood s (s.me.gr 1) ∧
       (s.myPart.link (chipNamed s 0xFFF)).isSome = true ∧ 4096 ≤ (0x1000 : Word).toNat ∧ s.myPart.link (chipNamed s 7) = none) ∧
    (let s := demo.updTile fun x => { x with posts := [{ entryOf 0 1 with isOut := false, writer := 0xFFFF }] }
     IsDispatcherPost s 0 ∧ PostNumber 0 ∧ ¬ IsDispatcherPost demo 0 ∧ ¬ IsDispatcherPost s 1) ∧
    (let s := setG (setG demo 1 (wbNo 5)) 2 (w64 (linBase + storeSize - 16))
     Ready s Hdr.plain [rG 1, rG 2] [] ∧ inWindow (s.me.gr 2).toNat 16 = true ∧ inWindow (s.me.gr 2 + 8).toNat 16 = false ∧
       0 < 256 ∧ 0x3FFFFF00 + 256 ≤ s.myPart.extent ∧ s.myPart.grants 0x3FFFFF00 256 2 = true) := by
  refine ⟨⟨?_, ?_, ?_, ?_, ?_, ?_, ?_, ?_⟩, ⟨ready _ _ _, trappable _, ?_, ?_, ?_, ?_, ?_, ?_, ?_, ?_, ?_⟩, ?_, ready _ _ _, ?_, ?_, ?_, ?_, ?_⟩ <;>
    first | (simp only [WbBad, Malformed]; decide +kernel) | (simp only [WbGood, Malformed]; decide +kernel) |
      (unfold IsDispatcherPost PostNumber; decide +kernel) | decide +kernel

def wbs (l : Map WbSlot) (s : State) : State := { s with waybills := l }
def slotIn (st : WbState) : WbSlot := { gen := 1, st, binds := [], asked := [], freed := 0 }
def aQuery (q : Query) : Op := { demoOp (.query q) 0 0 [⟨rG 3, 0, 64, false⟩] with pieces := [] }

theorem freeOp (s : State) (o : Op) (h : o.id = 7) (h1 : (s.slot 0 0).ops = [o]) (h2 : s.power ≠ .off := by decide +kernel)
    (h3 : s.frozen 0 = false := by decide +kernel) (h4 : o.conf = true ∧ o.held = false ∧ o.after = [] := by decide +kernel)
    (h5 : o.mark = false ∧ o.ready = false := by decide +kernel) : FreeOp s 0 0 7 o :=
  ⟨⟨by simp [Slot.opOf, h1, h], h2, h3⟩, by simp [Slot.free, h1, h4], h5⟩

/-- Slot 255, the last of the range, resolved; a bind with room and without; a drop; a stale generation, a free slot, one past the range; the oldest of
17 grants; a channel's counts. -/
theorem witness_HubDieAnswersQueries :
    (let o := aQuery (.wbstate (wbNo 255) 1)
     let s := wbs [(255, slotIn (.resolved 9 4 0))] (withOp o)
     FreeOp s 0 0 7 o ∧ AtTable s 0 (wbNo 255) (slotIn (.resolved 9 4 0))) ∧
    (let o := { demoOp (.bind (wbNo 5) 0 256 0) 0 0 [] with cntS := true, pieces := [] }
     let z := { slotIn .pending with binds := List.replicate 3 ⟨0, 0, 0, 0, false, 0, 1⟩ }
     let s := wbs [(5, z)] (withOp o)
     FreeOp s 0 0 7 o ∧ AtTable s 0 (wbNo 5) z ∧ z.binds.length < 4 ∧ (s.slot 0 0).active = true) ∧
    (let o := { demoOp (.drop (wbNo 5)) 0 0 [] with cntS := true, pieces := [] }
     let z := { slotIn .pending with binds := List.replicate 4 ⟨0, 0, 0, 0, false, 0, 1⟩ }
     let s := wbs [(5, z)] (withOp o)
     FreeOp s 0 0 7 o ∧ AtTable s 0 (wbNo 5) z ∧ 4 ≤ z.binds.length ∧ s.parts.all (fun p => p.2.queue.isEmpty) = true) ∧
    (let s := withOp (aQuery (.wbcause (wbNo 256) 0))
     (wbNo 256).getLsbD 0 = true ∧ wbChip (wbNo 256) = s.chipId ∧ (partOf s 0).link s.chipId = some 1 ∧ (s.part 1).wbLast < wbSlotNo (wbNo 256) ∧
       (s.wbAt 5).st = .free ∧ ((wbs [(5, { slotIn .pending with gen := 2 })] s).wbAt 5).gen.toNat ≠ wbGen (wbNo 5)) ∧
    (let o := aQuery (.invoke ⟨0, 3, none, [], 0, none, 0, 0, 0, 1, [], []⟩ 0)
     let s := (withOp o).modPart 1 fun p => { p with pools := [(0, List.replicate 17 (5, 1))] }
     FreeOp s 0 0 7 o ∧ o.performed = false ∧ (partOf s 0).pool s.chipId = (5, 1) :: List.replicate 16 (5, 1)) ∧
    (let o := aQuery (.cpstat 3 0)
     FreeOp (withOp o) 0 0 7 o ∧ (((withOp o).tile 0).channel 3).queue.length + ((withOp o).tile 0).heldCopies 3 ≤ 16) := by
  refine ⟨⟨freeOp _ _ rfl rfl, ?_⟩, ⟨freeOp _ _ rfl rfl, ?_, ?_, ?_⟩, ⟨freeOp _ _ rfl rfl, ?_, ?_, ?_⟩, ?_, ⟨freeOp _ _ rfl rfl, ?_, ?_⟩,
    freeOp _ _ rfl rfl, ?_⟩ <;> first | exact ⟨rfl, rfl, 1, rfl, by decide +kernel, by decide +kernel, rfl, rfl, by decide⟩ | decide +kernel

/-- An invocation of service 3 on waybill slot 5 that names what is given. -/
def inv3 (args : List Word) : Inv := ⟨wbNo 5, 3, none, args, if args.isEmpty then 0 else 1, none, 0, 0, 0, 1, [], []⟩
def queued (args : List Word) (elig : Option Nat) (handed : Option (BitVec 32 × BitVec 32)) : QInv := { inv := inv3 args, known := [], elig, handed }
def dispatching (q : List QInv) (l : Map WbSlot) : State := wbs l (demo.modPart 1 fun p => { p with queue := q })

theorem matches_ (s : State) (n : BitVec 20) (x : WbSlot) (h1 : wbChip (wbNo n) = s.chipId := by decide +kernel)
    (h2 : (s.part 1).wbFirst ≤ wbSlotNo (wbNo n) ∧ wbSlotNo (wbNo n) ≤ (s.part 1).wbLast := by decide +kernel)
    (h3 : s.wbAt (wbSlotNo (wbNo n)) = x := by decide +kernel) (h4 : x.gen.toNat = wbGen (wbNo n) := by decide +kernel)
    (h5 : x.st ≠ .free := by decide +kernel) (h6 : (wbNo n).getLsbD 1 = false := by decide +kernel) : Matches s 1 (wbNo n) x :=
  ⟨⟨h6, h1⟩, h2, h3, h4, h5⟩

/-- A service of one tile, its entry in HBM at 0x8000: entry 3. Its argument post is 0 and its done post 8. -/
def serving (q : List QInv) (done : Mem) : State :=
  let s := (dispatching q [(5, slotIn .pending)]).modPart 1 fun p => { p with svcbase := 0x8001 }
  let s1 := (s.writeHbm demoPart (0x8000 + 128 * 3) 0x11 16).writeHbm demoPart (0x8000 + 128 * 3 + 16) (8 * 2 ^ 32) 8
  let p : Post := { lines := 1, wchip := 0, writer := 0xFFFF, f := 0, val := [], bad := [], binders := [(1, 3, false)] }
  { s1 with posts := [(0, p), (1, { p with writer := 0, val := done, f := 0xFFFFFFFFFFFFFFFD })] }

theorem serving_homes : ∀ n, n ≤ 24 → ∀ g ∈ pageStarts (bitsAt ((serving [queued [] (some 0) none] []).part 1).svcbase.toNat 7 32 * 128 +
    128 * 3 + 24 - n) n, (serving [queued [] (some 0) none] []).refuses 1 g 1 = false := by decide +kernel

theorem full_queue (n : Nat) (q : QInv) (l : Map WbSlot) (h : q.elig.isSome = true) (h1 : q.handed = none) :
    (∀ x ∈ ((dispatching (List.replicate n q) l).part 1).queue, x.elig.isSome = true) ∧
      n ≤ (((dispatching (List.replicate n q) l).part 1).queue.filter fun q => q.handed.isNone).length := by
  have e : ((dispatching (List.replicate n q) l).part 1).queue = List.replicate n q := rfl
  rw [e]
  exact ⟨fun x hx => (List.eq_of_mem_replicate hx) ▸ h, by simp [h1]⟩

/-- No home of n bytes from a refuses the partition. -/
theorem homes (s : State) (tag a n : Nat) (h : ∀ g ∈ pageStarts a n, s.refuses tag g 1 = false := by decide +kernel) : Homes s tag a n := h

/-- A job that runs. -/
def aJob : Obj := ⟨1, [], 0, 0, 0, 0, 0, 0, 0, false, none⟩

/-- Arrivals into an empty and a full queue, naming nothing, a resolved, a pending, a broken and a stale waybill and one of another chip; a hand-out with
a service and without; reports that resolve (at the greatest length), break and name another; a transfer with a byte to go and none; grants that
fill a pool to 64, leave it one short of 16 and come after the last job; a job's report, a lost route. -/
theorem witness_DispatchersHandOutSettleAndGrant :
    (let s := dispatching [] [(5, slotIn .pending), (6, slotIn (.resolved 9 0 0))]
     s.power ≠ .off ∧ (s.part 1).en = true ∧ Matches s 1 (inv3 []).wb (slotIn .pending) ∧ (inv3 []).post = none ∧ (s.part 1).queue = [] ∧
       invNamed (inv3 []) = [] ∧ invNamed (inv3 [wbNo 6]) = [wbNo 6] ∧ Matches s 1 (wbNo 6) (slotIn (.resolved 9 0 0)) ∧
       (s.wbAt (wbSlotNo (wbNo 7))).gen.toNat = wbGen (wbNo 7) ∧ (s.wbAt 7).gen.toNat ≠ wbGen (waybill 0 7 2)) ∧
    (Matches (dispatching [] [(5, slotIn .pending), (6, slotIn .pending)]) 1 (wbNo 6) (slotIn .pending) ∧
      Matches (dispatching [] [(5, slotIn .pending), (6, slotIn (.broken 1 2 3 65535 0))]) 1 (wbNo 6) (slotIn (.broken 1 2 3 65535 0))) ∧
    (let s := dispatching (List.replicate 16384 (queued [] (some 0) none)) [(5, slotIn .pending)]
     (∀ q ∈ (s.part 1).queue, q.elig.isSome = true) ∧ 16384 ≤ ((s.part 1).queue.filter fun q => q.handed.isNone).length) ∧
    (let s := dispatching [queued [waybill 9 6 1] none none] [(5, slotIn .pending)]
     (s.part 1).queue = [queued [waybill 9 6 1] none none] ∧ invNamed (inv3 [waybill 9 6 1]) = [waybill 9 6 1] ∧
       wbChip (waybill 9 6 1) ≠ s.chipId ∧ s.parts = [(1, s.part 1)]) ∧
    (let s := serving [queued [] (some 0) none] []
     OneService s 1 (inv3 []).svc.toNat 0 8 ∧ (∃ q, BoundTo s 1 0 q ∧ q.writer = 0xFFFF ∧ 0 < q.lines ∧ q.f.toNat + 2 < 2 ^ 64) ∧
       (∃ q, BoundTo s 1 8 q ∧ q.f.toNat + 2 < 2 ^ 64) ∧ mapFind (s.part 1).lastHanded (postKey 0) = none ∧ (s.part 1).stopping = none ∧
         (s.part 1).held = false ∧ s.saved = [] ∧
       (demo.part 1).svcbase.getLsbD 0 = false) ∧
    (let s := serving [queued [] (some 0) (some (0, 8))] (Memory.writeN [] 0 ((wbNo 5).toNat + 9 * 2 ^ 64 + 2 ^ 24 * 2 ^ 160) 32)
     let r := Memory.readN (mapGet ⟨0, 0, 0, 0, [], [], []⟩ s.posts 1).val 0 32
     (s.part 1).held = false ∧ Matches s 1 (inv3 []).wb (slotIn .pending) ∧ bitsAt r 0 64 = (inv3 []).wb.toNat ∧ bitsAt r 128 8 = 0 ∧ bitsAt r 160 32 ≤ 2 ^ 24) ∧
    (let b : WbBind := { post := 8, limit := 40, buf := 0x3000, sent := 39, done := false, chip := 0, tag := 1 }
     let s := wbs [(5, { slotIn (.resolved 9 40 0x9000) with binds := [b] })] (serving [] [])
     (s.wbAt 5).binds[0]? = some b ∧ b.done = false ∧ b.chip = s.chipId ∧
       (s.part b.tag.toNat).held = false ∧ (mapFind s.posts (postKey b.post)).isSome = true ∧
       b.buf ≠ 0 ∧ b.sent < min 40 b.limit ∧ min 40 b.limit ≤ b.sent + 1) ∧
    ((demo.waybills.map (·.1)).Pairwise (· < ·) ∧
      (let s := demo.modPart 1 fun p => { p with poolAsked := [0], pools := [(0, List.replicate 32 (5, 1))], jobs := [(0, aJob)] }
       (0 : Chip).toNat ∈ (s.part 1).poolAsked ∧ (s.part 1).jobs ≠ [] ∧ s.waitingInvokes 1 0 = [] ∧
         ((s.part 1).pool 0 ++ List.replicate 32 (6, 1)).length = 64) ∧
      (let s := demo.modPart 1 fun p => { p with poolAsked := [5], pools := [(5, List.replicate 14 (5, 1))], jobs := [(0, aJob)],
                                                 window := [(0, 0x101), (5, 0x701)] }
       (5 : Chip).toNat ∈ (s.part 1).poolAsked ∧ (s.part 1).jobs ≠ [] ∧ s.waitingInvokes 1 5 = [] ∧
         ((s.part 1).pool 5 ++ [(6, 1)]).length = 15 ∧ (5 : Chip) ≠ s.chipId ∧ (s.part 1).link 5 = some 7) ∧
      (let s := demo.modPart 1 fun p => { p with poolAsked := [5] }
       (5 : Chip).toNat ∈ (s.part 1).poolAsked ∧ (s.part 1).jobs = [])) ∧
    (let s := wbs [(5, slotIn .pending)] demo
     s.wbOwner (wbSlotNo (wbNo 5)) = 1 ∧ s.parts.all (fun q => q.2.queue.isEmpty) = true) := by
  refine ⟨⟨?_, ?_, matches_ _ _ _, ?_, ?_, ?_, ?_, matches_ _ _ _, ?_, ?_⟩, ⟨matches_ _ _ _, matches_ _ _ _⟩,
    full_queue 16384 _ _ rfl rfl, ?_, ⟨⟨?_, ?_, ?_, ?_, ?_⟩, ⟨_, ⟨rfl, rfl, ?_⟩, ?_⟩, ⟨_, ⟨rfl, rfl, ?_⟩, ?_⟩, ?_⟩, ⟨?_, matches_ _ _ _, ?_, ?_, ?_⟩, ?_, ?_, ?_⟩ <;>
    first | (intro n h _; exact homes _ _ _ _ (serving_homes n h)) | decide +kernel

/-! ## Witnesses: rounds, launches, page faults, context switches -/

/-- The tile of launch 3 at an expiry, between rounds. -/
def expiring : State := launched.updTile fun x => { (x.setSlot 0 Slot.reset) with going := true, period := 1000, trapvec := 0x1003 }

/-- It with a budget of two rounds. -/
def budgeted (n : Nat) : State :=
  (expiring.updTile fun x => { x with begun := n }).modPart 1 fun p => { p with launches := [(3, { demoLaunch with budget := some 2 })] }

/-- A graph, phase or job that runs: instance i below `up`, with its start and end. -/
def objOf (i : Nat) (up : List Nat) (start finish : Nat) : Obj := { aJob with inst := i, up, policy := 2, start, finish, started := true }

/-- Launch 3 alone at the head of queue 0, in a graph, phase and job. -/
def pendingLaunch : State :=
  let s := demo.modPart 1 fun p => { p with launches := [(3, { demoLaunch with started := false })], graphs := [(0, objOf 1 [2, 3] 0 0)],
                                            phases := [(0, objOf 2 [3] 0 0)], jobs := [(0, objOf 3 [] 0 0)] }
  { s with queues := s.queues.set 0 [(1, 3)] }

theorem idle_expiring : Idle (expiring.tile 0) := by unfold Idle; decide +kernel

theorem expires_budgeted (n : Nat) : Expires (budgeted n) 0 :=
  let h : Expires expiring 0 := ⟨by decide, rfl, rfl, rfl, .inl rfl⟩
  ⟨h.on, h.launched, h.zero, h.running, h.begun⟩

theorem notSpent_one : ¬ BudgetSpent (budgeted 1) 0 := by
  rintro ⟨_, _, _, h1, h2, h3, h4⟩
  cases h1; cases h2; cases h3
  exact absurd h4 (by decide)

theorem notSpent_none : ¬ BudgetSpent expiring 0 := by
  rintro ⟨_, _, _, h1, h2, h3, _⟩
  cases h1; cases h2; cases h3

theorem witness_RoundsAndLaunchesRun :
    (Expires expiring 0 ∧ ((expiring.tile 0).entries.map (·.1)).Nodup ∧ Idle (expiring.tile 0) ∧ (expiring.tile 0).roundsOver = false ∧
      (expiring.tile 0).rerun = none ∧
      ((expiring.updTile fun x => { x with rerun := some 4 }).tile 0).rerun = some 4 ∧
      ((expiring.updTile fun x => { x with roundsOver := true }).tile 0).roundsOver = true) ∧
    ((∀ n, Expires (budgeted n) 0 ∧ Idle ((budgeted n).tile 0)) ∧ BudgetSpent (budgeted 2) 0 ∧ ¬ BudgetSpent (budgeted 1) 0 ∧
      ¬ BudgetSpent expiring 0) ∧
    (let s := launched.updTile fun x => { x with going := true, inRound := true, overFault := true }
     Expires s 0 ∧ (s.tile 0).inRound = true ∧ (s.tile 0).due = [] ∧ (s.tile 0).overFault = true ∧ (s.tile 0).trapvec &&& ~~~3 ≠ 0 ∧
       ∀ k, ((s.tile 0).slot k).longs = 0 ∧ ((s.tile 0).slot k).ra = none) ∧
    (let s := pendingLaunch
     let l := { demoLaunch with started := false }
     s.power = .active ∧ s.nextTurn ≤ s.time.tai ∧ s.queues[(0 : Fin 64)] = (1, 3) :: [] ∧ (∀ r : Fin 64, r ≠ 0 → s.queues[r] = []) ∧ s.launch 1 3 = some l ∧
       (s.part 1).launches = [(3, l)] ∧ s.noStart = false ∧ (s.part 1).stopping = none ∧ (s.part 1).restoring = none ∧ l.fn = 0 ∧
       (∃ ph ∈ (s.part 1).phases, ph.2.inst = l.up.getD 1 0) ∧
       (∀ ph ∈ (s.part 1).phases, ph.2.inst = l.up.getD 1 0 → ph.2.started = true ∧ ph.2.ending = none) ∧
       (∀ t ∈ ((s.part 1).tileList.drop l.tile0).take l.n, (s.tile t).launch = none) ∧ (s.part 1).tileList.Nodup ∧ l.started = false ∧
       withinShare (s.part 1).share.toNat [l.demand] = true ∧ l.buffers = []) ∧
    (let s := expiring.updTile fun x => { x with roundsOver := true }
     s.launch 1 3 = some demoLaunch ∧ demoLaunch.started = true ∧ (s.part 1).stopping = none ∧ s.saved = [] ∧
       (∀ t ∈ s.launchTiles 1 3, (s.tile t).drained = true) ∧ s.launchTiles 1 3 = [0] ∧ demoLaunch.buffers = [] ∧ demoLaunch.binds = [] ∧
       NoneDue (s.part 1)) ∧
    (let o := { objOf 2 [3] 5 9 with started := false }
     let s := launched.modPart 1 fun p => { p with phases := [(1023, o)], graphs := [(0, objOf 1 [2, 3] 0 0)] }
     let at_ (n : Nat) : State := { s with time := { s.time with tai := n } }
     mapFind ((at_ 5).part 1).phases (1023 : BitVec 10).toNat = some o ∧ o.start ≤ (at_ 5).time.tai ∧ (at_ 4).time.tai < o.start ∧ o.finish ≠ 0 ∧
       o.finish ≤ (at_ 9).time.tai ∧ o.inst ∈ demoLaunch.up ∧ demoLaunch.ending = none ∧
       mapFind ((at_ 5).part 1).graphs demoLaunch.graph = some (objOf 1 [2, 3] 0 0) ∧ demoLaunch.up.head? = some (objOf 1 [2, 3] 0 0).inst ∧
       ((demo.modPart 1 fun p => { p with phases := [(1023, o)] }).part 1).liveUnder o.inst = false) := by
  refine ⟨⟨⟨?_, ?_, ?_, ?_, ?_⟩, ?_, ?_, ?_, ?_, ?_, ?_⟩, ⟨fun _ => ⟨expires_budgeted _, rfl, idle_expiring.2⟩, ⟨3, _, 2, rfl, rfl, rfl, by decide⟩,
      notSpent_one, notSpent_none⟩,
    ⟨⟨?_, ?_, ?_, ?_, ?_⟩, ?_, ?_, ?_, ?_, ?_⟩, ?_, ⟨?_, ?_, ?_, ?_, ?_, ?_, ?_, ?_, ?_⟩, ?_⟩ <;>
    first
    | (unfold Idle; decide +kernel) | (unfold NoneDue; decide +kernel) | decide +kernel

/-- A load from host memory, not confirmed, with its checkpoint; far: the pages it still has to translate. -/
def hostLoad (far : List Nat) : Op :=
  { demoOp .load (hostBase + 0x10000) 8 [⟨rG 3, 0, 64, false⟩] with cntL := true, conf := false, far }
def ahead (o : Op) (park : Park) (pages : List Nat) : State :=
  demo.upd fun x => { x with ops := [o], cntl := 1, park, ra := some { ckpts := [(7, x.ckpt)], issued := 63, fault := none, marks := [], pages, pre := [] } }

theorem witness_PageFaultsRunAhead :
    (let a := hostBase + 0x10000
     let o := hostLoad [a]
     let s := ahead o .none []
     s.power ≠ .off ∧ s.frozen 0 = false ∧ (s.slot 0 0).opOf 7 = some o ∧ o.conf = false ∧
       (∀ q ∈ (s.slot 0 0).ops, q.id ≠ 7 → q.conf = true) ∧ (s.slot 0 0).ra = some { ckpts := [(7, demo.me.ckpt)], issued := 63, fault := none, marks := [], pages := [], pre := [] } ∧
       o.kind.writes = false ∧ o.kind.reads = true ∧ o.kind ≠ .probe ∧ o.far = [a] ∧ s.ownMissing 1 a = false ∧ clsAt a = .host ∧
       (hostLoad [a, a + 65536]).far = a :: (a + 65536) :: []) ∧
    (let a := hostBase + 0x10000
     let o := hostLoad [a, a + 65536]
     let s := ahead o .none []
     0 ≤ o.id ∧ (s.slot 0 0).ops.find? (fun q => !q.conf) = some o ∧ (s.slot 0 0).ops.filter (fun q => decide (o.id ≤ q.id) && !q.conf) = [o] ∧
       o.far.filter (s.lacks 1 o.kind.perm) = a :: [a + 65536] ∧
       (a :: [a + 65536]).filter (fun c => clsAt c == .host) = a :: [a + 65536] ∧ [a + 65536].length ≤ 1 ∧ ([] : List Nat).length < 16 ∧
       (∀ b ∈ [a + 65536], b / 65536 ≠ a / 65536 ∧ b / 65536 ∉ ([] : List Nat)) ∧
       (s.slot 0 0).active = true ∧ (s.slot 0 0).park = .none ∧ (s.slot 0 0).sPark = false ∧ (s.slot 0 0).yPark = none ∧ 63 - o.idx < 64 ∧
       (s.slot 0 0).faults = []) ∧
    (let a := hostBase + 0x10000
     let o := hostLoad [a]
     let s := ahead o .confirm []
     (s.slot 0 0).park ≠ .none ∧ (s.slot 0 0).park ≠ .ending ∧ (s.slot 0 0).park ≠ .halting ∧ o.far.filter (s.lacks 1 o.kind.perm) = a :: [] ∧
       [(7, demo.me.ckpt)].find? (fun c => c.1 = o.id) = some (o.id, demo.me.ckpt) ∧
       (s.slot 0 0).ops.find? (fun q => q.id = o.id) = some o) ∧
    (let b : Batch := { group := 3, tile := 0, slot := 0, launchId := 0, ctxGen := 0, pages := [5], due := 10, since := 0 }
     let s := launched.modPart 1 fun p => { p with batches := [b] }
     s.batchOf 0 0 3 = some b ∧ s.batchOf 0 0 4 = none ∧
       (({ s with time := { s.time with tai := 10 } } : State).part 1).batches.find? (fun c => c.tile == 0 && c.slot == 0 && decide (c.due ≤ 10)) = some b ∧ (s.tile 0).launchId = b.launchId ∧ (s.slot 0 0).ctxGen = b.ctxGen ∧ (s.tile 0).launch.isSome = true ∧
       s.time.tai < b.due ∧ b.due ≤ ({ s with time := { s.time with tai := 10 } } : State).time.tai) ∧
    (let o := { hostLoad [] with conf := true }
     let s := withOp o
     (s.slot 0 0).opOf 7 = some o ∧ clsAt o.addr = .host ∧ o.ready = false ∧ (s.slot 0 0).free o = true ∧ s.time.tai < o.ns + 50000 ∧
       o.ns + 50000 ≤ ({ s with time := { s.time with tai := 50000 } } : State).time.tai) ∧
    (let s := demo.modPart 1 fun p => { p with rempfq := 1 }
     (s.part (1 : Tag).toNat).rempfq.getLsbD 0 = true ∧ Memory.wf s.hbm = true ∧
       (∀ g ∈ pageStarts (bitsAt (s.part 1).rempfq.toNat 12 27 * 2 ^ 12 + 32 * ((s.part 1).rempfhead.toNat % 128)) 32, s.refuses 1 g 1 = false) ∧ (demo.part (1 : Tag).toNat).rempfq.getLsbD 0 = false) := by
  refine ⟨?_, ?_, ?_, ?_, ?_, ?_⟩ <;> decide +kernel

/-- Virtual function 0 bound to partition 1; with what is given. -/
def bound (x : Func) (s : State) : State := { s with funcs := [(1, { x with vfbind := 0x2000010001 })] }

theorem portsEmpty (s : State) (h : s.ports = Vector.replicate 12 { save := [], hold := [] } := by decide +kernel) : PortsEmpty s := by
  intro p hp; simp [h] at hp; simp [hp]

/-- An image of zeros in empty HBM reads as zero, whatever its size. -/
theorem zero_image (s : State) (h : s.hbm = []) (h1 : s.clearMap = []) (p : Part) (n a : Nat) : s.readHbm p a n = 0 := by
  induction n generalizing a with
  | zero => rfl
  | succ n ih => simp [State.readHbm, ih, State.hbmByte, h, Memory.get, Memory.unlisted, State.blockClear, h1, mapGet]

theorem zero_read (s : State) (h : s.hbm = []) (h1 : s.clearMap = []) (tag a n : Nat) : s.partRead tag a n = 0 := by
  unfold State.partRead
  split
  · rfl
  · exact zero_image s h h1 _ _ _

theorem witness_ContextsStopSaveAndRestore :
    (let s := (bound Func.reset demo).modPart 1 fun p => { p with resident := some 1 }
     s.power ≠ .off ∧ (1 : FnId).val ≠ 0 ∧ (s.part 1).resident = some 1 ∧ (s.part 1).sliceEnd ≤ s.time.tai ∧ (s.part 1).stopping = none ∧
       (s.part 1).restoring = none ∧ s.debugHeld 1 = false ∧ (s.part 1).train = none ∧ ∀ g : FnId, g ≠ 1 → s.runnable 1 g = false) ∧
    (let s := (bound Func.reset demo).modPart 1 fun p => { p with resident := some 1, launches := [(3, { demoLaunch with fn := 2 })] }
     let s := { s with funcs := mapSet s.funcs 2 { Func.reset with vfbind := 0x10001 } }
     s.runnable 1 2 = true ∧ 0x20000 + (s.part 1).imageSize ≤ (s.part 1).extent ∧
       (s.part 1).extent < bitsAt ((0x3FFF0000 : Word)).toNat 16 23 * 2 ^ 16 + (s.part 1).imageSize) ∧
    (let st : Stop := { at_ := 5, fn := 1, base := 0x20000, train := none, done := false }
     let s := demo.modPart 1 fun p => { p with stopping := some st }
     (s.part 1).stopping = some st ∧ s.time.tai < st.at_ ∧ st.at_ ≤ ({ s with time := { s.time with tai := 5 } } : State).time.tai ∧
       s.debugHeld 1 = false ∧ (s.updTile fun x => { x with dbgHalt := true }).debugHeld 1 = true ∧ st.train = none) ∧
    (let st : Stop := { at_ := 5, fn := 1, base := 0x20000, train := none, done := true }
     let s := demo.modPart 1 fun p => { p with stopping := some st }
     (s.part 1).stopping = some st ∧ (∀ t ∈ (s.part 1).tileList, (s.tile t).gangsDone = true) ∧ (s.part 1).tileList.Nodup) ∧
    (let r : Restore := { fn := 1, base := 0x20000, at_ := 0, train := none }
     let c : Saved := { fn := 1, base := 0x20000, stopAt := 0, tiles := [(0, Tile.reset)], posts := [], image := 0, ports := [] }
     let s := { demo.modPart 1 fun p => { p with restoring := some r } with saved := [(1, c)] }
     (s.part 1).restoring = some r ∧ r.at_ ≤ s.time.tai ∧ (s.part 1).resident = none ∧ mapFind s.saved 1 = some c ∧
       s.partRead 1 r.base (s.part 1).imageSize = c.image ∧ PortsEmpty s ∧
       (c.tiles.map (·.1)).Nodup) ∧
    (let s := bound Func.reset demo
     s.booted = true ∧ (s.func 0).posted = [] ∧ s.fnTag 1 = 1 ∧ s.hasSaved 1 = false ∧ (1 : FnId).val = (0 : BitVec 8).toNat + 1) := by
  refine ⟨?_, ?_, ?_, ?_, ⟨?_, ?_, ?_, ?_, zero_read _ rfl rfl _ _ _, portsEmpty _, ?_⟩, ?_⟩ <;> decide +kernel

/-! ## Witnesses: time and trains -/

def clocked (c : Clock) (set : Bool) : State := { demo with time := { demo.time with clock := c, isSet := set, tbcfg := demo.time.tbcfg ||| 0x10000 } }

theorem witness_TimeIsKeptReadAndLost :
    (Ready (setG demo 1 1023) Hdr.plain [rG 1] [rG 2] ∧ ((setG demo 1 1023).me.gr 1).toNat < 1024 ∧ 1024 ≤ ((setG demo 1 1024).me.gr 1).toNat ∧
      Trappable demo) ∧
    (let s := setG (setG demo 1 255) 2 0x3FFFFFC0
     Ready s Hdr.plain [rG 1, rG 2] [] ∧ (s.me.gr 1).toNat ≤ 255 ∧ (s.me.gr 2).toNat % 64 = 0 ∧ (s.me.gr 2).toNat + 64 ≤ s.myPart.extent ∧
       s.myPart.grants (s.me.gr 2).toNat 64 1 = true ∧ (∀ g ∈ pageStarts (s.me.gr 2).toNat 64, s.refuses s.myTag g 1 = false) ∧ s.me.cnts = 0 ∧ storing.me.cnts ≠ 0 ∧ 255 < ((setG demo 1 256).me.gr 1).toNat ∧
       0x2020 % 64 ≠ 0 ∧ s.myPart.extent < 0x40000000 + 64 ∧ inWindow (linBase + storeSize - 64) 64 = true ∧ s.myTile.badChunks = []) ∧
    (let o := aQuery (.tstat 1023)
     FreeOp (withOp o) 0 0 7 o ∧ (1023 : Word).toNat < 1024) ∧
    ((clocked .locked true).time.clock = .locked ∧ (clocked .lost true).time.clock ≠ .locked) ∧
    (let s := clocked .holdover true
     let late : State := { s with time := { s.time with tai := 4000000 } }
     max 1 (bitsAt late.time.tbcfg.toNat 32 16) ≤ min 65535 (late.time.e0 + (late.time.tai - late.time.since) / 2000) ∧
       min 65535 (s.time.e0 + (s.time.tai - s.time.since) / 2000) < max 1 (bitsAt s.time.tbcfg.toNat 32 16)) ∧
    ((clocked .lost true).time.tbcfg.getLsbD 16 = true ∧ (clocked .lost true).time.isSet = true ∧ (-50 : Int).natAbs ≤ 50 ∧ 50 < (51 : Int).natAbs ∧
      (clocked .lost false).time.isSet = false ∧ demo.time.tbcfg.getLsbD 16 = false ∧ demo.time.tbcfg.getLsbD 17 = false) ∧
    ((∀ p ∈ demo.parts, ∀ e ∈ p.2.timetable, e.2.state ≠ 1) ∧
      ∃ p ∈ (demo.modPart 1 fun p => { p with timetable := [(0, { TEntry.empty with state := 1 })] }).parts, ∃ e ∈ p.2.timetable, e.2.state = 1) := by
  refine ⟨⟨ready _ _ _, ?_, ?_, trappable _⟩, ⟨ready _ _ _, ?_, ?_, ?_, ?_, ?_, ?_, ?_, ?_, ?_, ?_, ?_, ?_⟩, ⟨freeOp _ _ rfl rfl, ?_⟩, ?_, ?_, ?_, ?_⟩ <;>
    decide +kernel

/-- An armed entry of train 9, action a, at instant 0, led by chip c with members 0 and 5. -/
def entryT (a : Nat) (st : BitVec 3) (c : Nat) : TEntry :=
  { TEntry.empty with record := a * 2 ^ 96 + 9 * 2 ^ 112 + c * 2 ^ 176, state := st, members := [0, 5] }
def train9 (halted : Bool) : Train := { num := 9, epoch := 3, halted, members := [0, 5], lead := 0 }
def training (e : TEntry) (tr : Option Train) : State := demo.modPart 1 fun p => { p with timetable := [(0, e)], train := tr }

theorem firesNow (e : TEntry) (tr : Option Train) (h : e.state = 1 ∧ e.waits = false := by decide +kernel) (h1 : e.instant = 0 := by decide +kernel)
    (h2 : e.leadChip = 0 := by decide +kernel) (h3 : ((training e tr).part 1).firstArmed 0 e = true := by decide +kernel) :
    FiresNow (training e tr) 1 0 e := by
  refine ⟨rfl, h, by simp [h1], ?_, h3, rfl, rfl, portsEmpty _ rfl⟩
  unfold State.selfTimed
  rw [h2]
  rfl

theorem witness_TrainsActOnTheirTimetable :
    (let w := 10000 + 2 * 2 ^ 96 + 9 * 2 ^ 112 + 1 * 2 ^ 160 + 0x20000 * 2 ^ 192
     let s := { bound Func.reset (training { TEntry.empty with window := w } none) with time := { demo.time with clock := .locked } }
     let r := ((s.part 1).entry 0).window % 2 ^ 448
     s.booted = true ∧ (s.func 1).posted = [] ∧
       s.mayWrite 1 = true ∧ s.regTag 1 = 1 ∧ bitsAt r 96 8 ≠ 0 ∧ bitsAt (demo.part 1 |>.entry 0).window 96 8 = 0 ∧ bitsAt (2 ^ 96) 112 16 = 0 ∧
       (s.part 1).recordFine r = true ∧ ¬ bitsAt r 0 64 < s.time.tai + 10000 ∧ bitsAt (r - 1) 0 64 < s.time.tai + 10000 ∧
       (s.part 1).recordFine (r - 1) = true ∧ (s.writeHbm demoPart (recordAt 4 0) (1 + 9 * 2 ^ 32) 8).recordErr 1 0 r = 0) ∧
    (FiresNow (training (entryT 1 1 0) none) 1 0 (entryT 1 1 0) ∧ actionOf (entryT 1 1 0) = 1 ∧
      (mapGet (0, false) ((training (entryT 1 1 0) none).part 1).epochs (trainOf (entryT 1 1 0))).2 = false ∧
      (∃ c ∈ (entryT 1 1 0).members, c ≠ demo.chipId)) ∧
    (FiresNow (training (entryT 2 1 0) (some (train9 false))) 1 0 (entryT 2 1 0) ∧ actionOf (entryT 2 1 0) = 2 ∧ (train9 false).num = trainOf (entryT 2 1 0) ∧
      FiresNow (training (entryT 2 1 0) (some (train9 true))) 1 0 (entryT 2 1 0)) ∧
    (FiresNow (training (entryT 3 1 0) (some (train9 true))) 1 0 (entryT 3 1 0) ∧ actionOf (entryT 3 1 0) = 3 ∧
      FiresNow (training (entryT 4 1 0) (some (train9 true))) 1 0 (entryT 4 1 0) ∧ actionOf (entryT 4 1 0) = 4) ∧
    (let c : Saved := { fn := 0, base := 0x20000, stopAt := 0, tiles := [], posts := [], image := 0, ports := [] }
     let s := { training (entryT 3 1 0) (some (train9 true)) with saved := [(1001, c)] }
     FiresNow s 1 0 (entryT 3 1 0) ∧ (mapFind s.saved (1000 + 1)).isSome = true) ∧
    (let s := (training (entryT 4 1 0) (some (train9 true))).modPart 1 fun p => { p with launches := [(3, demoLaunch)], jobs := [(0, objOf 3 [] 0 0)] }
     FiresNow s 1 0 (entryT 4 1 0) ∧ s.launch 1 3 = some demoLaunch ∧ mapFind (s.part 1).jobs (entryT 4 1 0).jobIdx = some (objOf 3 [] 0 0) ∧
       (objOf 3 [] 0 0).inst ∈ demoLaunch.up) ∧
    (let s := training (entryT 1 1 5) none
     (s.part 1).entry 0 = entryT 1 1 5 ∧ s.selfTimed (entryT 1 1 5) = false ∧ (s.part 1).firstArmed 0 (entryT 1 1 5) = true ∧ PortsEmpty s ∧
       ({ s with time := { s.time with clock := .locked } } : State).selfTimed (entryT 1 1 5) = true ∧
       { entryT 1 1 5 with waits := true }.waits = true ∧ { entryT 1 1 5 with waits := true }.state = 1 ∧ actionOf (entryT 1 1 5) ≠ 3 ∧
       s.time.tai < ({ entryT 1 1 5 with record := (entryT 1 1 5).record + 1 } : TEntry).instant) := by
  refine ⟨?_, ⟨firesNow _ _, ?_, ?_, ?_⟩, ⟨firesNow _ _, ?_, ?_, firesNow _ _⟩, ⟨firesNow _ _, ?_, firesNow _ _, ?_⟩,
    ⟨let h := firesNow (entryT 3 1 0) (some (train9 true)); ⟨h.entry, h.armed, h.due, h.timed, h.first, h.still⟩, ?_⟩,
    ⟨⟨rfl, ?_, ?_, ?_, ?_, rfl, rfl, portsEmpty _ rfl⟩, ?_, ?_, ?_⟩, ?_, ?_, ?_, portsEmpty _, ?_, ?_, ?_, ?_, ?_⟩ <;> decide +kernel

/-- An entry that has fired: its train halts, this module leads it, and the other member has or has not sent its beacon. -/
theorem witness_TrainMembersExchangeBeaconsVerdictsAndFlits :
    (let e := entryT 2 3 0
     let s := training e (some (train9 true))
     (s.part 1).entry 0 = e ∧ Halting e ∧ e.state = 3 ∧ e.fired = true ∧ (∀ t ∈ s.trainTiles 1, (s.tile t).halted = true) ∧ s.chipId ∉ e.beacons ∧ e.leads = 0 ∧
       e.leadChip = s.chipId ∧ e.verdicts = 0 ∧ (s.part 1).missing e = [0, 5] ∧ (s.part 1).membersOf e = [0, 5] ∧ Halting (entryT 4 3 0) ∧
       Halting { entryT 2 4 0 with err := 7 } ∧ { entryT 2 4 0 with err := 7 }.fired = true ∧
       e.instant + e.w ≤ ({ s with time := { s.time with tai := e.w } } : State).time.tai) ∧
    (let e := { entryT 2 3 5 with members := [5, 6, 0] }
     let p := demo.part 1
     Halting e ∧ e.verdicts = 0 ∧ p.actingLead e = some 5 ∧ (5 : Chip) ≠ demo.chipId ∧ e.instant + (2 + e.leads) * e.w ≤ 2 * e.w ∧
       p.actingLead { e with leads := e.leads + 1 } = some 6 ∧ (6 : Chip) ≠ demo.chipId ∧
       p.actingLead { e with leads := 1 + 1 } = some demo.chipId ∧
       p.actingLead { e with leads := 2 + 1 } = none ∧ p.actingLead { e with leads := 2 } = some demo.chipId ∧
       p.actingLead { e with members := [5, 6], leads := 1 + 1 } = none ∧ p.actingLead { e with members := [5, 6], leads := 1 } = some 6 ∧
       { p with evicted := [6] }.actingLead { e with leads := e.leads + 1 } = some demo.chipId) ∧
    (let s := training TEntry.empty (some (train9 true))
     (s.part 1).train = some (train9 true) ∧ (7 : Chip) ∉ (s.part 1).evicted ∧ Memory.wf s.hbm = true ∧ 0x2008 % 8 = 0 ∧
       (s.part 1).fltlog.getLsbD 0 = false ∧ (∀ t ∈ (s.part 1).tileList, (s.tile t).tag = 1) ∧ (s.part 1).replaying = false ∧
       (∀ g ∈ pageStarts 0x2008 8, s.refuses 1 g 1 = false) ∧ mapFind s.saved (1000 + 1) = none ∧
       (∀ k ∈ [(2 : Byte), 3, 4, 9], (train9 true).sorts { tag := 1, src := 7, epoch := k, msg := .drop 1 0 } = true) ∧
       (9 : Byte) ≠ 3 ∧ (9 : Byte) ≠ 3 - 1 ∧ (9 : Byte) ≠ 3 + 1 ∧ s.ports[(2 : Fin 12)].save.length < 256 ∧ s.ports[(2 : Fin 12)].hold.length < 256) ∧
    (let f : Flit := { tag := 1, src := 7, epoch := 2, msg := .drop 1 0 }
     let s := { training TEntry.empty (some (train9 true)) with ports := Vector.replicate 12 ⟨List.replicate 256 f, List.replicate 256 f⟩ }
     (s.part 1).train = some (train9 true) ∧ 256 ≤ s.ports[(2 : Fin 12)].save.length ∧ 256 ≤ s.ports[(2 : Fin 12)].hold.length) ∧
    (let st : Stop := { at_ := 5, fn := 1, base := 0x20000, train := none, done := true }
     let s := (training TEntry.empty (some (train9 true))).modPart 1 fun p => { p with stopping := some st }
     (s.part 1).train = some (train9 true) ∧ (s.part 1).held = true ∧ postMsg (.result 0 0 0 7 0 0 0 0) = true) ∧
    (let s := (training (entryT 1 1 5) none).modPart 1 fun p => { p with discard := [8] }
     (s.part 1).train = none ∧ (8 : Chip) ∈ (s.part 1).discard ∧ (7 : Chip) ∉ (s.part 1).discard ∧ (s.part 1).awaits = true ∧ s.ports[(2 : Fin 12)].hold.length < 256) := by
  refine ⟨?_, ?_, ?_, ?_, ?_, ?_⟩ <;> first | (unfold Halting; decide +kernel) | decide +kernel
/-! ## Witnesses: the host interface, power, errors, reset -/

theorem plainAt (s : State) (tag a n : Nat)
    (h1 : a + n ≤ (s.part tag).extent ∧ a + n ≤ 2 ^ 39 ∧ 0 < n ∧ a % 32 + n ≤ 32 := by decide +kernel)
    (h2 : Memory.wf s.hbm = true := by decide +kernel) (h3 : s.blockClear ((s.part tag).phys a) = false := by decide +kernel)
    (h4 : s.owner ((s.part tag).homeGroup a) = some tag := by decide +kernel) (h5 : s.l2 = [] := by decide +kernel) : PlainAt s tag a n :=
  ⟨h1, h2, h3, h4, l2Room_empty _ _ _ h5⟩

/-- A write of one byte at 0x2000 of partition 1, sent; where its piece goes. -/
def sentByte (a : Nat) : Posted := { bar := .bar2, addr := 0x2000, bytes := [1], sent := true, tag := 1, left := [(a, 1, 1)] }

/-- Sixty-three and sixty-four writes in an ordering point, of 512 bytes and of 513; a head in the last bytes and one past them, one for BAR0;
acknowledgements that leave a route and none, of a group that the partition owns and one it does not; reads likewise; accesses from another module. -/
theorem witness_HostAndRemoteAccessesAreServed :
    (let w : Posted := { bar := .bar2, addr := 0x3FFFFFF8, bytes := List.replicate 8 1, sent := false, tag := 0, left := [] }
     let s := bound { Func.reset with posted := List.replicate 63 w } demo
     let s1 := bound { Func.reset with posted := List.replicate 64 w } demo
     s.power ≠ .off ∧ (s.func 1).posted.length < 64 ∧ 64 ≤ (s1.func 1).posted.length ∧ s.fnTag 1 ≠ 0 ∧ w.sent = false ∧ w.bytes ≠ [] ∧
       w.addr + w.bytes.length ≤ (s.part (s.fnTag 1)).extent ∧ (s.part 1).extent < 0x3FFFFFF9 + w.bytes.length) ∧
    (let w : Posted := { bar := .bar0, addr := 0x80FF8, bytes := List.replicate 8 1, sent := false, tag := 0, left := [] }
     w.bytes.length = 8 ∧ w.addr % 8 = 0 ∧ w.addr < 0x81000 ∧ w.addr ≠ 0x40780) ∧
    (let w := sentByte 0x2000
     let s := bound { Func.reset with posted := [w], routes := [0] } demo
     (s.func 1).posted = w :: [] ∧ w.left = [(0x2000, 1, 1)] ∧ (s.func 1).routes = [0] ∧ placeDie 0x2000 = 0 ∧
       (s.part w.tag.toNat).guestOf 0x2000 = some 0x2000 ∧ PlainAt s 1 0x2000 1 ∧ (0 : Fin 4) ≠ 1) ∧
    ((demo.part (sentByte (2 ^ 37)).tag.toNat).guestOf (2 ^ 37) = none ∧ placeDie (2 ^ 37) = 1 ∧ ∀ c ∈ (sentByte (2 ^ 37)).left, placeDie c.1 = 1) ∧
    (let s := bound Func.reset demo
     (s.func 1).posted = [] ∧ s.booted = true ∧ s.fnTag 1 ≠ 0 ∧ 0x3FFFFFFF + 1 ≤ (s.part 1).extent ∧ s.refuses 1 0x3FFFFFFF 1 = false ∧
       (s.part 1).extent < 0x40000000 + 1 ∧ demo.fnTag 1 = 0) ∧
    (let q := demo.part (1 : Tag).toNat
     AccKind.load ≠ .install ∧ AccKind.load ≠ .sample ∧ q.remroot.getLsbD 0 = false ∧ q.remCache = [] ∧ q.held = false ∧ q.replaying = false) ∧
    (let s := posting (entryOf 0 1)
     (∃ b, PostBound s 1 ⟨.sample, 0, 256, 0, 0, 0⟩ b ∧ b.bad = [] ∧ b.f.toNat + 2 < 2 ^ 64) ∧ mapFind s.posts (postKey (BitVec.ofNat 32 8)) = none) ∧
    (let s := posting (entryOf 0 1)
     let s1 : State := { s with posts := s.posts.map fun b => (b.1, { b.2 with f := 0xFFFFFFFFFFFFFFFE }) }
     ∃ b, PostBound s1 1 ⟨.install, 0, 256, 0, 0, 0⟩ b ∧ 2 ^ 64 ≤ b.f.toNat + 2) ∧
    ((demo.modPart 1 fun p => { p with restoring := some ⟨0, 0, 0, none⟩ }).part 1).held = true := by
  refine ⟨?_, ?_, ⟨?_, ?_, ?_, ?_, ?_, plainAt _ _ _ _, ?_⟩, ?_, ?_, ?_, ⟨⟨_, ⟨rfl, ?_⟩, ?_⟩, ?_⟩, ⟨_, ⟨rfl, ?_⟩, ?_⟩, ?_⟩ <;> decide +kernel

/-- Partition 1's registers as the physical function reaches them. -/
def pf : State := { demo with psel := 1 }

/-- An access without the right; an enabled and a disabled region; a region whose first check fails; a request answered; order logging while a launch
runs and while none does. -/
theorem witness_PartitionRegistersTakeTheirWrites :
    (pf.power ≠ .off ∧ pf.booted = true ∧ (pf.func 0).posted = [] ∧ (pf.func 1).posted = [] ∧ pf.mayWrite 0 = true ∧ pf.regTag 0 ≠ 0 ∧ pf.mayWrite 1 = false) ∧
    ((pf.part 1).regWord 15 2 % 2 = 0 ∧ ((pf.modPart 1 fun p => p.setRegion 15 2 1).part 1).regWord 15 2 % 2 = 1) ∧
    ((0x1 : Word).getLsbD 0 = true ∧ (0x1FFFC : Word).getLsbD 0 = false ∧ RegionFails (pf.part 1) ((pf.part 1).region 15) 1 ∧ pf.views = []) ∧
    (let s := pf.modPart 1 fun p => { p with rempf := [(5, 7)] }
     (s.part (s.regTag 0)).rempf = [((5 : Word).setWidth 16, 7)] ∧ ∀ r ∈ (pf.part 1).rempf, r.1 ≠ (5 : Word).setWidth 16) ∧
    ((pf.part 1).running = [] ∧ (pf.part 1).ordNext = none ∧ (launched.part 1).running ≠ [] ∧ (0 : FnId).val = 0 ∧
      (1 : FnId).val ≠ 0) := by
  have e : (pf.part 1).rempf = [] := by decide +kernel
  refine ⟨?_, ?_, ⟨?_, ?_, .inl ?_, ?_⟩, ⟨?_, fun r h => by rw [e] at h; cases h⟩, ?_⟩ <;> decide +kernel

theorem tableOf_zero : TableOf [(0, 0x8000)] [0] := by
  refine ⟨by decide, fun i hi => ?_, fun e he hl => ?_⟩
  · have : i = 0 := by simpa using hi
    subst this; exact ⟨rfl, rfl⟩
  · simp at he; subst he; simp at hl

/-- A partition not yet enabled, before and after boot, whose tables name group 0 and tile 0; an enabled one, with a live launch and idle; one that is
clearing; the scrubber's last block; QCFG and VFBIND free and taken; a binding whose quantum is zero. -/
theorem witness_PartitionsEnableTearDownAndBind :
    (let s := pf.modPart 1 fun _ => { demoPart with en := false, pgroups := 0, ptiles := 0 }
     s.power ≠ .off ∧ (s.func 0).posted = [] ∧ s.psel.toNat % 256 ≠ 0 ∧ (s.part 1).en = false ∧ (s.part 1).clearing = false ∧ s.booted = true ∧
       ({ s with booted := false } : State).booted = false ∧ TableOf (s.part 1).groups [0] ∧ TableOf (s.part 1).tiles [0]) ∧
    ((pf.part 1).en = true ∧ pf.busy 1 = false ∧ ∃ l ∈ (launched.part 1).launches, l.2.live = true) ∧
    (((pf.modPart 1 fun p => { p with clearing := true }).part (1 : Tag).toNat).clearing = true ∧ (pf.part (1 : Tag).toNat).clearing = false) ∧
    (mapGet [] ({ pf with clearMap := [(511, [(16383, 16384)])] } : State).clearMap (511 : Fin 512).val = [(16383, 16384)] ∧ 16383 < 16384 ∧
      16384 ≤ 16384 ∧ Memory.wf pf.hbm = true ∧ mapGet [] pf.clearMap (511 : Fin 512).val = ([] : List (Nat × Nat))) ∧
    (pf.qcfg.toList[(63 : Fin 64).val]? = some 0 ∧ (pf.part (bitsAt (1 : Word).toNat 0 8)).en = true ∧
      (pf.part (bitsAt (0 : Word).toNat 0 8)).en = false ∧ (pf.part (bitsAt (2 : Word).toNat 0 8)).en = false) ∧
    (bitsAt (0 : Word).toNat 0 8 = 0 ∧ BindFails pf 1 1 1 ∧ (∀ k, k < 1 → ¬ BindFails pf 1 1 k) ∧
      mapFind pf.saved (fnOf 1).val = none ∧
      (mapFind ({ pf with saved := [(1, ⟨1, 0, 0, [], [], 0, []⟩)] } : State).saved (fnOf 1).val).isSome = true) ∧
    (let w : Posted := { bar := .bar2, addr := 0, bytes := [], sent := false, tag := 0, left := [] }
     let s := bound { Func.reset with posted := [w] } pf
     (s.func 1).posted ≠ [] ∧ (s.func 1).posted.length < 64 ∧ s.booted = true ∧ (0x80FFF : BitVec 20).toNat < 0x81000) := by
  refine ⟨⟨?_, ?_, ?_, ?_, ?_, ?_, ?_, tableOf_zero, tableOf_zero⟩, ?_, ?_, ?_, ?_, ⟨?_, ?_, ?_, ?_, ?_⟩, ?_⟩ <;>
    first | decide +kernel | (intro k hk; have : k = 0 := (by omega); subst this; exact id) | exact (rfl : bitsAt (1 : Word).toNat 16 20 = 0)

/-- A record in order at 0x8000, and its acceptance; an address past the extent; a partition bound to a virtual function; a report under way; levels 0, 1
and 2 in security states 1 and 0. -/
theorem witness_FunctionRegistersTakeTheirWrites :
    (demo.power ≠ .off ∧ demo.booted = true ∧ (demo.func 1).posted = [] ∧ (1 : FnId).val ≠ 0 ∧ demo.fnTag 1 = 0 ∧ (bound Func.reset demo).fnTag 1 ≠ 0) ∧
    (let v : Word := 0x40000000
     ((bound Func.reset demo).part 1).extent < bitsAt v.toNat 7 32 * 128 + 128) ∧
    (let s := { bound Func.reset demo with psel := 1 }
     s.psel.toNat % 256 ≠ 0 ∧ s.fnTag 1 = s.psel.toNat % 256) ∧
    (((bound { Func.reset with attBusy := true } demo).func 1).attBusy = true ∧ (demo.func 1).attBusy = false ∧ demo.lmsLeaf < 2 ^ 15 ∧
      2 ^ 15 ≤ ({ demo with lmsLeaf := 32768 } : State).lmsLeaf) ∧
    (bitsAt (0x001 : Word).toNat 8 2 = 0 ∧ bitsAt (0x101 : Word).toNat 8 2 = 1 ∧ bitsAt (0x201 : Word).toNat 8 2 = 2 ∧
      ({ demo with security := 1 } : State).security = 1 ∧ demo.security ≠ 1 ∧ (2 : Nat) ≠ (bound Func.reset demo).fnTag 1) ∧
    (let s := { bound { Func.reset with dbgreq := 0x201, dbgOpen := true } demo with security := 1, dbg := [(1, 1, false)] }
     let r := (s.func 1).dbgreq.toNat
     s.security = 1 ∧ (s.func 1).dbgOpen = true ∧ bitsAt r 8 2 = 2 ∧ (s.part (bitsAt r 0 8)).en = true ∧ bitsAt r 0 8 = s.fnTag 1 ∧
       (∀ d ∈ s.dbg, d.1 = bitsAt r 0 8) ∧ (demo.func 1).dbgOpen = false) := by decide +kernel

theorem witness_PowerBootAndDebugAct :
    (({ demo with power := .packageIdle } : State).power = .packageIdle ∧ demo.power = .active) ∧
    ((demo.part (1 : Tag).toNat).en = true ∧ (demo.part (1 : Tag).toNat).thetaAt = none ∧ 256 ≤ (256#16).toNat ∧
      (256#16).toNat ≤ (demo.part 1).thmax.toNat ∧ (demo.part 1).thmax.toNat < (257#16).toNat ∧ (255#16).toNat < 256 ∧
      (∀ q ∈ demo.parts, q.2.en = true → q.1 ≠ 1 → q.2.theta = q.2.thmax) ∧ (demo.parts.map (·.1)).Pairwise (· < ·) ∧
      (let s := { demo.modPart 1 fun p => { p with thetaAt := some 5 } with time := { demo.time with tai := 10004 } }
       ∃ a, (s.part 1).thetaAt = some a ∧ s.time.tai < a + 10000)) ∧
    (BootAccepts 3 [⟨true, true, 3, true, 0⟩, ⟨true, true, 3, false, 0⟩] 3 ∧ (1 : BitVec 2) ≠ 3 ∧ (0 : BitVec 2) = demo.security ∧
      (∃ o ∈ [(⟨true, false, 3, true, 0⟩ : BootObj)], o.ecdsa = false ∨ o.lms = false) ∧
      (⟨true, true, 2, false, 0⟩ : BootObj).version < ({ demo with rollback := 3 } : State).rollback ∧ (0 : Chip) = demo.chipId) ∧
    (let s := { demo.updTile fun x => { x with dbgHalt := true } with dbg := [(1, 2, false)] }
     s.debugLevel 1 = 2 ∧ demo.debugLevel 1 ≠ 2 ∧ (1 : Tag).toNat ≠ 0 ∧ (s.tile 0).tag = 1 ∧ (s.tile 0).dbgHalt = true ∧ (demo.tile 0).dbgHalt = false ∧
       (s.tile 1).tag ≠ 1 ∧ s.dark 0 = false ∧ ({ s with power := .packageIdle } : State).dark 0 = true ∧ (1 : G) ≠ 0 ∧
       ({ demo with dbg := [(1, 1, false)] } : State).debugLevel 1 = 1) := by
  refine ⟨?_, ⟨?_, ?_, ?_, ?_, ?_, ?_, ?_, ?_, 5, ?_⟩, ⟨⟨rfl, rfl, by decide, ⟨rfl, rfl, by decide, rfl⟩⟩, ?_⟩, ?_⟩ <;> decide +kernel

/-- The log on at 0x10000 and off; a register code 119 and 120; the last byte of a post of one line. -/
theorem witness_SoftErrorsAreLoggedOrPoison :
    (let s := demo.modPart 1 fun p => { p with fltlog := 0x10001 }
     s.power ≠ .off ∧ (s.part (s.tile 0).tag.toNat).fltlog.getLsbD 0 = true ∧ (s.part 1).ptiles ≤ 512 ∧
       PlainAt s 1 (bitsAt (s.part 1).fltlog.toNat 13 26 * 2 ^ 13 + 32 * ((s.part 1).flthead.toNat % 256)) 32 ∧
       (demo.part (demo.tile 0).tag.toNat).fltlog.getLsbD 0 = false) ∧
    ((119#7).toNat < 120 ∧ 120 ≤ (120#7).toNat ∧ (119#7) ≠ 0 ∧ (119#7) ≠ 96) ∧
    (let s := posting (entryOf 0 1)
     (s.posts.map (·.1)) = [postKey 0] ∧ s.posts.all (fun b => decide (0 < b.2.lines)) = true) ∧
    (let l : ViewLine := ⟨0, 15, 0, 0⟩
     mapFind ({ demo with views := [(viewKey 1 0x8000000000, l)] } : State).views (viewKey (1 : Tag).toNat 0x8000000000) = some l) := by
  refine ⟨⟨?_, ?_, ?_, plainAt _ _ _ _, ?_⟩, ?_, ?_, ?_⟩ <;> decide +kernel

/-- No handler under each unit policy, with a load from the hole between HBM and the views at PC 0x40; a retry and its second time; trap mode; a launch
that contains, one that lets its slot end, and one that has its round run again, once. -/
def bare (u : Word) : State := setG (demo.updTile fun x => { x with trapvec := u }) 1 0x8000000000

theorem witness_FaultsAreContained :
    (Ready (bare 0) Hdr.plain [rG 1, rG 0] [rG 2] ∧ (bare 0).me.longs = 0 ∧ (bare 0).myPart.fltlog.getLsbD 0 = false ∧
      (bare 0).myTile.trapvec &&& ~~~3 = 0 ∧ (bare 0).me.tm = false ∧ 2 ^ 39 ≤ ((bare 0).me.ea ⟨1, 0, 0, 0⟩).toNat ∧
      ((bare 0).me.ea ⟨1, 0, 0, 0⟩).toNat < 2 ^ 40 ∧ ((bare 0).me.ea ⟨1, 0, 0, 0x7FFFFFFFFF⟩).toNat < 2 ^ 40) ∧
    (let s := (bare 0).writeHbm demoPart 0x40 0x2C0000080800000000000000 12
     encode (.ld Hdr.plain .b8 (.g 2) ⟨1, 0, 0, 0⟩) = some (BitVec.ofNat 96 0x2C0000080800000000000000) ∧
     (s.fetchInsn s.cur.1 s.cur.2 s.me.pc).2 = .ok (.ld Hdr.plain .b8 (.g 2) ⟨1, 0, 0, 0⟩) ∧ fetchFault s.myPart s.me.pc.toNat = none) ∧
    (bitsAt (bare 1).myTile.trapvec.toNat 0 2 = 1 ∧ (bare 1).me.retry ≠ some ((bare 1).me.pc, 4) ∧ (bare 1).myTile.launch = none ∧
      ((bare 1).upd fun x => { x with retry := some (0x40, 4) }).me.retry = some (0x40, 4) ∧ bitsAt (bare 2).myTile.trapvec.toNat 0 2 = 2) ∧
    (let s := (bare 2).upd fun x => { x with tm := true, tcode := 4 }
     Ready s Hdr.plain [rG 1, rG 0] [rG 2] ∧ s.me.tm = true ∧ s.myTile.launch = none ∧ s.me.tcode ≠ 12 ∧ s.me.tcode ≠ 13) ∧
    (let s := launched.updTile fun x => { x with trapvec := 3 }
     Ready s Hdr.plain [rG 1, rG 0] [rG 2] ∧ s.myTile.trapvec &&& ~~~3 = 0 ∧ bitsAt s.myTile.trapvec.toNat 0 2 = 3 ∧ s.myTile.launch = some 3 ∧
       s.launch s.myTile.tag.toNat 3 = some demoLaunch ∧ demoLaunch.ending = none ∧ demoLaunch.policy = 2 ∧
       ({ demoLaunch with policy := 0 } : Launch).policy = 0) ∧
    (let l := { demoLaunch with policy := 1 }
     let s := (launched.updTile fun x => { x with trapvec := 1, idem := true }).modPart 1 fun p => { p with launches := [(3, l)] }
     let r := s.upd fun x => { x with retry := some (0x40, 4) }
     let d := s.upd fun x => { x with tm := true, tcode := 4 }
     Ready r Hdr.plain [rG 1, rG 0] [rG 2] ∧ r.myTile.trapvec &&& ~~~3 = 0 ∧ r.me.tm = false ∧ bitsAt r.myTile.trapvec.toNat 0 2 = 1 ∧
       r.me.retry = some (r.me.pc, 4) ∧ r.myTile.launch = some 3 ∧ r.launch r.myTile.tag.toNat 3 = some l ∧ l.ending = none ∧ l.policy = 1 ∧
       r.myTile.idem = true ∧ r.myTile.inRerun = false ∧ (r.updTile fun x => { x with inRerun := true }).myTile.inRerun = true ∧
       Ready d Hdr.plain [rG 1, rG 0] [rG 2] ∧ d.me.tm = true ∧ d.me.tcode ≠ 12 ∧ d.me.tcode ≠ 13 ∧ d.launch d.myTile.tag.toNat 3 = some l) := by
  refine ⟨⟨ready _ _ _, ?_, ?_, ?_, ?_, ?_, ?_, ?_⟩, ?_, ?_, ⟨ready _ _ _, ?_, ?_, ?_, ?_⟩, ⟨ready _ _ _, ?_, ?_, ?_, ?_, ?_, ?_, ?_⟩,
    ready _ _ _, ?_, ?_, ?_, ?_, ?_, ?_, ?_, ?_, ?_, ?_, ?_, ready _ _ _, ?_, ?_, ?_, ?_⟩ <;> decide +kernel

/-- A state with a byte in HBM whose step is a next one. -/
theorem witness_StepKeepsHbmCanonical :
    (let s := (placed 0x0C00000C0820000000000000).writeHbm demoPart 0x2000 0xFF 1
     HbmInv s ∧ s.hbm ≠ [] ∧ (stepped s).isSome = true) := by
  unfold HbmInv; decide +kernel

theorem reset_is_canonical : HbmInv State.reset := rfl


end Sys2Proof.Tests
end

section
/-! SUPPORT for O35. The tile store as its windows name it: their offsets, and a read after a store. -/
namespace Sys2Proof.Machine

/-! ## Offsets (R242) -/

/-- The offset that the swizzled window names at its offset `o`. -/
def swizzle (o : Nat) : Nat := o ^^^ ((o / 2 ^ 11 % 32) * 2 ^ 6)

/-- The swizzle moves a chunk within its 2 KiB. -/
theorem swizzle_div (o : Nat) : swizzle o / 2 ^ 11 = o / 2 ^ 11 := by
  have hmask : o / 2 ^ 11 % 32 * 2 ^ 6 / 2 ^ 11 = 0 := by omega
  rw [swizzle, Nat.xor_div_two_pow, hmask, Nat.xor_zero]

/-- The swizzle keeps the place of a byte in its chunk. -/
theorem swizzle_mod (o : Nat) : swizzle o % 64 = o % 64 := by
  have hmask : o / 2 ^ 11 % 32 * 2 ^ 6 % 2 ^ 6 = 0 := by omega
  rw [swizzle, show 64 = 2 ^ 6 from rfl, Nat.xor_mod_two_pow, hmask, Nat.xor_zero]

/-- The mask depends on what the swizzle keeps. -/
@[simp] theorem swizzle_swizzle (o : Nat) : swizzle (swizzle o) = o := by
  change swizzle o ^^^ (swizzle o / 2 ^ 11 % 32) * 2 ^ 6 = o
  rw [swizzle_div, swizzle, Nat.xor_xor_cancel_right]

theorem swizzle_injective : Function.Injective swizzle := Function.LeftInverse.injective swizzle_swizzle

theorem swizzle_lt {o : Nat} (h : o < 2 ^ 21) : swizzle o < 2 ^ 21 := by
  have := swizzle_div o
  omega

theorem storeOff_lin {o : Nat} (h : o < 2 ^ 21) : storeOff (linBase + o) = some o := by
  have hin : (linBase ≤ linBase + o && linBase + o < linBase + storeSize) = true := by
    simp only [Bool.and_eq_true, decide_eq_true_eq]
    unfold linBase storeSize
    omega
  rw [storeOff, if_pos hin, Nat.add_sub_cancel_left]

theorem storeOff_swz {o : Nat} (h : o < 2 ^ 21) : storeOff (swzBase + o) = some (swizzle o) := by
  have hout : ¬(linBase ≤ swzBase + o && swzBase + o < linBase + storeSize) = true := by
    simp only [Bool.and_eq_true, decide_eq_true_eq]
    unfold linBase swzBase storeSize
    omega
  have hin : (swzBase ≤ swzBase + o && swzBase + o < swzBase + storeSize) = true := by
    simp only [Bool.and_eq_true, decide_eq_true_eq]
    unfold swzBase storeSize
    omega
  rw [storeOff, if_neg hout, if_pos hin, Nat.add_sub_cancel_left, swizzle]

theorem inWindow_iff {a n : Nat} : inWindow a n = true ↔
    ∃ o, o + n ≤ 2 ^ 21 ∧ (a = linBase + o ∨ a = swzBase + o) := by
  simp only [inWindow, Bool.or_eq_true, Bool.and_eq_true, decide_eq_true_eq]
  unfold storeSize
  constructor
  · rintro (⟨hlo, hhi⟩ | ⟨hlo, hhi⟩)
    · exact ⟨a - linBase, by omega, by omega⟩
    · exact ⟨a - swzBase, by omega, by omega⟩
  · omega

theorem inWindow_tail {a n : Nat} (h : inWindow a (n + 1) = true) : inWindow (a + 1) n = true := by
  simp only [inWindow, Bool.or_eq_true, Bool.and_eq_true, decide_eq_true_eq] at h ⊢
  omega

theorem storeOff_isSome {a n i : Nat} (h : inWindow a n = true) (hi : i < n) : ∃ o, storeOff (a + i) = some o := by
  obtain ⟨o, ho, rfl | rfl⟩ := inWindow_iff.mp h
  · exact ⟨_, by rw [Nat.add_assoc]; exact storeOff_lin (by omega)⟩
  · exact ⟨_, by rw [Nat.add_assoc]; exact storeOff_swz (by omega)⟩

theorem storeOff_head {a n : Nat} (h : inWindow a (n + 1) = true) : ∃ o, storeOff a = some o := storeOff_isSome h (Nat.succ_pos n)

/-- Within one window two addresses name two bytes. -/
theorem storeOff_inj {a n i j : Nat} (h : inWindow a n = true) (hi : i < n) (hj : j < n)
    (e : storeOff (a + i) = storeOff (a + j)) : i = j := by
  obtain ⟨o, ho, rfl | rfl⟩ := inWindow_iff.mp h
  · rw [Nat.add_assoc, Nat.add_assoc, storeOff_lin (by omega), storeOff_lin (by omega), Option.some_inj] at e
    omega
  · rw [Nat.add_assoc, Nat.add_assoc, storeOff_swz (by omega), storeOff_swz (by omega), Option.some_inj] at e
    have := swizzle_injective e
    omega

/-! ## Bytes -/

variable {x : Tile}

theorem storeRead_congr {x y : Tile} (h : x.store = y.store) (a n : Nat) : x.storeRead a n = y.storeRead a n := by
  induction n generalizing a with
  | zero => rfl
  | succ n ih => simp only [Tile.storeRead, h, ih]

theorem storeWrite_store (a v n : Nat) : (x.storeWrite a v n).store = (x.storeBytes a v n).store := rfl

/-- One byte of a store. -/
theorem storeBytes_succ {a o : Nat} (h : storeOff a = some o) (v n : Nat) : x.storeBytes a v (n + 1) =
    Tile.storeBytes { x with store := Memory.put x.store o (BitVec.ofNat 8 v) } (a + 1) (v / 256) n := by
  simp only [Tile.storeBytes, h]

theorem storeBytes_wf (hx : Memory.wf x.store = true) {a v n : Nat} (h : inWindow a n = true) :
    Memory.wf (x.storeBytes a v n).store = true := by
  induction n generalizing x a v with
  | zero => exact hx
  | succ n ih =>
    obtain ⟨o, ho⟩ := storeOff_head h
    rw [storeBytes_succ ho]
    exact ih (Memory.put_wf _ _ _ hx) (inWindow_tail h)

/-- Bytes that the stored addresses do not name keep their values. -/
theorem get_storeBytes_other (hx : Memory.wf x.store = true) {a v n o : Nat} (h : inWindow a n = true)
    (ho : ∀ i, i < n → storeOff (a + i) ≠ some o) : Memory.get (x.storeBytes a v n).store o = Memory.get x.store o := by
  induction n generalizing x a v with
  | zero => rfl
  | succ n ih =>
    obtain ⟨o', ho'⟩ := storeOff_head h
    have hne : o ≠ o' := fun e => ho 0 (Nat.succ_pos n) (e ▸ ho')
    have htail (i) (hi : i < n) : storeOff (a + 1 + i) ≠ some o := by
      rw [Nat.add_right_comm]
      exact ho (i + 1) (Nat.succ_lt_succ hi)
    rw [storeBytes_succ ho', ih (Memory.put_wf _ _ _ hx) (inWindow_tail h) htail, Memory.get_put _ _ _ _ hx, if_neg hne]

theorem storeRead_storeBytes (hx : Memory.wf x.store = true) {a v n : Nat} (h : inWindow a n = true) :
    (x.storeBytes a v n).storeRead a n = v % 256 ^ n := by
  induction n generalizing x a v with
  | zero => simp [Tile.storeRead, Nat.mod_one]
  | succ n ih =>
    obtain ⟨o, ho⟩ := storeOff_head h
    have htail (i) (hi : i < n) : storeOff (a + 1 + i) ≠ some o := fun e => by
      have := storeOff_inj (i := i + 1) (j := 0) h (Nat.succ_lt_succ hi) (Nat.succ_pos n)
        (by rw [← Nat.add_assoc, Nat.add_right_comm, e, Nat.add_zero, ho])
      omega
    have hwf := Memory.put_wf x.store o (BitVec.ofNat 8 v) hx
    rw [storeBytes_succ ho]
    simp only [Tile.storeRead, ho]
    rw [ih hwf (inWindow_tail h), get_storeBytes_other hwf (inWindow_tail h) htail, Memory.get_put _ _ _ _ hx, if_pos rfl,
      Nat.pow_succ, Nat.mul_comm (256 ^ n) 256, Nat.mod_mul]
    simp

/-- R2, R242. -/
theorem tileStoreKeepsWhatIsStored : Claims.TileStoreKeepsWhatIsStored := by
  intro x a v n hx hw _
  refine ⟨?_, ?_, ?_, ?_⟩
  · rw [storeRead_congr (storeWrite_store a v n), storeRead_storeBytes hx hw, Nat.pow_mul]
  · rw [storeWrite_store]
    exact storeBytes_wf hx hw
  · intro o ho
    rw [storeWrite_store]
    exact get_storeBytes_other hx hw ho
  · intro o ho
    refine ⟨storeOff_lin ho, swizzle o, swizzle_lt ho, storeOff_swz ho, ?_, swizzle_mod o, swizzle_div o⟩
    rw [storeOff_swz (swizzle_lt ho), swizzle_swizzle]

end Sys2Proof.Machine
end

section
/-! SUPPORT for O35. HBM as a partition names it: the places of a 64 KiB unit, and a read after a write. -/
namespace Sys2Proof.Machine

/-! ## Places (R261) -/

/-- Within one 64 KiB unit the places follow one another. -/
theorem phys_add (p : Part) {a i : Nat} (h : (a + i) / 65536 = a / 65536) : p.phys (a + i) = p.phys a + i := by
  simp only [Part.phys, h]
  omega

theorem phys_add_div (p : Part) {a i : Nat} (h : (a + i) / 65536 = a / 65536) :
    (p.phys a + i) / 65536 = p.phys a / 65536 := by
  simp only [Part.phys]
  omega

theorem blockClear_congr (s : State) {ph ph' : Nat} (h : ph / 65536 = ph' / 65536) : s.blockClear ph = s.blockClear ph' := by
  have hch : ph / 2 ^ 30 = ph' / 2 ^ 30 := by omega
  have hblock : ph % 2 ^ 30 / 65536 = ph' % 2 ^ 30 / 65536 := by omega
  simp only [State.blockClear, hch, hblock]

/-! ## Bytes -/

variable {s : State} {p : Part}

theorem readHbm_eq_readN {a q n : Nat} (hq : ∀ i, i < n → p.phys (a + i) = q + i)
    (hc : ∀ i, i < n → s.blockClear (q + i) = false) : s.readHbm p a n = Memory.readN s.hbm q n := by
  induction n generalizing a q with
  | zero => rfl
  | succ n ih =>
    have h0 : p.phys a = q := hq 0 (Nat.succ_pos n)
    have hc0 : s.blockClear q = false := hc 0 (Nat.succ_pos n)
    have hq' (i) (hi : i < n) : p.phys (a + 1 + i) = q + 1 + i := by
      rw [Nat.add_right_comm, Nat.add_right_comm q]
      exact hq (i + 1) (Nat.succ_lt_succ hi)
    have hc' (i) (hi : i < n) : s.blockClear (q + 1 + i) = false := by
      rw [Nat.add_right_comm]
      exact hc (i + 1) (Nat.succ_lt_succ hi)
    simp [State.readHbm, Memory.readN, State.hbmByte, h0, hc0, ih hq' hc']

theorem readHbm_of_clear {a n : Nat} (hc : ∀ i, i < n → s.blockClear (p.phys (a + i)) = true) : s.readHbm p a n = 0 := by
  induction n generalizing a with
  | zero => rfl
  | succ n ih =>
    have h0 : s.blockClear (p.phys a) = true := hc 0 (Nat.succ_pos n)
    have hc' (i) (hi : i < n) : s.blockClear (p.phys (a + 1 + i)) = true := by
      rw [Nat.add_right_comm]
      exact hc (i + 1) (Nat.succ_lt_succ hi)
    simp [State.readHbm, State.hbmByte, h0, ih hc']

theorem touchBlock_of_not_clear {ph : Nat} (h : s.blockClear ph = false) : s.touchBlock ph = s := by
  simp [State.touchBlock, h]

theorem writeHbmBytes_eq_writeN {a q v n : Nat} (hq : ∀ i, i < n → p.phys (a + i) = q + i)
    (hc : ∀ i, i < n → s.blockClear (q + i) = false) :
    s.writeHbmBytes p a v n = { s with hbm := Memory.writeN s.hbm q v n } := by
  induction n generalizing s a q v with
  | zero => rfl
  | succ n ih =>
    have h0 : p.phys a = q := hq 0 (Nat.succ_pos n)
    have hq' (i) (hi : i < n) : p.phys (a + 1 + i) = q + 1 + i := by
      rw [Nat.add_right_comm, Nat.add_right_comm q]
      exact hq (i + 1) (Nat.succ_lt_succ hi)
    have hc' (i) (hi : i < n) : s.blockClear (q + 1 + i) = false := by
      rw [Nat.add_right_comm]
      exact hc (i + 1) (Nat.succ_lt_succ hi)
    have ht : s.touchBlock q = s := touchBlock_of_not_clear (hc 0 (Nat.succ_pos n))
    rw [State.writeHbmBytes, h0, ht]
    exact ih (s := { s with hbm := Memory.put s.hbm q (BitVec.ofNat 8 v) }) hq' hc'

theorem writeHbm_hbm (a v n : Nat) : (s.writeHbm p a v n).hbm = (s.writeHbmBytes p a v n).hbm := rfl
theorem writeHbm_clearMap (a v n : Nat) : (s.writeHbm p a v n).clearMap = (s.writeHbmBytes p a v n).clearMap := rfl
theorem writeHbm_tiles (a v n : Nat) : (s.writeHbm p a v n).tiles = (s.writeHbmBytes p a v n).tiles := rfl

/-- R2, R261, R400. -/
theorem hbmKeepsWhatIsWritten : Claims.HbmKeepsWhatIsWritten := by
  intro s p a v n hwf hunit hn
  have hu (i) (hi : i < n) : (a + i) / 65536 = a / 65536 := by omega
  have hq (i) (hi : i < n) : p.phys (a + i) = p.phys a + i := phys_add p (hu i hi)
  have hblock (i) (hi : i < n) : s.blockClear (p.phys a + i) = s.blockClear (p.phys a) :=
    blockClear_congr s (phys_add_div p (hu i hi))
  constructor
  · intro hclear
    have hc (i) (hi : i < n) : s.blockClear (p.phys a + i) = false := (hblock i hi).trans hclear
    have hw := writeHbmBytes_eq_writeN (v := v) hq hc
    have hhbm : (s.writeHbm p a v n).hbm = Memory.writeN s.hbm (p.phys a) v n := by rw [writeHbm_hbm, hw]
    have hmap : (s.writeHbm p a v n).clearMap = s.clearMap := by rw [writeHbm_clearMap, hw]
    have hblocks (ph) : (s.writeHbm p a v n).blockClear ph = s.blockClear ph := by simp only [State.blockClear, hmap]
    refine ⟨?_, ?_, ?_, by rw [writeHbm_tiles, hw]⟩
    · rw [readHbm_eq_readN hq fun i hi => (hblocks _).trans (hc i hi), hhbm, Memory.readN_writeN _ _ _ _ hwf, Nat.pow_mul]
    · rw [hhbm]
      exact Memory.writeN_wf _ _ _ _ hwf
    · intro ph hph
      simp only [State.hbmByte, hblocks, hhbm, Memory.get_writeN_other _ _ _ _ _ hwf hph]
  · intro hclear
    exact readHbm_of_clear fun i hi => by rw [hq i hi, hblock i hi, hclear]

/-- Settles O35: the bytes of a store are put one by one at the offsets or places of its addresses, all distinct; the swizzle is its own
inverse; within a 64 KiB unit all places lie in one block. -/
theorem memoryKeepsWhatIsWritten : Obligations.MemoryKeepsWhatIsWritten := by
  unfold Obligations.MemoryKeepsWhatIsWritten
  exact ⟨tileStoreKeepsWhatIsStored, hbmKeepsWhatIsWritten⟩

end Sys2Proof.Machine
end

section
/-! SUPPORT for O60. The canonical form of HBM is kept by the accesses to the state, HBM among them. -/
namespace Sys2Proof.Machine

variable {s s' : State}

/-- Every state an outcome goes on with has its HBM in canonical form. -/
def Keeps (o : Host.Outcome State Fault Refusal) : Prop := ∀ t, o = .next t → HbmInv t

/-- Every state an effect carries has its HBM in canonical form. -/
def Eff.Inv : Eff → Prop
  | .go s | .own s | .jump s _ | .park s _ | .trapIn s _ _ _ => HbmInv s
  | .wait _ | .trap _ _ _ => True

/-- Every state that an access of a channel comes to has its HBM in canonical form. -/
def Moved.Inv : Moved → Prop
  | .wait => True
  | .sent s | .page s | .bad s _ | .done s _ => HbmInv s

theorem HbmInv.next (h : HbmInv s) : Keeps (.next s) := fun _ e => by cases e; exact h
theorem Keeps.fault {f : Fault} : Keeps (.fault f) := fun _ e => nomatch e
theorem HbmInv.go (h : HbmInv s) : (Eff.go s).Inv := h
theorem HbmInv.own (h : HbmInv s) : (Eff.own s).Inv := h
theorem HbmInv.jump (h : HbmInv s) {pc} : (Eff.jump s pc).Inv := h
theorem HbmInv.park (h : HbmInv s) {p} : (Eff.park s p).Inv := h
theorem HbmInv.trapIn (h : HbmInv s) {c i v} : (Eff.trapIn s c i v).Inv := h
theorem HbmInv.sent (h : HbmInv s) : (Moved.sent s).Inv := h
theorem HbmInv.page (h : HbmInv s) : (Moved.page s).Inv := h
theorem HbmInv.bad (h : HbmInv s) {code} : (Moved.bad s code).Inv := h
theorem HbmInv.done (h : HbmInv s) {x} : (Moved.done s x).Inv := h

/-- The invariant is about the field `hbm` alone. -/
theorem HbmInv.fields (h : HbmInv s) {x0 x1 x2 x4 x5 x6 x7 x8 x9 x10 x11 x12 x13 x14 x15 x16 x17 x18 x19 x20 x21 x22 x23 x24 x25 x26
    x27 x28 x29 x30 x31 x32 x33 x34 x35 x36 x37 x38 x39} :
    HbmInv ⟨x0, x1, x2, s.hbm, x4, x5, x6, x7, x8, x9, x10, x11, x12, x13, x14, x15, x16, x17, x18, x19, x20, x21, x22, x23, x24, x25,
      x26, x27, x28, x29, x30, x31, x32, x33, x34, x35, x36, x37, x38, x39⟩ := h

theorem HbmInv.ite {c : Prop} [Decidable c] (h : HbmInv s) (h' : HbmInv s') : HbmInv (if c then s else s') := by
  split <;> assumption

theorem Eff.Inv.wait {p : Park} : (Eff.wait p).Inv := trivial
theorem Eff.Inv.trap {c i : Nat} {v : Word} : (Eff.trap c i v).Inv := trivial

theorem Eff.Inv.ite {c : Prop} [Decidable c] {e e' : Eff} (h : e.Inv) (h' : e'.Inv) : (if c then e else e').Inv := by
  split <;> assumption

theorem Moved.Inv.wait : Moved.wait.Inv := trivial

theorem Moved.Inv.ite {c : Prop} [Decidable c] {m m' : Moved} (h : m.Inv) (h' : m'.Inv) : (if c then m else m').Inv := by
  split <;> assumption

theorem HbmInv.ite_fst {α : Type} {c : Prop} [Decidable c] {p q : State × α} (h : HbmInv p.1) (h' : HbmInv q.1) :
    HbmInv (if c then p else q).1 := by
  split <;> assumption

/-- The state of a pair that a match has taken apart. -/
theorem HbmInv.of_eq {α : Type} {p : State × α} {x : α} (h : HbmInv p.1) (e : p = (s, x)) : HbmInv s := by
  rw [e] at h; exact h

theorem HbmInv.ite_some {c : Prop} [Decidable c] {o : Option State} (h : HbmInv s) (ho : ∀ t, o = some t → HbmInv t)
    (e : (if c then some s else o) = some s') : HbmInv s' := by
  split at e
  · cases e; exact h
  · exact ho _ e

/-- A check that can only trap. -/
theorem Eff.Inv.of_trap {p : Prop} [Decidable p] {c i : Nat} {v : Word} {o : Eff}
    (e : (if p then none else some (.trap c i v)) = some o) : o.Inv := by
  obtain ⟨-, e⟩ := Option.ite_none_left_eq_some.mp e
  cases e
  exact .trap

theorem HbmInv.foldl {α : Type} {f : State → α → State} {l : List α} (h : HbmInv s) (hf : ∀ s a, HbmInv s → HbmInv (f s a)) :
    HbmInv (l.foldl f s) := by
  induction l generalizing s with
  | nil => exact h
  | cons a l ih => exact ih (hf s a h)

theorem HbmInv.setTile (h : HbmInv s) {t x} : HbmInv (s.setTile t x) := h.fields
theorem HbmInv.modTile (h : HbmInv s) {t f} : HbmInv (s.modTile t f) := h.setTile
theorem HbmInv.setSlot (h : HbmInv s) {t k x} : HbmInv (s.setSlot t k x) := h.modTile
theorem HbmInv.modSlot (h : HbmInv s) {t k f} : HbmInv (s.modSlot t k f) := h.setSlot
theorem HbmInv.setPart (h : HbmInv s) {p x} : HbmInv (s.setPart p x) := h.fields
theorem HbmInv.modPart (h : HbmInv s) {p f} : HbmInv (s.modPart p f) := h.setPart
theorem HbmInv.setFunc (h : HbmInv s) {n x} : HbmInv (s.setFunc n x) := h.fields
theorem HbmInv.modFunc (h : HbmInv s) {n f} : HbmInv (s.modFunc n f) := h.setFunc
theorem HbmInv.upd (h : HbmInv s) {f} : HbmInv (s.upd f) := h.modSlot
theorem HbmInv.updTile (h : HbmInv s) {f} : HbmInv (s.updTile f) := h.modTile
theorem HbmInv.flip (h : HbmInv s) : HbmInv s.flip.1 := h.fields
theorem HbmInv.emit (h : HbmInv s) {o} : HbmInv (s.emit o) := h.fields
theorem HbmInv.event (h : HbmInv s) {i} : HbmInv (s.event i) := h.fields
theorem HbmInv.fresh (h : HbmInv s) : HbmInv s.fresh.1 := h.fields
theorem HbmInv.sendMsg (h : HbmInv s) {tag chip m} : HbmInv (s.sendMsg tag chip m) := h.emit

theorem HbmInv.touchBlock (h : HbmInv s) {ph} : HbmInv (s.touchBlock ph) := by
  unfold State.touchBlock
  split
  · exact Memory.clear_wf _ _ _ h
  · exact h

theorem HbmInv.writeHbmBytes (h : HbmInv s) {p a x n} : HbmInv (s.writeHbmBytes p a x n) := by
  induction n generalizing s a x with
  | zero => exact h
  | succ n ih => exact ih (s := { s.touchBlock (p.phys a) with hbm := _ }) (Memory.put_wf _ _ _ h.touchBlock)

theorem HbmInv.writeHbm (h : HbmInv s) {p a x n} : HbmInv (s.writeHbm p a x n) := h.writeHbmBytes.fields
theorem HbmInv.dirPut (h : HbmInv s) {g old d} : HbmInv (s.dirPut g old d) := h.fields
theorem HbmInv.dirCount (h : HbmInv s) {tag die a write} : HbmInv (s.dirCount tag die a write) := h.dirPut.ite (h.ite h.dirPut)
theorem HbmInv.dirCounts (h : HbmInv s) {tag die ls write} : HbmInv (s.dirCounts tag die ls write) := h.foldl fun _ _ h => h.dirCount

theorem HbmInv.viewFill (h : HbmInv s) {tag a n} : HbmInv (s.viewFill tag a n).1 := by
  dsimp only [State.viewFill]
  split
  · exact h
  · exact h.dirCounts.modPart.fields

theorem HbmInv.putRaw (h : HbmInv s) {r p i v bad} : HbmInv (Region.putRaw r s p i v bad) := h.writeHbm.fields.ite h.writeHbm

theorem HbmInv.encodeElems (h : HbmInv s) {tag r l wo i pos n} : HbmInv (encodeElems s tag r l wo i pos n) := by
  induction n generalizing s i pos with
  | zero => exact h
  | succ n ih => exact ih (h.putRaw.modPart.ite h)

theorem HbmInv.viewWriteBack (h : HbmInv s) {tag a} : HbmInv (s.viewWriteBack tag a) := by
  dsimp only [State.viewWriteBack]
  split
  · exact h.fields
  · split
    · exact h.fields
    · refine h.fields.dirCounts.dirCounts.ite ?_
      exact h.fields.dirCounts.dirCounts.fields.encodeElems

theorem HbmInv.viewEvict (h : HbmInv s) {tag a} : HbmInv (s.viewEvict tag a) := by
  unfold State.viewEvict
  split
  · exact h
  · exact h.flip.viewWriteBack.ite h.flip

theorem HbmInv.l2Evict (h : HbmInv s) {sl key} : HbmInv (s.l2Evict sl key) := by
  unfold State.l2Evict
  refine h.ite ?_
  split
  · exact h
  · exact h.fields.ite h.fields.viewWriteBack

theorem HbmInv.l2Touch (h : HbmInv s) {tag a n write hd} : HbmInv (s.l2Touch tag a n write hd) := by
  dsimp only [State.l2Touch]
  split
  · exact h.fields
  · exact h.ite h.l2Evict.fields

theorem HbmInv.rdcLook (h : HbmInv s) {tag die a n} : HbmInv (s.rdcLook tag die a n).1 := by
  dsimp only [State.rdcLook]
  split
  · exact h
  · split
    · exact h.flip.fields
    · exact h.flip

theorem HbmInv.rdcFill (h : HbmInv s) {tag die a n bad hd} : HbmInv (s.rdcFill tag die a n bad hd) := h.ite h.dirPut.fields

theorem HbmInv.homeLook (h : HbmInv s) {tag c a n hd} : HbmInv (s.homeLook tag c a n hd).1 := by
  dsimp only [State.homeLook]
  split
  · split
    · exact h.viewEvict.viewFill.of_eq ‹_›
    · split
      · exact (h.viewEvict.viewFill.of_eq ‹_›).l2Touch.viewWriteBack
      · exact (h.viewEvict.viewFill.of_eq ‹_›).l2Touch
  · exact h.l2Touch

theorem HbmInv.homeBits (h : HbmInv s) {tag die c a n hd} : HbmInv (s.homeBits tag die c a n hd).1 := h.dirCount.homeLook
theorem HbmInv.homeRead (h : HbmInv s) {tag die c a n hd} : HbmInv (s.homeRead tag die c a n hd).1 := h.homeBits

theorem HbmInv.dieRead (h : HbmInv s) {tag die c a n hd} : HbmInv (s.dieRead tag die c a n hd).1 := by
  unfold State.dieRead
  split
  · exact h.rdcLook.of_eq ‹_›
  · exact (h.rdcLook.of_eq ‹_›).homeBits.rdcFill

theorem HbmInv.homePut (h : HbmInv s) {tag die c a x n hd} : HbmInv (s.homePut tag die c a x n hd) := by
  dsimp only [State.homePut]
  split
  · split
    · exact h.dirCount.viewFill.of_eq ‹_›
    · split
      · exact (h.dirCount.viewFill.of_eq ‹_›).fields.l2Touch.viewWriteBack
      · exact (h.dirCount.viewFill.of_eq ‹_›).fields.l2Touch
  · exact h.dirCount.l2Touch.writeHbm

theorem HbmInv.homeWrite (h : HbmInv s) {tag die c a x n hd} : HbmInv (s.homeWrite tag die c a x n hd) := by
  unfold State.homeWrite
  split
  · exact h.viewEvict.homePut
  · exact h.homePut

theorem HbmInv.dropLine (h : HbmInv s) {tag a} : HbmInv (s.dropLine tag a) := by
  unfold State.dropLine
  split
  · exact h.viewWriteBack
  · exact h.fields

theorem HbmInv.partWrite (h : HbmInv s) {tag a x n} : HbmInv (s.partWrite tag a x n) := h.ite h.dirCounts.writeHbm

theorem HbmInv.l1Fill (h : HbmInv s) {t c x} : HbmInv (s.l1Fill t c x) := by
  unfold State.l1Fill
  refine h.modTile.ite ?_
  split
  · exact h
  · exact h.fields.modTile

end Sys2Proof.Machine
end

section
/-! SUPPORT for O60. The canonical form of HBM is kept by traps, parks and the ends of slots, launches and jobs. -/
namespace Sys2Proof.Machine

variable {s s' : State}

theorem HbmInv.setLaunch (h : HbmInv s) {tag e l} : HbmInv (s.setLaunch tag e l) := h.modPart
theorem HbmInv.dropSaved (h : HbmInv s) {tag e} : HbmInv (s.dropSaved tag e) := h.fields

theorem HbmInv.endLaunch (h : HbmInv s) {tag e st} : HbmInv (s.endLaunch tag e st) := by
  unfold State.endLaunch
  split
  · exact h
  · refine h.ite ?_
    exact h.setLaunch.fields.dropSaved.foldl fun _ _ h => h.modTile

theorem HbmInv.stampTo (h : HbmInv s) {tag addr x} : HbmInv (s.stampTo tag addr x) := h.ite ((h.emit.ite h.setPart).ite h.partWrite)

theorem HbmInv.stampOut (h : HbmInv s) {tag} : HbmInv (s.stampOut tag) := by
  unfold State.stampOut
  split
  · exact h
  · exact (h.ite_fst h.flip).modPart.emit.ite (h.ite_fst h.flip)

theorem HbmInv.settleGraph (h : HbmInv s) {tag i} : HbmInv (s.settleGraph tag i) := by
  dsimp only [State.settleGraph]
  split
  · exact h
  · split
    · exact h
    · exact h.stampTo.modPart

theorem HbmInv.settlePhase (h : HbmInv s) {tag i} : HbmInv (s.settlePhase tag i) := by
  dsimp only [State.settlePhase]
  split
  · exact h
  · split
    · exact h
    · exact h.stampTo.modPart

theorem HbmInv.reportFree (h : HbmInv s) {tag ws} : HbmInv (s.reportFree tag ws) := h.foldl fun _ _ h => h.event.ite h.emit

theorem HbmInv.returnGrants (h : HbmInv s) {tag} : HbmInv (s.returnGrants tag) :=
  (h.foldl (fun _ _ h => h.ite (h.event.ite h.emit))).modPart

theorem HbmInv.settleJob (h : HbmInv s) {tag i} : HbmInv (s.settleJob tag i) := by
  dsimp only [State.settleJob]
  split
  · exact h
  · split
    · exact h
    · refine .ite ?_ h.stampTo.reportFree.modPart
      exact h.stampTo.reportFree.modPart.returnGrants

theorem HbmInv.settle (h : HbmInv s) {tag} : HbmInv (s.settle tag) :=
  ((h.foldl (fun _ _ h => h.settleGraph)).foldl (fun _ _ h => h.settlePhase)).foldl fun _ _ h => h.settleJob

theorem HbmInv.endInst (h : HbmInv s) {tag n st} : HbmInv (s.endInst tag n st) := h.modPart.foldl fun _ _ h => h.endLaunch

theorem HbmInv.endAt (h : HbmInv s) {tag m i st} : HbmInv (s.endAt tag m i st) := by
  unfold State.endAt
  split
  · exact h.endInst
  · exact h

theorem HbmInv.endObject (h : HbmInv s) {tag level id st} : HbmInv (s.endObject tag level id st) := by
  unfold State.endObject
  refine HbmInv.settle ?_
  split
  · split
    · exact h.endLaunch.ite h
    · exact h
  · exact h.endAt
  · exact h.endAt
  · exact h.endAt

theorem HbmInv.faultLogOf (h : HbmInv s) {t x k code info level policy pc val} :
    HbmInv (s.faultLogOf t x k code info level policy pc val) := h.partWrite.modPart.ite h

theorem HbmInv.faultLog (h : HbmInv s) {t k code info level policy pc val} : HbmInv (s.faultLog t k code info level policy pc val) :=
  h.faultLogOf

end Sys2Proof.Machine
end

section
/-! SUPPORT for O60. The canonical form of HBM is kept by fetching, issue and the operations a slot has under way. -/
namespace Sys2Proof.Machine

variable {s s' : State}

theorem HbmInv.tileSample (h : HbmInv s) {t src v} : HbmInv (s.tileSample t src v) := h.modTile
theorem HbmInv.noteDenied (h : HbmInv s) {t} : HbmInv (s.noteDenied t) := h.modTile
theorem HbmInv.tileCount (h : HbmInv s) {t ev n} : HbmInv (s.tileCount t ev n) := h.modTile

theorem HbmInv.roundCheck (h : HbmInv s) {t} : HbmInv (s.roundCheck t) := by
  dsimp only [State.roundCheck]
  refine .ite ?_ h
  split
  · split
    · exact h.tileSample.tileSample.modTile.setLaunch
    · exact h.tileSample.tileSample.modTile
  · exact h.tileSample.tileSample.modTile

theorem HbmInv.finishSlot (h : HbmInv s) {t k} : HbmInv (s.finishSlot t k) := h.modSlot.modTile.roundCheck
theorem HbmInv.tileRead (h : HbmInv s) {t c a n hd} : HbmInv (s.tileRead t c a n hd).1 := h.dieRead.tileCount.ite h.dieRead

theorem HbmInv.icacheFill (h : HbmInv s) {t c a} : HbmInv (s.icacheFill t c a).1 :=
  h.ite_fst (h.tileRead.fields.ite h.tileRead).modTile

theorem HbmInv.fetch32 (h : HbmInv s) {t c a} : HbmInv (s.fetch32 t c a).1 := by
  dsimp only [State.fetch32]
  split
  · exact h.icacheFill
  · split
    · exact h
    · split
      · exact h.flip
      · exact h.flip.icacheFill

theorem HbmInv.fetchWords (h : HbmInv s) {t c a n} : HbmInv (s.fetchWords t c a n).1 := by
  induction n generalizing s a with
  | zero => exact h
  | succ n ih => exact ih h.fetch32

theorem HbmInv.fetchInsn (h : HbmInv s) {t k pc} : HbmInv (s.fetchInsn t k pc).1 := by
  dsimp only [State.fetchInsn]
  exact h.fetchWords

theorem HbmInv.zeroReg (h : HbmInv s) {t k c} : HbmInv (s.zeroReg t k c) := h.modSlot.ite (h.modTile.ite h.modTile)
theorem HbmInv.cleanRegs (h : HbmInv s) {t k cs} : HbmInv (s.cleanRegs t k cs) := h.foldl fun _ _ h => h.zeroReg

theorem HbmInv.ignoreTrap (h : HbmInv s) {t k tr} : HbmInv (s.ignoreTrap t k tr) := by
  unfold State.ignoreTrap
  refine h.modSlot.ite ?_
  split
  · refine HbmInv.modSlot ?_
    split
    · exact h.modSlot
    · exact h.modSlot.foldl fun _ _ h => h.zeroReg
  · refine h.modSlot.modSlot.ite ?_
    exact h.modSlot.cleanRegs.modSlot.ite h.modSlot

theorem HbmInv.killJob (h : HbmInv s) {tag job train} : HbmInv (s.killJob tag job train) := by
  unfold State.killJob
  refine (HbmInv.endInst ?_).settle
  split
  · refine .ite ?_ h
    refine h.foldl fun _ _ h => ?_
    split
    · exact h.sendMsg
    · exact h
  · exact h

theorem HbmInv.containUp (h : HbmInv s) {t k tr info e l} : HbmInv (s.containUp t k tr info e l) := by
  unfold State.containUp
  refine h.faultLog.endLaunch.settle.ite ?_
  refine h.faultLog.endInst.settle.ite ?_
  refine h.faultLog.endInst.settle.ite ?_
  refine h.faultLog.endInst.settle.ite ?_
  exact h.faultLog.endInst.settle.ite h.faultLog.killJob

theorem HbmInv.containLaunch (h : HbmInv s) {t k tr info} : HbmInv (s.containLaunch t k tr info) := by
  dsimp only [State.containLaunch]
  split
  · exact h.finishSlot
  · split
    · exact h.finishSlot
    · refine h.faultLog.finishSlot.ite ?_
      refine h.faultLog.modTile.ite ?_
      exact h.faultLog.endLaunch.settle.ite h.containUp

theorem HbmInv.containUnit (h : HbmInv s) {t k tr info} : HbmInv (s.containUnit t k tr info) := by
  unfold State.containUnit
  refine h.faultLog.ignoreTrap.ite ?_
  split
  · exact h.modSlot.containLaunch.ite h.faultLog.modSlot
  · exact h.faultLog.finishSlot.ite h.containLaunch

theorem HbmInv.deliver (h : HbmInv s) {t k tr} : HbmInv (s.deliver t k tr) := by
  unfold State.deliver
  refine h.setSlot.modSlot.ite ?_
  split
  · exact h.setSlot.finishSlot.ite h.setSlot.modSlot
  · refine h.setSlot.modSlot.containUnit.ite ?_
    exact h.setSlot.modSlot.containLaunch.ite h.setSlot.containUnit

theorem HbmInv.takeTrap (h : HbmInv s) {t k tr} : HbmInv (s.takeTrap t k tr) := h.deliver.ite h.modSlot
theorem HbmInv.deferTrap (h : HbmInv s) {t k code info val} : HbmInv (s.deferTrap t k code info val) := h.modSlot.ite h.modTile
theorem HbmInv.tileTrap (h : HbmInv s) {t code info val} : HbmInv (s.tileTrap t code info val) := h.modSlot.ite h.modSlot.takeTrap
theorem HbmInv.leaveTrap (h : HbmInv s) {t k} : HbmInv (s.leaveTrap t k) := h.finishSlot.ite h.modSlot

theorem HbmInv.passUp (h : HbmInv s) {t k} : HbmInv (s.passUp t k) := by
  unfold State.passUp
  refine .ite ?_ h.modSlot.containLaunch
  exact h.modSlot.finishSlot.ite h.modSlot

end Sys2Proof.Machine
end

section
/-! SUPPORT for O60. The canonical form of HBM is kept by the forms an instruction issues in. -/
namespace Sys2Proof.Machine

variable {s s' : State}

theorem HbmInv.sendActs (h : HbmInv s) {t k ids} : HbmInv (s.sendActs t k ids) := by
  unfold State.sendActs
  refine h.foldl fun _ _ h => ?_
  split
  · split
    · exact h.event
    · exact h
  · exact h

theorem HbmInv.askPages (h : HbmInv s) {tag group pages} : HbmInv (s.askPages tag group pages) :=
  (h.ite h.emit).foldl fun _ _ h => h.emit

theorem HbmInv.rollBack (h : HbmInv s) {t k} : HbmInv (s.rollBack t k) := by
  dsimp only [State.rollBack]
  split
  · exact h
  · split
    · exact h
    · split
      · exact h.modTile.sendActs.ite h.modTile.sendActs.modPart.askPages
      · exact h

theorem HbmInv.forfeit (h : HbmInv s) {n} : HbmInv (s.forfeit n) := h.upd

theorem HbmInv.countAhead (h : HbmInv s) : HbmInv s.countAhead := by
  unfold State.countAhead
  split
  · exact h
  · split
    · exact h.upd
    · exact h.upd.rollBack.ite h.upd

theorem HbmInv.charge (h : HbmInv s) {n} : HbmInv (s.charge n) := h.ite (h.updTile.forfeit.ite h.updTile)
theorem HbmInv.trapMe (h : HbmInv s) {code info val} : HbmInv (s.trapMe code info val) := h.takeTrap

theorem HbmInv.conclude (h : HbmInv s) {hd q e} (he : e.Inv) : HbmInv (s.conclude hd q e) := by
  cases e with
  | go s1 => exact (HbmInv.charge he).upd.countAhead
  | jump s1 pc => exact (HbmInv.upd he).countAhead
  | own s1 => exact HbmInv.upd he
  | park s1 p => exact h.rollBack.ite (HbmInv.charge he).upd.countAhead
  | wait p => exact h.rollBack.ite h.upd
  | trap c i v => exact h.rollBack.ite h.trapMe.upd
  | trapIn s1 c i v => exact h.rollBack.ite (HbmInv.trapMe he).upd

theorem HbmInv.runsMarked (h : HbmInv s) {hd q} (e : s.runsMarked hd q = some s') : HbmInv s' := by
  dsimp only [State.runsMarked] at e
  split at e
  · nomatch e
  · split at e
    · cases e; exact h.rollBack
    · split at e
      · cases e; exact h.conclude h.go
      · split at e
        · nomatch e
        · split at e
          · cases e; exact h.rollBack
          · cases e; exact h.conclude h.upd.go

theorem HbmInv.issueChecked (h : HbmInv s) {hd q body} (hb : (body s).Inv) : HbmInv (s.issueChecked hd q body) := by
  dsimp only [State.issueChecked]
  split
  · exact h.runsMarked ‹_›
  · split
    · exact h.conclude .trap
    · split
      · exact h.conclude .trap
      · split
        · exact h.conclude .trap
        · exact (h.conclude .wait).ite ((h.conclude .trap).ite (h.conclude hb))

theorem HbmInv.issue (h : HbmInv s) {hd q body} (hb : (body s).Inv) : Keeps (s.issue hd q body) := by
  dsimp only [State.issue]
  split
  · exact .fault
  · split
    · exact (h.conclude .trap).next
    · split
      · exact h.rollBack.next
      · split
        · exact (h.issueChecked hb).next
        · exact (h.conclude h.go).next

theorem HbmInv.happen (h : HbmInv s) {f} (hf : ∀ s, HbmInv s → HbmInv (f s)) : Keeps (s.happen f) := by
  unfold State.happen
  split
  · exact .fault
  · exact (hf _ h).next

theorem HbmInv.happenAt (h : HbmInv s) {t f} (hf : ∀ s, HbmInv s → HbmInv (f s)) : Keeps (s.happenAt t f) :=
  h.happen fun _ h => h.ite (hf _ h)

theorem HbmInv.addOp (h : HbmInv s) {o outward} : HbmInv (s.addOp o outward) := h.fresh.upd

theorem HbmInv.chargeFor (h : HbmInv s) {tag c a n} (e : s.chargeFor tag c a n = some s') : HbmInv s' := by
  have charged {o : Option Part} {p} (e : o.map (s.setPart p) = some s') : HbmInv s' := by
    obtain ⟨x, -, rfl⟩ := Option.map_eq_some_iff.mp e
    exact h.setPart
  unfold State.chargeFor at e
  split at e
  · exact charged e
  · split at e
    · cases e; exact h
    · exact charged e
  · cases e; exact h

theorem HbmInv.pageOk (h : HbmInv s) {a k} (hk : k.Inv) : (s.pageOk a k).Inv := by
  unfold State.pageOk
  split
  · exact h.upd.trapIn
  · exact hk

theorem HbmInv.farAccess (h : HbmInv s) {c a n k} (hk : ∀ s, HbmInv s → (k s).Inv) : (s.farAccess c a n k).Inv := by
  unfold State.farAccess
  split
  · refine h.pageOk ?_
    split
    · exact .wait
    · exact hk _ (h.chargeFor ‹_›)
  · refine h.pageOk ?_
    split
    · exact .wait
    · exact hk _ (h.chargeFor ‹_›)
  · exact hk _ h

theorem HbmInv.aheadPage (h : HbmInv s) {a} : HbmInv (s.aheadPage a) := h.upd

theorem HbmInv.loadEff (h : HbmInv s) {hd u kind a n ds bound} : (s.loadEff hd u kind a n ds bound).Inv := by
  unfold State.loadEff
  split
  · exact .trap
  · split
    · exact .trap
    · refine .ite (.ite .wait h.upd.go) ?_
      exact h.farAccess fun _ h => h.upd.aheadPage.go.ite h.addOp.go

theorem HbmInv.storeEff (h : HbmInv s) {hd u kind a n x bound} : (s.storeEff hd u kind a n x bound).Inv := by
  unfold State.storeEff
  split
  · exact .trap
  · split
    · exact .trap
    · split
      · exact .ite .wait (.ite .wait (.ite .wait h.updTile.go))
      · exact h.farAccess fun _ h => (h.aheadPage.ite h).addOp.go

end Sys2Proof.Machine
end

section
/-! SUPPORT for O60. The canonical form of HBM is kept by control, slots and launches. -/
namespace Sys2Proof.Machine

variable {s s' : State}

theorem execLoop_keeps (h : HbmInv s) {hd d off} : Keeps (execLoop hd d off s) := h.issue (h.upd.jump.ite h.upd.go)
theorem HbmInv.endSelf (h : HbmInv s) : HbmInv s.endSelf := h.finishSlot.ite h.upd
theorem execRdone_keeps (h : HbmInv s) {hd} : Keeps (execRdone hd s) := h.issue (.ite .wait h.endSelf.own)
theorem execSstart_keeps (h : HbmInv s) {hd a b} : Keeps (execSstart hd a b s) := h.issue (.ite .trap (h.go.ite h.setSlot.go))
theorem HbmInv.stopSlot (h : HbmInv s) {k} : HbmInv (s.stopSlot k) := h.ite (h.updTile.finishSlot.ite h.updTile.modSlot)

theorem execSstop_keeps (h : HbmInv s) {hd a} : Keeps (execSstop hd a s) :=
  h.issue (.ite .trap (.ite (.ite .wait h.endSelf.own) h.stopSlot.go))

theorem execSbar_keeps (h : HbmInv s) {hd a} : Keeps (execSbar hd a s) := h.issue (h.upd.go.ite h.upd.park)
theorem HbmInv.ask (h : HbmInv s) {q ds outward} : HbmInv (s.ask q ds outward) := h.addOp

theorem execLaunch_keeps (h : HbmInv s) {hd d a c} : Keeps (execLaunch hd d a c s) :=
  h.issue (.ite .trap (.ite .trap (.ite .wait h.ask.go)))

theorem HbmInv.lfinDo (h : HbmInv s) {t code} : HbmInv (s.lfinDo t code) := by
  dsimp only [State.lfinDo]
  split
  · exact h
  · split
    · exact h
    · exact h.ite (h.setLaunch.foldl (fun _ _ h => h.modTile))

theorem execLfin_keeps (h : HbmInv s) {hd a} : Keeps (execLfin hd a s) := h.issue (h.addOp.go.ite h.lfinDo.go)
theorem execCancel_keeps (h : HbmInv s) {hd a b} : Keeps (execCancel hd a b s) := h.issue (.ite .trap (h.addOp.go.ite h.endObject.go))

end Sys2Proof.Machine
end

section
/-! SUPPORT for O60. The canonical form of HBM is kept by the end of a floating-point instruction. -/
namespace Sys2Proof.Machine

variable {s s' : State}

theorem HbmInv.fpEnd (h : HbmInv s) {fl sub k} (hk : ∀ s, HbmInv s → HbmInv (k s)) : (s.fpEnd fl sub k).Inv :=
  h.upd.trapIn.ite (hk _ h).upd.go

end Sys2Proof.Machine
end

section
/-! SUPPORT for O60. The canonical form of HBM is kept by remote accesses. -/
namespace Sys2Proof.Machine

variable {s s' : State}

theorem HbmInv.remoteTranslate (h : HbmInv s) {tag v} : HbmInv (s.remoteTranslate tag v).1 := by
  dsimp only [State.remoteTranslate]
  split
  · split
    · exact h.flip
    · exact h
  · split
    · refine HbmInv.modPart ?_
      split
      · exact h.flip
      · exact h
    · refine HbmInv.modPart ?_
      split
      · exact h.flip
      · exact h

theorem HbmInv.commitPost (h : HbmInv s) {key value} : HbmInv (s.commitPost key value).1 := by
  unfold State.commitPost
  split
  · exact h
  · exact h.ite_fst h.fields

theorem HbmInv.memoryServe (h : HbmInv s) {tag r} : HbmInv (s.memoryServe tag r).1 := by
  dsimp only [State.memoryServe]
  split
  · exact h.remoteTranslate.of_eq ‹_›
  · split
    · split
      · exact h.remoteTranslate.of_eq ‹_›
      · dsimp only
        exact (h.remoteTranslate.of_eq ‹_›).homeRead
    · split
      · exact h.remoteTranslate.of_eq ‹_›
      · dsimp only
        exact (h.remoteTranslate.of_eq ‹_›).homeWrite
    · split
      · exact h.remoteTranslate.of_eq ‹_›
      · split
        · dsimp only
          exact (h.remoteTranslate.of_eq ‹_›).homeLook
        · dsimp only
          exact (h.remoteTranslate.of_eq ‹_›).homeLook.homeWrite

theorem HbmInv.remoteServe (h : HbmInv s) {tag r} : HbmInv (s.remoteServe tag r).1 := by
  dsimp only [State.remoteServe]
  split
  · split
    · exact h
    · exact h.commitPost
  · split <;> exact h
  · exact h.memoryServe

end Sys2Proof.Machine
end

section
/-! SUPPORT for O60. The canonical form of HBM is kept by loads, stores and atomics. -/
namespace Sys2Proof.Machine

variable {s s' : State}

/-- Whether L1 answers is settled first; then the home is read, or nothing is. -/
theorem HbmInv.cachedRead (h : HbmInv s) {t k o pc} : HbmInv (s.cachedRead t k o pc).1 := by
  unfold State.cachedRead
  extract_lets c core bypass drop
  clear_value bypass
  split
  all_goals
    rename_i e
    have h0 : HbmInv _ := .of_eq (by
      split
      · exact h
      · split
        · exact h
        · exact HbmInv.ite_fst (p := (_, _)) h.flip h.flip.modTile) e
  · exact h0.modTile.ite h0
  · exact HbmInv.ite_fst (p := (_, _)) h0.tileCount.tileRead h0.tileCount.tileRead.l1Fill

theorem HbmInv.remoteAsk (h : HbmInv s) {t sent r ext} : HbmInv (s.remoteAsk t sent r ext).1 := by
  dsimp only [State.remoteAsk]
  split
  · exact h
  · split
    · exact h.remoteServe
    · split
      · exact h
      · exact h.sendMsg

theorem HbmInv.hostAsk (h : HbmInv s) {sent o n ext} : HbmInv (s.hostAsk sent o n ext).1 := h.ite_fst h.emit

theorem HbmInv.aliasDrop (h : HbmInv s) {t k pc} : HbmInv (s.aliasDrop t k pc) := by
  unfold State.aliasDrop
  split
  · exact h.modTile.ite h
  · exact h

theorem HbmInv.loadPiece (h : HbmInv s) {t k o pc ext} : HbmInv (s.loadPiece t k o pc ext).1 := by
  unfold State.loadPiece
  split
  · exact h.hostAsk
  · exact h.aliasDrop.remoteAsk
  · exact h.cachedRead

theorem HbmInv.failOp (h : HbmInv s) {t k o st a} : HbmInv (s.failOp t k o st a) := by
  unfold State.failOp
  refine h.modSlot.deferTrap.ite ?_
  exact h.modSlot.deferTrap.ite h.modSlot.deferTrap

theorem HbmInv.returnPiece (h : HbmInv s) {t k o i ext} : HbmInv (s.returnPiece t k o i ext) := by
  dsimp only [State.returnPiece]
  split
  · exact h
  · refine .ite ?_ h
    split
    · exact ((h.ite_fst h.loadPiece).of_eq ‹_›).modSlot
    · split
      · exact ((h.ite_fst h.loadPiece).of_eq ‹_›).failOp
      · split
        · split
          · exact ((h.ite_fst h.loadPiece).of_eq ‹_›).modSlot.modTile
          · exact ((h.ite_fst h.loadPiece).of_eq ‹_›).modSlot
        · exact ((h.ite_fst h.loadPiece).of_eq ‹_›).modSlot

theorem HbmInv.deliverDest (h : HbmInv s) {t k o i} : HbmInv (s.deliverDest t k o i) := by
  unfold State.deliverDest
  split
  · exact h
  · exact h.modSlot

theorem HbmInv.storePiece (h : HbmInv s) {t k o pc ext} : HbmInv (s.storePiece t k o pc ext).1 := by
  unfold State.storePiece
  split
  · exact h.emit
  · exact h.aliasDrop.remoteAsk
  · exact h.homeWrite.modTile

theorem HbmInv.performPiece (h : HbmInv s) {t k o i ext} : HbmInv (s.performPiece t k o i ext) := by
  unfold State.performPiece
  split
  · exact h
  · refine .ite ?_ h
    split
    · exact ((h.ite_fst h.storePiece).of_eq ‹_›).modSlot
    · split
      · exact ((h.ite_fst h.storePiece).of_eq ‹_›).failOp
      · exact ((h.ite_fst h.storePiece).of_eq ‹_›).modSlot

theorem HbmInv.performFlush (h : HbmInv s) {t k o} : HbmInv (s.performFlush t k o) := h.dropLine.modTile.modSlot.ite h

theorem execPref_keeps (h : HbmInv s) {hd m} : Keeps (execPref hd m s) := by
  unfold execPref
  refine h.issue ?_
  split
  · exact (h.flip.dieRead.ite h.flip).go
  · exact (h.flip.dieRead.ite h.flip).go
  · exact h.go

theorem execFlush_keeps (h : HbmInv s) {hd m} : Keeps (execFlush hd m s) := by
  dsimp only [execFlush]
  refine h.issue ?_
  split
  · exact .trap
  · exact .ite (.ite .trap (.ite .wait h.addOp.go)) h.go

theorem HbmInv.farLanes (h : HbmInv s) {as k} (hk : ∀ s, HbmInv s → (k s).Inv) : (s.farLanes as k).Inv := by
  unfold State.farLanes
  refine (hk _ h).ite ?_
  split
  · exact h.upd.trapIn
  · split
    · exact .wait
    · split
      · exact .wait
      · exact hk _ h.setPart

theorem execVgather_keeps (h : HbmInv s) {hd d a b sc disp} : Keeps (execVgather hd d a b sc disp s) := by
  dsimp only [execVgather]
  refine h.issue ?_
  split
  · exact .trap
  · refine .ite .wait ?_
    refine h.upd.go.ite ?_
    exact h.farLanes fun _ h => (h.upd.foldl (fun _ _ h => h.aheadPage)).go.ite h.addOp.go

theorem execVscatter_keeps (h : HbmInv s) {hd d a b sc disp} : Keeps (execVscatter hd d a b sc disp s) := by
  unfold execVscatter
  refine h.issue ?_
  extract_lets as near v put late
  have hput (s) (h : HbmInv s) : HbmInv (put s) := h.foldl fun _ _ h => h.updTile.ite h
  split
  · exact .trap
  · refine .ite .wait (.ite .wait ((hput s h).go.ite ?_))
    refine h.farLanes fun s h => ?_
    extract_lets miss s1 s2
    have h1 : HbmInv s1 := (h.ite (hput s h)).foldl fun _ _ h => h.aheadPage
    exact h1.addOp.park.ite h1.addOp.go

theorem HbmInv.nearLanes (h : HbmInv s) {t k op} : HbmInv (s.nearLanes t k op) := by
  unfold State.nearLanes
  split
  · exact h
  · exact (h.foldl (fun _ _ h => h.modTile)).modSlot

theorem execLdacq_keeps (h : HbmInv s) {hd sz sco d m} : Keeps (execLdacq hd sz sco d m s) := by
  unfold execLdacq
  refine h.issue ?_
  have hl := h.loadEff (hd := hd) (u := .acq) (kind := .acq sco) (a := (s.me.ea m).toNat) (n := Size.bytes sz)
    (ds := [destOf (rG d) 0 (8 * Size.bytes sz) false]) (bound := [])
  split
  · rename_i e
    rw [e] at hl
    exact (HbmInv.updTile hl).ite hl
  · exact hl

theorem execMwait_keeps (h : HbmInv s) {hd d a b c} : Keeps (execMwait hd d a b c s) := by
  unfold execMwait
  refine h.issue (.ite .trap ?_)
  split
  · exact .trap
  · exact .trap
  · exact .trap
  · exact h.pageOk h.addOp.park
  · exact .ite .trap h.park

theorem HbmInv.mwaitRead (h : HbmInv s) {t k a hint ext v} (e : s.mwaitRead t k a hint ext = some (s', v)) : HbmInv s' := by
  unfold State.mwaitRead at e
  split at e
  · cases e; exact h
  · obtain ⟨p, -, e⟩ := Option.map_eq_some_iff.mp e
    cases e; exact h.setPart.emit
  · cases e; exact h.modTile.tileRead

theorem HbmInv.mwaitEnd (h : HbmInv s) {t k d r bad} : HbmInv (s.mwaitEnd t k d r bad) := h.modSlot.modTile.ite h.modSlot

theorem HbmInv.mwaitTest (h : HbmInv s) {t k d w last v bad} : HbmInv (s.mwaitTest t k d w last v bad) :=
  h.mwaitEnd.ite (h.mwaitEnd.ite (h.mwaitEnd.ite h))

theorem HbmInv.mwaitGo (h : HbmInv s) {t k d a w hint last ext} : HbmInv (s.mwaitGo t k d a w hint last ext) := by
  unfold State.mwaitGo
  refine h.modSlot.deferTrap.ite ?_
  split
  · exact h
  · exact (h.mwaitRead ‹_›).mwaitTest

theorem execMwaitPoll_keeps (h : HbmInv s) {t k ext} : Keeps (execMwaitPoll t k ext s) := by
  unfold execMwaitPoll
  refine h.happenAt fun _ h => ?_
  split
  · exact h.ite h.mwaitGo
  · exact h

theorem execMwaitLimitExpiry_keeps (h : HbmInv s) {t k} : Keeps (execMwaitLimitExpiry t k s) := by
  unfold execMwaitLimitExpiry
  refine h.happenAt fun _ h => ?_
  split
  · exact h.ite (h.flip.mwaitGo.ite h.mwaitGo)
  · exact h

theorem HbmInv.atomEff (h : HbmInv s) {hd hostOk kind v n ds} : (s.atomEff hd hostOk kind v n ds).Inv := by
  dsimp only [State.atomEff]
  split
  · exact .trap
  · exact h.farAccess fun _ h => ((h.updTile.aheadPage.ite h.updTile).upd.ite (h.updTile.aheadPage.ite h.updTile)).addOp.upd.go

theorem HbmInv.amo (h : HbmInv s) {hd o w n a d b c} : Keeps (s.amo hd o w n a d b c) := h.issue h.atomEff
theorem HbmInv.amof (h : HbmInv s) {hd o t n a d b} : Keeps (s.amof hd o t n a d b) := h.issue h.atomEff

theorem HbmInv.atomDone (h : HbmInv s) {t k o old bad} : HbmInv (s.atomDone t k o old bad) :=
  (h.modSlot.deferTrap.ite h.modSlot).ite h.modSlot

theorem HbmInv.atomApply (h : HbmInv s) {t k o ext log} (hlog : ∀ s, HbmInv s → HbmInv (log s)) :
    HbmInv (s.atomApply t k o ext log) := by
  unfold State.atomApply
  extract_lets tag sent answer
  obtain ⟨op, b, c⟩ := o.kind.atom
  dsimp only
  have hanswer (r : State × Option (Nat × Nat)) (h : HbmInv r.1) : HbmInv (answer r) := by
    unfold answer
    split
    · exact HbmInv.modSlot h
    · exact (HbmInv.failOp h).ite (HbmInv.ite (hlog _ h) h).atomDone
  split
  · exact hanswer _ h.hostAsk
  · exact hanswer _ (h.foldl fun _ _ h => h.aliasDrop).remoteAsk
  · exact h.failOp.ite (h.homeLook.atomDone.ite (hlog _ h.homeLook).homePut.atomDone)

theorem HbmInv.ordAppend (h : HbmInv s) {tag sl rec} : HbmInv (s.ordAppend tag sl rec) := h.partWrite.partWrite.modPart.ite h
theorem HbmInv.diverged (h : HbmInv s) {tag} : HbmInv (s.diverged tag) := h.modPart
theorem HbmInv.ordMatch (h : HbmInv s) {tag sl i} : HbmInv (s.ordMatch tag sl i) := h.modPart

theorem HbmInv.replayArrive (h : HbmInv s) {t k o a seq ext} : HbmInv (s.replayArrive t k o a seq ext) := by
  dsimp only [State.replayArrive]
  split
  · exact h.diverged.atomApply fun _ h => h
  · split
    · exact h.ordMatch.atomApply fun _ h => h
    · exact h.modPart.ite (h.diverged.atomApply (fun _ h => h))

theorem HbmInv.unhold (h : HbmInv s) {tag t k op} : HbmInv (s.unhold tag t k op) := h.modPart

theorem execAtomicPerform_keeps (h : HbmInv s) {t k op ext} : Keeps (execAtomicPerform t k op ext s) := by
  unfold execAtomicPerform
  refine h.happenAt fun _ h => ?_
  split
  · exact h
  · split
    · refine .ite ?_ h
      split
      · exact h.atomApply fun _ h => h
      · split
        · exact h.atomApply fun _ h => h
        · split
          · exact h.atomApply fun _ h => h.ordAppend
          · exact h.replayArrive.ite (h.atomApply (fun _ h => h))
      · exact h
    · exact h

theorem execReplayHoldRelease_keeps (h : HbmInv s) {t k op} : Keeps (execReplayHoldRelease t k op s) := by
  dsimp only [execReplayHoldRelease]
  refine h.happenAt fun _ h => ?_
  split
  · split
    · exact (h.unhold.ordMatch.atomApply (fun _ h => h)).ite h
    · exact h
  · exact h

theorem execReplayTimeout_keeps (h : HbmInv s) {t k op} : Keeps (execReplayTimeout t k op s) := by
  dsimp only [execReplayTimeout]
  refine h.happenAt fun _ h => ?_
  split
  · exact h
  · refine h.ite ?_
    refine h.diverged.modPart.foldl fun _ _ h => ?_
    split
    · exact h.atomApply fun _ h => h
    · exact h

end Sys2Proof.Machine
end

section
/-! SUPPORT for O60. The canonical form of HBM is kept by streams, masks and repetition. -/
namespace Sys2Proof.Machine

variable {s s' : State}

theorem HbmInv.enterBoard (h : HbmInv s) {t rd wr} : HbmInv (s.enterBoard t rd wr).1 := h.ite_fst h.fresh.modTile

theorem execSbind_keeps (h : HbmInv s) {hd d a} : Keeps (execSbind hd d a s) := by
  dsimp only [execSbind]
  exact h.issue (.ite .trap (.ite .trap (.ite .trap (h.fetchWords.trapIn.ite h.fetchWords.upd.go))))

theorem execSfree_keeps (h : HbmInv s) {hd d} : Keeps (execSfree hd d s) := by
  unfold execSfree
  refine h.issue ?_
  split
  · exact h.go
  · exact h.upd.go

theorem execSrep_keeps (h : HbmInv s) {hd} : Keeps (execSrep hd s) := h.issue h.upd.countAhead.own

theorem HbmInv.countReps (h : HbmInv s) : HbmInv s.countReps := by
  unfold State.countReps
  split
  · refine h.upd.ite ?_
    split
    · exact (h.fetchInsn.of_eq ‹_›).upd
    · split <;> exact (h.fetchInsn.of_eq ‹_›).upd
  · exact h

theorem HbmInv.maskOp (h : HbmInv s) {hd d src f} : Keeps (s.maskOp hd d src f) := h.issue h.upd.go

end Sys2Proof.Machine
end

section
/-! SUPPORT for O60. The canonical form of HBM is kept by the copy channels. -/
namespace Sys2Proof.Machine

variable {s s' : State}

theorem HbmInv.acceptJob (h : HbmInv s) {t ch j} : HbmInv (s.acceptJob t ch j) := h.modTile

theorem HbmInv.issueJob (h : HbmInv s) {hd regs ch cmd stamp} : (s.issueJob hd regs ch cmd stamp).Inv := by
  dsimp only [State.issueJob]
  refine h.go.ite ?_
  refine .ite .wait ?_
  refine .ite .wait ?_
  split
  · exact (h.enterBoard.addOp.ite h.enterBoard).addOp.go
  · exact (h.enterBoard.addOp.ite h.enterBoard).acceptJob.go

theorem execCpy_keeps (h : HbmInv s) {hd ch st sco sstr dstr d a b c} : Keeps (execCpy hd ch st sco sstr dstr d a b c s) := by
  dsimp only [execCpy]
  refine h.issue ?_
  split
  · exact .trap
  · exact h.issueJob

theorem execCpybt_keeps (h : HbmInv s) {hd ch st sco nblk d a b c e} : Keeps (execCpybt hd ch st sco nblk d a b c e s) := by
  dsimp only [execCpybt]
  refine h.issue ?_
  split
  · exact .trap
  · exact h.issueJob

theorem execCpchain_keeps (h : HbmInv s) {hd a b} : Keeps (execCpchain hd a b s) := by
  unfold execCpchain
  refine h.issue (.ite .trap (.ite .trap (.ite .trap ?_)))
  split
  · exact h.issueJob.ite .trap
  · exact h.issueJob
  · exact .trap

theorem HbmInv.movedOf (h : HbmInv s) {x st} : (movedOf s x st).Inv := by
  unfold Machine.movedOf
  split
  · exact h.done
  · exact h.bad
  · exact h.bad
  · exact h.bad

theorem HbmInv.chAsk (h : HbmInv s) {t j r ext} : (s.chAsk t j r ext).Inv := by
  unfold State.chAsk
  split
  · exact .wait
  · rename_i e
    have h1 := h.ite_some (fun _ => h.chargeFor) e
    split
    · exact (h1.remoteAsk.of_eq ‹_›).sent
    · exact (h1.remoteAsk.of_eq ‹_›).movedOf

theorem HbmInv.chRead (h : HbmInv s) {t j a n ext} : (s.chRead t j a n ext).Inv := by
  unfold State.chRead
  split
  · exact h.bad.ite h.done
  · refine h.page.ite ?_
    refine h.movedOf.ite ?_
    split
    · exact .wait
    · exact (h.chargeFor ‹_›).emit.sent
  · exact h.chAsk
  · exact h.bad.ite (h.tileRead.bad.ite h.tileRead.done)

theorem HbmInv.chWrite (h : HbmInv s) {t j stamp a x n ext} : (s.chWrite t j stamp a x n ext).Inv := by
  unfold State.chWrite
  split
  · exact h.modTile.done
  · refine h.page.ite ?_
    split
    · exact .wait
    · exact (h.ite_some (fun _ => h.chargeFor) ‹_›).emit.done
  · exact h.chAsk
  · exact h.bad.ite h.homeWrite.done

theorem HbmInv.setJob (h : HbmInv s) {t ch j} : HbmInv (s.setJob t ch j) := h.modTile

theorem HbmInv.moved (h : HbmInv s) {t ch j a m k} (hm : m.Inv) (hk : ∀ s j n, HbmInv s → HbmInv (k s j n)) :
    HbmInv (s.moved t ch j a m k) := by
  cases m with
  | wait => exact h
  | sent s1 => exact HbmInv.setJob hm
  | page s1 => exact (HbmInv.modTile hm).askPages
  | bad s1 code => exact HbmInv.modTile hm
  | done s1 x => exact hk _ _ _ hm

theorem HbmInv.endJobOf (h : HbmInv s) {t ch j} : HbmInv (s.endJobOf t ch j) := h.modTile

theorem HbmInv.stepJob (h : HbmInv s) {t ch j} : HbmInv (s.stepJob t ch j) := by
  unfold State.stepJob
  split
  · exact h.setJob
  · exact h.endJobOf.ite h.setJob

theorem HbmInv.eitherBytes (h : HbmInv s) {j a n x} : HbmInv (s.eitherBytes j a n x).1 := h.ite_fst h.flip

theorem HbmInv.movePiece (h : HbmInv s) {t ch j src dst n ext} : HbmInv (s.movePiece t ch j src dst n ext) := by
  dsimp only [State.movePiece]
  split
  · refine h.ite ?_
    exact h.moved h.chRead fun _ _ _ h => h.eitherBytes.setJob
  · exact h.ite (h.moved h.chWrite (fun _ _ _ h => h.modTile.stepJob))

theorem HbmInv.moveRows (h : HbmInv s) {t ch j r ext} : HbmInv (s.moveRows t ch j r ext) := h.ite h.movePiece

theorem HbmInv.moveBlocks (h : HbmInv s) {t ch j dst table pool nblk rb brows ntok ext} :
    HbmInv (s.moveBlocks t ch j dst table pool nblk rb brows ntok ext) := by
  dsimp only [State.moveBlocks]
  split
  · split
    · exact h.ite (h.moved h.chRead (fun _ _ _ h => h.setJob))
    · refine h.stepJob.ite ?_
      exact (h.moved h.bad (fun _ _ _ h => h)).ite h.movePiece
  · refine .ite ?_ h
    exact h.ite (h.moved h.chWrite (fun _ _ _ h => h.modTile.stepJob))

theorem execCopyCommandStart_keeps (h : HbmInv s) {t ch} : Keeps (execCopyCommandStart t ch s) := h.happenAt fun _ h => h.modTile

theorem execCopyPieceWrite_keeps (h : HbmInv s) {t ch ext} : Keeps (execCopyPieceWrite t ch ext s) := by
  unfold execCopyPieceWrite
  refine h.happenAt fun _ h => ?_
  split
  · exact h
  · split
    · exact h.moveRows
    · exact h.moveBlocks
    · exact h.moveRows
    · exact h

theorem HbmInv.raiseSeq (h : HbmInv s) {t ch j} : HbmInv (s.raiseSeq t ch j) := h.ite h.modTile

theorem execCopyStampWrite_keeps (h : HbmInv s) {t ch} : Keeps (execCopyStampWrite t ch s) := by
  unfold execCopyStampWrite
  refine h.happenAt fun _ h => ?_
  split
  · exact h
  · split
    · exact h
    · refine h.raiseSeq.ite ?_
      refine h.raiseSeq.moved h.raiseSeq.chWrite fun _ _ _ h => ?_
      split
      · exact h.setJob
      · exact h
      · exact h.endJobOf.modSlot

theorem HbmInv.readRecord (h : HbmInv s) {t j a ext} : (s.readRecord t j a ext).Inv := by
  unfold State.readRecord
  split
  · exact h.chRead
  · refine h.bad.ite ?_
    have h1 := h.chRead (t := t) (j := j) (a := a) (n := 32) (ext := 0)
    split
    · rename_i s1 _ e
      rw [e] at h1
      have h2 := HbmInv.chRead h1 (t := t) (j := j) (a := a + 32) (n := 32) (ext := 0)
      split
      · rename_i e
        rw [e] at h2
        exact HbmInv.done h2
      · exact h2
    · exact h1

theorem HbmInv.takeRecord {s0} (h0 : HbmInv s0) (h : HbmInv s) {t ch j a y} : HbmInv (State.takeRecord s0 s t ch j a y) := by
  unfold State.takeRecord
  refine h.endJobOf.ite ?_
  split
  · exact h.modTile
  · exact h0.ite h.enterBoard.modTile.setJob

theorem execChainRecordRead_keeps (h : HbmInv s) {t ch ext} : Keeps (execChainRecordRead t ch ext s) := by
  unfold execChainRecordRead
  refine h.happenAt fun _ h => ?_
  split
  · exact h
  · split
    · exact .ite (h.moved (h.chWrite.ite h.bad) fun _ _ _ h => h.modTile.endJobOf.ite h.modTile.setJob) h
    · exact h.moved h.readRecord fun _ _ _ h' => h.takeRecord h'
    · exact h

theorem HbmInv.pageSample (h : HbmInv s) {t since} : HbmInv (s.pageSample t since) := h.tileSample.fields
theorem HbmInv.haltChannel (h : HbmInv s) {t ch code a info} : HbmInv (s.haltChannel t ch code a info) := h.modTile.deferTrap

theorem execCopyChannelHalt_keeps (h : HbmInv s) {t ch code} : Keeps (execCopyChannelHalt t ch code s) := by
  dsimp only [execCopyChannelHalt]
  refine h.happenAt fun _ h => ?_
  split
  · exact h.haltChannel.ite h
  · exact h.pageSample.haltChannel.ite h
  · exact h

theorem execCopyPageRequestAnswer_keeps (h : HbmInv s) {t ch ans} : Keeps (execCopyPageRequestAnswer t ch ans s) := by
  dsimp only [execCopyPageRequestAnswer]
  refine h.happenAt fun _ h => ?_
  split
  · exact h
  · refine h.ite ?_
    refine .ite ?_ h.pageSample.modTile
    exact h.pageSample.modTile.modPart.ite h.pageSample.modTile

end Sys2Proof.Machine
end

section
/-! SUPPORT for O60. The canonical form of HBM is kept by the matrix engine. -/
namespace Sys2Proof.Machine

variable {s s' : State}

theorem HbmInv.arrive (h : HbmInv s) {m} : HbmInv (s.arrive m) := h.upd.updTile
theorem HbmInv.addQop (h : HbmInv s) {q set what board} : HbmInv (s.addQop q set what board).1 := h.fresh.updTile
theorem HbmInv.readEarly (h : HbmInv s) {bd rd} : HbmInv (s.readEarly bd rd).1 := h.flip.updTile

theorem execMmac_keeps (h : HbmInv s) {hd c a b sub} : Keeps (execMmac hd c a b sub s) := by
  unfold execMmac
  refine h.issue (.ite .trap ?_)
  split
  · exact .trap
  · split
    · exact .trap
    · exact .trap
    · split
      · exact .trap
      · refine .ite .wait (HbmInv.park (HbmInv.updTile (HbmInv.arrive (HbmInv.addQop ?_))))
        exact HbmInv.ite_fst (p := (_, _)) h.enterBoard h.enterBoard.readEarly

theorem execDbar_keeps (h : HbmInv s) {hd} : Keeps (execDbar hd s) := h.issue (.ite .trap h.arrive.park)
theorem execMzero_keeps (h : HbmInv s) {hd c kind} : Keeps (execMzero hd c kind s) := h.issue h.addQop.go
theorem HbmInv.sendDrain (h : HbmInv s) {o d p} : HbmInv (s.sendDrain o d p) := h.addOp.updTile

theorem execMdrain_keeps (h : HbmInv s) {hd c d p td zr} : Keeps (execMdrain hd c d p td zr s) := by
  dsimp only [execMdrain]
  refine h.issue ?_
  split
  · exact .trap
  · refine .ite .wait ?_
    split
    · exact h.enterBoard.addQop.charge.upd.own
    · exact h.enterBoard.addQop.sendDrain.go

theorem HbmInv.resumeDrain (h : HbmInv s) {t k hd d p} : HbmInv (s.resumeDrain t k hd d p) := by
  unfold State.resumeDrain
  split
  · exact h.modSlot.fields
  · exact (h.modSlot.fields.conclude (h.modSlot.fields.updTile.trapIn.ite h.modSlot.fields.sendDrain.go)).fields

theorem execMldt_keeps (h : HbmInv s) {hd c a kind ts} : Keeps (execMldt hd c a kind ts s) := by
  dsimp only [execMldt]
  refine h.issue ?_
  split
  · exact .trap
  · exact .ite .wait h.enterBoard.addQop.go

theorem execMfetch_keeps (h : HbmInv s) {hd a b} : Keeps (execMfetch hd a b s) := h.issue (.ite .trap h.updTile.go)

theorem HbmInv.msetForm (h : HbmInv s) {hd a ad put} : Keeps (s.msetForm hd a ad put) :=
  h.issue (h.updTile.go.ite (.ite .trap (.ite .trap (.ite .wait h.updTile.go))))

theorem execMbound_keeps (h : HbmInv s) {hd c d a} : Keeps (execMbound hd c d a s) := h.issue (.ite .trap h.addOp.addQop.go)
theorem execMcfg_keeps (h : HbmInv s) {hd a} : Keeps (execMcfg hd a s) := h.issue h.updTile.go

theorem execGangForm_keeps (h : HbmInv s) {t} : Keeps (execGangForm t s) := by
  dsimp only [execGangForm]
  refine h.happenAt fun _ h => ?_
  split
  · exact h
  · split
    · exact (h.modTile.foldl (fun _ _ h => h.modSlot)).foldl fun _ _ h => h.takeTrap
    · split
      · exact h.modTile.foldl fun _ _ h => h.modSlot
      · split
        · exact (h.modTile.foldl (fun _ _ h => h.modSlot)).foldl fun _ _ h => h.takeTrap
        · exact ((h.modTile.foldl (fun _ _ h => h.modSlot)).ite h.modTile).foldl fun _ _ h => h.modSlot

theorem execGangStart_keeps (h : HbmInv s) {t} : Keeps (execGangStart t s) := by
  dsimp only [execGangStart]
  refine h.happen fun _ h => ?_
  split
  · exact h
  · exact h.setTile.ite h

theorem execGangComplete_keeps (h : HbmInv s) {t} : Keeps (execGangComplete t s) := by
  dsimp only [execGangComplete]
  refine h.happen fun _ h => ?_
  split
  · exact h
  · exact h.ite h.setTile.tileCount

theorem execPinLineFetch_keeps (h : HbmInv s) {t} : Keeps (execPinLineFetch t s) := by
  dsimp only [execPinLineFetch]
  refine h.happen fun _ h => ?_
  split
  · exact h
  · refine h.ite ?_
    split
    · exact h.fresh.modTile.foldl fun _ _ h => h.deferTrap
    · exact h.tileRead.fresh.modTile

theorem HbmInv.answerOp (h : HbmInv s) {t k id data} : HbmInv (s.answerOp t k id data) := h.modSlot

theorem HbmInv.doDrain (h : HbmInv s) {t o k id a td zr cfg} : HbmInv (s.doDrain t o k id a td zr cfg) := by
  unfold State.doDrain
  refine .ite ?_ h.modTile.answerOp
  split
  · exact h.modSlot.deferTrap
  · exact h.deferTrap

theorem HbmInv.doQop (h : HbmInv s) {t o} : HbmInv (s.doQop t o) := by
  unfold State.doQop
  split
  · exact h.setTile
  · exact h
  · exact h.doDrain
  · exact h.setTile
  · exact h.answerOp

theorem execQuarterOpPerform_keeps (h : HbmInv s) {t q i} : Keeps (execQuarterOpPerform t q i s) := by
  dsimp only [execQuarterOpPerform]
  refine h.happen fun _ h => ?_
  split
  · exact h
  · exact h.doQop.modTile.ite h

end Sys2Proof.Machine
end

section
/-! SUPPORT for O60. The canonical form of HBM is kept by posts. -/
namespace Sys2Proof.Machine

variable {s s' : State}

theorem HbmInv.postRate (h : HbmInv s) {n bytes k} (hk : ∀ s, HbmInv s → (k s).Inv) : (s.postRate n bytes k).Inv := by
  unfold State.postRate
  refine (hk _ h).ite ?_
  split
  · exact .wait
  · exact hk _ h.setPart

theorem HbmInv.sendInstall (h : HbmInv s) {n e value} : (s.sendInstall n e value).Inv := h.postRate fun _ h => h.addOp.go

theorem HbmInv.installForm (_h : HbmInv s) {a k} (hk : ∀ n e, (k n e).Inv) : (s.installForm a k).Inv := by
  dsimp only [State.installForm]
  refine .ite .trap ?_
  split
  · exact .trap
  · exact hk _ _

theorem HbmInv.softRead (h : HbmInv s) {a n k} (hk : ∀ s, HbmInv s → (k s).Inv) : (s.softRead a n k).Inv := by
  unfold State.softRead
  split
  · exact hk _ h
  · exact (hk _ h.updTile).ite .trap

theorem execPput_keeps (h : HbmInv s) {hd a b} : Keeps (execPput hd a b s) := by
  dsimp only [execPput]
  refine h.issue (h.installForm (fun _ _ => ?_))
  split
  · exact .trap
  · exact .ite .wait (h.softRead (fun _ h => h.sendInstall))

theorem execPputv_keeps (h : HbmInv s) {hd a b} : Keeps (execPputv hd a b s) :=
  h.issue (h.installForm (fun _ _ => .ite .trap h.sendInstall))

theorem execPputg_keeps (h : HbmInv s) {hd a b} : Keeps (execPputg hd a b s) := h.issue (h.installForm (fun _ _ => h.sendInstall))

theorem HbmInv.postRead (h : HbmInv s) {a chk store lo bytes ds} (hchk : ∀ n e o, chk n e = some o → o.Inv) :
    (s.postRead a chk store lo bytes ds).Inv := by
  dsimp only [State.postRead]
  refine .ite .trap ?_
  split
  · exact .trap
  · split
    · exact hchk _ _ _ ‹_›
    · exact h.upd.go.ite (.ite .wait (h.postRate fun _ h => h.addOp.go))

theorem execPget_keeps (h : HbmInv s) {hd d a b} : Keeps (execPget hd d a b s) := by
  refine h.issue (h.postRead fun _ _ _ e => ?_)
  obtain ⟨_, -, rfl⟩ := Option.map_eq_some_iff.mp e
  exact .trap

theorem execPfresh_keeps (h : HbmInv s) {hd d a} : Keeps (execPfresh hd d a s) :=
  h.issue (h.postRead fun _ _ _ e => nomatch e)

theorem execPwatch_keeps (h : HbmInv s) {hd a b} : Keeps (execPwatch hd a b s) :=
  h.issue (.ite .trap (.ite .trap (.ite .trap h.updTile.go)))

theorem HbmInv.watchSee (h : HbmInv s) {t n f} : HbmInv (s.watchSee t n f) := h.modTile
theorem HbmInv.watchRound (h : HbmInv s) {t} : HbmInv (s.watchRound t) := h.foldl fun _ _ h => h.modTile.modSlot.ite h.modTile
theorem HbmInv.postTrap (h : HbmInv s) {t k reason n} : HbmInv (s.postTrap t k reason n) := h.deferTrap
theorem HbmInv.sendPost (h : HbmInv s) {t k o n r} : HbmInv (s.sendPost t k o n r) := h.modSlot.sendMsg

theorem HbmInv.installDone (h : HbmInv s) {t k o n st} : HbmInv (s.installDone t k o n st) :=
  h.modSlot.tileSample.ite h.modSlot.postTrap

theorem execPostCommit_keeps (h : HbmInv s) {t k op ext} : Keeps (execPostCommit t k op ext s) := by
  dsimp only [execPostCommit]
  refine h.happenAt fun _ h => ?_
  split
  · exact h
  · split
    · refine h.installDone.ite ?_
      exact h.ite (h.commitPost.installDone.ite h.sendPost)
    · exact h

theorem HbmInv.sampleDone (h : HbmInv s) {t k o store m v f mask} : HbmInv (s.sampleDone t k o store m v f mask) := by
  unfold State.sampleDone
  refine HbmInv.modSlot ?_
  split
  · exact h
  · exact h.modTile

theorem HbmInv.sampleRefused (h : HbmInv s) {t k o n} : HbmInv (s.sampleRefused t k o n) := h.modSlot.modSlot.ite h.modSlot.postTrap

theorem execPostSample_keeps (h : HbmInv s) {t k op extF extV refused} : Keeps (execPostSample t k op extF extV refused s) := by
  dsimp only [execPostSample]
  refine h.happenAt fun _ h => ?_
  split
  · exact h
  · split
    · refine h.ite ?_
      split
      · exact h.sampleRefused.ite h.sampleDone
      · refine h.ite ?_
        refine .ite ?_ h.sendPost
        split
        · exact h.sampleRefused
        · exact h.sampleDone
    · exact h

end Sys2Proof.Machine
end

section
/-! SUPPORT for O60. The canonical form of HBM is kept by waybills and the dispatcher. -/
namespace Sys2Proof.Machine

variable {s s' : State}

theorem HbmInv.setWb (h : HbmInv s) {n x} : HbmInv (s.setWb n x) := h.fields
theorem HbmInv.freeWb (h : HbmInv s) {n} : HbmInv (s.freeWb n) := h.fresh.setWb

theorem HbmInv.grant (h : HbmInv s) {tag n} : HbmInv (s.grant tag n).1 := by
  induction n generalizing s with
  | zero => exact h
  | succ n ih =>
    unfold State.grant
    split
    · exact h
    · exact ih h.setWb

theorem HbmInv.refill (h : HbmInv s) {tag chip} : HbmInv (s.refill tag chip) := by
  unfold State.refill
  split
  · exact h
  · exact h.ite ((h.grant.ite_fst h).modPart.ite h.emit.modPart)

theorem HbmInv.takeGrant (h : HbmInv s) {tag chip} : HbmInv (s.takeGrant tag chip).1 := by
  unfold State.takeGrant
  split
  · exact h
  · exact h.modPart.refill

theorem HbmInv.tellValue (h : HbmInv s) {tag x w o} : HbmInv (s.tellValue tag x w o) := h.foldl fun _ _ h => h.sendMsg

theorem HbmInv.settleWb (h : HbmInv s) {tag w st} : HbmInv (s.settleWb tag w st) := by
  dsimp only [State.settleWb]
  split
  · exact h
  · refine h.ite ?_
    split
    · exact h.setWb.tellValue
    · exact h.setWb

theorem HbmInv.dequeue (h : HbmInv s) {tag w} : HbmInv (s.dequeue tag w) := h.modPart

theorem HbmInv.inSaved (h : HbmInv s) {key t f} (hf : ∀ s, HbmInv s → HbmInv (f s)) : HbmInv (s.inSaved key t f) := by
  unfold State.inSaved
  split
  · exact h
  · split
    · exact h
    · exact (hf _ h.setTile).setTile.fields

theorem HbmInv.whereRuns (h : HbmInv s) {tag e t f} (hf : ∀ s, HbmInv s → HbmInv (f s)) : HbmInv (s.whereRuns tag e t f) := by
  unfold State.whereRuns
  refine (hf _ h).ite ?_
  split
  · exact h.inSaved fun _ h => hf _ h
  · exact h

theorem HbmInv.staleTrap (h : HbmInv s) {t k w} : HbmInv (s.staleTrap t k w) := h.deferTrap

theorem HbmInv.staleReport (h : HbmInv s) {tag inv w} : HbmInv (s.staleReport tag inv w) := by
  unfold State.staleReport
  split
  · exact h
  · exact h.modPart.whereRuns fun _ h => h.staleTrap

theorem HbmInv.reportStale (h : HbmInv s) {tag i st} : HbmInv (s.reportStale tag i st) := by
  unfold State.reportStale
  split
  · exact h.ite (h.staleReport.ite h.sendMsg)
  · exact h

theorem HbmInv.judge (h : HbmInv s) {tag q} : HbmInv (s.judge tag q) := by
  dsimp only [State.judge]
  split
  · exact h.dequeue.settleWb.reportStale
  · exact h.fresh.modPart.ite h

theorem HbmInv.dispatch (h : HbmInv s) {tag n} : HbmInv (s.dispatch tag n) := by
  induction n generalizing s with
  | zero => exact h
  | succ n ih =>
    have h1 {l} := h.foldl (l := l) fun _ q h => h.judge (tag := tag) (q := q)
    exact (ih h1).ite h1

theorem HbmInv.dispatchAll (h : HbmInv s) {tag} : HbmInv (s.dispatchAll tag) := h.dispatch
theorem HbmInv.breakWb (h : HbmInv s) {tag w code svcst} : HbmInv (s.breakWb tag w code svcst) := h.settleWb.dispatchAll
theorem HbmInv.learn (h : HbmInv s) {tag w o} : HbmInv (s.learn tag w o) := h.modPart.dispatchAll
theorem HbmInv.dropWb (h : HbmInv s) {tag w} : HbmInv (s.dropWb tag w) := (h.modPart.tellValue.ite h.modPart).freeWb.dispatchAll

theorem execInvoke_keeps (h : HbmInv s) {hd d a b c svc narg warg tw rp} : Keeps (execInvoke hd d a b c svc narg warg tw rp s) := by
  dsimp only [execInvoke]
  refine h.issue ?_
  split
  · exact .trap
  · refine .ite .wait ?_
    refine h.softRead fun _ h => ?_
    split
    · exact .trap
    · split
      · exact .trap
      · exact h.ask.go

theorem HbmInv.wbQuery (h : HbmInv s) {hd d a q} : Keeps (s.wbQuery hd d a q) := h.issue (.ite .trap h.ask.go)

theorem execWbbind_keeps (h : HbmInv s) {hd a b} : Keeps (execWbbind hd a b s) := by
  dsimp only [execWbbind]
  refine h.issue (.ite .trap (.ite .trap (.ite .trap (.ite .wait (h.softRead fun s1 h => ?_)))))
  generalize BitVec.ofNat 32 _ = post
  generalize s1.myTile.storeRead _ 4 = limit
  generalize s1.myTile.storeRead _ 8 = buf
  exact .ite .trap (.ite .trap h.addOp.go)

theorem execWbdrop_keeps (h : HbmInv s) {hd a} : Keeps (execWbdrop hd a s) := h.issue (.ite .trap (h.go.ite h.addOp.go))

theorem HbmInv.sendOne (h : HbmInv s) {tag m} : HbmInv (s.sendOne tag m) := by
  unfold State.sendOne
  refine h.modPart.ite ?_
  split
  · exact h.modPart
  · exact h.setPart.sendMsg

theorem HbmInv.sendOut (h : HbmInv s) {tag} : HbmInv (s.sendOut tag) := h.modPart.foldl fun _ _ h => h.sendOne
theorem HbmInv.serveFailed (h : HbmInv s) {w post} : HbmInv (s.serveFailed w post) := h.commitPost

theorem HbmInv.sendInvoke (h : HbmInv s) {t k o inv chip g} : HbmInv (s.sendInvoke t k o inv chip g) := by
  unfold State.sendInvoke
  extract_lets tag s0 ready chips
  have h0 : HbmInv s0 := by
    unfold s0
    split
    · exact h.staleTrap
    · exact h
  have hready (w) : HbmInv (ready s0 w) := h0.modSlot
  split
  · split
    · exact (hready _).serveFailed
    · exact hready _
  · extract_lets w inv' s1
    have h1 : HbmInv s1 := (hready w).modPart
    split
    · exact h1
    · exact h1.event.ite h1.modPart.sendOut

theorem HbmInv.invokeReturn (h : HbmInv s) {t k o inv chip} : HbmInv (s.invokeReturn t k o inv chip) := by
  dsimp only [State.invokeReturn]
  split
  · exact (h.refill.takeGrant.of_eq ‹_›).sendInvoke
  · split
    · exact (h.refill.takeGrant.of_eq ‹_›).sendInvoke
    · exact (h.refill.takeGrant.of_eq ‹_›).modSlot

theorem HbmInv.wbReturn (h : HbmInv s) {t k o w v} : HbmInv (s.wbReturn t k o w v) := by
  unfold State.wbReturn
  split <;> exact h.modSlot

theorem HbmInv.askTable (h : HbmInv s) {t k o w m} : HbmInv (s.askTable t k o w m) := h.modSlot.sendMsg

theorem HbmInv.wbQueried (h : HbmInv s) {t k o w cause item ext} : HbmInv (s.wbQueried t k o w cause item ext) := by
  unfold State.wbQueried
  refine h.wbReturn.ite ?_
  split
  · exact h.wbReturn
  · exact h.wbReturn.ite (h.wbReturn.ite h.askTable)

theorem HbmInv.bindWb (h : HbmInv s) {tag w b} : HbmInv (s.bindWb tag w b).1 := by
  unfold State.bindWb
  split
  · exact h
  · exact h.ite_fst h.setWb

theorem HbmInv.bindDone (h : HbmInv s) {t k o w post limit buf ext} : HbmInv (s.bindDone t k o w post limit buf ext) := by
  unfold State.bindDone
  refine h.modSlot.serveFailed.ite ?_
  split
  · exact h.modSlot
  · split
    · refine h.modSlot.bindWb.staleTrap.ite ?_
      exact h.modSlot.bindWb.postTrap.ite h.modSlot.bindWb
    · refine .ite ?_ h.askTable
      exact h.modSlot.staleTrap.ite (h.modSlot.postTrap.ite h.modSlot)

theorem HbmInv.dropDone (h : HbmInv s) {t k o w ext} : HbmInv (s.dropDone t k o w ext) := by
  dsimp only [State.dropDone]
  split
  · exact h.modSlot
  · split
    · split
      · exact h.modSlot.dropWb
      · exact h.modSlot.staleTrap
    · exact (h.modSlot.staleTrap.ite h.modSlot).ite h.askTable

theorem HbmInv.askNamed (h : HbmInv s) {tag inv} : HbmInv (s.askNamed tag inv) := by
  unfold State.askNamed
  refine h.foldl fun _ _ h => ?_
  split
  · exact h.sendMsg
  · exact h.learn

theorem HbmInv.takeIn (h : HbmInv s) {tag inv} : HbmInv (s.takeIn tag inv) := by
  unfold State.takeIn
  split
  · exact h.breakWb.ite h.modPart.dispatchAll.askNamed
  · exact h.bindWb.breakWb.ite h.bindWb.modPart.dispatchAll.askNamed

theorem execDispatcherInvocationArrive_keeps (h : HbmInv s) {tag inv} : Keeps (execDispatcherInvocationArrive tag inv s) :=
  h.happen fun _ h => h.takeIn.ite h.breakWb

theorem HbmInv.handOut (h : HbmInv s) {tag q ad} : HbmInv (s.handOut tag q ad) := h.commitPost.modPart

theorem execDispatcherHandOut_keeps (h : HbmInv s) {tag i} : Keeps (execDispatcherHandOut tag i s) := by
  dsimp only [execDispatcherHandOut]
  refine h.happen fun _ h => ?_
  split
  · exact h
  · refine h.ite ?_
    split
    · exact h
    · exact h.dequeue.breakWb
    · exact h.handOut

theorem HbmInv.report (h : HbmInv s) {tag q rec} : HbmInv (s.report tag q rec) := by
  unfold State.report
  refine h.dequeue.breakWb.ite ?_
  exact h.dequeue.breakWb.ite h.dequeue.settleWb.dispatchAll

theorem execDonePostScan_keeps (h : HbmInv s) {tag} : Keeps (execDonePostScan tag s) := by
  unfold execDonePostScan
  refine h.happen fun _ h => h.ite (h.foldl (fun _ _ h => ?_))
  split
  · exact h.report
  · exact h

theorem HbmInv.leavePosts (h : HbmInv s) {tag keys} : HbmInv (s.leavePosts tag keys) := by
  unfold State.leavePosts
  refine (h.foldl (fun _ _ h => ?_)).modPart
  split
  · exact h
  · refine .ite ?_ h
    split
    · exact h.report
    · exact h.dequeue.breakWb

theorem HbmInv.sendPiece (h : HbmInv s) {own a b n} : HbmInv (s.sendPiece own a b n) := h.partWrite.ite h.sendMsg

theorem execResultTransfer_keeps (h : HbmInv s) {slot i} : Keeps (execResultTransfer slot i s) := by
  dsimp only [execResultTransfer]
  refine h.happen fun _ h => ?_
  split
  · refine h.ite ?_
    refine h.sendPiece.setWb.ite ?_
    exact h.ite (h.setWb.commitPost.ite h.setWb.sendMsg)
  · exact h

theorem HbmInv.valueArrive (h : HbmInv s) {tag wb o} : HbmInv (s.valueArrive tag wb o) := h.ite h.learn

theorem HbmInv.askedValue (h : HbmInv s) {tag src back w} : HbmInv (s.askedValue tag src back w) := by
  unfold State.askedValue
  split
  · exact h.sendMsg
  · split
    · exact h.sendMsg
    · exact h.setWb

theorem execWaybillValueArrive_keeps (h : HbmInv s) {tag wb o} : Keeps (execWaybillValueArrive tag wb o s) :=
  h.happen fun _ h => h.valueArrive

theorem HbmInv.loseChip (h : HbmInv s) {tag chip} : HbmInv (s.loseChip tag chip) := h.foldl fun _ _ h => h.learn

theorem HbmInv.goOn (h : HbmInv s) {t k id g} : HbmInv (s.goOn t k id g) := by
  unfold State.goOn
  split
  · split
    · exact h.sendInvoke
    · exact h
  · exact h

theorem HbmInv.serveWaiting (h : HbmInv s) {tag chip failing n} : HbmInv (s.serveWaiting tag chip failing n) := by
  induction n generalizing s with
  | zero => exact h
  | succ n ih =>
    unfold State.serveWaiting
    split
    · exact h
    · refine h.takeGrant.refill.ite (ih ?_)
      split
      · exact h.takeGrant.goOn
      · exact h.takeGrant.inSaved fun _ h => h.goOn

theorem execGrantArrive_keeps (h : HbmInv s) {tag chip grants} : Keeps (execGrantArrive tag chip grants s) :=
  h.happen fun _ h => (h.modPart.returnGrants.ite (h.modPart.serveWaiting.ite h.modPart.serveWaiting.refill)).ite h

theorem execGrantRequestReceive_keeps (h : HbmInv s) {src tag n} : Keeps (execGrantRequestReceive src tag n s) :=
  h.happen fun _ h => (h.grant.ite_fst h).emit

theorem execJobEndReport_keeps (h : HbmInv s) {_chip wbs} : Keeps (execJobEndReport _chip wbs s) := by
  dsimp only [execJobEndReport]
  refine h.happen fun _ h => h.foldl (fun _ _ h => h.ite ?_)
  split
  · exact h.dropWb
  · exact h

end Sys2Proof.Machine
end

section
/-! SUPPORT for O60. The canonical form of HBM is kept by launches. -/
namespace Sys2Proof.Machine

variable {s s' : State}

theorem HbmInv.overrunAt (h : HbmInv s) {t overran} : HbmInv (s.overrunAt t overran) := h.modTile.tileCount.ite h.modTile
theorem HbmInv.abandonRound (h : HbmInv s) {t} : HbmInv (s.abandonRound t) := h.tileSample.modTile.tileTrap

theorem execRoundTimerExpiry_keeps (h : HbmInv s) {t} : Keeps (execRoundTimerExpiry t s) := by
  refine h.happen fun s h => h.ite ?_
  extract_lets n s1 s2
  have h1 : HbmInv s1 := h.modTile
  have h2 : HbmInv s2 := h1.overrunAt
  refine (h2.abandonRound.ite h2).ite ?_
  refine h1.overrunAt.modTile.ite ?_
  refine h1.overrunAt.modTile.ite ?_
  split
  · exact h1.modTile
  · exact h1.modTile.tileCount.watchRound

theorem HbmInv.bindPost (h : HbmInv s) {tag e l x} (he : s.bindPost tag e l x = some s') : HbmInv s' := by
  dsimp only [State.bindPost] at he
  split at he
  · obtain ⟨-, e⟩ := Option.ite_none_right_eq_some.mp he
    cases e
    exact h
  · split at he
    · nomatch he
    · split at he
      · obtain ⟨-, e⟩ := Option.ite_none_left_eq_some.mp he
        cases e
        exact h.fields
      · obtain ⟨-, e⟩ := Option.ite_none_left_eq_some.mp he
        cases e
        exact h.fields

theorem HbmInv.bindAll (h : HbmInv s) {tag e tile0 n det addr count v} (he : s.bindAll tag e tile0 n det addr count = some (s', v)) :
    HbmInv s' := by
  dsimp only [State.bindAll] at he
  split at he
  · cases he
    exact h
  · split at he
    · nomatch he
    · refine List.foldlRecOn (motive := fun o => ∀ q : State × List PostEntry, o = some q → HbmInv q.1) _ _ ?_ ?_ _ he
      · intro q e
        cases e
        exact h
      · rintro (_ | ⟨s1, l⟩) ih i - q e
        · nomatch e
        · dsimp only at e
          split at e
          · nomatch e
          · obtain ⟨_, hb, rfl⟩ := Option.map_eq_some_iff.mp e
            exact HbmInv.bindPost (s := s1) (ih _ rfl) hb

theorem HbmInv.submit (h : HbmInv s) {tag addr fn pf} : HbmInv (s.submit tag addr fn pf).1 := by
  simp only [State.submit]
  refine h.ite_fst (h.ite_fst (h.ite_fst (h.ite_fst ?_)))
  split
  · refine h.ite_fst ?_
    split
    · exact h
    · split
      · exact h
      · split <;> refine h.ite_fst ?_
        all_goals
          split
          · exact h
          · exact (h.bindAll ‹_›).fields.modPart.fields
  · exact h

theorem HbmInv.maintain (h : HbmInv s) {tag base size} : HbmInv (s.maintain tag base size) := h.foldl fun _ _ h => h.dropLine.ite h

theorem HbmInv.ordStart (h : HbmInv s) {tag} : HbmInv (s.ordStart tag) := by
  dsimp only [State.ordStart]
  split
  · split
    · split
      · refine .ite ?_ h.modPart
        exact (h.modPart.foldl (fun _ _ h => h.partWrite)).modPart
      · refine .ite ?_ h.modPart.modPart
        exact (h.modPart.modPart.foldl (fun _ _ h => h.partWrite)).modPart
    · exact (h.foldl (fun _ _ h => h.partWrite)).modPart.ite h
  · exact (h.foldl (fun _ _ h => h.partWrite)).modPart.ite h

theorem HbmInv.startLaunch (h : HbmInv s) {tag e l} : HbmInv (s.startLaunch tag e l) :=
  ((h.ordStart.foldl (fun _ _ h => h.maintain)).foldl (fun _ _ h => h.modTile)).setLaunch.foldl fun _ _ h => h.refill

theorem execLaunchProcessorTurn_keeps (h : HbmInv s) : Keeps (execLaunchProcessorTurn s) := by
  dsimp only [execLaunchProcessorTurn]
  refine h.happen fun _ h => h.ite ?_
  split
  · exact h.fields
  · split
    · exact h.fields
    · split
      · exact h.fields
      · exact h.fields.startLaunch

theorem HbmInv.unbindPosts (h : HbmInv s) {tag e l} : HbmInv (s.unbindPosts tag e l) := h.leavePosts.fields

theorem HbmInv.completeLaunch (h : HbmInv s) {tg en l st} : HbmInv (s.completeLaunch tg en l st) :=
  (((h.foldl (fun _ _ h => h.maintain)).ite h).foldl (fun _ _ h => h.modTile)).unbindPosts.stampTo.modPart.settle

theorem HbmInv.mayIdle (h : HbmInv s) : HbmInv s.mayIdle := (h.flip.fields.ite h.flip).ite h

theorem execLaunchComplete_keeps (h : HbmInv s) {tag e} : Keeps (execLaunchComplete tag e s) := by
  unfold execLaunchComplete
  refine h.happen fun _ h => ?_
  split
  · exact h
  · split
    · exact h
    · exact h.completeLaunch.mayIdle

theorem execPhaseStartInstant_keeps (h : HbmInv s) {tag i} : Keeps (execPhaseStartInstant tag i s) := by
  unfold execPhaseStartInstant
  refine h.happen fun _ h => ?_
  split
  · exact h.modPart.ite h
  · exact h

theorem execPhaseEnd_keeps (h : HbmInv s) {tag i} : Keeps (execPhaseEnd tag i s) := by
  unfold execPhaseEnd
  refine h.happen fun _ h => ?_
  split
  · exact h.endInst.settle.ite h
  · exact h

theorem HbmInv.startPhase (h : HbmInv s) {tag job phase} : HbmInv (s.startPhase tag job phase) := by
  dsimp only [State.startPhase]
  split
  · exact h.fields.modPart
  · exact h

end Sys2Proof.Machine
end

section
/-! SUPPORT for O60. The canonical form of HBM is kept by links. -/
namespace Sys2Proof.Machine

variable {s s' : State}

theorem HbmInv.replyEvent (h : HbmInv s) {t k op ext} : HbmInv (s.replyEvent t k op ext) := by
  unfold State.replyEvent
  split
  · exact h
  · exact h.event

theorem HbmInv.answer (h : HbmInv s) {src tt st v} : HbmInv (s.answer src tt st v) := h.emit

theorem HbmInv.deliverMsg (h : HbmInv s) {src m} : HbmInv (s.deliverMsg src m) := by
  unfold State.deliverMsg
  split
  · exact h.remoteServe.answer
  · exact h.replyEvent
  · exact h.event
  · exact h.valueArrive
  · exact h.commitPost
  · exact h.partWrite
  · exact h.bindWb.answer
  · split
    · exact h.dropWb.answer
    · exact h.answer
  · exact h.staleReport
  · exact h.askedValue
  · split <;> exact h.answer
  · split
    · exact h.endInst.settle
    · exact h

theorem HbmInv.releaseHolds (h : HbmInv s) {tag} : HbmInv (s.releaseHolds tag) := h.fields.foldl fun _ _ h => h.deliverMsg
theorem HbmInv.modPort (h : HbmInv s) {i f} : HbmInv (s.modPort i f) := h.fields
theorem HbmInv.deliverOrHold (h : HbmInv s) {port f} : HbmInv (s.deliverOrHold port f) := h.modPort.ite h.deliverMsg

theorem HbmInv.logOnly (h : HbmInv s) {tag code info policy level val} : HbmInv (s.logOnly tag code info policy level val) := by
  unfold State.logOnly
  split
  · exact h.faultLog
  · exact h

theorem HbmInv.writePort (h : HbmInv s) {tag region seed i n} : HbmInv (s.writePort tag region seed i n) :=
  h.partWrite.foldl fun _ _ h => h.partWrite

theorem HbmInv.saveLate (h : HbmInv s) {port f} : HbmInv (s.saveLate port f) := by
  dsimp only [State.saveLate]
  split
  · exact h
  · exact h.fresh.writePort

theorem HbmInv.keepFlit (h : HbmInv s) {port save f} : HbmInv (s.keepFlit port save f) := h.ite (h.saveLate.modPort.ite h.modPort)
theorem HbmInv.dropFlit (h : HbmInv s) {tag} : HbmInv (s.dropFlit tag) := h.logOnly

theorem HbmInv.purge (h : HbmInv s) {tag log which} : HbmInv (s.purge tag log which) :=
  (h.fields.foldl (fun _ _ h => h.dropFlit)).ite h.fields

theorem execTrainFlitReceive_keeps (h : HbmInv s) {port tag src epoch msg} : Keeps (execTrainFlitReceive port tag src epoch msg s) := by
  dsimp only [execTrainFlitReceive]
  refine h.happen fun _ h => ?_
  split
  · refine h.deliverOrHold.ite ?_
    refine h.dropFlit.ite ?_
    refine h.deliverOrHold.ite ?_
    refine (h.keepFlit.ite h.deliverOrHold).ite ?_
    exact h.keepFlit.ite h.dropFlit
  · exact h.ite (h.keepFlit.ite h.deliverOrHold)

theorem execRemoteAccessReceive_keeps (h : HbmInv s) {src tag req} : Keeps (execRemoteAccessReceive src tag req s) :=
  h.happen fun _ h => h.deliverOrHold

theorem execLinkRouteLoss_keeps (h : HbmInv s) {chip} : Keeps (execLinkRouteLoss chip s) :=
  h.happen fun _ h => h.fields.foldl (fun _ _ h => h.loseChip)

end Sys2Proof.Machine
end

section
/-! SUPPORT for O60. The canonical form of HBM is kept by slices, saving and restoring a context. -/
namespace Sys2Proof.Machine

variable {s s' : State}

theorem HbmInv.logUr (h : HbmInv s) {f a} : HbmInv (s.logUr f a) := h.modFunc

theorem HbmInv.partReg (h : HbmInv s) {f off k} (hk : ∀ n s, HbmInv s → HbmInv (k n s)) : HbmInv (s.partReg f off k) :=
  (h.ite (hk _ _ h)).ite h.logUr

theorem HbmInv.barWrite (h : HbmInv s) {fn off v k} (hk : ∀ s, HbmInv s → HbmInv (k s)) : HbmInv (s.barWrite fn off v k) :=
  h.ite ((hk _ h).ite h.modFunc)

theorem HbmInv.resideFn (h : HbmInv s) {tag f} : HbmInv (s.resideFn tag f) := by
  unfold State.resideFn
  split <;> exact h.modPart

theorem HbmInv.takeNext (h : HbmInv s) {tag after} : HbmInv (s.takeNext tag after) := by
  unfold State.takeNext
  split
  · exact h.resideFn
  · exact h.modPart

theorem execTimeSliceEnd_keeps (h : HbmInv s) {tag} : Keeps (execTimeSliceEnd tag s) := by
  dsimp only [execTimeSliceEnd]
  refine h.happen fun _ h => ?_
  split
  · exact h
  · refine h.ite ?_
    split
    · exact h.modPart
    · exact h.modPart.ite (h.foldl (fun _ _ h => h.endLaunch)).takeNext

theorem execPreemptStop_keeps (h : HbmInv s) {tag} : Keeps (execPreemptStop tag s) := by
  dsimp only [execPreemptStop]
  refine h.happen fun _ h => ?_
  split
  · exact h
  · refine h.ite ?_
    refine h.modPart.ite ?_
    split
    · exact (h.foldl (fun _ _ h => h.modTile)).modPart.event
    · exact (h.foldl (fun _ _ h => h.modTile)).modPart

theorem HbmInv.writeImage (h : HbmInv s) {tag base seed} : HbmInv (s.writeImage tag base seed) := h.foldl fun _ _ h => h.partWrite
theorem HbmInv.writePorts (h : HbmInv s) {tag base seed l} : HbmInv (s.writePorts tag base seed l) := h.foldl fun _ _ h => h.writePort
theorem HbmInv.clearPortSave (h : HbmInv s) {tag} : HbmInv (s.clearPortSave tag) := h.fields

theorem execContextSaveComplete_keeps (h : HbmInv s) {tag} : Keeps (execContextSaveComplete tag s) := by
  unfold execContextSaveComplete
  refine h.happen fun s h => ?_
  extract_lets tg p
  split
  · exact h
  · refine h.ite ?_
    split
    rename_i s1 seed hf
    have h1 : HbmInv s1 := h.fresh.of_eq hf
    extract_lets flits s2 s3 c s4 s5 s6
    have h2 : HbmInv s2 := h1.writeImage
    have h3 : HbmInv s3 := h2.writePorts.clearPortSave.ite h2
    have h5 : HbmInv s5 := h3.fields.foldl fun _ _ h => h.modTile
    exact h5.modPart.ite h5.modPart.takeNext

theorem HbmInv.restorePosts (h : HbmInv s) {ps} : HbmInv (s.restorePosts ps) := by
  unfold State.restorePosts
  refine h.foldl fun _ _ h => ?_
  split
  · exact h.fields
  · exact h

theorem HbmInv.refuseImage (h : HbmInv s) {tag c} : HbmInv (s.refuseImage tag c) := by
  unfold State.refuseImage
  refine h.foldl fun _ _ h => HbmInv.endLaunch ?_
  split
  · exact h.modTile.faultLog
  · exact h

theorem HbmInv.putBack (h : HbmInv s) {tag base c altered} : HbmInv (s.putBack tag base c altered) :=
  (h.foldl (fun _ _ h => h.setTile)).restorePosts

theorem HbmInv.makeRoom (h : HbmInv s) {tag f} : HbmInv (s.makeRoom tag f) :=
  h.modPart.ite (h.foldl (fun _ _ h => h.endLaunch)).modPart

theorem HbmInv.refuseFlits (h : HbmInv s) {l} : HbmInv (s.refuseFlits l) := by
  unfold State.refuseFlits
  refine h.foldl fun _ _ h => ?_
  split
  · exact h.answer
  · exact h.answer
  · exact h.answer
  · exact h.answer
  · exact h

theorem HbmInv.reinject (h : HbmInv s) {tag epoch l} : HbmInv (s.reinject tag epoch l) := h.fields.foldl fun _ _ h => h.dropFlit

theorem execContextRestore_keeps (h : HbmInv s) {tag} : Keeps (execContextRestore tag s) := by
  dsimp only [execContextRestore]
  refine h.happen fun _ h => ?_
  split
  · exact h
  · refine h.ite ?_
    split
    · exact h.makeRoom.ite h
    · split
      · exact h.modPart
      · split
        · split
          · exact h.fields.modPart.refuseImage.refuseFlits.clearPortSave.settle.releaseHolds
          · split
            · exact h.fields.modPart.putBack.clearPortSave.modPart.reinject.releaseHolds
            · exact h.fields.modPart.putBack.releaseHolds
        · split
          · exact h.fields.flip.modPart.refuseImage.refuseFlits.clearPortSave.settle.releaseHolds
          · split
            · exact h.fields.flip.modPart.putBack.clearPortSave.modPart.reinject.releaseHolds
            · exact h.fields.flip.modPart.putBack.releaseHolds

theorem HbmInv.zeroPosts (h : HbmInv s) {tag f} : HbmInv (s.zeroPosts tag f) := h.fields

theorem HbmInv.flr (h : HbmInv s) {tag f} : HbmInv (s.flr tag f).1 := by
  unfold State.flr
  extract_lets mine next
  split
  extract_lets s1 s2 s3 s4 s5
  have h1 : HbmInv s1 := h.zeroPosts.ite h
  have h3 : HbmInv s3 := (h1.foldl fun _ _ h => h.endLaunch).fields
  have h4 : HbmInv s4 := (h3.foldl fun _ _ h => h.modTile).ite h3
  have h5 : HbmInv s5 := h4.modPart
  have hnext : HbmInv (next s5) := h5.modPart.ite h5.takeNext
  exact (hnext.ite h5).settle

theorem execFunctionLevelReset_keeps (h : HbmInv s) {fn} : Keeps (execFunctionLevelReset fn s) := by
  refine h.happen fun _ h => .ite ?_ ?_
  · exact (h.modFunc.foldl fun _ _ h => (h.foldl fun _ _ h => h.endLaunch).settle).emit
  · exact (h.modFunc.ite_fst h.modFunc.flr).modFunc.emit

theorem HbmInv.readFlrstat (h : HbmInv s) {vf} : HbmInv (s.readFlrstat vf).1 := h.modFunc
theorem execFlrstatRead_keeps (h : HbmInv s) {vf} : Keeps (execFlrstatRead vf s) := h.happen fun _ h => h.ite h.readFlrstat.emit

end Sys2Proof.Machine
end

section
/-! SUPPORT for O60. The canonical form of HBM is kept by timetables and trains. -/
namespace Sys2Proof.Machine

variable {s s' : State}

theorem HbmInv.notifySaved (h : HbmInv s) {tag code info level policy val} : HbmInv (s.notifySaved tag code info level policy val) := by
  unfold State.notifySaved
  split
  · exact h
  · exact (h.foldl (fun _ _ h => h.faultLogOf)).fields

theorem HbmInv.notify (h : HbmInv s) {tag code info level policy val} : HbmInv (s.notify tag code info level policy val) :=
  (h.foldl (fun _ _ h => h.faultLog.tileTrap)).notifySaved

theorem HbmInv.clockChange (h : HbmInv s) {c info} : HbmInv (s.clockChange c info) := h.fields.foldl fun _ _ h => h.notify
theorem HbmInv.enterHoldover (h : HbmInv s) : HbmInv s.enterHoldover := h.fields.clockChange
theorem execHoldoverEntry_keeps (h : HbmInv s) : Keeps (execHoldoverEntry s) := h.happen fun _ h => h.enterHoldover.ite h
theorem execClockLost_keeps (h : HbmInv s) : Keeps (execClockLost s) := h.happen fun _ h => h.clockChange.ite h
theorem HbmInv.lock (h : HbmInv s) {mag} : HbmInv (s.lock mag) := h.fields.ite h.fields.clockChange
theorem HbmInv.servo (h : HbmInv s) {offset} : HbmInv (s.servo offset) := h.fields
theorem HbmInv.setForward (h : HbmInv s) {n} : HbmInv (s.setForward n) := h.fields

theorem execPtpSync_keeps (h : HbmInv s) {pps offset} : Keeps (execPtpSync pps offset s) := by
  refine h.happen fun s h => h.ite ?_
  extract_lets s1 s2
  have h1 : HbmInv s1 := h.ite h.emit
  have h2 : HbmInv s2 := h1.servo
  refine (h2.lock.ite (h2.enterHoldover.ite h2)).ite ?_
  exact h1.setForward.lock.ite (h1.servo.lock.ite h1)

theorem HbmInv.writeTbcfg (h : HbmInv s) {v} : HbmInv (s.writeTbcfg v) := h.ite h.fields

theorem execTbcfgWrite_keeps (h : HbmInv s) {v} : Keeps (execTbcfgWrite v s) :=
  h.happen fun _ h => h.barWrite (fun _ h => h.writeTbcfg)

theorem HbmInv.setEntry (h : HbmInv s) {tag n e} : HbmInv (s.setEntry tag n e) := h.modPart

theorem HbmInv.unprepare (h : HbmInv s) {tag n} : HbmInv (s.unprepare tag n) := by
  dsimp only [State.unprepare]
  split
  · exact (h.modPart.takeNext.ite h.modPart).ite h
  · exact h

theorem HbmInv.acceptRecord (h : HbmInv s) {tag n r} : HbmInv (s.acceptRecord tag n r) := h.unprepare.setEntry.ite h.unprepare.setEntry
theorem HbmInv.commitWindow (h : HbmInv s) {fn n} : HbmInv (s.commitWindow fn n) := h.partReg fun _ _ h => h.acceptRecord

theorem execTimetableWindowCommit_keeps (h : HbmInv s) {fn n} : Keeps (execTimetableWindowCommit fn n s) :=
  h.happen fun _ h => h.barWrite (fun _ h => h.commitWindow)

theorem HbmInv.beacon (h : HbmInv s) {c e kind} : HbmInv (s.beacon c e kind) := h.emit
theorem HbmInv.beacons (h : HbmInv s) {tag e kind} : HbmInv (s.beacons tag e kind) := h.foldl fun _ _ h => h.ite h.beacon

theorem HbmInv.act (h : HbmInv s) {tag n e ep} : HbmInv (s.act tag n e ep) := by
  unfold State.act
  extract_lets p fn tr f s1 s2 s3 ours s4 s5
  split
  · exact h.modPart.startPhase
  · exact h.modPart.event
  · exact h.modPart.event
  · have h4 : HbmInv s4 := h.modPart.clearPortSave.purge.endAt.settle.fields.modPart
    have h5 : HbmInv s5 := h4.takeNext.ite h4
    exact h5.event

theorem HbmInv.relabel (h : HbmInv s) {tag tr ep} : HbmInv (s.relabel tag tr ep) := h.fields

theorem HbmInv.fire (h : HbmInv s) {tag n bt} : HbmInv (s.fire tag n bt) := by
  unfold State.fire
  extract_lets p e late skew saving okay
  split
  extract_lets ep s0 s1 e1 s2 s3
  have h0 : HbmInv s0 := by
    unfold s0
    split
    · exact h.relabel.ite h
    · exact h
  have h2 : HbmInv s2 := h0.modPart.setEntry
  have h3 : HbmInv s3 := h2.beacons.ite h2
  exact h3.act.releaseHolds.ite h3.setEntry.beacons.releaseHolds

theorem HbmInv.prepare (h : HbmInv s) {tag n e} : HbmInv (s.prepare tag n e) := by
  unfold State.prepare
  split
  · exact h
  · split
    · exact h.modPart.makeRoom
    · exact h.modPart

theorem execTimetableFire_keeps (h : HbmInv s) {tag n} : Keeps (execTimetableFire tag n s) :=
  h.happen fun _ h => (h.fire.ite h.setEntry).ite (h.prepare.ite h)

theorem execActionBeaconReceive_keeps (h : HbmInv s) {tag n free} : Keeps (execActionBeaconReceive tag n free s) :=
  h.happen fun _ h => (h.fire.notify.ite h.fire).ite h

theorem execHaltBeaconSend_keeps (h : HbmInv s) {tag n} : Keeps (execHaltBeaconSend tag n s) :=
  h.happen fun _ h => h.setEntry.beacons.ite h

theorem execHaltBeaconReceive_keeps (h : HbmInv s) {tag n src leave} : Keeps (execHaltBeaconReceive tag n src leave s) :=
  h.happen fun _ h => h.setEntry.ite h.setEntry

theorem HbmInv.killSelf (h : HbmInv s) {tag e val} : HbmInv (s.killSelf tag e val) := h.notify.endAt.settle
theorem HbmInv.evict (h : HbmInv s) {tag l} : HbmInv (s.evict tag l) := (h.modPart.foldl (fun _ _ h => h.loseChip)).purge

theorem HbmInv.onVerdict (h : HbmInv s) {tag n missing} : HbmInv (s.onVerdict tag n missing) := by
  unfold State.onVerdict
  split
  · exact h.setEntry
  · refine h.setEntry.notify.endAt.settle.ite ?_
    refine h.setEntry.notify.ite ?_
    refine .ite ?_ h.setEntry.notify.evict
    exact h.setEntry.notify.setEntry.killSelf

theorem execVerdictSend_keeps (h : HbmInv s) {tag n} : Keeps (execVerdictSend tag n s) :=
  h.happen fun _ h => (h.foldl (fun _ _ h => h.ite h.emit)).onVerdict.ite h

theorem execVerdictReceive_keeps (h : HbmInv s) {tag n missing} : Keeps (execVerdictReceive tag n missing s) :=
  h.happen fun _ h => h.onVerdict.ite h

theorem execLeadFailover_keeps (h : HbmInv s) {tag n} : Keeps (execLeadFailover tag n s) := by
  dsimp only [execLeadFailover]
  refine h.happen fun _ h => .ite ?_ h
  split
  · exact h.setEntry.setEntry.killSelf
  · refine h.setEntry.modPart.ite ?_
    refine h.setEntry.modPart.beacon.ite ?_
    exact h.setEntry.modPart.beacon.ite h.setEntry.modPart

theorem execTime_keeps (h : HbmInv s) {hd d} : Keeps (execTime hd d s) := h.issue h.ask.go

theorem execTtab_keeps (h : HbmInv s) {hd a b} : Keeps (execTtab hd a b s) := by
  unfold execTtab
  refine h.issue (.ite .trap (.ite .trap ?_))
  split
  · exact .ite .wait (h.softRead (fun _ h => h.addOp.go))
  · exact .ite .trap (.ite .wait h.addOp.go)
  · exact .trap

end Sys2Proof.Machine
end

section
/-! SUPPORT for O60. The canonical form of HBM is kept by page requests. -/
namespace Sys2Proof.Machine

variable {s s' : State}

theorem HbmInv.sendHeld (h : HbmInv s) {t k} : HbmInv (s.sendHeld t k) := (h.setSlot.sendActs.foldl (fun _ _ h => h.nearLanes)).ite h

theorem execAccessConfirmed_keeps (h : HbmInv s) {t k op large perm} : Keeps (execAccessConfirmed t k op large perm s) := by
  dsimp only [execAccessConfirmed]
  refine h.happenAt fun _ h => ?_
  split
  · exact h
  · split
    · exact h
    · exact h.ite (h.modPart.ite h).modSlot.sendHeld

theorem HbmInv.joinBatch (h : HbmInv s) {t k o} : HbmInv (s.joinBatch t k o) := h.ite h.modSlot

theorem execRunAheadStart_keeps (h : HbmInv s) {t k small} : Keeps (execRunAheadStart t k small s) := by
  dsimp only [execRunAheadStart]
  refine h.happenAt fun _ h => ?_
  split
  · split
    · exact h
    · refine h.ite ?_
      refine h.modTile.sendHeld.ite ?_
      refine h.modTile.ite ?_
      split
      · exact (h.setSlot.foldl (fun _ _ h => h.joinBatch)).rollBack
      · exact h.setSlot.foldl fun _ _ h => h.joinBatch
  · exact h

theorem HbmInv.endBatch (h : HbmInv s) {b} : HbmInv (s.endBatch b) := h.tileSample.fields.modPart

theorem HbmInv.pageDone (h : HbmInv s) {b pg a} : HbmInv (s.pageDone b pg a) := by
  unfold State.pageDone
  split
  · exact h.modSlot
  · exact (h.modPart.ite h).ite h.modSlot

theorem execPageBatchAnswered_keeps (h : HbmInv s) {t k launch ctx answers} : Keeps (execPageBatchAnswered t k launch ctx answers s) := by
  unfold execPageBatchAnswered
  refine h.happenAt fun _ h => ?_
  split
  · exact h
  · refine h.ite ?_
    refine h.endBatch.ite ?_
    exact h.ite (h.endBatch.foldl (fun _ _ h => h.pageDone))

theorem execPageRequestTimeout_keeps (h : HbmInv s) {t k} : Keeps (execPageRequestTimeout t k s) := by
  unfold execPageRequestTimeout
  refine h.happenAt fun _ h => ?_
  split
  · exact h
  · exact h.endBatch.ite (h.endBatch.foldl (fun _ _ h => h.pageDone))

theorem HbmInv.signal (h : HbmInv s) {tag} : HbmInv (s.signal tag) := h.emit.foldl fun _ _ h => h.emit.ite h

theorem execRemotePageRequestReceive_keeps (h : HbmInv s) {tag src ptag addr w} :
    Keeps (execRemotePageRequestReceive tag src ptag addr w s) := h.happen fun _ h => h.partWrite.modPart.signal.ite h.emit

theorem execHostCompletionTimeout_keeps (h : HbmInv s) {t k op} : Keeps (execHostCompletionTimeout t k op s) := by
  unfold execHostCompletionTimeout
  refine h.happenAt fun _ h => ?_
  split
  · exact h
  · exact h.failOp.ite h

end Sys2Proof.Machine
end

section
/-! SUPPORT for O60. The canonical form of HBM is kept by the events of the module. -/
namespace Sys2Proof.Machine

variable {s s' : State}

theorem execNop_keeps (h : HbmInv s) {hd} : Keeps (execNop hd s) := h.issue h.go
theorem HbmInv.breakTrap (h : HbmInv s) {info val} : (s.breakTrap info val).Inv := .ite .trap h.takeTrap.own
theorem execTrap_keeps (h : HbmInv s) {hd imm} : Keeps (execTrap hd imm s) := h.issue (h.breakTrap.ite (.ite .wait h.passUp.own))
theorem execBrk_keeps (h : HbmInv s) {hd imm} : Keeps (execBrk hd imm s) := h.issue (h.updTile.emit.own.ite (h.go.ite h.breakTrap))
theorem execEret_keeps (h : HbmInv s) {hd} : Keeps (execEret hd s) := h.issue (.ite .trap (h.endSelf.own.ite h.leaveTrap.jump))
theorem execIfence_keeps (h : HbmInv s) {hd} : Keeps (execIfence hd s) := h.issue (.ite .wait h.updTile.go)
theorem HbmInv.csrCommit (h : HbmInv s) {t} : HbmInv (s.csrCommit t) := h.ite h.modTile.noteDenied

theorem HbmInv.csrPut (h : HbmInv s) {n v} : HbmInv (s.csrPut n v) := by
  unfold State.csrPut
  split
  · exact h.upd
  · exact h.upd
  · exact h.upd
  · exact h.upd
  · exact h.upd.ite (h.updTile.noteDenied.ite h)

theorem execCsrr_keeps (h : HbmInv s) {hd d csr} : Keeps (execCsrr hd d csr s) := by
  unfold execCsrr
  refine h.issue ?_
  split
  · exact .trap
  · exact h.upd.go

theorem HbmInv.csrRmw (h : HbmInv s) {hd d csr a f old} : Keeps (s.csrRmw hd d csr a f old) := by
  unfold State.csrRmw
  refine h.issue ?_
  split
  · exact .trap
  · exact (h.updTile.ite h.csrPut).upd.go

end Sys2Proof.Machine
end

section
/-! SUPPORT for O60. The canonical form of HBM is kept by grants and returned values. -/
namespace Sys2Proof.Machine

variable {s s' : State}

theorem HbmInv.answered (h : HbmInv s) {t k o v} : HbmInv (s.answered t k o v) := h.modSlot

theorem HbmInv.performQuery (h : HbmInv s) {t k o q ext} : HbmInv (s.performQuery t k o q ext) := by
  dsimp only [State.performQuery]
  split
  · exact h.answered.modTile
  · exact h.answered
  · exact h.ite h.invokeReturn
  · exact h.wbQueried
  · exact h.wbQueried
  · exact h.submit.answered
  · exact h.answered
  · exact h.answered
  · exact h.answered
  · exact h

theorem HbmInv.deliverSample (h : HbmInv s) {t k o n m} : HbmInv (s.deliverSample t k o n m) := h.modSlot.watchSee

theorem HbmInv.loadSample (h : HbmInv s) {t o} : HbmInv (s.loadSample t o) := by
  unfold State.loadSample
  split
  · exact h.tileSample.ite h
  · exact h.tileSample.ite h
  · exact h

theorem execLongResultReturn_keeps (h : HbmInv s) {t k op part ext} : Keeps (execLongResultReturn t k op part ext s) := by
  dsimp only [execLongResultReturn]
  refine h.happenAt fun _ h => ?_
  split
  · exact h
  · refine h.modSlot.ite ?_
    split
    · split
      · exact h.deliverSample
      · exact h.loadSample.deliverDest
    · split
      · exact h.returnPiece
      · exact h.returnPiece
      · exact h.performQuery.ite h
      · exact h

theorem HbmInv.performAct (h : HbmInv s) {t k o a} : HbmInv (s.performAct t k o a) := by
  unfold State.performAct
  split
  · refine .ite ?_ h.modSlot.acceptJob
    exact h.modSlot.modTile.modSlot.ite h.modSlot.modTile
  · exact h.modSlot.lfinDo
  · exact h.modSlot.endObject

theorem execStorePerformed_keeps (h : HbmInv s) {t k op part ext} : Keeps (execStorePerformed t k op part ext s) := by
  dsimp only [execStorePerformed]
  refine h.happenAt fun _ h => ?_
  split
  · exact h
  · split
    · exact h.performPiece
    · exact h.performPiece
    · exact h.performFlush
    · exact h.bindDone.ite h
    · exact h.dropDone.ite h
    · exact h.modSlot.acceptRecord.ite h
    · exact h.performAct.ite h
    · exact h

theorem HbmInv.resumeEnd (h : HbmInv s) {t k} : HbmInv (s.resumeEnd t k) := by
  unfold State.resumeEnd
  split
  · exact h.modSlot.deliver
  · exact h.finishSlot

theorem HbmInv.resume (h : HbmInv s) {t k} : HbmInv (s.resume t k) := by
  unfold State.resume
  split
  · exact h.modSlot.resumeEnd
  · exact h.modSlot.finishSlot
  · exact h.modSlot.deliver
  · exact h.modSlot.resumeDrain
  · exact h.modSlot

theorem execSlotResume_keeps (h : HbmInv s) {t k} : Keeps (execSlotResume t k s) := h.happenAt fun _ h => h.resume.ite h

theorem execDeferredTrap_keeps (h : HbmInv s) {t k} : Keeps (execDeferredTrap t k s) := by
  dsimp only [execDeferredTrap]
  refine h.happenAt fun _ h => ?_
  split
  · exact h
  · exact h.ite (h.rollBack.ite h.setSlot.takeTrap)

end Sys2Proof.Machine
end

section
/-! SUPPORT for O60. The canonical form of HBM is kept by the registers and the host. -/
namespace Sys2Proof.Machine

variable {s s' : State}

theorem HbmInv.drainRegion (h : HbmInv s) {tag r} : HbmInv (s.drainRegion tag r) := h.foldl fun _ _ h => h.viewWriteBack

theorem HbmInv.writeRegionCtl (h : HbmInv s) {tag n v} : HbmInv (s.writeRegionCtl tag n v) := by
  unfold State.writeRegionCtl
  refine .ite ?_ (h.setPart.ite h.setPart)
  exact h.modPart.ite h.drainRegion.modPart

theorem HbmInv.writeRegion (h : HbmInv s) {tag n w v} : HbmInv (s.writeRegion tag n w v) := h.ite h.setPart
theorem HbmInv.writeRange (h : HbmInv s) {tag n hi v} : HbmInv (s.writeRange tag n hi v) := h.modPart
theorem HbmInv.writeOrd (h : HbmInv s) {tag r v} : HbmInv (s.writeOrd tag r v) := h.setPart.ite h.setPart

theorem HbmInv.writeLsubmit (h : HbmInv s) {fn v} : HbmInv (s.writeLsubmit fn v) :=
  h.logUr.ite (h.submit.modFunc.event.ite h.submit.modFunc)

theorem HbmInv.setCfgErr (h : HbmInv s) {tag c} : HbmInv (s.setCfgErr tag c) := h.modPart

theorem HbmInv.enablePart (h : HbmInv s) {tag} : HbmInv (s.enablePart tag) := by
  unfold State.enablePart
  refine h.ite ?_
  refine h.setCfgErr.ite ?_
  exact (h.setPart.foldl (fun _ _ h => h.modTile)).fields

theorem HbmInv.wipe (h : HbmInv s) {tag} : HbmInv (s.wipe tag) :=
  ((h.foldl (fun _ _ h => h.setTile)).foldl (fun _ _ h => h.freeWb)).fields

theorem HbmInv.unbindAll (h : HbmInv s) {tag} : HbmInv (s.unbindAll tag) := h.fields
theorem HbmInv.endSession (h : HbmInv s) {tag} : HbmInv (s.endSession tag) := h.fields.foldl fun _ _ h => h.modTile

theorem HbmInv.tearDown (h : HbmInv s) {tag} : HbmInv (s.tearDown tag) :=
  h.reportFree.returnGrants.endSession.unbindAll.wipe.setPart.fields

theorem HbmInv.disablePart (h : HbmInv s) {tag} : HbmInv (s.disablePart tag) := h.ite (h.setCfgErr.ite h.tearDown)
theorem HbmInv.writeVfbind (h : HbmInv s) {vf v} : HbmInv (s.writeVfbind vf v) := h.fields.ite h.modFunc
theorem HbmInv.writeVfCtxbase (h : HbmInv s) {vf v} : HbmInv (s.writeVfCtxbase vf v) := h.ite h.modFunc
theorem HbmInv.writeQcfg (h : HbmInv s) {q v} : HbmInv (s.writeQcfg q v) := h.ite h.fields
theorem HbmInv.writeHubMon (h : HbmInv s) {hd v} : HbmInv (s.writeHubMon hd v) := h.fields
theorem HbmInv.writeSliceMon (h : HbmInv s) {tag v} : HbmInv (s.writeSliceMon tag v) := h.modPart

theorem HbmInv.ownReg (h : HbmInv s) {fn off k} (hk : ∀ s, HbmInv s → HbmInv (k s)) : HbmInv (s.ownReg fn off k) :=
  h.logUr.ite (hk _ h)

theorem HbmInv.writeAttreq (h : HbmInv s) {fn v} : HbmInv (s.writeAttreq fn v) := h.ownReg fun _ h => h.modFunc

theorem HbmInv.writeDbgreq (h : HbmInv s) {fn v} : HbmInv (s.writeDbgreq fn v) :=
  h.ownReg fun _ h => h.ite (h.modFunc.endSession.ite (h.modFunc.ite h.modFunc.fresh.modFunc))

theorem HbmInv.writeDbgresp (h : HbmInv s) {fn ecdsa lms} : HbmInv (s.writeDbgresp fn ecdsa lms) :=
  h.ownReg fun _ h => h.modFunc.fields.ite h.modFunc

theorem HbmInv.hostBlock (h : HbmInv s) {fn a d n} : HbmInv (s.hostBlock fn a d n) := h.foldl fun _ _ h => h.emit

theorem execAttestationReportDone_keeps (h : HbmInv s) {fn} : Keeps (execAttestationReportDone fn s) :=
  h.happen fun _ h => h.fields.hostBlock.modFunc.ite h

theorem HbmInv.writePartReg (h : HbmInv s) {tag off v} : HbmInv (s.writePartReg tag off v) := by
  unfold State.writePartReg
  refine (h.ite h.writeRegion).ite ?_
  refine h.modPart.ite ?_
  split
  · exact h.modPart
  · exact h.modPart
  · exact h.modPart
  · exact h.modPart
  · exact h.modPart
  · exact h

theorem HbmInv.writeFnReg (h : HbmInv s) {fn off v} : HbmInv (s.writeFnReg fn off v) := (h.ite h.modFunc).ite (h.modFunc.ite h)

theorem HbmInv.writeBlock (h : HbmInv s) {off v} : HbmInv (s.writeBlock off v) := by
  unfold State.writeBlock
  refine h.fields.ite ?_
  refine h.fields.ite ?_
  refine h.ite ?_
  refine h.modPart.ite ?_
  refine h.modPart.ite ?_
  refine (h.ite h.modPart).ite ?_
  refine (h.ite h.modPart).ite ?_
  refine (h.ite h.modPart).ite ?_
  split
  · exact h.ite h.modPart
  · exact h.ite h.modPart
  · exact h.ite h.modPart
  · exact h

theorem HbmInv.plainWrite (h : HbmInv s) {fn off v} : HbmInv (s.plainWrite fn off v) := by
  unfold State.plainWrite
  refine (h.writeBlock.ite h).ite ?_
  split
  · exact h.ownReg fun _ h => h.writeFnReg
  · exact h.partReg fun _ _ h => h.writePartReg

theorem HbmInv.recoveryEn (h : HbmInv s) {tag} : HbmInv (s.recoveryEn tag) := h.ite h.setCfgErr

theorem HbmInv.regWrite (h : HbmInv s) {fn off v} : HbmInv (s.regWrite fn off v) := by
  unfold State.regWrite
  refine h.ite ?_
  refine HbmInv.ite ?_ ?_
  · refine h.ite ?_
    refine (h.recoveryEn.ite (h.enablePart.ite h.disablePart)).ite ?_
    refine h.writeQcfg.ite ?_
    refine h.writeVfbind.ite ?_
    refine h.writeVfCtxbase.ite ?_
    refine h.writeHubMon.ite ?_
    exact h.writeTbcfg.ite h.plainWrite
  · refine (h.partReg fun _ _ h => h.writeRegionCtl).ite ?_
    refine (h.partReg fun _ _ h => h.writeRange).ite ?_
    refine (h.partReg fun _ _ h => h.writeOrd).ite ?_
    refine (h.partReg fun _ _ h => h.modPart).ite ?_
    refine (h.partReg fun _ _ h => h.foldl fun _ _ h => h.emit.modPart).ite ?_
    refine h.writeLsubmit.ite ?_
    refine h.writeAttreq.ite ?_
    refine h.writeDbgreq.ite ?_
    refine h.commitWindow.ite ?_
    refine (h.partReg fun _ _ h => h.modPart).ite ?_
    exact (h.partReg fun _ _ h => h.writeSliceMon).ite h.plainWrite

theorem HbmInv.regRead (h : HbmInv s) {fn off} : HbmInv (s.regRead fn off).1 := by
  unfold State.regRead
  split
  · exact h
  · split
    · exact h.ite_fst (h.readFlrstat.ite_fst h)
    · exact h.ite_fst (h.ite_fst (h.ite_fst h))

theorem HbmInv.hostReg (h : HbmInv s) {fn off v} : HbmInv (s.hostReg fn off v) := h.barWrite fun _ h => h.regWrite
theorem execRegionEnable_keeps (h : HbmInv s) {fn n v} : Keeps (execRegionEnable fn n v s) := h.happen fun _ h => h.hostReg.ite h
theorem execRegionDisable_keeps (h : HbmInv s) {fn n v} : Keeps (execRegionDisable fn n v s) := h.happen fun _ h => h.ite h.hostReg
theorem execTeardownComplete_keeps (h : HbmInv s) {tag} : Keeps (execTeardownComplete tag s) := h.happen fun _ h => h.setPart.ite h

theorem execClearMapScrub_keeps (h : HbmInv s) {ch} : Keeps (execClearMapScrub ch s) := by
  unfold execClearMapScrub
  refine h.happen fun _ h => ?_
  split
  · exact h
  · exact h.touchBlock

theorem execMonitorCfgWrite_keeps (h : HbmInv s) {fn m v} : Keeps (execMonitorCfgWrite fn m v s) := by
  unfold execMonitorCfgWrite
  refine h.happen fun _ h => ?_
  split <;> exact h.hostReg

theorem execDbgresp_keeps (h : HbmInv s) {fn ecdsa lms} : Keeps (execDbgresp fn ecdsa lms s) :=
  h.happen fun _ h => h.writeDbgresp.ite h

theorem execHostPostedWrite_keeps (h : HbmInv s) {fn bar addr bytes} : Keeps (execHostPostedWrite fn bar addr bytes s) :=
  h.happen fun _ h => h.ite h.modFunc

theorem HbmInv.bar0Write (h : HbmInv s) {fn a x f n} : HbmInv (s.bar0Write fn a x f n) := by
  induction f generalizing s a x n with
  | zero => exact h
  | succ f ih => exact (h.writeDbgresp.ite h).ite (h.ite ((ih h).ite (ih h.regWrite)))

theorem HbmInv.hostPiece (h : HbmInv s) {fn w c} : HbmInv (s.hostPiece fn w c) := by
  dsimp only [State.hostPiece]
  split
  · exact h.logUr.ite h.homeWrite
  · exact h.logUr

theorem HbmInv.someMore (h : HbmInv s) {fn w l} : HbmInv (s.someMore fn w l).1 := by
  induction l generalizing s with
  | nil => exact h
  | cons c l ih => exact ih (h.flip.hostPiece.ite h.flip)

theorem execOrderingPointSend_keeps (h : HbmInv s) {fn} : Keeps (execOrderingPointSend fn s) := by
  dsimp only [execOrderingPointSend]
  refine h.happen fun _ h => ?_
  split
  · exact h
  · refine h.someMore.modFunc.ite ?_
    refine h.modFunc.bar0Write.ite ?_
    exact h.modFunc.logUr.ite (h.modFunc.ite h.modFunc)

theorem execRouteAcknowledge_keeps (h : HbmInv s) {fn die} : Keeps (execRouteAcknowledge fn die s) := by
  dsimp only [execRouteAcknowledge]
  refine h.happen fun _ h => ?_
  split
  · exact h
  · exact h.ite (h.foldl (fun _ _ h => h.hostPiece)).modFunc

theorem HbmInv.bar0Read (h : HbmInv s) {fn a n} : HbmInv (s.bar0Read fn a n).1 := by
  induction n generalizing s a with
  | zero => exact h
  | succ n ih => exact ih h.regRead

theorem HbmInv.bar2Read (h : HbmInv s) {fn addr n} : HbmInv (s.bar2Read fn addr n) := h.emit.ite (h.emit.logUr.ite h.emit)

theorem execHostRead_keeps (h : HbmInv s) {fn bar addr n} : Keeps (execHostRead fn bar addr n s) := by
  unfold execHostRead
  refine h.happen fun _ h => h.ite ?_
  split
  · exact h.bar0Read.emit
  · exact h.bar2Read

theorem execHostAtomicopInbound_keeps (h : HbmInv s) {fn} : Keeps (execHostAtomicopInbound fn s) := h.happen fun _ h => h.emit

end Sys2Proof.Machine
end

section
/-! SUPPORT for O60. The canonical form of HBM is kept by attestation, debugging and power. -/
namespace Sys2Proof.Machine

variable {s s' : State}

theorem execCorrectedSoftError_keeps (h : HbmInv s) {tgt} : Keeps (execCorrectedSoftError tgt s) := by
  unfold execCorrectedSoftError
  refine h.happen fun _ h => ?_
  split
  · exact h.faultLog
  · exact h

theorem execUncorrectedSoftError_keeps (h : HbmInv s) {tgt} : Keeps (execUncorrectedSoftError tgt s) := by
  unfold execUncorrectedSoftError
  refine h.happen fun _ h => ?_
  split
  · exact h.fields
  · exact h.modTile
  · exact h.ite (h.modSlot.ite h.modTile)
  · split
    · exact h.fields
    · exact h
  · exact h.modTile
  · split
    · exact h.fields
    · exact h
  · exact h.fields

theorem HbmInv.zeroParts (h : HbmInv s) : HbmInv s.zeroParts := h.fields.foldl fun _ _ h => h.tearDown

theorem execBoot_keeps (h : HbmInv s) {images record chip sec} : Keeps (execBoot images record chip sec s) :=
  h.happen fun _ h => h.fields.ite (h.fields.ite h.fields.zeroParts).fields

theorem execPackageWake_keeps (h : HbmInv s) : Keeps (execPackageWake s) := h.happen fun _ h => h.fields.ite h

theorem execThrottleChange_keeps (h : HbmInv s) {tag theta} : Keeps (execThrottleChange tag theta s) :=
  h.happen fun _ h => h.ite h.setPart.fields

theorem execThermalShutdown_keeps (h : HbmInv s) : Keeps (execThermalShutdown s) := by
  unfold execThermalShutdown
  refine h.happen fun _ h => (h.foldl (fun _ _ h => h.foldl (fun _ _ h => ?_))).fields
  split
  · exact h.endLaunch.completeLaunch
  · exact h

theorem HbmInv.armBreaks (h : HbmInv s) {tag on} : HbmInv (s.armBreaks tag on) := h.fields.ite h
theorem HbmInv.openSession (h : HbmInv s) {tag} : HbmInv (s.openSession tag) := h.ite h.fields

theorem HbmInv.putRegBy (h : HbmInv s) {t k c v} : HbmInv (s.putRegBy t k c v) := by
  unfold State.putRegBy
  refine h.zeroReg.modSlot.ite ?_
  exact h.zeroReg.modTile.ite h.zeroReg.modTile

theorem HbmInv.putCsrBy (h : HbmInv s) {t k n v} : HbmInv (s.putCsrBy t k n v) := h.fields.csrPut.fields

theorem execInvasiveDebugAccess_keeps (h : HbmInv s) {tag act} : Keeps (execInvasiveDebugAccess tag act s) := by
  unfold execInvasiveDebugAccess
  refine h.happen fun _ h => ?_
  split
  · exact h.openSession.modTile.emit.ite h
  · exact h.openSession.modTile.ite h
  · exact (h.openSession.modTile.fields.ite h.openSession).ite h
  · exact (h.openSession.modSlot.ite h.openSession).ite h
  · exact (h.openSession.modSlot.ite h.openSession).ite h
  · exact h.armBreaks
  · exact (h.openSession.putRegBy.ite h.openSession).ite h
  · exact (h.openSession.putCsrBy.ite h.openSession).ite h
  · exact h.emit.ite h
  · exact h.emit.ite h

end Sys2Proof.Machine
end

section
/-! SUPPORT for O60. The canonical form of HBM is kept by the passage of time. -/
namespace Sys2Proof.Machine

variable {s s' : State}

theorem HbmInv.tickTiles (h : HbmInv s) {slow} : HbmInv (s.tickTiles slow) := h.fields
theorem HbmInv.countStretch (h : HbmInv s) : HbmInv s.countStretch := h.foldl fun _ _ h => h.tileCount.ite h
theorem HbmInv.expiries (h : HbmInv s) : HbmInv s.expiries := h.foldl fun _ _ h => h.event.ite h
theorem HbmInv.pushDue (h : HbmInv s) : HbmInv s.pushDue := (h.event.ite h).foldl fun _ _ h => h.event
theorem HbmInv.processorTurn (h : HbmInv s) : HbmInv s.processorTurn := h.event.ite h
theorem HbmInv.donePosts (h : HbmInv s) {before} : HbmInv (s.donePosts before) := h.ite (h.foldl (fun _ _ h => h.event))
theorem HbmInv.level (h : HbmInv s) : HbmInv s.level.1 := h.fields
theorem HbmInv.sampleLevels (h : HbmInv s) : HbmInv s.sampleLevels := h.level.level.fields.foldl fun _ _ h => h.tileSample.tileSample
theorem HbmInv.microsecond (h : HbmInv s) {before} : HbmInv (s.microsecond before) := h.ite h.fields.sampleLevels
theorem HbmInv.advanceTime (h : HbmInv s) : HbmInv s.advanceTime := h.fields
theorem HbmInv.sendStamps (h : HbmInv s) : HbmInv s.sendStamps := h.foldl fun _ _ h => h.stampOut
theorem HbmInv.csrCommits (h : HbmInv s) : HbmInv s.csrCommits := h.foldl fun _ _ h => h.csrCommit
theorem HbmInv.sendAll (h : HbmInv s) : HbmInv s.sendAll := h.foldl fun _ _ h => h.sendOut
theorem HbmInv.releaseAll (h : HbmInv s) : HbmInv s.releaseAll := h.ite (h.foldl (fun _ _ h => h.releaseHolds))

theorem HbmInv.tick (h : HbmInv s) {slow} : HbmInv (s.tick slow) := by
  unfold State.tick
  extract_lets s1 s2
  have h2 : HbmInv s2 := h.advanceTime.tickTiles.csrCommits.countStretch.microsecond.sendAll.sendStamps.releaseAll.expiries
  exact h2.ite h2.pushDue.processorTurn.donePosts

end Sys2Proof.Machine
end

section
/-! SUPPORT for O60. The canonical form of HBM is kept by the integer forms. -/
namespace Sys2Proof.Machine

variable {s s' : State}

theorem HbmInv.alu2 (h : HbmInv s) {hd w d a b f} : Keeps (s.alu2 hd w d a b f) := h.issue h.upd.go
theorem HbmInv.alu1 (h : HbmInv s) {hd w d a f} : Keeps (s.alu1 hd w d a f) := h.issue h.upd.go
theorem HbmInv.cmp2 (h : HbmInv s) {hd w d a b f} : Keeps (s.cmp2 hd w d a b f) := h.issue h.upd.go
theorem HbmInv.cmpImm (h : HbmInv s) {hd d a imm f} : Keeps (s.cmpImm hd d a imm f) := h.issue h.upd.go
theorem HbmInv.aluImm (h : HbmInv s) {hd w d a f} : Keeps (s.aluImm hd w d a f) := h.issue h.upd.go
theorem HbmInv.pred2 (h : HbmInv s) {hd d a b f} : Keeps (s.pred2 hd d a b f) := h.issue h.upd.go
theorem HbmInv.pred1 (h : HbmInv s) {hd d a f} : Keeps (s.pred1 hd d a f) := h.issue h.upd.go

end Sys2Proof.Machine
end

section
/-! SUPPORT for O60. The canonical form of HBM is kept by the scalar floating-point form. -/
namespace Sys2Proof.Machine

variable {s s' : State}

theorem HbmInv.fop (h : HbmInv s) {hd t tok d src f} : Keeps (s.fop hd t tok d src f) := h.issue (h.fpEnd (fun _ h => h.upd))

end Sys2Proof.Machine
end

section
/-! SUPPORT for O60. The canonical form of HBM is kept by the vector forms. -/
namespace Sys2Proof.Machine

variable {s s' : State}

theorem HbmInv.vwrite (h : HbmInv s) {d o} : HbmInv (s.vwrite d o) := by
  unfold State.vwrite
  split
  · exact h.upd
  · exact h.upd
  · split
    · exact h.upd
    · refine HbmInv.upd ?_
      split
      · exact h.updTile
      · exact h

theorem HbmInv.vop (h : HbmInv s) {hd tok other src d f after merge} (hafter : ∀ s, HbmInv s → HbmInv (after s)) :
    Keeps (s.vop hd tok other src d f after merge) := by
  dsimp only [State.vop]
  refine h.issue (.ite .wait (.ite .wait (.ite .wait ?_)))
  split
  · exact .trap
  · exact h.fpEnd fun _ h => hafter _ (h.ite h.updTile).upd.vwrite

theorem HbmInv.vshift (h : HbmInv s) {hd t m d a b f} : Keeps (s.vshift hd t m d a b f) := by
  unfold State.vshift
  split <;> exact h.vop fun _ h => h

theorem execVperm_keeps (h : HbmInv s) {hd t m d a b} : Keeps (execVperm hd t m d a b s) := h.vop fun _ h => h.forfeit
theorem HbmInv.vspecial (h : HbmInv s) {hd fn t m d a} : Keeps (s.vspecial hd fn t m d a) := h.vop fun _ h => h

end Sys2Proof.Machine
end

section
/-! SUPPORT for O60. The canonical form of HBM is kept by every instruction and event. -/
namespace Sys2Proof.Machine

variable {s s' : State}

theorem exec_keeps (i : Instr) (h : HbmInv s) : Keeps (exec i s) := by
  unfold exec
  cases i with
  | csrw | csrs | csrc => exact h.csrRmw
  | bra | ret => exact h.issue h.jump
  | call | jmpi => exact h.issue h.upd.jump
  | ccount | cpwp | cpstat | tstat => exact h.issue (.ite .trap h.ask.go)
  | add | sub | mul | mulh | mulhz | div | divz | rem | remz | and | or | xor | andn | orn | shl | shr | sha | rot | min | max
    | minz | maxz => exact h.alu2
  | clz | ctz | popc | bswap => exact h.alu1
  | bfx | bfxs | bfi | sel | mad | movi | movhi | lea | fmov | kpop | sstat => exact h.issue h.upd.go
  | cmpEq | cmpNe | cmpLt | cmpGe | cmpLtz | cmpGez => exact h.cmp2
  | addi | shli | shri | shai => exact h.aluImm
  | cmpiEq | cmpiNe | cmpiLt | cmpiGe | cmpiLtz | cmpiGez => exact h.cmpImm
  | pand | por | pxor => exact h.pred2
  | pnot | pmov => exact h.pred1
  | fadd | fsub | fmul | ffma | ffms | fnma | fdiv | fsqrt | fmin | fmax | fabs | fneg | fsgn => exact h.fop
  | fcmp | fclass | fcvt | fcvti | icvtf => exact h.issue (h.fpEnd (fun _ h => h.upd))
  | vadd | vsub | vmul | vfma | vfms | vmin | vmax | vabs | vneg | vand | vor | vxor | vcmp | vsel | vcvt | vbcast | vmovg
    | vext | vredadd | vredmax | vredmin => exact h.vop fun _ h => h
  | vshl | vshr | vsha => exact h.vshift
  | vrcp | vrsq | vexp2 | vlog2 | vsin | vcos | vtanh => exact h.vspecial
  | kand | kor | knot => exact h.maskOp
  | msety | msetz => exact h.msetForm
  | ld | ldSigned | ldB128 | vld => exact h.issue h.loadEff
  | st | stB128 | vst | strel => exact h.issue h.storeEff
  | waitcL | waitcS => exact h.issue ((h.upd.ite h).go.ite (h.upd.ite h).park)
  | amoadd | amoand | amoor | amoxor | amomin | amomax | amominz | amomaxz | amoswp | amocas => exact h.amo
  | amofadd | amofmin | amofmax => exact h.amof
  | pgetv | pgetg => exact h.issue (h.postRead fun _ _ _ => .of_trap)
  | wbstate | wbcause => exact h.wbQuery
  | rempfrsp | lsubmit | protectionRangeWrite | reminv | orderLogConfigWrite | partitionEnable | partitionDisable | qcfgWrite
    | vfbindWrite | vfCtxbaseWrite | monsel | attreq | dbgreq | bar0RegisterWrite => exact h.happen fun _ h => h.hostReg
  | nop => exact execNop_keeps h
  | trap => exact execTrap_keeps h
  | eret => exact execEret_keeps h
  | csrr => exact execCsrr_keeps h
  | brk => exact execBrk_keeps h
  | ifence => exact execIfence_keeps h
  | loop => exact execLoop_keeps h
  | rdone => exact execRdone_keeps h
  | sstart => exact execSstart_keeps h
  | sstop => exact execSstop_keeps h
  | sbar => exact execSbar_keeps h
  | launch => exact execLaunch_keeps h
  | lfin => exact execLfin_keeps h
  | cancel => exact execCancel_keeps h
  | vperm => exact execVperm_keeps h
  | sbind => exact execSbind_keeps h
  | sfree => exact execSfree_keeps h
  | srep => exact execSrep_keeps h
  | mzero => exact execMzero_keeps h
  | mmac => exact execMmac_keeps h
  | mdrain => exact execMdrain_keeps h
  | mldt => exact execMldt_keeps h
  | mfetch => exact execMfetch_keeps h
  | mbound => exact execMbound_keeps h
  | mcfg => exact execMcfg_keeps h
  | dbar => exact execDbar_keeps h
  | gangForm => exact execGangForm_keeps h
  | gangStart => exact execGangStart_keeps h
  | gangComplete => exact execGangComplete_keeps h
  | quarterOpPerform => exact execQuarterOpPerform_keeps h
  | pinLineFetch => exact execPinLineFetch_keeps h
  | pref => exact execPref_keeps h
  | flush => exact execFlush_keeps h
  | vgather => exact execVgather_keeps h
  | vscatter => exact execVscatter_keeps h
  | ldacq => exact execLdacq_keeps h
  | mwait => exact execMwait_keeps h
  | mwaitPoll => exact execMwaitPoll_keeps h
  | mwaitLimitExpiry => exact execMwaitLimitExpiry_keeps h
  | atomicPerform => exact execAtomicPerform_keeps h
  | replayHoldRelease => exact execReplayHoldRelease_keeps h
  | replayTimeout => exact execReplayTimeout_keeps h
  | cpy => exact execCpy_keeps h
  | cpybt => exact execCpybt_keeps h
  | cpchain => exact execCpchain_keeps h
  | copyCommandStart => exact execCopyCommandStart_keeps h
  | copyPieceWrite => exact execCopyPieceWrite_keeps h
  | copyStampWrite => exact execCopyStampWrite_keeps h
  | chainRecordRead => exact execChainRecordRead_keeps h
  | copyChannelHalt => exact execCopyChannelHalt_keeps h
  | pput => exact execPput_keeps h
  | pputv => exact execPputv_keeps h
  | pputg => exact execPputg_keeps h
  | pget => exact execPget_keeps h
  | pfresh => exact execPfresh_keeps h
  | pwatch => exact execPwatch_keeps h
  | postCommit => exact execPostCommit_keeps h
  | postSample => exact execPostSample_keeps h
  | invoke => exact execInvoke_keeps h
  | wbbind => exact execWbbind_keeps h
  | wbdrop => exact execWbdrop_keeps h
  | time => exact execTime_keeps h
  | ttab => exact execTtab_keeps h
  | longResultReturn => exact execLongResultReturn_keeps h
  | storePerformed => exact execStorePerformed_keeps h
  | slotResume => exact execSlotResume_keeps h
  | deferredTrap => exact execDeferredTrap_keeps h
  | roundTimerExpiry => exact execRoundTimerExpiry_keeps h
  | launchProcessorTurn => exact execLaunchProcessorTurn_keeps h
  | launchComplete => exact execLaunchComplete_keeps h
  | phaseStartInstant => exact execPhaseStartInstant_keeps h
  | phaseEnd => exact execPhaseEnd_keeps h
  | runAheadStart => exact execRunAheadStart_keeps h
  | pageRequestTimeout => exact execPageRequestTimeout_keeps h
  | teardownComplete => exact execTeardownComplete_keeps h
  | attestationReportDone => exact execAttestationReportDone_keeps h
  | timeSliceEnd => exact execTimeSliceEnd_keeps h
  | preemptStop => exact execPreemptStop_keeps h
  | contextSaveComplete => exact execContextSaveComplete_keeps h
  | contextRestore => exact execContextRestore_keeps h
  | dispatcherInvocationArrive => exact execDispatcherInvocationArrive_keeps h
  | dispatcherHandOut => exact execDispatcherHandOut_keeps h
  | donePostScan => exact execDonePostScan_keeps h
  | resultTransfer => exact execResultTransfer_keeps h
  | jobEndReport => exact execJobEndReport_keeps h
  | holdoverEntry => exact execHoldoverEntry_keeps h
  | clockLost => exact execClockLost_keeps h
  | timetableFire => exact execTimetableFire_keeps h
  | haltBeaconSend => exact execHaltBeaconSend_keeps h
  | verdictSend => exact execVerdictSend_keeps h
  | leadFailover => exact execLeadFailover_keeps h
  | packageWake => exact execPackageWake_keeps h
  | hostPostedWrite => exact execHostPostedWrite_keeps h
  | orderingPointSend => exact execOrderingPointSend_keeps h
  | routeAcknowledge => exact execRouteAcknowledge_keeps h
  | hostRead => exact execHostRead_keeps h
  | hostAtomicopInbound => exact execHostAtomicopInbound_keeps h
  | hostCompletionTimeout => exact execHostCompletionTimeout_keeps h
  | functionLevelReset => exact execFunctionLevelReset_keeps h
  | ptpSync => exact execPtpSync_keeps h
  | remoteAccessReceive => exact execRemoteAccessReceive_keeps h
  | remotePageRequestReceive => exact execRemotePageRequestReceive_keeps h
  | trainFlitReceive => exact execTrainFlitReceive_keeps h
  | correctedSoftError => exact execCorrectedSoftError_keeps h
  | uncorrectedSoftError => exact execUncorrectedSoftError_keeps h
  | boot => exact execBoot_keeps h
  | linkRouteLoss => exact execLinkRouteLoss_keeps h
  | waybillValueArrive => exact execWaybillValueArrive_keeps h
  | haltBeaconReceive => exact execHaltBeaconReceive_keeps h
  | grantRequestReceive => exact execGrantRequestReceive_keeps h
  | invasiveDebugAccess => exact execInvasiveDebugAccess_keeps h
  | throttleChange => exact execThrottleChange_keeps h
  | thermalShutdown => exact execThermalShutdown_keeps h
  | accessConfirmed => exact execAccessConfirmed_keeps h
  | pageBatchAnswered => exact execPageBatchAnswered_keeps h
  | copyPageRequestAnswer => exact execCopyPageRequestAnswer_keeps h
  | regionEnable => exact execRegionEnable_keeps h
  | regionDisable => exact execRegionDisable_keeps h
  | clearMapScrub => exact execClearMapScrub_keeps h
  | monitorCfgWrite => exact execMonitorCfgWrite_keeps h
  | dbgresp => exact execDbgresp_keeps h
  | tbcfgWrite => exact execTbcfgWrite_keeps h
  | timetableWindowCommit => exact execTimetableWindowCommit_keeps h
  | flrstatRead => exact execFlrstatRead_keeps h
  | grantArrive => exact execGrantArrive_keeps h
  | actionBeaconReceive => exact execActionBeaconReceive_keeps h
  | verdictReceive => exact execVerdictReceive_keeps h

end Sys2Proof.Machine
end

section
/-! SUPPORT for O60. The canonical form of HBM is kept by a turn. -/
namespace Sys2Proof.Machine

variable {s s' : State}

theorem HbmInv.refuse (h : HbmInv s) {code v} : HbmInv (s.refuse code v) := h.rollBack.ite h.upd.trapMe

/-- The definition is unfolded before it is applied to `s`: comparing it with its body at `s`, the kernel would evaluate the fetch. -/
theorem HbmInv.fetchAndRun (h : HbmInv s) : Keeps s.fetchAndRun := by
  generalize hf : State.fetchAndRun = f
  delta State.fetchAndRun at hf
  subst hf
  beta_reduce
  extract_lets s0 pc
  have h0 : HbmInv s0 := h.countReps
  clear_value s0 pc
  split
  · exact h0.refuse.next
  · split
    · exact h0.refuse.next
    · split
      · exact exec_keeps _ (h0.fetchInsn.of_eq ‹_›)
      · exact (h0.fetchInsn.of_eq ‹_›).refuse.next

theorem HbmInv.issueTurn (h : HbmInv s) {t k} : Keeps (s.issueTurn t k) := by
  unfold State.issueTurn
  split
  · exact h.modTile.tileCount.fetchAndRun
  · exact execDeferredTrap_keeps h

theorem HbmInv.testPark (h : HbmInv s) {t k} : Keeps (s.testPark t k) := by
  unfold State.testPark
  split
  · split
    · exact execMwaitLimitExpiry_keeps h
    · exact execMwaitPoll_keeps h
  · exact execSlotResume_keeps h

theorem HbmInv.parkedTurn (h : HbmInv s) {t k} : Keeps (s.parkedTurn t k) := by
  unfold State.parkedTurn
  split
  · rename_i s1 e
    have h1 : HbmInv s1 := h.testPark s1 e
    split
    · exact h1.issueTurn
    · exact h1.modSlot.next
  · exact h.testPark

theorem HbmInv.startUp (h : HbmInv s) {t k} : HbmInv (s.startUp t k) := by
  unfold State.startUp
  split
  · exact h.modSlot.ite h
  · exact h

theorem HbmInv.takeTurn (h : HbmInv s) {t k} : Keeps (s.takeTurn t k) := by
  dsimp only [State.takeTurn]
  split
  · exact h.fields.startUp.next
  · split
    · exact h.fields.startUp.modSlot.tileCount.next
    · split
      · exact h.fields.startUp.parkedTurn
      · exact h.fields.startUp.issueTurn

theorem HbmInv.turn (h : HbmInv s) {t k} : Keeps (s.turn t k) := by
  unfold State.turn
  split
  · split
    · exact h.modTile.takeTurn
    · exact h.next
  · exact h.next

theorem HbmInv.firstInner (h : HbmInv s) {l} (e : s.firstInner l = some s') : HbmInv s' := by
  induction l with
  | nil => nomatch e
  | cons i l ih =>
    unfold State.firstInner at e
    split at e
    · exact ih e
    · split at e
      · rename_i e1
        split at e
        · exact ih e
        · cases e
          exact exec_keeps _ h _ e1
      · exact ih e

theorem HbmInv.auto (h : HbmInv s) : HbmInv s.auto := by
  unfold State.auto
  split
  · exact h.fields
  · split
    · exact h.firstInner ‹_›
    · exact h.tick

theorem HbmInv.passTime (h : HbmInv s) {slow} : HbmInv (s.passTime slow) := by
  unfold State.passTime
  split
  · exact h.fields
  · exact h.fields.tick.fields

theorem HbmInv.fetchAhead (h : HbmInv s) {t c a} : HbmInv (s.fetchAhead t c a) := h.icacheFill.ite h

end Sys2Proof.Machine
end

section
/-! O60: the canonical form of HBM is kept by a step. -/
namespace Sys2Proof.Machine

variable {s s' : State}

theorem step_keeps (h : HbmInv s) : Keeps (step s) := by
  unfold step
  split
  · exact .fault
  · split
    · exact exec_keeps _ h.fields
    · exact h.fields.turn
    · exact h.fields.passTime.next
    · exact h.fields.fetchAhead.next
    · exact h.auto.next

/-- Settles O60: HBM is written by `State.touchBlock` and `State.writeHbmBytes` alone, which keep the form, and a step writes it by no
other way. -/
theorem stepKeepsHbmCanonical : Obligations.StepKeepsHbmCanonical := by
  unfold Obligations.StepKeepsHbmCanonical
  intro s t h e
  exact step_keeps h t e

end Sys2Proof.Machine
end

section
/-! SUPPORT for O4. Which check of R62 refuses a word, by its fields. -/
namespace Sys2Proof.Machine

/-! ## Fields of a word (R53) -/

theorem toNat_extractLsb'_eq_fld (x : InsnWord) (l w : Nat) : (x.extractLsb' l w).toNat = fld x.toNat l w := by
  rw [BitVec.extractLsb'_toNat, Nat.shiftRight_eq_div_pow, fld]

theorem ofWord_cls (x : InsnWord) : (Raw.ofWord x.toNat).cls = (x.extractLsb' 90 6).toNat := (toNat_extractLsb'_eq_fld x 90 6).symm
theorem ofWord_fn (x : InsnWord) : (Raw.ofWord x.toNat).fn = (x.extractLsb' 83 7).toNat := (toNat_extractLsb'_eq_fld x 83 7).symm
theorem ofWord_cache (x : InsnWord) : (Raw.ofWord x.toNat).cache = (x.extractLsb' 75 2).toNat := (toNat_extractLsb'_eq_fld x 75 2).symm
theorem ofWord_sched (x : InsnWord) : (Raw.ofWord x.toNat).sched = (x.extractLsb' 73 2).toNat := (toNat_extractLsb'_eq_fld x 73 2).symm

/-! ## The last function of a class (R64, R66, R70) -/

theorem row00_eq_none {fn : Nat} (h : 8 < fn) : row00 fn = none := by
  obtain ⟨k, rfl⟩ := Nat.exists_eq_add_of_le' h
  rfl

theorem row03_eq_none {op : Nat} (h : 36 < op) : row03 op = none := by
  obtain ⟨k, rfl⟩ := Nat.exists_eq_add_of_le' h
  rfl

theorem row03_eq_some : ∀ {op : Nat}, op ≤ 36 → ∃ w, row03 op = some w := by
  simp only [← Option.isSome_iff_exists]
  decide

theorem row07_eq_none {fn : Nat} (h : 31 < fn) : row07 fn = none := by
  obtain ⟨k, rfl⟩ := Nat.exists_eq_add_of_le' h
  rfl

/-! ## Checks 1 to 3 -/

variable {x : InsnWord} {c : BitVec 6} {w : Row} {r : Raw}

theorem decode_of_unassigned_class (h : 0x12 < (x.extractLsb' 90 6).toNat) : decode x = .illegal 1 90 := by
  rw [← ofWord_cls] at h
  exact if_pos h

theorem decode_of_row_none (hc : x.extractLsb' 90 6 = c) (hle : c.toNat ≤ 0x12)
    (h : rowOf c.toNat (x.extractLsb' 83 7).toNat = none) : decode x = .illegal 2 83 := by
  rw [decode, decodeRaw, ofWord_cls, ofWord_fn, hc, if_neg (Nat.not_lt.mpr hle), h]

theorem decode_of_row (hc : x.extractLsb' 90 6 = c) (hle : c.toNat ≤ 0x12)
    (h : rowOf c.toNat (x.extractLsb' 83 7).toNat = some w) : decode x = w.decode (Raw.ofWord x.toNat) := by
  rw [decode, decodeRaw, ofWord_cls, ofWord_fn, hc, if_neg (Nat.not_lt.mpr hle), h]

theorem exists_row_of_class3 (hc : x.extractLsb' 90 6 = 3) (hf : (x.extractLsb' 83 7).toNat ≤ 0x49) :
    ∃ w : Row, decode x = w.decode (Raw.ofWord x.toNat) := by
  obtain ⟨w, hw⟩ := row03_eq_some (Nat.div_le_div_right (c := 2) hf)
  exact ⟨w, decode_of_row hc (by decide) hw⟩

theorem Row.decode_of_reserved_sched (h : r.sched = 3) : w.decode r = .illegal 3 73 := if_pos h

theorem Row.decode_of_unaccepted_cache (hs : r.sched ≠ 3) (hc : r.cache ≠ 0) (ha : cacheAccepted r.cls r.fn = false) :
    w.decode r = .illegal 3 75 := by
  rw [Row.decode, if_neg hs, if_pos ⟨hc, ha⟩]

end Sys2Proof.Machine
end

section
/-! O4: the words worked out in the spec, and the words of no instruction. -/
namespace Sys2Proof.Machine

/-- Fifteen fixed words: the decoder is evaluated on each. -/
theorem workedWordsDecode : Claims.WorkedWordsDecode := by
  unfold Claims.WorkedWordsDecode
  decide

/-- R62, R63. -/
theorem unassignedWordsRefused : Claims.UnassignedWordsRefused := by
  intro x
  refine ⟨decode_of_unassigned_class, fun hc hf => ?function0, fun hc hf => ?function3, fun hc hf => ?function7,
    fun hc hf hs => ?sched, fun hc hf hs hca => ?cache⟩
  case function0 => exact decode_of_row_none hc (by decide) (row00_eq_none hf)
  case function3 =>
    have hop : 36 < (x.extractLsb' 83 7).toNat / 2 := by omega
    exact decode_of_row_none hc (by decide) (row03_eq_none hop)
  case function7 => exact decode_of_row_none hc (by decide) (row07_eq_none hf)
  case sched =>
    obtain ⟨w, hw⟩ := exists_row_of_class3 hc hf
    have hsched : (Raw.ofWord x.toNat).sched = 3 := by rw [ofWord_sched, hs]; rfl
    rw [hw, Row.decode_of_reserved_sched hsched]
  case cache =>
    obtain ⟨w, hw⟩ := exists_row_of_class3 hc hf
    have hsched : (Raw.ofWord x.toNat).sched ≠ 3 :=
      fun h => hs (BitVec.eq_of_toNat_eq ((ofWord_sched x).symm.trans h))
    have hcache : (Raw.ofWord x.toNat).cache ≠ 0 :=
      fun h => hca (BitVec.eq_of_toNat_eq ((ofWord_cache x).symm.trans h))
    have haccepted : cacheAccepted (Raw.ofWord x.toNat).cls (Raw.ofWord x.toNat).fn = false := by
      rw [ofWord_cls, hc]; rfl
    rw [hw, Row.decode_of_unaccepted_cache hsched hcache haccepted]

/-- Settles O4: the fixed words by evaluation; a refused word by the first check of R62 that its fields fail. -/
theorem wordsDecodeAsTheSpecWorksThem : Obligations.WordsDecodeAsTheSpecWorksThem := by
  unfold Obligations.WordsDecodeAsTheSpecWorksThem
  exact ⟨workedWordsDecode, unassignedWordsRefused⟩

end Sys2Proof.Machine
end

section
/-! SUPPORT for O59. A tile, a partition and a function that a state does not list are at their reset values. -/
namespace Sys2Proof.Machine

theorem State.reset_tile (t : TileId) : State.reset.tile t = Tile.reset := rfl
theorem State.reset_part (p : Nat) : State.reset.part p = Part.reset := rfl

theorem State.reset_slot (t : TileId) (k : SlotId) : State.reset.slot t k = Slot.reset := by
  simp [State.slot, State.reset_tile, Tile.slot, Tile.reset]

/-- Settles O59: the reset state lists no tile, partition or function, so each reads as the reset value of its kind. -/
theorem resetLeavesWhatTheSpecStates : Obligations.ResetLeavesWhatTheSpecStates := by
  unfold Obligations.ResetLeavesWhatTheSpecStates
  have hpart : Part.reset.en = false ∧ Part.reset.thmax = 256 ∧ Part.reset.share = 0 ∧ bitsAt Part.reset.ordctl.toNat 32 32 = 1000 ∧
      Part.reset.ordseg = 12 ∧ Part.reset.fltcfg = 10000 ∧ Part.reset.fltlog = 0 := by decide
  have htile : bitsAt Tile.reset.trapvec.toNat 0 2 = 3 ∧ Tile.reset.trapvec &&& ~~~3 = 0 ∧ Tile.reset.tag = 0 := by decide
  have hslot : Slot.reset.active = false ∧ Slot.reset.tm = false ∧ Slot.reset.pr 0 = true := by decide
  have hqcfg : ∀ q ∈ State.reset.qcfg.toList, q = 0 := fun q hq => by simpa [State.reset] using hq
  have hqueues : ∀ q ∈ State.reset.queues.toList, q = [] := fun q hq => by simpa [State.reset] using hq
  refine ⟨rfl, fun _ => rfl, rfl, hqcfg, by decide, hqueues, rfl, rfl, rfl, by decide, by decide, fun t => ?_, fun f => ⟨rfl, rfl⟩,
    fun t => ?_⟩
  · rw [State.reset_part]
    exact hpart
  · obtain ⟨hpol, hvec, htag⟩ := htile
    refine ⟨hpol, hvec, htag, fun k => ?_⟩
    rw [State.reset_slot]
    exact hslot

end Sys2Proof.Machine
end

section
/-! SUPPORT for O1 and O2. A word and its fields; what an operand field of each kind holds; the checks of R62 as one condition on the
fields of a word. -/
namespace Sys2Proof

/-! ## A word and its fields (R53) -/

/-- Every field is below the bound that its width gives it (R53). -/
structure Raw.Fits (r : Raw) : Prop where
  cls : r.cls < 2 ^ 6
  fn : r.fn < 2 ^ 7
  gs : r.gs < 2
  gp : r.gp < 2 ^ 4
  sw : r.sw < 2
  cache : r.cache < 4
  sched : r.sched < 4
  d : r.d < 2 ^ 7
  a : r.a < 2 ^ 7
  b : r.b < 2 ^ 7
  lo : r.lo < 2 ^ 52

theorem fld_lt (x l w : Nat) : fld x l w < 2 ^ w := Nat.mod_lt _ (Nat.two_pow_pos w)

/-- The low bits of a number are a field of it above the bits below that field. -/
theorem fld_add (x l w : Nat) : fld x 0 (l + w) = fld x l w * 2 ^ l + fld x 0 l := by
  simp only [fld, pow_zero, Nat.div_one, pow_add, Nat.mod_mul]
  ring

theorem Raw.ofWord_fits (x : Nat) : (Raw.ofWord x).Fits :=
  ⟨fld_lt _ _ _, fld_lt _ _ _, fld_lt _ _ _, fld_lt _ _ _, fld_lt _ _ _, fld_lt _ _ _, fld_lt _ _ _, fld_lt _ _ _, fld_lt _ _ _,
    fld_lt _ _ _, fld_lt _ _ _⟩

theorem Raw.toWord_ofWord {x : Nat} (hx : x < 2 ^ 96) : (Raw.ofWord x).toWord = x := by
  calc (Raw.ofWord x).toWord = fld x 0 96 := by
        rw [fld_add x 90 6, fld_add x 83 7, fld_add x 82 1, fld_add x 78 4, fld_add x 77 1, fld_add x 75 2, fld_add x 73 2,
          fld_add x 66 7, fld_add x 59 7, fld_add x 52 7]
        simp only [Raw.toWord, Raw.ofWord, add_assoc]
    _ = x := by rw [fld, pow_zero, Nat.div_one, Nat.mod_eq_of_lt hx]

theorem Raw.ofWord_toWord {r : Raw} (hr : r.Fits) : Raw.ofWord r.toWord = r := by
  obtain ⟨hcls, hfn, hgs, hgp, hsw, hcache, hsched, hd, ha, hb, hlo⟩ := hr
  obtain ⟨cls, fn, gs, gp, sw, cache, sched, d, a, b, lo⟩ := r
  simp only [Raw.ofWord, Raw.toWord, fld, Raw.mk.injEq] at *
  omega

theorem Raw.toWord_lt {r : Raw} (hr : r.Fits) : r.toWord < 2 ^ 96 := by
  obtain ⟨hcls, hfn, hgs, hgp, hsw, hcache, hsched, hd, ha, hb, hlo⟩ := hr
  simp only [Raw.toWord]
  omega

theorem decode_toWord {r : Raw} (hr : r.Fits) : decode (BitVec.ofNat 96 r.toWord) = decodeRaw r := by
  rw [decode, BitVec.toNat_ofNat, Nat.mod_eq_of_lt (Raw.toWord_lt hr), Raw.ofWord_toWord hr]

theorem encode_eq_some_iff {i : Instr} {x : InsnWord} :
    encode i = some x ↔ ∃ r, i.raw = some r ∧ BitVec.ofNat 96 r.toWord = x := by
  unfold encode
  split <;> simp [*]

/-! ## The common fields -/

@[simp] theorem bit_b1 (b : Bool) : bit (b1 b) = b := by cases b <;> rfl

theorem b1_bit {n : Nat} (h : n < 2) : b1 (bit n) = n := by
  obtain rfl | rfl : n = 0 ∨ n = 1 := by omega
  all_goals rfl

@[simp] theorem b1_lt (b : Bool) : b1 b < 2 := by cases b <;> decide

theorem CacheHint.code_ofCode : ∀ {n : Nat}, n < 4 → (CacheHint.ofCode n).code = n := by decide
theorem SchedHint.code_ofCode : ∀ {n : Nat}, n < 3 → (SchedHint.ofCode n).code = n := by decide
@[simp] theorem CacheHint.ofCode_code (c : CacheHint) : CacheHint.ofCode c.code = c := by cases c <;> rfl
@[simp] theorem SchedHint.ofCode_code (c : SchedHint) : SchedHint.ofCode c.code = c := by cases c <;> rfl
theorem SchedHint.code_lt (c : SchedHint) : c.code < 3 := by cases c <;> decide
theorem CacheHint.code_lt (c : CacheHint) : c.code < 4 := by cases c <;> decide
theorem CacheHint.code_eq_zero {c : CacheHint} : c.code = 0 ↔ c = .none := by cases c <;> decide

@[simp] theorem mkRaw_hdr (h : Hdr) (cls fn d a b lo : Nat) : (mkRaw h cls fn d a b lo).hdr = h := by
  simp [mkRaw, Raw.hdr]

theorem Raw.eq_mkRaw {r : Raw} (hr : r.Fits) (hs : r.sched ≠ 3) : mkRaw r.hdr r.cls r.fn r.d r.a r.b r.lo = r := by
  obtain ⟨-, -, hgs, hgp, hsw, hcache, hsched, -, -, -, -⟩ := hr
  have hs3 : r.sched < 3 := by omega
  simp only [mkRaw, Raw.hdr, b1_bit hgs, b1_bit hsw, CacheHint.code_ofCode hcache, SchedHint.code_ofCode hs3, BitVec.toNat_ofNat,
    Nat.mod_eq_of_lt hgp]

theorem mkRaw_fits {h : Hdr} {cls fn d a b lo : Nat} (hcls : cls < 2 ^ 6) (hfn : fn < 2 ^ 7) (hd : d < 2 ^ 7) (ha : a < 2 ^ 7)
    (hb : b < 2 ^ 7) (hlo : lo < 2 ^ 52) : (mkRaw h cls fn d a b lo).Fits :=
  ⟨hcls, hfn, b1_lt _, h.gp.isLt, b1_lt _, h.cache.code_lt, h.sched.code_lt.trans (by decide), hd, ha, hb, hlo⟩

/-! ## Operand fields (R60, R61) -/

@[simp] theorem r5_toNat (n : BitVec 5) : r5 n.toNat = n := by simp [r5]
@[simp] theorem r5_cf (n : BitVec 5) : r5 (cf n) = n := by unfold r5 cf; bv_omega
@[simp] theorem r5_cv (n : BitVec 5) : r5 (cv n) = n := by unfold r5 cv; bv_omega
@[simp] theorem r4_cp (n : BitVec 4) : r4 (cp n) = n := by unfold r4 cp; bv_omega
@[simp] theorem r3_ck (n : BitVec 3) : r3 (ck n) = n := by unfold r3 ck; bv_omega
@[simp] theorem r3_cv8 (n : BitVec 3) : r3 (cv8 n) = n := by unfold r3 cv8; bv_omega
@[simp] theorem r2_cy (n : BitVec 2) : r2 (cy n) = n := by unfold r2 cy; bv_omega
@[simp] theorem r2_cz (n : BitVec 2) : r2 (cz n) = n := by unfold r2 cz; bv_omega

@[simp] theorem r5_zero : r5 0 = 0 := rfl
@[simp] theorem GF.ofCode_zero : GF.ofCode 0 = .g 0 := rfl
@[simp] theorem GF.code_g_zero : (GF.g 0#5).code = 0 := rfl

@[simp] theorem GF.ofCode_code (x : GF) : GF.ofCode x.code = x := by
  cases x with
  | g n => simp only [GF.code, GF.ofCode, n.isLt, if_true, BitVec.ofNat_toNat, BitVec.setWidth_eq]
  | f n =>
    rw [GF.code, GF.ofCode, if_neg (by omega)]
    exact congrArg GF.f (r5_cf n)

@[simp] theorem VG.ofCode_code (x : VG) : VG.ofCode x.code = x := by
  cases x with
  | g n => simp only [VG.code, VG.ofCode, n.isLt, if_true, BitVec.ofNat_toNat, BitVec.setWidth_eq]
  | v n =>
    rw [VG.code, VG.ofCode, if_neg (by omega)]
    exact congrArg VG.v (r5_cv n)

theorem r5_toNat_of_lt {c : Nat} (h : c < 32) : (r5 c).toNat = c := by simp only [r5, BitVec.toNat_ofNat]; omega
theorem cf_r5 {c : Nat} (h : 32 ≤ c ∧ c < 64) : cf (r5 c) = c := by simp only [cf, r5, BitVec.toNat_ofNat]; omega
theorem cv_r5 {c : Nat} (h : 64 ≤ c ∧ c < 96) : cv (r5 c) = c := by simp only [cv, r5, BitVec.toNat_ofNat]; omega
theorem cp_r4 {c : Nat} (h : 96 ≤ c ∧ c < 112) : cp (r4 c) = c := by simp only [cp, r4, BitVec.toNat_ofNat]; omega
theorem ck_r3 {c : Nat} (h : 112 ≤ c ∧ c < 120) : ck (r3 c) = c := by simp only [ck, r3, BitVec.toNat_ofNat]; omega
theorem cv8_r3 {c : Nat} (h : 64 ≤ c ∧ c < 72) : cv8 (r3 c) = c := by simp only [cv8, r3, BitVec.toNat_ofNat]; omega
theorem cy_r2 {c : Nat} (h : 120 ≤ c ∧ c < 124) : cy (r2 c) = c := by simp only [cy, r2, BitVec.toNat_ofNat]; omega
theorem cz_r2 {c : Nat} (h : 124 ≤ c ∧ c < 128) : cz (r2 c) = c := by simp only [cz, r2, BitVec.toNat_ofNat]; omega

theorem GF.code_lt (x : GF) : x.code < 64 := by cases x <;> simp only [GF.code] <;> omega

theorem VG.code_bounds (x : VG) : x.code < 32 ∨ 64 ≤ x.code ∧ x.code < 96 := by cases x <;> simp only [VG.code] <;> omega

theorem GF.code_ofCode {c : Nat} (h : c < 64) : (GF.ofCode c).code = c := by
  unfold GF.ofCode
  split <;> simp only [GF.code, BitVec.toNat_ofNat] <;> omega

theorem VG.code_ofCode {c : Nat} (h : c < 32 ∨ 64 ≤ c ∧ c < 96) : (VG.ofCode c).code = c := by
  unfold VG.ofCode
  split <;> simp only [VG.code, BitVec.toNat_ofNat] <;> omega

/-- The operand that a field of each kind names (R60, R61); a field that must be zero names none. -/
@[reducible] def OpK.Arg : OpK → Type
  | .zero => Unit
  | .na => BitVec 7
  | .g => G
  | .f => F
  | .gf => GF
  | .v => V
  | .vg => VG
  | .p => P
  | .k => K
  | .y | .z => YZ
  | .v8 => BitVec 3
  | .g2 => { n : G // even5 n = true }
  | .v2 => { n : V // even5 n = true }

@[simp] theorem even5_zero : even5 0#5 = true := rfl
@[simp] theorem even5_val (n : { n : BitVec 5 // even5 n = true }) : even5 n.1 = true := n.2

/-- The code of an operand in a field of its kind (R60). -/
def OpK.code : (kd : OpK) → kd.Arg → Nat
  | .zero, _ => 0
  | .na, n => n.toNat
  | .g, n => n.toNat
  | .f, n => cf n
  | .gf, x => x.code
  | .v, n => cv n
  | .vg, x => x.code
  | .p, n => cp n
  | .k, n => ck n
  | .y, n => cy n
  | .z, n => cz n
  | .v8, n => cv8 n
  | .g2, n => n.1.toNat
  | .v2, n => cv n.1

theorem OpK.code_lt : ∀ (kd : OpK) (x : kd.Arg), kd.code x < 2 ^ 7
  | .zero, _ => Nat.two_pow_pos 7
  | .gf, x => x.code_lt.trans (by decide)
  | .vg, x => by have := x.code_bounds; simp only [OpK.code]; omega
  | .na, n => n.isLt
  | .g, n => n.isLt.trans (by decide)
  | .g2, n => n.1.isLt.trans (by decide)
  | .f, n | .v, n | .v2, ⟨n, _⟩ | .p, n | .k, n | .y, n | .z, n | .v8, n => by
    simp only [OpK.code, cf, cv, cp, ck, cy, cz, cv8]; omega

theorem OpK.accepts_code : ∀ (kd : OpK) (x : kd.Arg), kd.accepts (kd.code x) = true
  | .zero, _ | .na, _ => rfl
  | .g, n => decide_eq_true n.isLt
  | .gf, x => decide_eq_true x.code_lt
  | .vg, x => by
    simp only [OpK.accepts, Bool.and_eq_true, Bool.or_eq_true, decide_eq_true_eq]
    exact x.code_bounds
  | .g2, ⟨n, h⟩ => Bool.and_eq_true _ _ ▸ ⟨decide_eq_true n.isLt, h⟩
  | .v2, ⟨n, h⟩ => by
    have heven : n.toNat % 2 = 0 := beq_iff_eq.1 h
    simp only [OpK.accepts, Bool.and_eq_true, decide_eq_true_eq, beq_iff_eq]
    simp only [OpK.code, cv]
    omega
  | .f, n | .v, n | .p, n | .k, n | .y, n | .z, n | .v8, n => by
    simp only [OpK.accepts, Bool.and_eq_true, decide_eq_true_eq]
    simp only [OpK.code, cf, cv, cp, ck, cy, cz, cv8]
    omega

/-- A code that check 5 of R62 accepts is the code of an operand. -/
theorem OpK.exists_code_eq {kd : OpK} {c : Nat} (hc : c < 2 ^ 7) (hz : kd = .zero → c = 0) (ha : kd.accepts c = true) :
    ∃ x, kd.code x = c := by
  cases kd <;> simp only [OpK.accepts, Bool.and_eq_true, Bool.or_eq_true, decide_eq_true_eq, beq_iff_eq] at ha
  case zero => exact ⟨(), (hz rfl).symm⟩
  case na => exact ⟨BitVec.ofNat 7 c, Nat.mod_eq_of_lt hc⟩
  case g => exact ⟨r5 c, r5_toNat_of_lt ha⟩
  case f => exact ⟨r5 c, cf_r5 ha⟩
  case gf => exact ⟨GF.ofCode c, GF.code_ofCode ha⟩
  case v => exact ⟨r5 c, cv_r5 ha⟩
  case vg => exact ⟨VG.ofCode c, VG.code_ofCode ha⟩
  case p => exact ⟨r4 c, cp_r4 ha⟩
  case k => exact ⟨r3 c, ck_r3 ha⟩
  case y => exact ⟨r2 c, cy_r2 ha⟩
  case z => exact ⟨r2 c, cz_r2 ⟨ha, hc⟩⟩
  case v8 => exact ⟨r3 c, cv8_r3 ha⟩
  case g2 =>
    have heven : even5 (r5 c) = true := by rw [even5, r5_toNat_of_lt ha.1]; exact beq_iff_eq.2 ha.2
    exact ⟨⟨r5 c, heven⟩, r5_toNat_of_lt ha.1⟩
  case v2 =>
    have heven : even5 (r5 c) = true := by simp only [even5, r5, BitVec.toNat_ofNat, beq_iff_eq]; omega
    exact ⟨⟨r5 c, heven⟩, cv_r5 ha.1⟩

/-- Checks 4 and 5 of R62 leave of an operand field: it holds the code of an operand of its kind. -/
def OpK.Codes (kd : OpK) (c : Nat) : Prop := ∃ x, kd.code x = c

theorem OpK.Codes.lt {kd : OpK} {c : Nat} : kd.Codes c → c < 2 ^ 7 := by
  rintro ⟨x, rfl⟩
  exact kd.code_lt x

theorem OpK.codes_iff {kd : OpK} {c : Nat} (hc : c < 2 ^ 7) : kd.Codes c ↔ (kd = .zero → c = 0) ∧ kd.accepts c = true := by
  constructor
  · rintro ⟨x, rfl⟩
    exact ⟨by rintro rfl; rfl, kd.accepts_code x⟩
  · exact fun ⟨hz, ha⟩ => exists_code_eq hc hz ha

/-! ## The checks of R62 on a row -/

theorem lowestNonzero_eq_none {l : List (Nat × Nat)} : lowestNonzero l = none ↔ ∀ z ∈ l, z.2 = 0 := by
  induction l with
  | nil => simp [lowestNonzero]
  | cons z l ih =>
    rw [lowestNonzero, List.forall_mem_cons, ← ih]
    split
    · simp [*]
    · split <;> simp [*]

theorem lowestFailing_eq_none {l : List (Nat × Bool)} : lowestFailing l = none ↔ ∀ z ∈ l, z.2 = true := by
  induction l with
  | nil => simp [lowestFailing]
  | cons z l ih =>
    rw [lowestFailing, List.forall_mem_cons, ← ih]
    split
    · simp [*]
    · split <;> simp [*]

/-- Checks 4 to 6 of R62: every operand field holds a code of its kind, every field that must be zero is, and every limit is kept. -/
structure Row.Passes (w : Row) (r : Raw) : Prop where
  d : w.d.Codes r.d
  a : w.a.Codes r.a
  b : w.b.Codes r.b
  c : w.c.Codes r.c
  e : w.e.Codes r.e
  zeros : ∀ z ∈ w.zeros r, z.2 = 0
  limits : ∀ l ∈ w.limits r, l.2 = true

theorem Row.badOperand_eq_none {w : Row} {r : Raw} : w.badOperand r = none ↔
    w.d.accepts r.d = true ∧ w.a.accepts r.a = true ∧ w.b.accepts r.b = true ∧ w.c.accepts r.c = true ∧ w.e.accepts r.e = true := by
  unfold Row.badOperand
  grind

theorem Row.allZeros_iff {w : Row} {r : Raw} : (∀ z ∈ w.allZeros r, z.2 = 0) ↔
    (∀ z ∈ w.zeros r, z.2 = 0) ∧ (w.d = .zero → r.d = 0) ∧
    (w.a = .zero → r.a = 0) ∧ (w.b = .zero → r.b = 0) ∧ (w.c = .zero → r.c = 0) ∧ (w.e = .zero → r.e = 0) := by
  have unused (kd : OpK) (l c : Nat) : (∀ z ∈ (if kd = .zero then [(l, c)] else []), z.2 = 0) ↔ (kd = .zero → c = 0) := by
    split <;> simp [*]
  simp only [Row.allZeros, List.forall_mem_append, unused]
  tauto

theorem Row.passes_iff {w : Row} {r : Raw} (hr : r.Fits) :
    w.Passes r ↔ (∀ z ∈ w.allZeros r, z.2 = 0) ∧ w.badOperand r = none ∧ ∀ l ∈ w.limits r, l.2 = true := by
  have hc : r.c < 2 ^ 7 := fld_lt _ _ _
  have he : r.e < 2 ^ 7 := fld_lt _ _ _
  have split : w.Passes r ↔ w.d.Codes r.d ∧ w.a.Codes r.a ∧ w.b.Codes r.b ∧ w.c.Codes r.c ∧ w.e.Codes r.e ∧
      (∀ z ∈ w.zeros r, z.2 = 0) ∧ ∀ l ∈ w.limits r, l.2 = true :=
    ⟨fun ⟨h1, h2, h3, h4, h5, h6, h7⟩ => ⟨h1, h2, h3, h4, h5, h6, h7⟩,
      fun ⟨h1, h2, h3, h4, h5, h6, h7⟩ => ⟨h1, h2, h3, h4, h5, h6, h7⟩⟩
  rw [split, Row.allZeros_iff, Row.badOperand_eq_none, OpK.codes_iff hr.d, OpK.codes_iff hr.a, OpK.codes_iff hr.b, OpK.codes_iff hc,
    OpK.codes_iff he]
  tauto

/-- Which words a row decodes, and to what. -/
theorem Row.decode_eq_ok_iff {w : Row} {r : Raw} {i : Instr} (hr : r.Fits) : w.decode r = .ok i ↔
    r.sched ≠ 3 ∧ (r.cache = 0 ∨ cacheAccepted r.cls r.fn = true) ∧ w.Passes r ∧ w.build r.hdr r = i := by
  rw [Row.passes_iff hr, ← lowestNonzero_eq_none, ← lowestFailing_eq_none]
  unfold Row.decode
  by_cases hs : r.sched = 3
  · simp [hs]
  rw [if_neg hs]
  split
  · simp_all
  · have hcache : r.cache = 0 ∨ cacheAccepted r.cls r.fn = true := by rename_i h; simpa [imp_iff_not_or] using h
    cases lowestNonzero (w.allZeros r) <;> cases w.badOperand r <;> cases lowestFailing (w.limits r) <;> simp [hs, hcache]

end Sys2Proof
end

section
/-! SUPPORT for O1 and O2. The fields below bit 52 and the rows by form: what a word that passes the checks of a row of each form is. -/
namespace Sys2Proof

/-! ## Which row decodes a word -/

theorem rowOf_eq_none_of_lt {cls fn : Nat} (h : 0x12 < cls) : rowOf cls fn = none := by
  obtain ⟨n, rfl⟩ := Nat.exists_eq_add_of_le' h
  rfl

theorem decodeRaw_eq_ok_iff {r : Raw} {i : Instr} : decodeRaw r = .ok i ↔ ∃ w, rowOf r.cls r.fn = some w ∧ w.decode r = .ok i := by
  unfold decodeRaw
  split
  case isTrue h => simp [rowOf_eq_none_of_lt h]
  case isFalse =>
    split <;> simp_all

/-- The common fields of a word of the class and function are ones that its checks pass (R55). -/
def Hdr.Accepted (h : Hdr) (cls fn : Nat) : Prop := h.cache = .none ∨ cacheAccepted cls fn = true

/-- What decoding gives for the encoding of an instruction whose row is `w`. -/
theorem decode_mkRaw {w : Row} {h : Hdr} {cls fn d a b lo : Nat} (hrow : rowOf cls fn = some w) (hfn : fn < 2 ^ 7)
    (hh : h.Accepted cls fn) (hlo : lo < 2 ^ 52) (hp : w.Passes (mkRaw h cls fn d a b lo)) :
    decode (BitVec.ofNat 96 (mkRaw h cls fn d a b lo).toWord) = .ok (w.build h (mkRaw h cls fn d a b lo)) := by
  have hcls : cls ≤ 0x12 := by
    by_contra hc
    rw [rowOf_eq_none_of_lt (by omega)] at hrow
    contradiction
  have hr : (mkRaw h cls fn d a b lo).Fits := mkRaw_fits (by omega) hfn hp.d.lt hp.a.lt hp.b.lt hlo
  rw [decode_toWord hr, decodeRaw_eq_ok_iff]
  refine ⟨w, hrow, (Row.decode_eq_ok_iff hr).2 ⟨?sched, ?cache, hp, ?build⟩⟩
  case sched => exact h.sched.code_lt.ne
  case cache => exact hh.imp CacheHint.code_eq_zero.2 id
  case build => rw [mkRaw_hdr]

/-- The row of a class and function builds from each word that passes its checks a well-formed instruction whose word it is. -/
def Row.Sound (w : Row) (cls fn : Nat) : Prop :=
  ∀ (h : Hdr) (d a b lo : Nat), lo < 2 ^ 52 → h.Accepted cls fn → w.Passes (mkRaw h cls fn d a b lo) →
    (w.build h (mkRaw h cls fn d a b lo)).raw = some (mkRaw h cls fn d a b lo) ∧ (w.build h (mkRaw h cls fn d a b lo)).wf = true

theorem encode_of_decode_eq_ok {x : InsnWord} {i : Instr} (hrow : ∀ cls fn w, rowOf cls fn = some w → w.Sound cls fn)
    (hx : decode x = .ok i) : encode i = some x ∧ i.wf = true := by
  have hr := Raw.ofWord_fits x.toNat
  obtain ⟨w, hw, hd⟩ := decodeRaw_eq_ok_iff.1 hx
  obtain ⟨hs, hc, hp, rfl⟩ := (Row.decode_eq_ok_iff hr).1 hd
  have hr' := Raw.eq_mkRaw hr hs
  have hh : (Raw.ofWord x.toNat).hdr.Accepted (Raw.ofWord x.toNat).cls (Raw.ofWord x.toNat).fn := by
    refine hc.imp (fun h0 => ?_) id
    rw [Raw.hdr, h0]
    rfl
  have hraw := hrow _ _ w hw _ (Raw.ofWord x.toNat).d (Raw.ofWord x.toNat).a (Raw.ofWord x.toNat).b _ hr.lo hh (hr'.symm ▸ hp)
  rw [hr'] at hraw
  refine ⟨encode_eq_some_iff.2 ⟨_, hraw.1, ?_⟩, hraw.2⟩
  rw [Raw.toWord_ofWord x.isLt, BitVec.ofNat_toNat, BitVec.setWidth_eq]

/-! ## The fields of a word made of its parts -/

section
variable {h : Hdr} {cls fn d a b lo c e sub : Nat}

theorem ce_lt (hc : c < 2 ^ 7) (he : e < 2 ^ 7) (hs : sub < 2 ^ 38) : ce c e sub < 2 ^ 52 := by unfold ce; omega
theorem fld_ce_c (hc : c < 2 ^ 7) (he : e < 2 ^ 7) (hs : sub < 2 ^ 38) : fld (ce c e sub) 45 7 = c := by unfold fld ce; omega
theorem fld_ce_e (he : e < 2 ^ 7) (hs : sub < 2 ^ 38) : fld (ce c e sub) 38 7 = e := by unfold fld ce; omega
theorem fld_ce_sub (hs : sub < 2 ^ 38) : fld (ce c e sub) 0 38 = sub := by unfold fld ce; omega

/-- A field below bit 38 lies in what `ce` has below C and E. -/
theorem fld_ce {l w : Nat} (h : l + w ≤ 38) : fld (ce c e sub) l w = fld sub l w := by
  have hce : ce c e sub = 2 ^ l * (2 ^ w * (2 ^ (38 - l - w) * (c * 2 ^ 7 + e))) + sub := by
    have hp : 2 ^ l * (2 ^ w * 2 ^ (38 - l - w)) = 2 ^ 38 := by rw [← pow_add, ← pow_add]; congr 1; omega
    calc ce c e sub = 2 ^ 38 * (c * 2 ^ 7 + e) + sub := by unfold ce; ring
      _ = _ := by rw [← hp]; ring
  rw [fld, hce, Nat.mul_add_div (Nat.two_pow_pos l), Nat.mul_add_mod, fld]

@[simp] theorem fld_zero (l w : Nat) : fld 0 l w = 0 := by simp [fld]

theorem eq_ce (hlo : lo < 2 ^ 52) : lo = ce (fld lo 45 7) (fld lo 38 7) (fld lo 0 38) := by unfold ce fld; omega

end

theorem OpK.na_code_fld (x l : Nat) : OpK.na.code (BitVec.ofNat 7 (fld x l 7)) = fld x l 7 := Nat.mod_eq_of_lt (fld_lt _ _ _)

/-! ## Rows of any form -/

/-- The operand fields of a word name the operands `d` to `e`. -/
structure Raw.Names (r : Raw) (fn d a b c e : Nat) : Prop where
  fn : r.fn = fn
  d : r.d = d
  a : r.a = a
  b : r.b = b
  c : r.c = c
  e : r.e = e

section
variable {w : Row} {h : Hdr} {i : Instr} {cls fn lo : Nat}

theorem sound_of_row (H : ∀ h d a b c e r, h.Accepted cls fn → r.lo < 2 ^ 52 →
    r.Names fn (w.d.code d) (w.a.code a) (w.b.code b) (w.c.code c) (w.e.code e) → (∀ z ∈ w.zeros r, z.2 = 0) →
    (∀ l ∈ w.limits r, l.2 = true) →
    (w.build h r).raw = some (mkRaw h cls fn (w.d.code d) (w.a.code a) (w.b.code b) r.lo) ∧ (w.build h r).wf = true) :
    w.Sound cls fn := by
  rintro h _ _ _ lo hlo hh ⟨⟨d, rfl⟩, ⟨a, rfl⟩, ⟨b, rfl⟩, ⟨c, hc⟩, ⟨e, he⟩, hz, hl⟩
  exact H h d a b c e _ hh hlo ⟨rfl, rfl, rfl, rfl, hc.symm, he.symm⟩ hz hl

end

/-! ## Form K (R56) -/

section
variable {kd ka kb kc ke : OpK} {build : Hdr → Raw → Instr} {h : Hdr} {cls fn : Nat} {i : Instr}

theorem kRow_sound (H : ∀ h d a b c e r, h.Accepted cls fn →
    r.Names fn (kd.code d) (ka.code a) (kb.code b) (kc.code c) (ke.code e) →
    (build h r).raw = some (mkRaw h cls fn (kd.code d) (ka.code a) (kb.code b) (ce (kc.code c) (ke.code e) 0)) ∧
      (build h r).wf = true) : (kRow kd ka kb kc ke build).Sound cls fn := by
  refine sound_of_row fun h (d : kd.Arg) (a : ka.Arg) (b : kb.Arg) (c : kc.Arg) (e : ke.Arg) r hh hlo hn hz _ => ?_
  replace hn : r.Names fn (kd.code d) (ka.code a) (kb.code b) (kc.code c) (ke.code e) := hn
  have hlo : r.lo = ce (kc.code c) (ke.code e) 0 := by
    rw [← hn.c, ← hn.e, ← hz (0, fld r.lo 0 38) (.head _)]
    exact eq_ce hlo
  rw [hlo]
  exact H h d a b c e r hh hn

end

/-! ## Forms I and J (R56, R59) -/

section
variable {kd ka : OpK} {lim : Nat} {build : Hdr → Raw → Instr} {h : Hdr} {cls fn lo : Nat} {i : Instr}

theorem iRow_sound (H : ∀ h d a (r : Raw), h.Accepted cls fn → r.fn = fn → r.d = kd.code d → r.a = ka.code a → r.lo < lim →
    (build h r).raw = some (mkRaw h cls fn (kd.code d) (ka.code a) 0 r.lo) ∧ (build h r).wf = true) :
    (iRow kd ka lim build).Sound cls fn :=
  sound_of_row fun h d a _ _ _ r hh _ hn _ hl => H h d a r hh hn.fn hn.d hn.a (of_decide_eq_true (hl (0, decide (r.lo < lim)) (.head _)))

theorem jRow_sound (H : ∀ h d (r : Raw), h.Accepted cls fn → r.d = kd.code d → r.lo < 2 ^ 52 →
    (build h r).raw = some (mkRaw h cls fn (kd.code d) 0 0 r.lo) ∧ (build h r).wf = true) : (jRow kd build).Sound cls fn :=
  sound_of_row fun h d _ _ _ _ r hh hlo hn _ _ => H h d r hh hn.d hlo

end

/-! ## Form M (R56) -/

@[simp] theorem Size.ofCode_code (x : Size) : Size.ofCode x.code = x := by cases x <;> rfl
theorem Size.code_ofCode : ∀ {n : Nat}, n < 4 → (Size.ofCode n).code = n := by decide
theorem Size.code_lt (x : Size) : x.code < 4 := by cases x <;> decide

theorem mlo_lt {m : MemRef} {sz : Nat} (hsz : sz < 4) : mlo m sz < 2 ^ 52 := by unfold mlo; omega

section
variable {r : Raw} {m : MemRef} {sz : Nat}

theorem Raw.sz_of_lo (h : r.lo = mlo m sz) (hsz : sz < 4) : r.sz = sz := by simp only [Raw.sz, h, fld, mlo]; omega
theorem Raw.sc_of_lo (h : r.lo = mlo m sz) (hsz : sz < 4) : BitVec.ofNat 2 r.sc = m.sc := by
  simp only [Raw.sc, h, fld, mlo]; bv_omega
theorem Raw.disp_of_lo (h : r.lo = mlo m sz) : BitVec.ofNat 48 r.disp = m.disp := by
  simp only [Raw.disp, h, fld, mlo]; bv_omega

theorem Raw.lo_eq_mlo (h : r.lo < 2 ^ 52) : r.lo = mlo r.mem r.sz := by
  simp only [mlo, Raw.mem, Raw.sc, Raw.disp, Raw.sz, BitVec.toNat_ofNat, fld]; omega

end

section
variable {kd ka kb : OpK} {build : Hdr → Raw → Instr} {h : Hdr} {cls fn : Nat} {i : Instr} {ls : Raw → List (Nat × Bool)}

theorem mRow_sound (H : ∀ h d a b (r : Raw), h.Accepted cls fn → r.fn = fn → r.d = kd.code d → r.a = ka.code a →
      r.b = kb.code b →
    r.size.code = r.sz → (∀ l ∈ ls r, l.2 = true) →
    (build h r).raw = some (mkRaw h cls fn (kd.code d) (ka.code a) (kb.code b) (mlo r.mem r.sz)) ∧ (build h r).wf = true) :
    ({ mRow kd ka kb build with limits := ls }).Sound cls fn := by
  refine sound_of_row fun h d a b c e r hh hlo hn hz hl => ?_
  rw [Raw.lo_eq_mlo hlo]
  exact H h d a b r hh hn.fn hn.d hn.a hn.b (Size.code_ofCode (fld_lt _ _ _)) hl

theorem mRow0_sound (H : ∀ h d a b (r : Raw), h.Accepted cls fn → r.d = kd.code d → r.a = ka.code a → r.b = kb.code b →
    (build h r).raw = some (mkRaw h cls fn (kd.code d) (ka.code a) (kb.code b) (mlo r.mem 0)) ∧ (build h r).wf = true) :
    (mRow0 kd ka kb build).Sound cls fn := by
  refine sound_of_row fun h d a b c e r hh hlo hn hz hl => ?_
  have hsz : r.sz = 0 := hz (48, r.sz) (.head _)
  rw [Raw.lo_eq_mlo hlo, hsz]
  exact H h d a b r hh hn.d hn.a hn.b

end

end Sys2Proof
end

section
/-! SUPPORT for O1 and O2. Form X in classes 0x06 and 0x07, and the rows of form X with sub-fields of their own. -/
namespace Sys2Proof

/-! ## Codes of the sub-fields (R57, R58) -/

@[simp] theorem Rm.ofCode_code (m : Rm) : Rm.ofCode m.code = m := by cases m <;> rfl
theorem Rm.code_ofCode : ∀ {n : Nat}, n < 5 → (Rm.ofCode n).code = n := by decide
theorem Rm.code_lt (m : Rm) : m.code < 5 := by cases m <;> decide
theorem Rm.code_eq_zero {m : Rm} : m.code = 0 ↔ m = .dyn := by cases m <;> decide

@[simp] theorem Ty.ofCode_code (t : Ty) : Ty.ofCode t.code = t := by cases t <;> rfl
theorem Ty.code_lt (t : Ty) : t.code < 32 := by cases t <;> decide
theorem Ty.code_ofCode : ∀ {n : Nat}, n < 32 → Ty.ofCode n ≠ .none → (Ty.ofCode n).code = n := by decide

/-- A type code that a row's limit accepts is the code of its type, where the limit is not met by no type. -/
theorem Ty.code_ofCode_of_ok {ok : Ty → Bool} {n : Nat} (hn : n < 32) (hnone : ok .none = false) (h : ok (Ty.ofCode n) = true) :
    (Ty.ofCode n).code = n :=
  Ty.code_ofCode hn fun h0 => by rw [h0, hnone] at h; contradiction

@[simp] theorem FTy.ofCode_code (t : FTy) : FTy.ofCode t.ty.code = t := by cases t <;> rfl
@[simp] theorem FTy.isF_ty (t : FTy) : t.ty.isF = true := by cases t <;> rfl
theorem FTy.ty_ofCode {t : Ty} (h : t.isF = true) : (FTy.ofCode t.code).ty = t := by
  cases t with
  | f64 | f32 | f16 | bf16 => rfl
  | _ => contradiction

@[simp] theorem FTy.code_ofCode (t : { t : Ty // t.isF = true }) : (FTy.ofCode t.1.code).code = t.1.code :=
  congrArg Ty.code (FTy.ty_ofCode t.2)

@[simp] theorem Cnd.ofCode_code (c : Cnd) : Cnd.ofCode c.code = c := by cases c <;> rfl
theorem Cnd.code_ofCode : ∀ {n : Nat}, n < 8 → (Cnd.ofCode n).code = n := by decide
theorem Cnd.code_lt (c : Cnd) : c.code < 8 := by cases c <;> decide

/-! ## The sub-fields as numbers -/

section
variable {r : Raw} {c e rm td ts cnd : Nat} {m : VMask}

theorem xsub_lt (hrm : rm < 8) (htd : td < 32) (hts : ts < 32) (hcnd : cnd < 16) : xsub rm td ts m cnd < 2 ^ 38 := by
  have := b1_lt m.me
  have := b1_lt m.mz
  unfold xsub; omega

theorem toNat_ofNat_fld (x l w : Nat) : (BitVec.ofNat w (fld x l w)).toNat = fld x l w := by
  rw [BitVec.toNat_ofNat, Nat.mod_eq_of_lt (fld_lt x l w)]

theorem Raw.lo_eq_xsub (hlo : r.lo < 2 ^ 52) (h0 : fld r.lo 0 16 = 0) : r.lo = ce r.c r.e (xsub r.rm r.td r.ts r.vmask r.cnd) := by
  have hme := b1_bit (fld_lt r.lo 24 1)
  have hmz := b1_bit (fld_lt r.lo 20 1)
  calc r.lo = fld r.lo 0 52 := by rw [fld, pow_zero, Nat.div_one, Nat.mod_eq_of_lt hlo]
    _ = ce r.c r.e (xsub r.rm r.td r.ts r.vmask r.cnd) := by
      rw [fld_add _ 45 7, fld_add _ 38 7, fld_add _ 35 3, fld_add _ 30 5, fld_add _ 25 5, fld_add _ 24 1, fld_add _ 21 3, fld_add _ 20 1,
        fld_add _ 16 4, h0]
      simp only [ce, xsub, Raw.vmask, hme, hmz, Raw.c, Raw.e, Raw.rm, Raw.td, Raw.ts, Raw.cnd, toNat_ofNat_fld, add_assoc, Nat.add_zero]

theorem Raw.vmask_eq_off (h : r.mask = 0) : r.vmask = .off := by
  have hme : fld r.lo 24 1 = 0 := by unfold Raw.mask fld at *; omega
  have hkm : fld r.lo 21 3 = 0 := by unfold Raw.mask fld at *; omega
  have hmz : fld r.lo 20 1 = 0 := by unfold Raw.mask fld at *; omega
  rw [Raw.vmask, hme, hkm, hmz]; rfl

theorem Raw.mask_eq_zero (h : r.vmask = .off) : r.mask = 0 := by
  have hme : bit (fld r.lo 24 1) = false := congrArg VMask.me h
  have hkm : BitVec.ofNat 3 (fld r.lo 21 3) = 0 := congrArg VMask.km h
  have hmz : bit (fld r.lo 20 1) = false := congrArg VMask.mz h
  have h24 : fld r.lo 24 1 = 0 := by rw [← b1_bit (fld_lt r.lo 24 1), hme]; rfl
  have h20 : fld r.lo 20 1 = 0 := by rw [← b1_bit (fld_lt r.lo 20 1), hmz]; rfl
  have h21 : fld r.lo 21 3 = 0 := by have := fld_lt r.lo 21 3; bv_omega
  unfold Raw.mask fld at *; omega

theorem Raw.fld_mz (r : Raw) : fld r.lo 20 1 = b1 r.vmask.mz := (b1_bit (fld_lt r.lo 20 1)).symm

/-- The low bits of the word are made of these sub-fields of R57. -/
structure Raw.HasX (r : Raw) (rm td ts : Nat) (m : VMask) (cnd : Nat) : Prop where
  rm : r.rm = rm
  td : r.td = td
  ts : r.ts = ts
  m : r.vmask = m
  cnd : r.cnd = cnd

theorem Raw.hasX (h : r.lo = ce c e (xsub rm td ts m cnd)) (hrm : rm < 8) (htd : td < 32) (hts : ts < 32) (hcnd : cnd < 16) :
    fld r.lo 0 16 = 0 ∧ r.HasX rm td ts m cnd := by
  have hme := b1_lt m.me
  have hmz := b1_lt m.mz
  have field {l w : Nat} (hl : l + w ≤ 38) : fld r.lo l w = fld (xsub rm td ts m cnd) l w := by rw [h, fld_ce hl]
  refine ⟨?zero, ?rm, ?td, ?ts, ?m, ?cnd⟩
  case zero => rw [field (by decide)]; unfold fld xsub; omega
  case rm => rw [Raw.rm, field (by decide)]; unfold fld xsub; omega
  case td => rw [Raw.td, field (by decide)]; unfold fld xsub; omega
  case ts => rw [Raw.ts, field (by decide)]; unfold fld xsub; omega
  case cnd => rw [Raw.cnd, field (by decide)]; unfold fld xsub; omega
  case m =>
    have h24 : fld r.lo 24 1 = b1 m.me := by rw [field (by decide)]; unfold fld xsub; omega
    have h21 : fld r.lo 21 3 = m.km.toNat := by rw [field (by decide)]; unfold fld xsub; omega
    have h20 : fld r.lo 20 1 = b1 m.mz := by rw [field (by decide)]; unfold fld xsub; omega
    rw [Raw.vmask, h24, h21, h20, bit_b1, bit_b1, BitVec.ofNat_toNat, BitVec.setWidth_eq]

end

@[simp] theorem ce_zero_zero (sub : Nat) : ce 0 0 sub = sub := by simp [ce]
@[simp] theorem xsub_zero : xsub 0 0 0 .off 0 = 0 := by simp [xsub, VMask.off, b1]

/-! ## What the sub-fields name -/

/-- The rounding mode that a row reads, or none. -/
@[reducible] def RmArg : Bool → Type
  | true => Rm
  | false => Unit

def RmArg.code : (b : Bool) → RmArg b → Nat
  | true, m => Rm.code m
  | false, _ => 0

/-- The type within its limit that a row reads, or none. -/
@[reducible] def TyArg : Option (Ty → Bool) → Type
  | some ok => { t : Ty // ok t = true }
  | none => Unit

def TyArg.code : (o : Option (Ty → Bool)) → TyArg o → Nat
  | some _, t => t.1.code
  | none, _ => 0

/-- The mask that a row reads, or none. -/
@[reducible] def MaskArg : Bool → Type
  | true => VMask
  | false => Unit

def MaskArg.mask : (b : Bool) → MaskArg b → VMask
  | true, m => m
  | false, _ => .off

/-- The condition that a row reads, or none. -/
@[reducible] def CndArg : Bool → Type
  | true => Cnd
  | false => Unit

def CndArg.code : (b : Bool) → CndArg b → Nat
  | true, c => Cnd.code c
  | false, _ => 0

theorem RmArg.code_lt : ∀ (b : Bool) (m : RmArg b), RmArg.code b m < 5
  | true, m => Rm.code_lt m
  | false, _ => Nat.succ_pos 4

theorem TyArg.code_lt : ∀ (o : Option (Ty → Bool)) (t : TyArg o), TyArg.code o t < 32
  | some _, t => t.1.code_lt
  | none, _ => Nat.succ_pos 31

theorem CndArg.code_lt : ∀ (b : Bool) (c : CndArg b), CndArg.code b c < 8
  | true, c => Cnd.code_lt c
  | false, _ => Nat.succ_pos 7

theorem RmArg.code_of_false : ∀ {b : Bool} (m : RmArg b), b = false → RmArg.code b m = 0
  | false, _, _ => rfl

theorem TyArg.code_of_none : ∀ {o : Option (Ty → Bool)} (t : TyArg o), o = none → TyArg.code o t = 0
  | none, _, _ => rfl

theorem TyArg.ok_of_some : ∀ {o : Option (Ty → Bool)} (t : TyArg o) (ok : Ty → Bool), o = some ok →
    ok (Ty.ofCode (TyArg.code o t)) = true
  | some _, t, _, rfl => by rw [TyArg.code, Ty.ofCode_code]; exact t.2

theorem MaskArg.mask_of_false : ∀ {b : Bool} (m : MaskArg b), b = false → MaskArg.mask b m = .off
  | false, _, _ => rfl

theorem CndArg.code_of_false : ∀ {b : Bool} (c : CndArg b), b = false → CndArg.code b c = 0
  | false, _, _ => rfl

/-- No type limit of the row is met by the code of no type. -/
def XRead.Named (x : XRead) : Bool := x.td.all (fun ok => !ok .none) && x.ts.all fun ok => !ok .none

theorem RmArg.exists_code_eq {b : Bool} {n : Nat} (hz : b = false → n = 0) (hl : b = true → n < 5) : ∃ m, RmArg.code b m = n :=
  match b with
  | true => ⟨Rm.ofCode n, Rm.code_ofCode (hl rfl)⟩
  | false => ⟨(), (hz rfl).symm⟩

theorem TyArg.exists_code_eq {o : Option (Ty → Bool)} {n : Nat} (hn : n < 32) (hnone : o.all (fun ok => !ok .none) = true)
    (hz : o = none → n = 0) (hl : ∀ ok, o = some ok → ok (Ty.ofCode n) = true) : ∃ t, TyArg.code o t = n :=
  match o with
  | some ok => ⟨⟨Ty.ofCode n, hl ok rfl⟩, Ty.code_ofCode_of_ok hn (by simpa using hnone) (hl ok rfl)⟩
  | none => ⟨(), (hz rfl).symm⟩

theorem MaskArg.exists_mask_eq {b : Bool} {r : Raw} (hz : b = false → r.mask = 0) : ∃ m, MaskArg.mask b m = r.vmask :=
  match b with
  | true => ⟨r.vmask, rfl⟩
  | false => ⟨(), (Raw.vmask_eq_off (hz rfl)).symm⟩

theorem CndArg.exists_code_eq {b : Bool} {n : Nat} (hz : b = false → n = 0) (hl : b = true → n < 8) : ∃ c, CndArg.code b c = n :=
  match b with
  | true => ⟨Cnd.ofCode n, Cnd.code_ofCode (hl rfl)⟩
  | false => ⟨(), (hz rfl).symm⟩

/-! ## Form X in classes 0x06 and 0x07 (R57) -/

section
variable {kd ka kb kc : OpK} {x : XRead} {zs : Raw → List (Nat × Nat)} {ls : Raw → List (Nat × Bool)} {build : Hdr → Raw → Instr}
  {h : Hdr} {cls fn : Nat} {i : Instr} {r : Raw}

theorem xRow_zeros_iff : (∀ z ∈ (xRow kd ka kb kc x zs ls build).zeros r, z.2 = 0) ↔
    fld r.lo 0 16 = 0 ∧ (x.cnd = false → r.cnd = 0) ∧
    (x.mask = false → r.mask = 0) ∧ (x.ts = none → r.ts = 0) ∧ (x.td = none → r.td = 0) ∧ (x.rm = false → r.rm = 0) ∧
    ∀ z ∈ zs r, z.2 = 0 := by
  obtain ⟨rm, td, ts, mask, cnd⟩ := x
  cases rm <;> cases td <;> cases ts <;> cases mask <;> cases cnd <;> simp [xRow]

theorem xRow_limits_iff : (∀ l ∈ (xRow kd ka kb kc x zs ls build).limits r, l.2 = true) ↔ (x.cnd = true → r.cnd < 8) ∧
    (∀ ok, x.ts = some ok → ok r.tsv = true) ∧ (∀ ok, x.td = some ok → ok r.tdv = true) ∧ (x.rm = true → r.rm < 5) ∧
    ∀ l ∈ ls r, l.2 = true := by
  obtain ⟨rm, td, ts, mask, cnd⟩ := x
  cases rm <;> cases td <;> cases ts <;> cases cnd <;> simp [xRow]

theorem xRow_sound (hx : x.Named = true) (H : ∀ h d a b c rm td ts m cnd (r : Raw), h.Accepted cls fn →
    r.Names fn (kd.code d) (ka.code a) (kb.code b) (kc.code c) 0 →
    r.HasX (RmArg.code x.rm rm) (TyArg.code x.td td) (TyArg.code x.ts ts) (MaskArg.mask x.mask m) (CndArg.code x.cnd cnd) →
    (∀ z ∈ zs r, z.2 = 0) → (∀ l ∈ ls r, l.2 = true) →
    (build h r).raw = some (mkRaw h cls fn (kd.code d) (ka.code a) (kb.code b) (ce (kc.code c) 0 (xsub (RmArg.code x.rm rm)
      (TyArg.code x.td td) (TyArg.code x.ts ts) (MaskArg.mask x.mask m) (CndArg.code x.cnd cnd)))) ∧ (build h r).wf = true) :
    (xRow kd ka kb kc x zs ls build).Sound cls fn := by
  refine sound_of_row fun h (d : kd.Arg) (a : ka.Arg) (b : kb.Arg) (c : kc.Arg) _ r hh hlo hn hz hl => ?_
  replace hn : r.Names fn (kd.code d) (ka.code a) (kb.code b) (kc.code c) 0 := hn
  obtain ⟨hz0, hzcnd, hzm, hzts, hztd, hzrm, hzs⟩ := xRow_zeros_iff.1 hz
  obtain ⟨hlcnd, hlts, hltd, hlrm, hls⟩ := xRow_limits_iff.1 hl
  obtain ⟨hntd, hnts⟩ := Bool.and_eq_true_iff.1 hx
  obtain ⟨rm, hrm⟩ := RmArg.exists_code_eq hzrm hlrm
  obtain ⟨td, htd⟩ := TyArg.exists_code_eq (fld_lt _ _ _) hntd hztd hltd
  obtain ⟨ts, hts⟩ := TyArg.exists_code_eq (fld_lt _ _ _) hnts hzts hlts
  obtain ⟨m, hm⟩ := MaskArg.exists_mask_eq hzm
  obtain ⟨cnd, hcnd⟩ := CndArg.exists_code_eq hzcnd hlcnd
  have := H h d a b c rm td ts m cnd r hh hn ⟨hrm.symm, htd.symm, hts.symm, hm.symm, hcnd.symm⟩ hzs hls
  rwa [hrm, htd, hts, hm, hcnd, ← hn.c, ← hn.e, ← Raw.lo_eq_xsub hlo hz0] at this

end

/-! ## Form X with sub-fields of the entry's own -/

section
variable {kd ka kb kc ke : OpK} {zs : Raw → List (Nat × Nat)} {ls : Raw → List (Nat × Bool)} {build : Hdr → Raw → Instr}
  {h : Hdr} {cls fn sub : Nat} {i : Instr}

theorem sRow_sound (H : ∀ h d a b c e (r : Raw), h.Accepted cls fn →
    r.Names fn (kd.code d) (ka.code a) (kb.code b) (kc.code c) (ke.code e) → (∀ z ∈ zs r, z.2 = 0) →
      (∀ l ∈ ls r, l.2 = true) →
    (build h r).raw = some (mkRaw h cls fn (kd.code d) (ka.code a) (kb.code b) (ce (kc.code c) (ke.code e) (fld r.lo 0 38))) ∧
      (build h r).wf = true) : (sRow kd ka kb kc ke zs ls build).Sound cls fn := by
  refine sound_of_row fun h (d : kd.Arg) (a : ka.Arg) (b : kb.Arg) (c : kc.Arg) (e : ke.Arg) r hh hlo hn hz hl => ?_
  replace hn : r.Names fn (kd.code d) (ka.code a) (kb.code b) (kc.code c) (ke.code e) := hn
  have := H h d a b c e r hh hn hz hl
  have hce : ce (kc.code c) (ke.code e) (fld r.lo 0 38) = r.lo := by rw [← hn.c, ← hn.e]; exact (eq_ce hlo).symm
  rwa [hce] at this

end

end Sys2Proof
end

section
/-! SUPPORT for O2. Class by class: a row builds from each word that passes its checks a well-formed instruction whose word it is. -/
namespace Sys2Proof

theorem Hdr.Accepted.noCache {cls fn : Nat} {h : Hdr} (hh : h.Accepted cls fn) (hc : cacheAccepted cls fn = false) :
    h.noCache = true := by
  simpa [Hdr.Accepted, hc, Hdr.noCache] using hh

/-- The fields of an instruction's word as its constructor gives them. -/
theorem Instr.raw_eq_some {i : Instr} {r r' : Raw} (hi : i.raw = some r) (hr : r = r') : i.raw = some r' := hi.trans (congrArg some hr)

section
variable {fn : Nat} {w : Row}

theorem row00_sound (hw : row00 fn = some w) : w.Sound 0x00 fn := by
  unfold row00 at hw
  split at hw <;> cases hw
  case h_1 | h_3 | h_9 =>
    refine kRow_sound fun h d a b c e r hh hn => ⟨?_, hh.noCache rfl⟩
    refine Instr.raw_eq_some rfl ?_
    simp [OpK.code]
  all_goals
    refine iRow_sound fun h d a r hh hfn hd ha hlo => ⟨?_, hh.noCache rfl⟩
    refine Instr.raw_eq_some rfl ?_
    simp [OpK.code, hd, ha, Nat.mod_eq_of_lt hlo]

theorem row01_sound (hw : row01 fn = some w) : w.Sound 0x01 fn := by
  unfold row01 at hw
  split at hw <;> cases hw
  case h_1 | h_2 | h_5 =>
    refine jRow_sound fun h d r hh hd hlo => ⟨?_, hh.noCache rfl⟩
    refine Instr.raw_eq_some rfl ?_
    simp only [Raw.imm, OpK.code, hd, r5_toNat, BitVec.toNat_ofNat, Nat.mod_eq_of_lt hlo]
  all_goals
    refine kRow_sound fun h d a b c e r hh hn => ⟨?_, hh.noCache rfl⟩
    refine Instr.raw_eq_some rfl ?_
    simp [OpK.code, hn.d, hn.a]

theorem row02_sound (hw : row02 fn = some w) : w.Sound 0x02 fn := by
  unfold row02 at hw
  split at hw <;> cases hw
  all_goals
    refine kRow_sound fun h d a b c e r hh hn => ⟨?_, hh.noCache rfl⟩
    refine Instr.raw_eq_some rfl ?_
    simp [OpK.code, hn.d, hn.a, hn.b, hn.c]

theorem row03_sound (hw : row03 (fn / 2) = some w) : w.Sound 0x03 fn := by
  have hfn : fn = 2 * (fn / 2) + b1 (bit fn) := by rw [b1, bit]; split <;> simp_all <;> omega
  generalize fn / 2 = op at hw hfn
  generalize bit fn = x at hfn
  subst hfn
  have hx (op : Nat) : bit (2 * op + b1 x) = x := by cases x <;> simp [bit, b1]
  unfold row03 at hw
  split at hw <;> cases hw
  all_goals
    refine kRow_sound fun h d a b c e r hh hn => ⟨?_, hh.noCache rfl⟩
    refine Instr.raw_eq_some rfl ?_
    simp only [int3, OpK.code, hn.fn, hx, hn.d, hn.a, hn.b, hn.c, hn.e, r5_toNat, r4_cp]

theorem row05_sound (hw : row05 fn = some w) : w.Sound 0x05 fn := by
  unfold row05 at hw
  split at hw <;> cases hw
  all_goals
    refine kRow_sound fun h d a b c e r hh hn => ⟨?_, hh.noCache rfl⟩
    refine Instr.raw_eq_some rfl ?_
    simp [OpK.code, hn.d, hn.a, hn.b]

theorem row08_sound (hw : row08 fn = some w) : w.Sound 0x08 fn := by
  unfold row08 at hw
  split at hw <;> cases hw
  all_goals
    refine kRow_sound fun h d a b c e r hh hn => ⟨?_, hh.noCache rfl⟩
    refine Instr.raw_eq_some rfl ?_
    simp [OpK.code, hn.d, hn.a, hn.b]

theorem row09_sound (hw : row09 fn = some w) : w.Sound 0x09 fn := by
  unfold row09 at hw
  split at hw <;> cases hw
  all_goals
    refine kRow_sound fun h d a b c e r hh hn => ⟨?_, hh.noCache rfl⟩
    refine Instr.raw_eq_some rfl ?_
    simp [OpK.code, hn.d, hn.a]

theorem row12_sound (hw : row12 fn = some w) : w.Sound 0x12 fn := by
  unfold row12 at hw
  split at hw <;> cases hw
  all_goals
    refine kRow_sound fun h d a b c e r hh hn => ⟨?_, hh.noCache rfl⟩
    refine Instr.raw_eq_some rfl ?_
    simp [OpK.code, hn.d, hn.a, hn.b]

theorem row06_sound (hw : row06 fn = some w) : w.Sound 0x06 fn := by
  unfold row06 at hw
  split at hw <;> cases hw
  all_goals
    refine xRow_sound rfl fun h d a b c rm td ts m cnd r hh hn hx hz hl => ⟨?_, ?_⟩
    · refine Instr.raw_eq_some rfl ?_
      simp [OpK.code, RmArg.code, TyArg.code, MaskArg.mask, CndArg.code, Raw.rmv, Raw.tdf, Raw.tsf, Raw.tdv, Raw.tsv,
        hn.d, hn.a, hn.b, hn.c, hx.rm, hx.td, hx.ts, hx.cnd]
  case h_16 =>
    have hne : td.1.code ≠ ts.1.code := by simpa [TyArg.code, hx.td, hx.ts] using hl _ (.head _)
    have hne' : FTy.ofCode td.1.code ≠ FTy.ofCode ts.1.code := by
      intro he
      exact hne (by rw [← FTy.code_ofCode td, he, FTy.code_ofCode ts])
    exact Bool.and_eq_true_iff.2 ⟨hh.noCache rfl, by simpa [Raw.tdf, Raw.tsf, hx.td, hx.ts, TyArg.code] using hne'⟩
  case h_17 => exact Bool.and_eq_true_iff.2 ⟨hh.noCache rfl, by simp [Raw.tdv, hx.td, TyArg.code, td.2]⟩
  case h_18 => exact Bool.and_eq_true_iff.2 ⟨hh.noCache rfl, by simp [Raw.tsv, hx.ts, TyArg.code, ts.2]⟩
  all_goals exact hh.noCache rfl

theorem cndOk_of_isCmp {t : Ty} {c : Cnd} (ht : t.isCmp = true) (hc : t.isInt = false ∨ Cnd.code c < 6) : cndOk t c = true := by
  rcases hc with hint | hlt
  · have hf : t.isF = true := by
      cases t with
      | f64 | f32 | f16 | bf16 => rfl
      | _ => contradiction
    simp [cndOk, hf]
  · cases c with
    | un | ord => exact absurd hlt (by decide)
    | _ => simp [cndOk]

theorem row07_sound (hw : row07 fn = some w) : w.Sound 0x07 fn := by
  unfold row07 at hw
  split at hw <;> cases hw
  all_goals
    refine xRow_sound rfl fun h d a b c rm td ts m cnd r hh hn hx hz hl => ⟨?_, ?_⟩
    · refine Instr.raw_eq_some rfl ?_
      simp [OpK.code, RmArg.code, TyArg.code, MaskArg.mask, CndArg.code, Raw.rmv, Raw.tdf, Raw.tdv, Raw.tsv,
        hn.d, hn.a, hn.b, hn.c, hx.rm, hx.td, hx.ts, hx.cnd, hx.m]
  case h_1 | h_2 | h_3 | h_4 | h_5 =>
    have hrm : rmOk td.1 rm = true := by
      by_cases hint : td.1.isInt = true
      · have := hz (35, r.rm)
        simp [rmInt, Raw.tdv, hx.td, TyArg.code, hint, hx.rm, RmArg.code, Rm.code_eq_zero] at this
        simp [rmOk, this]
      · simp [rmOk, hint]
    exact Bool.and_eq_true_iff.2 ⟨Bool.and_eq_true_iff.2 ⟨hh.noCache rfl, by simp [Raw.tdv, hx.td, TyArg.code, td.2]⟩, by
      simp [Raw.tdv, Raw.rmv, hx.td, hx.rm, TyArg.code, RmArg.code, hrm]⟩
  case h_16 =>
    have hcnd : ts.1.isInt = false ∨ cnd.code < 6 := by
      simpa [Raw.tsv, hx.ts, hx.cnd, TyArg.code, CndArg.code] using hl _ (.head _)
    exact Bool.and_eq_true_iff.2 ⟨Bool.and_eq_true_iff.2 ⟨hh.noCache rfl, by simp [Raw.tsv, hx.ts, TyArg.code, ts.2]⟩, by
      simp [Raw.tsv, hx.ts, hx.cnd, TyArg.code, CndArg.code, cndOk_of_isCmp ts.2 hcnd]⟩
  case h_18 =>
    have hpair : vcvtPair td.1 ts.1 = true := by simpa [Raw.tdv, Raw.tsv, hx.td, hx.ts, TyArg.code] using hl _ (.head _)
    exact Bool.and_eq_true_iff.2 ⟨hh.noCache rfl, by simp [Raw.tdv, Raw.tsv, hx.td, hx.ts, TyArg.code, hpair]⟩
  case h_23 | h_24 | h_25 =>
    have hmz : b1 m.mz = 0 := by simpa [Raw.fld_mz, hx.m, MaskArg.mask] using hz _ (.head _)
    have hmz' : m.mz = false := by rw [← bit_b1 m.mz, hmz]; rfl
    exact Bool.and_eq_true_iff.2 ⟨Bool.and_eq_true_iff.2 ⟨hh.noCache rfl, by simp [Raw.tdv, hx.td, TyArg.code, td.2]⟩, by
      simp [hx.m, MaskArg.mask, hmz']⟩
  case h_26 | h_27 | h_28 | h_29 | h_30 | h_31 | h_32 => exact hh.noCache rfl
  all_goals exact Bool.and_eq_true_iff.2 ⟨hh.noCache rfl, by simp [Raw.tdv, hx.td, TyArg.code, td.2]⟩

theorem row0B_sound (hw : row0B fn = some w) : w.Sound 0x0B fn := by
  unfold row0B at hw
  split at hw <;> cases hw
  case h_2 =>
    refine mRow_sound fun h d a b r hh hfn hd ha hb hsz hl => ⟨?_, ?_⟩
    · refine Instr.raw_eq_some rfl ?_
      simp [OpK.code, hd, ha, hb, hsz, Raw.mem]
    · have hlt : r.sz < 3 := of_decide_eq_true (hl _ (.head _))
      have hne : r.size ≠ .b64 := fun h64 => by rw [← hsz, h64] at hlt; exact absurd hlt (by decide)
      exact bne_iff_ne.2 hne
  case h_1 | h_4 | h_12 | h_13 | h_14 | h_15 | h_16 | h_17 | h_18 | h_19 | h_20 | h_21 | h_22 | h_23 =>
    refine mRow_sound fun h d a b r hh hfn hd ha hb hsz _ => ⟨?_, rfl⟩
    refine Instr.raw_eq_some rfl ?_
    simp [OpK.code, hd, ha, hb, hfn, hsz, Scope.ofCode, Scope.code, Raw.mem]
  case h_3 | h_5 =>
    refine mRow0_sound fun h d a b r hh hd ha hb => ⟨?_, ?_⟩
    · refine Instr.raw_eq_some rfl ?_
      simp [OpK.code, hd, ha, hb, Raw.mem, mlo]
    · show even5 (r5 r.d) = true
      simp [hd, OpK.code]
  all_goals
    refine mRow0_sound fun h d a b r hh hd ha hb => ⟨?_, rfl⟩
    refine Instr.raw_eq_some rfl ?_
    simp [OpK.code, hd, ha, hb, Raw.mem, mlo]

end
end Sys2Proof
end

section
/-! SUPPORT for O2. The classes whose forms have sub-fields of their own, and O2 itself: every row is sound. -/
namespace Sys2Proof

section
variable {fn : Nat} {w : Row}

theorem row04_sound (hw : row04 fn = some w) : w.Sound 0x04 fn := by
  unfold row04 at hw
  split at hw <;> cases hw
  case h_3 | h_5 | h_7 =>
    refine iRow_sound fun h d a r hh hfn hd ha hlo => ⟨?_, ?_⟩
    · refine Instr.raw_eq_some rfl ?_
      simp [OpK.code, hd, ha, b1, Nat.mod_eq_of_lt hlo]
    · exact Bool.and_eq_true_iff.2 ⟨hh.noCache rfl, rfl⟩
  case h_4 | h_6 | h_8 =>
    refine iRow_sound fun h d a r hh hfn hd ha hlo => ⟨?_, ?_⟩
    · refine Instr.raw_eq_some rfl ?_
      simp [OpK.code, hd, ha, b1, Nat.mod_eq_of_lt (hlo.trans (show 32 < 64 by decide))]
    · refine Bool.and_eq_true_iff.2 ⟨hh.noCache rfl, ?_⟩
      simp [Nat.mod_eq_of_lt (hlo.trans (show 32 < 64 by decide)), hlo]
  case h_17 =>
    refine mRow0_sound fun h d a b r hh hd ha hb => ⟨?_, hh.noCache rfl⟩
    refine Instr.raw_eq_some rfl ?_
    simp [OpK.code, hd, ha, hb, Raw.mem]
  all_goals
    refine iRow_sound fun h d a r hh hfn hd ha hlo => ⟨?_, hh.noCache rfl⟩
    refine Instr.raw_eq_some rfl ?_
    simp only [OpK.code, hd, ha, b1, Raw.imm, r5_toNat, r4_cp, BitVec.toNat_ofNat, Nat.mod_eq_of_lt hlo, if_true,
      if_false, Bool.false_eq_true]

theorem row0C_sound (hw : row0C fn = some w) : w.Sound 0x0C fn := by
  unfold row0C at hw
  split at hw <;> cases hw
  case h_3 =>
    refine kRow_sound fun h d a b c e r hh hn => ⟨?_, rfl⟩
    refine Instr.raw_eq_some rfl ?_
    simp [OpK.code, hn.d, hn.a, hn.b, hn.c]
  all_goals
    refine iRow_sound fun h d a r hh hfn hd ha hlo => ⟨?_, hh.noCache rfl⟩
    refine Instr.raw_eq_some rfl ?_
    simp [OpK.code, Nat.mod_eq_of_lt hlo]

/-! ## Atomics (R76, R77) -/

theorem AmoW.code_ofCode : ∀ {n : Nat}, n < 3 → (AmoW.ofCode n).code = n := by decide
theorem AmoF.code_ofCode : ∀ {n : Nat}, n < 5 → (AmoF.ofCode n).code = n := by decide
@[simp] theorem AmoW.ofCode_code (x : AmoW) : AmoW.ofCode x.code = x := by cases x <;> rfl
@[simp] theorem AmoF.ofCode_code (x : AmoF) : AmoF.ofCode x.code = x := by cases x <;> rfl

/-- The function of an integer atomic from its parts (R76). -/
theorem amo_fn_eq (hw : fn % 8 / 2 < 3) : 8 * (fn / 8) + 2 * (AmoW.ofCode (fld fn 1 2)).code + b1 (bit fn) = fn := by
  have hwidth : fld fn 1 2 = fn % 8 / 2 := by unfold fld; omega
  have hbit : b1 (bit fn) = fn % 2 := by rw [b1, bit]; split <;> simp_all
  rw [hwidth, AmoW.code_ofCode hw, hbit]
  omega

/-- The function of a floating-point atomic from its parts (R77). -/
theorem amof_fn_eq (hw : fn % 16 / 2 < 5) : 16 * (fn / 16) + 2 * (AmoF.ofCode (fld fn 1 3)).code + b1 (bit fn) = fn := by
  have hwidth : fld fn 1 3 = fn % 16 / 2 := by unfold fld; omega
  have hbit : b1 (bit fn) = fn % 2 := by rw [b1, bit]; split <;> simp_all
  rw [hwidth, AmoF.code_ofCode hw, hbit]
  omega

theorem AmoW.ofCode_ne_b128 : ∀ {n : Nat}, n < 2 → AmoW.ofCode n ≠ .b128 := by decide

theorem amoRow_sound {op : Nat} {build : Hdr → AmoW → Bool → G → G → G → Instr} (hop : fn / 8 = op) (hwidth : fn % 8 / 2 < 2)
    (hraw : ∀ h w n a d b, (build h w n a d b).raw = some (amoE h op w n a d b 0))
    (hwf : ∀ h w n a d b, (build h w n a d b).wf = amoOk w n d) : (amoRow (bit fn) build).Sound 0x0D fn := by
  have hfn := amo_fn_eq (fn := fn) (hwidth.trans (by decide))
  have hb128 : AmoW.ofCode (fld fn 1 2) ≠ .b128 := by
    rw [show fld fn 1 2 = fn % 8 / 2 by unfold fld; omega]
    exact AmoW.ofCode_ne_b128 hwidth
  rw [hop] at hfn
  cases hn : bit fn <;> rw [hn] at hfn
  case true =>
    show (kRow .zero .g .g .zero .zero _).Sound 0x0D fn
    refine kRow_sound fun h d a b c e r hh hr => ?_
    simp [hraw, hwf, amoE, amoOk, Raw.amoW, Raw.amoN, hr.fn, hr.d, hr.a, hr.b, hn, OpK.code, hb128, hfn]
  case false =>
    show (kRow .g .g .g .zero .zero _).Sound 0x0D fn
    refine kRow_sound fun h d a b c e r hh hr => ?_
    simp [hraw, hwf, amoE, amoOk, Raw.amoW, Raw.amoN, hr.fn, hr.d, hr.a, hr.b, hn, OpK.code, hb128, hfn]

theorem Instr.wf_amocas (h : Hdr) (w : AmoW) (n : Bool) (a d b c : G) : (Instr.amocas h w n a d b c).wf =
    ((!n || d == 0) && (w != .b128 || (even5 d && even5 b && even5 c))) := rfl

theorem casRow_sound {wide : Bool} (hop : fn / 8 = 9) (hwidth : fn % 8 / 2 < 3) (hwide : wide = true ↔ fn % 8 / 2 = 2) :
    (casRow (bit fn) wide).Sound 0x0D fn := by
  have hfn := amo_fn_eq hwidth
  have hw : wide = true ↔ AmoW.ofCode (fld fn 1 2) = .b128 := by
    rw [show fld fn 1 2 = fn % 8 / 2 by unfold fld; omega, hwide]
    generalize fn % 8 / 2 = n at hwidth
    interval_cases n <;> simp [AmoW.ofCode]
  rw [hop] at hfn
  cases hn : bit fn <;> rw [hn] at hfn <;> cases wide
  case true.true =>
    show (kRow .zero .g .g2 .g2 .zero _).Sound 0x0D fn
    refine kRow_sound fun h d a b c e r hh hr => ⟨Instr.raw_eq_some rfl ?_, ?_⟩
    · simp [amoE, Raw.amoW, Raw.amoN, hr.fn, hr.d, hr.a, hr.b, hr.c, hn, OpK.code, hfn]
    · simp [Instr.wf_amocas, Raw.amoN, hr.fn, hr.d, hr.b, hr.c, hn, OpK.code]
  case true.false =>
    show (kRow .zero .g .g .g .zero _).Sound 0x0D fn
    refine kRow_sound fun h d a b c e r hh hr => ⟨Instr.raw_eq_some rfl ?_, ?_⟩
    · simp [amoE, Raw.amoW, Raw.amoN, hr.fn, hr.d, hr.a, hr.b, hr.c, hn, OpK.code, hfn]
    · simp [Instr.wf_amocas, Raw.amoW, Raw.amoN, hr.fn, hr.d, hr.b, hr.c, hn, OpK.code, ← hw]
  case false.true =>
    show (kRow .g2 .g .g2 .g2 .zero _).Sound 0x0D fn
    refine kRow_sound fun h d a b c e r hh hr => ⟨Instr.raw_eq_some rfl ?_, ?_⟩
    · simp [amoE, Raw.amoW, Raw.amoN, hr.fn, hr.d, hr.a, hr.b, hr.c, hn, OpK.code, hfn]
    · simp [Instr.wf_amocas, Raw.amoN, hr.fn, hr.d, hr.b, hr.c, hn, OpK.code]
  case false.false =>
    show (kRow .g .g .g .g .zero _).Sound 0x0D fn
    refine kRow_sound fun h d a b c e r hh hr => ⟨Instr.raw_eq_some rfl ?_, ?_⟩
    · simp [amoE, Raw.amoW, Raw.amoN, hr.fn, hr.d, hr.a, hr.b, hr.c, hn, OpK.code, hfn]
    · simp [Instr.wf_amocas, Raw.amoW, Raw.amoN, hr.fn, hr.d, hr.b, hr.c, hn, OpK.code, ← hw]

theorem row0D_sound (hw : row0D fn = some w) : w.Sound 0x0D fn := by
  unfold row0D at hw
  split at hw
  · contradiction
  split at hw
  · split at hw
    · cases hw
      exact casRow_sound (by omega) (by omega) (by simp; omega)
    · contradiction
  split at hw <;> cases hw
  case h_10 => exact casRow_sound (by omega) (by omega) (by simp; omega)
  all_goals exact amoRow_sound (by assumption) (by omega) (fun _ _ _ _ _ _ => rfl) fun _ _ _ _ _ _ => rfl

theorem amofRow_sound {op : Nat} {build : Hdr → AmoF → Bool → G → GF → GF → Instr} (hop : fn / 16 = op) (hty : fn % 16 / 2 < 5)
    (hraw : ∀ h t n a d b, (build h t n a d b).raw = some (amofE h op t n a d b))
    (hwf : ∀ h t n a d b, (build h t n a d b).wf = amofOk n d) : (amofRow (bit fn) build).Sound 0x0E fn := by
  have hfn := amof_fn_eq hty
  rw [hop] at hfn
  cases hn : bit fn <;> rw [hn] at hfn
  case true =>
    show (kRow .zero .g .gf .zero .zero _).Sound 0x0E fn
    refine kRow_sound fun h d a b c e r hh hr => ?_
    simp [hraw, hwf, amofE, amofOk, hr.fn, hr.d, hr.a, hr.b, hn, OpK.code, hfn]
  case false =>
    show (kRow .gf .g .gf .zero .zero _).Sound 0x0E fn
    refine kRow_sound fun h d a b c e r hh hr => ?_
    simp [hraw, hwf, amofE, amofOk, hr.fn, hr.d, hr.a, hr.b, hn, OpK.code, hfn]

theorem row0E_sound (hw : row0E fn = some w) : w.Sound 0x0E fn := by
  unfold row0E at hw
  split at hw
  case isFalse => contradiction
  case isTrue hty =>
    split at hw <;> cases hw
    all_goals exact amofRow_sound (by assumption) hty (fun _ _ _ _ _ _ => rfl) fun _ _ _ _ _ _ => rfl

/-! ## Sub-fields of the entries (R244, R352, R377, R378) -/

variable {r : Raw}

theorem fld_one_eq_zero_iff {x l : Nat} : fld x l 1 = 0 ↔ bit (fld x l 1) = false :=
  ⟨fun h => by rw [h]; rfl, fun h => by rw [← b1_bit (fld_lt x l 1), h]; rfl⟩

theorem ofNat_fld_eq_zero_iff {x l w : Nat} : BitVec.ofNat w (fld x l w) = 0#w ↔ fld x l w = 0 := by
  rw [← BitVec.toNat_inj, BitVec.toNat_ofNat, BitVec.toNat_ofNat, Nat.zero_mod, Nat.mod_eq_of_lt (fld_lt x l w)]

theorem forall_mem_ite_nil {b : Bool} {l : List (Nat × Nat)} :
    (∀ z ∈ (if b = true then [] else l), z.2 = 0) ↔ b = true ∨ ∀ z ∈ l, z.2 = 0 := by
  cases b <;> simp

theorem MKind.code_ofCode : ∀ {n : Nat}, n < 4 → (MKind.ofCode n).code = n := by decide

theorem Raw.kind_code (r : Raw) : r.kind.code = fld r.lo 36 2 := MKind.code_ofCode (fld_lt _ _ _)

theorem Raw.sub_eq_kind (h : fld r.lo 0 36 = 0) : fld r.lo 0 38 = r.kind.code * 2 ^ 36 := by
  rw [r.kind_code, fld_add _ 36 2, h, Nat.add_zero]

theorem Raw.sub_eq_mmacSub (h : fld r.lo 0 16 = 0) (hta : r.mmac.ta.isMmac = true) (htb : r.mmac.tb.isMmac = true) :
    fld r.lo 0 38 = mmacSub r.mmac := by
  have hta := Ty.code_ofCode_of_ok (fld_lt r.lo 33 5) rfl hta
  have htb := Ty.code_ofCode_of_ok (fld_lt r.lo 28 5) rfl htb
  rw [fld_add _ 33 5, fld_add _ 28 5, fld_add _ 27 1, fld_add _ 26 1, fld_add _ 25 1, fld_add _ 24 1, fld_add _ 23 1, fld_add _ 22 1,
    fld_add _ 20 2, fld_add _ 19 1, fld_add _ 17 2, fld_add _ 16 1, h]
  simp only [mmacSub, Raw.mmac, hta, htb, b1_bit (fld_lt r.lo _ 1), BitVec.toNat_ofNat, Nat.mod_eq_of_lt (fld_lt r.lo _ 2), add_assoc,
    Nat.add_zero]

/-- The fields that other fields of mmac require to be zero (R244, R479). -/
theorem mmacZeros_iff : (∀ z ∈ mmacZeros r, z.2 = 0) ↔
    fld r.lo 0 16 = 0 ∧ (r.mmac.ze = true ∨ r.mmac.zk = false ∧ r.mmac.zs = 0) ∧
    (r.mmac.ye = true ∨ r.mmac.ys = 0) ∧ (r.mmac.tb.is8 = true ∨ r.mmac.b4 = false) ∧
    (r.mmac.ta.is8 = true ∨ r.mmac.a4 = false) := by
  have hys : r.mmac.ys = 0 ↔ fld r.lo 20 2 = 0 := ofNat_fld_eq_zero_iff
  have hzs : r.mmac.zs = 0 ↔ fld r.lo 17 2 = 0 := ofNat_fld_eq_zero_iff
  have hzk : r.mmac.zk = false ↔ fld r.lo 16 1 = 0 := fld_one_eq_zero_iff.symm
  have ha4 : r.mmac.a4 = false ↔ fld r.lo 24 1 = 0 := fld_one_eq_zero_iff.symm
  have hb4 : r.mmac.b4 = false ↔ fld r.lo 23 1 = 0 := fld_one_eq_zero_iff.symm
  rw [hys, hzs, hzk, ha4, hb4, mmacZeros]
  simp only [List.forall_mem_append, forall_mem_ite_nil, List.forall_mem_cons, List.not_mem_nil, false_implies, implies_true,
    and_assoc, and_true]

theorem Raw.sub_eq_drain (h : fld r.lo 0 32 = 0) (htd : (Ty.ofCode (fld r.lo 33 5)).isDrain = true) :
    fld r.lo 0 38 = (Ty.ofCode (fld r.lo 33 5)).code * 2 ^ 33 + b1 (bit (fld r.lo 32 1)) * 2 ^ 32 := by
  rw [Ty.code_ofCode_of_ok (fld_lt r.lo 33 5) rfl htd, b1_bit (fld_lt r.lo 32 1), fld_add _ 33 5, fld_add _ 32 1, h,
    Nat.add_zero]

theorem Raw.sub_eq_ldt (h : fld r.lo 0 31 = 0) (hts : mldtPair r.kind (Ty.ofCode (fld r.lo 31 5)) = true) :
    fld r.lo 0 38 = r.kind.code * 2 ^ 36 + (Ty.ofCode (fld r.lo 31 5)).code * 2 ^ 31 := by
  have hnone : mldtPair r.kind .none = false := by cases r.kind <;> rfl
  rw [Ty.code_ofCode_of_ok (fld_lt r.lo 31 5) hnone hts, r.kind_code, fld_add _ 36 2, fld_add _ 31 5, h, Nat.add_zero]

theorem Raw.sub_eq_ad (h : fld r.lo 0 37 = 0) : fld r.lo 0 38 = b1 (bit (fld r.lo 37 1)) * 2 ^ 37 := by
  rw [b1_bit (fld_lt r.lo 37 1), fld_add _ 37 1, h, Nat.add_zero]

theorem Instr.wf_mmac (h : Hdr) (c : YZ) (a b : G) (m : MmacSub) : (Instr.mmac h c a b m).wf =
    (m.ta.isMmac && m.tb.isMmac && (!m.a4 || m.ta.is8) && (!m.b4 || m.tb.is8) && (m.ye || m.ys == 0) &&
      (m.ze || (m.zs == 0 && !m.zk))) := rfl

theorem row0A_sound (hw : row0A fn = some w) : w.Sound 0x0A fn := by
  unfold row0A at hw
  split at hw <;> cases hw
  case h_1 | h_2 | h_3 | h_4 =>
    refine sRow_sound fun h d a b c e r hh hn hz hl => ⟨?_, rfl⟩
    refine Instr.raw_eq_some rfl ?_
    simp [OpK.code, Raw.set, hn.fn, Raw.sub_eq_kind (hz _ (.head _))]
  case h_5 | h_6 | h_7 | h_8 =>
    refine sRow_sound fun h d a b c e r hh hn hz hl => ?_
    obtain ⟨h0, hze, hye, hb4, ha4⟩ := mmacZeros_iff.1 hz
    have htb : r.mmac.tb.isMmac = true := hl (28, r.mmac.tb.isMmac) (.head _)
    have hta : r.mmac.ta.isMmac = true := hl (33, r.mmac.ta.isMmac) (.tail _ (.head _))
    refine ⟨?_, ?_⟩
    · refine Instr.raw_eq_some rfl ?_
      simp [OpK.code, Raw.set, hn.fn, hn.a, hn.b, Raw.sub_eq_mmacSub h0 hta htb]
    · simp only [Instr.wf_mmac, hta, htb, Bool.and_eq_true, Bool.or_eq_true, Bool.not_eq_true', beq_iff_eq]
      exact ⟨⟨⟨⟨⟨trivial, trivial⟩, ha4.symm⟩, hb4.symm⟩, hye⟩, hze.imp_right And.symm⟩
  case h_9 | h_10 | h_11 | h_12 =>
    refine sRow_sound fun h d a b c e r hh hn hz hl => ⟨?_, hl _ (.head _)⟩
    refine Instr.raw_eq_some rfl ?_
    simp [OpK.code, Raw.set, hn.fn, hn.d, hn.c, Raw.sub_eq_drain (hz _ (.head _)) (hl _ (.head _))]
  case h_13 | h_14 | h_15 | h_16 =>
    refine sRow_sound fun h d a b c e r hh hn hz hl => ⟨?_, hl _ (.head _)⟩
    refine Instr.raw_eq_some rfl ?_
    simp [OpK.code, Raw.set, hn.fn, hn.a, Raw.sub_eq_ldt (hz _ (.head _)) (hl _ (.head _))]
  case h_18 | h_19 =>
    refine sRow_sound fun h d a b c e r hh hn hz hl => ⟨?_, rfl⟩
    refine Instr.raw_eq_some rfl ?_
    simp [OpK.code, hn.d, hn.a, Raw.sub_eq_ad (hz _ (.head _))]
  all_goals
    refine kRow_sound fun h d a b c e r hh hn => ⟨?_, rfl⟩
    refine Instr.raw_eq_some rfl ?_
    simp [OpK.code, Raw.set, hn.fn, hn.d, hn.a, hn.b]

theorem Scope.code_ofCode : ∀ {n : Nat}, n < 6 → (Scope.ofCode n).code = n := by decide
@[simp] theorem Scope.ofCode_code (x : Scope) : Scope.ofCode x.code = x := by cases x <;> rfl
theorem Scope.code_lt (x : Scope) : x.code < 6 := by cases x <;> decide

/-- Without a stamp the scope is the slot's, whose code is zero (R352, R479). -/
theorem scopeZero_iff : (∀ z ∈ scopeZero r, z.2 = 0) ↔
    bit (fld r.lo 35 1) = true ∨ Scope.ofCode (fld r.lo 32 3) = .slot := by
  have hslot : ∀ n < 8, Scope.ofCode n = .slot ↔ n = 0 := by decide
  rw [hslot _ (fld_lt _ _ _), scopeZero]
  cases bit (fld r.lo 35 1) <;> simp

theorem Raw.sub_eq_cpy (hsco : fld r.lo 32 3 < 6) : fld r.lo 0 38 = (BitVec.ofNat 2 (fld r.lo 36 2)).toNat * 2 ^ 36 +
    b1 (bit (fld r.lo 35 1)) * 2 ^ 35 + (Scope.ofCode (fld r.lo 32 3)).code * 2 ^ 32 + (BitVec.ofNat 16 (fld r.lo 16 16)).toNat * 2 ^ 16 +
    (BitVec.ofNat 16 (fld r.lo 0 16)).toNat := by
  rw [b1_bit (fld_lt _ _ _), Scope.code_ofCode hsco, fld_add _ 36 2, fld_add _ 35 1, fld_add _ 32 3, fld_add _ 16 16]
  simp only [toNat_ofNat_fld, add_assoc]

theorem Raw.sub_eq_cpybt (h : fld r.lo 0 24 = 0) (hsco : fld r.lo 32 3 < 6) : fld r.lo 0 38 =
    (BitVec.ofNat 2 (fld r.lo 36 2)).toNat * 2 ^ 36 +
    b1 (bit (fld r.lo 35 1)) * 2 ^ 35 + (Scope.ofCode (fld r.lo 32 3)).code * 2 ^ 32 + (BitVec.ofNat 8 (fld r.lo 24 8)).toNat * 2 ^ 24 := by
  rw [b1_bit (fld_lt _ _ _), Scope.code_ofCode hsco, fld_add _ 36 2, fld_add _ 35 1, fld_add _ 32 3, fld_add _ 24 8, h]
  simp only [toNat_ofNat_fld, add_assoc, Nat.add_zero]

theorem row0F_sound (hw : row0F fn = some w) : w.Sound 0x0F fn := by
  unfold row0F at hw
  split at hw <;> cases hw
  case h_1 =>
    refine sRow_sound fun h d a b c e r hh hn hz hl => ⟨?_, ?_⟩
    · have hsco : fld r.lo 32 3 < 6 := of_decide_eq_true (hl _ (.head _))
      refine Instr.raw_eq_some rfl ?_
      simp only [OpK.code, hn.d, hn.a, hn.b, hn.c, r5_toNat, Raw.sub_eq_cpy hsco]
    · exact Bool.or_eq_true_iff.2 (by simpa using scopeZero_iff.1 hz)
  case h_2 =>
    refine sRow_sound fun h d a b c e r hh hn hz hl => ?_
    obtain ⟨h0, hz⟩ := List.forall_mem_cons.1 hz
    obtain ⟨hnblk, hl⟩ := List.forall_mem_cons.1 hl
    refine ⟨?_, ?_⟩
    · have hsco : fld r.lo 32 3 < 6 := of_decide_eq_true (hl _ (.head _))
      refine Instr.raw_eq_some rfl ?_
      simp only [OpK.code, hn.d, hn.a, hn.b, hn.c, hn.e, r5_toNat, Raw.sub_eq_cpybt h0 hsco]
    · have hnblk : fld r.lo 24 8 ≠ 0 := by simpa using hnblk
      exact Bool.and_eq_true_iff.2 ⟨by simp [scopeZero_iff.1 hz], by simp [ofNat_fld_eq_zero_iff, hnblk]⟩
  all_goals
    refine kRow_sound fun h d a b c e r hh hn => ⟨?_, rfl⟩
    refine Instr.raw_eq_some rfl ?_
    simp [OpK.code, hn.d, hn.a, hn.b]

/-- A number at the foot of the word with zeros above it up to bit 38. -/
theorem Raw.sub_eq_low {l w : Nat} (hlw : l + w = 38) (h : fld r.lo l w = 0) : fld r.lo 0 38 = (BitVec.ofNat l r.lo).toNat := by
  rw [← hlw, fld_add, h, Nat.zero_mul, Nat.zero_add, BitVec.toNat_ofNat, fld, pow_zero, Nat.div_one]

theorem row10_sound (hw : row10 fn = some w) : w.Sound 0x10 fn := by
  unfold row10 at hw
  split at hw <;> cases hw
  case h_5 =>
    refine sRow_sound fun h d a b c e r hh hn hz hl => ⟨?_, ?_⟩
    · refine Instr.raw_eq_some rfl ?_
      simp only [OpK.code, hn.d, hn.a, hn.c, r5_toNat, r5_cv, Raw.sub_eq_low (by decide) (hz _ (.head _))]
    · show even5 (r5 r.d) = true
      simp [hn.d, OpK.code]
  case h_6 =>
    refine sRow_sound fun h d a b c e r hh hn hz hl => ⟨?_, rfl⟩
    refine Instr.raw_eq_some rfl ?_
    simp only [OpK.code, hn.d, hn.a, hn.c, r5_toNat, Raw.sub_eq_low (by decide) (hz _ (.head _))]
  case h_2 =>
    refine kRow_sound fun h d a b c e r hh hn => ⟨?_, ?_⟩
    · refine Instr.raw_eq_some rfl ?_
      simp [OpK.code, hn.a, hn.b]
    · show even5 (r5 r.b) = true
      simp [hn.b, OpK.code]
  all_goals
    refine kRow_sound fun h d a b c e r hh hn => ⟨?_, rfl⟩
    refine Instr.raw_eq_some rfl ?_
    simp [OpK.code, hn.d, hn.a, hn.b]

theorem Raw.sub_eq_invoke (h : fld r.lo 0 12 = 0) : fld r.lo 0 38 = (BitVec.ofNat 12 (fld r.lo 26 12)).toNat * 2 ^ 26 +
    (BitVec.ofNat 4 (fld r.lo 22 4)).toNat * 2 ^ 22 + (BitVec.ofNat 8 (fld r.lo 14 8)).toNat * 2 ^ 14 + b1 (bit (fld r.lo 13 1)) * 2 ^ 13 +
    b1 (bit (fld r.lo 12 1)) * 2 ^ 12 := by
  rw [b1_bit (fld_lt _ _ _), b1_bit (fld_lt _ _ _), fld_add _ 26 12, fld_add _ 22 4, fld_add _ 14 8, fld_add _ 13 1, fld_add _ 12 1, h]
  simp only [toNat_ofNat_fld, add_assoc, Nat.add_zero]

theorem invokeZeros_iff : (∀ z ∈ invokeZeros r, z.2 = 0) ↔ fld r.lo 0 12 = 0 ∧ fld r.lo 14 8 < 2 ^ fld r.lo 22 4 ∧
    (bit (fld r.lo 12 1) = true ∨ r.c = 0) := by
  have hdiv : fld r.lo 14 8 / 2 ^ fld r.lo 22 4 = 0 ↔ fld r.lo 14 8 < 2 ^ fld r.lo 22 4 :=
    Nat.div_eq_zero_iff_lt (Nat.two_pow_pos _)
  rw [invokeZeros]
  simp only [List.forall_mem_append, forall_mem_ite_nil, List.forall_mem_cons, List.not_mem_nil, false_implies, implies_true,
    and_assoc, and_true, hdiv]

theorem Instr.wf_invoke (h : Hdr) (d a b c : G) (svc : BitVec 12) (na : BitVec 4) (wa : BitVec 8) (tw rp : Bool) :
    (Instr.invoke h d a b c svc na wa tw rp).wf =
      (h.noCache && na.toNat ≤ 8 && wa.toNat < 2 ^ na.toNat && (rp || c == 0)) := rfl

theorem row11_sound (hw : row11 fn = some w) : w.Sound 0x11 fn := by
  unfold row11 at hw
  split at hw <;> cases hw
  case h_1 =>
    refine sRow_sound fun h d a b c e r hh hn hz hl => ?_
    obtain ⟨h0, hwarg, hc⟩ := invokeZeros_iff.1 hz
    have hnarg : fld r.lo 22 4 < 9 := of_decide_eq_true (hl _ (.head _))
    refine ⟨?_, ?_⟩
    · refine Instr.raw_eq_some rfl ?_
      simp only [OpK.code, hn.d, hn.a, hn.b, hn.c, r5_toNat, Raw.sub_eq_invoke h0]
    · have hnarg : fld r.lo 22 4 ≤ 8 := Nat.le_of_lt_succ hnarg
      have hc : bit (fld r.lo 12 1) = true ∨ r5 r.c = 0 := hc.imp_right fun h => by rw [h]; rfl
      simp only [Instr.wf_invoke, hh.noCache rfl, toNat_ofNat_fld, hnarg, hwarg, decide_true, Bool.and_self, Bool.true_and,
        Bool.or_eq_true, beq_iff_eq]
      exact hc
  case h_2 | h_5 =>
    refine sRow_sound fun h d a b c e r hh hn hz hl => ⟨?_, ?_⟩
    · refine Instr.raw_eq_some rfl ?_
      simp [OpK.code, hn.d, hn.a, Raw.sub_eq_low (l := 2) rfl (hz _ (.head _))]
    · have hlim := of_decide_eq_true (hl _ (.head _))
      refine Bool.and_eq_true_iff.2 ⟨hh.noCache rfl, decide_eq_true ?_⟩
      rw [BitVec.toNat_ofNat]
      unfold fld at hlim
      omega
  all_goals
    refine kRow_sound fun h d a b c e r hh hn => ⟨?_, hh.noCache rfl⟩
    refine Instr.raw_eq_some rfl ?_
    simp [OpK.code, hn.a, hn.b]

theorem rowOf_sound {cls fn : Nat} {w : Row} (hw : rowOf cls fn = some w) : w.Sound cls fn := by
  unfold rowOf at hw
  split at hw
  · exact row00_sound hw
  · exact row01_sound hw
  · exact row02_sound hw
  · exact row03_sound hw
  · exact row04_sound hw
  · exact row05_sound hw
  · exact row06_sound hw
  · exact row07_sound hw
  · exact row08_sound hw
  · exact row09_sound hw
  · exact row0A_sound hw
  · exact row0B_sound hw
  · exact row0C_sound hw
  · exact row0D_sound hw
  · exact row0E_sound hw
  · exact row0F_sound hw
  · exact row10_sound hw
  · exact row11_sound hw
  · exact row12_sound hw
  · contradiction

/-- Settles O2: a word that decodes has passed the checks of its row, which is sound. -/
theorem encodeInvertsDecode : Obligations.EncodeInvertsDecode := by
  unfold Obligations.EncodeInvertsDecode
  intro x i hx
  exact encode_of_decode_eq_ok (fun _ _ _ => rowOf_sound) hx

end
end Sys2Proof
end

section
/-! SUPPORT for O1. An instruction that its row builds from operands decodes from its own word. -/
namespace Sys2Proof

/-- The word of the instruction decodes to it. -/
def Instr.Decodes (i : Instr) : Prop := ∀ x, encode i = some x → decode x = .ok i

theorem Hdr.Accepted.of_noCache {h : Hdr} {cls fn : Nat} (hh : h.noCache = true) : h.Accepted cls fn := .inl (of_decide_eq_true hh)

/-- The class and the function of an instruction's word (R53). -/
def Instr.cls (i : Instr) : Nat := i.raw.elim 0 Raw.cls
def Instr.fn (i : Instr) : Nat := i.raw.elim 0 Raw.fn

/-- Every assigned function fits its field (R63). -/
theorem rowOf_fn_lt {cls fn : Nat} {w : Row} (hw : rowOf cls fn = some w) : fn < 2 ^ 7 := by
  by_contra hge
  obtain ⟨n, rfl⟩ := Nat.exists_eq_add_of_le' (Nat.not_lt.1 hge)
  unfold rowOf at hw
  split at hw
  case h_4 =>
    rw [show (n + 2 ^ 7) / 2 = n / 2 + 64 by omega] at hw
    nomatch hw
  case h_14 =>
    rw [row0D, show (n + 2 ^ 7) / 8 = n / 8 + 16 by omega] at hw
    split at hw
    · nomatch hw
    · split at hw
      · rw [if_neg (by omega)] at hw
        nomatch hw
      · nomatch hw
  case h_15 =>
    rw [row0E, show (n + 2 ^ 7) / 16 = n / 16 + 8 by omega] at hw
    split at hw <;> nomatch hw
  all_goals nomatch hw

/-- The bits of the word below C and E are `sub`. -/
def Raw.HasSub (r : Raw) (sub : Nat) : Prop := ∀ ⦃l w : Nat⦄, l + w ≤ 38 → fld r.lo l w = fld sub l w

section
variable {i : Instr} {h : Hdr}

/-- An instruction that its row builds from operands of the row's kinds, where the row's own checks pass. -/
theorem decodes_of_row {w : Row} {lo : Nat} (hrow : rowOf i.cls i.fn = some w) (hh : h.Accepted i.cls i.fn)
    (hlo : lo < 2 ^ 52) (d : w.d.Arg) (a : w.a.Arg) (b : w.b.Arg) (c : w.c.Arg) (e : w.e.Arg) (hc : fld lo 45 7 = w.c.code c)
    (he : fld lo 38 7 = w.e.code e)
    (H : ∀ r, r.lo = lo → r.Names i.fn (w.d.code d) (w.a.code a) (w.b.code b) (w.c.code c) (w.e.code e) →
      (∀ z ∈ w.zeros r, z.2 = 0) ∧ (∀ l ∈ w.limits r, l.2 = true) ∧ w.build h r = i) : i.Decodes := by
  generalize hr1 : mkRaw h i.cls i.fn (w.d.code d) (w.a.code a) (w.b.code b) lo = r1
  have hn : r1.Names i.fn (w.d.code d) (w.a.code a) (w.b.code b) (w.c.code c) (w.e.code e) := by
    subst hr1; exact ⟨rfl, rfl, rfl, rfl, hc, he⟩
  obtain ⟨hz, hl, hi⟩ := H r1 (by subst hr1; rfl) hn
  have hp : w.Passes r1 := ⟨⟨d, hn.d.symm⟩, ⟨a, hn.a.symm⟩, ⟨b, hn.b.symm⟩, ⟨c, hn.c.symm⟩, ⟨e, hn.e.symm⟩, hz, hl⟩
  subst hr1
  have hsound := (rowOf_sound hrow h _ _ _ _ hlo hh hp).1
  have hdec := decode_mkRaw hrow (rowOf_fn_lt hrow) hh hlo hp
  rw [hi] at hsound hdec
  intro x hx
  obtain ⟨r, hr, rfl⟩ := encode_eq_some_iff.1 hx
  rw [hsound, Option.some_inj] at hr
  rw [← hr, hdec]

section
variable {kd ka kb kc ke : OpK} {build : Hdr → Raw → Instr} {lo : Nat}

theorem decodes_of_kRow (hrow : rowOf i.cls i.fn = some (kRow kd ka kb kc ke build))
    (hh : h.Accepted i.cls i.fn) (d : kd.Arg) (a : ka.Arg) (b : kb.Arg) (c : kc.Arg) (e : ke.Arg)
    (H : ∀ r : Raw, r.Names i.fn (kd.code d) (ka.code a) (kb.code b) (kc.code c) (ke.code e) → build h r = i) : i.Decodes := by
  have hc := kc.code_lt c
  have he := ke.code_lt e
  have hs : 0 < 2 ^ 38 := by decide
  refine decodes_of_row hrow hh (ce_lt hc he hs) d a b c e (fld_ce_c hc he hs) (fld_ce_e he hs) fun r hlo hn =>
    ⟨?zeros, nofun, H r hn⟩
  simp [kRow, hlo, fld_ce_sub]

theorem decodes_of_iRow {lim : Nat} (hrow : rowOf i.cls i.fn = some (iRow kd ka lim build))
    (hh : h.Accepted i.cls i.fn) (d : kd.Arg) (a : ka.Arg) (hlo : lo < 2 ^ 52) (hlim : lo < lim)
    (H : ∀ r : Raw, r.d = kd.code d → r.a = ka.code a → r.lo = lo → build h r = i) : i.Decodes :=
  decodes_of_row hrow hh hlo d a () _ _ (OpK.na_code_fld lo 45).symm (OpK.na_code_fld lo 38).symm
    fun r hr hn => ⟨nofun, by simpa [iRow, hr] using hlim, H r hn.d hn.a hr⟩

theorem decodes_of_jRow (hrow : rowOf i.cls i.fn = some (jRow kd build)) (hh : h.Accepted i.cls i.fn)
    (d : kd.Arg) (hlo : lo < 2 ^ 52) (H : ∀ r : Raw, r.d = kd.code d → r.lo = lo → build h r = i) : i.Decodes :=
  decodes_of_row hrow hh hlo d () () _ _ (OpK.na_code_fld lo 45).symm (OpK.na_code_fld lo 38).symm
    fun r hr hn => ⟨nofun, nofun, H r hn.d hr⟩

theorem decodes_of_mRow {ls : Raw → List (Nat × Bool)} (hrow : rowOf i.cls i.fn = some { mRow kd ka kb build with limits := ls })
    (hh : h.Accepted i.cls i.fn)
    (d : kd.Arg) (a : ka.Arg) (b : kb.Arg) (m : MemRef) (sz : Size)
    (H : ∀ r : Raw, r.fn = i.fn → r.d = kd.code d → r.a = ka.code a → r.b = kb.code b → r.sz = sz.code →
      BitVec.ofNat 2 r.sc = m.sc → BitVec.ofNat 48 r.disp = m.disp → (∀ l ∈ ls r, l.2 = true) ∧ build h r = i) : i.Decodes :=
  decodes_of_row hrow hh (mlo_lt (m := m) sz.code_lt) d a b _ _ (OpK.na_code_fld _ 45).symm (OpK.na_code_fld _ 38).symm
    fun r hr hn => ⟨nofun, H r hn.fn hn.d hn.a hn.b (Raw.sz_of_lo hr sz.code_lt) (Raw.sc_of_lo hr sz.code_lt) (Raw.disp_of_lo hr)⟩

theorem decodes_of_mRow0 (hrow : rowOf i.cls i.fn = some (mRow0 kd ka kb build))
    (hh : h.Accepted i.cls i.fn) (d : kd.Arg) (a : ka.Arg) (b : kb.Arg) (m : MemRef)
    (H : ∀ r : Raw, r.d = kd.code d → r.a = ka.code a → r.b = kb.code b → BitVec.ofNat 2 r.sc = m.sc →
      BitVec.ofNat 48 r.disp = m.disp → build h r = i) : i.Decodes :=
  decodes_of_row hrow hh (mlo_lt (m := m) (sz := 0) (by decide)) d a b _ _ (OpK.na_code_fld _ 45).symm (OpK.na_code_fld _ 38).symm
    fun r hr hn => ⟨by simpa [mRow0] using Raw.sz_of_lo hr (by decide), nofun,
      H r hn.d hn.a hn.b (Raw.sc_of_lo hr (by decide)) (Raw.disp_of_lo hr)⟩

theorem decodes_of_xRow {x : XRead} {zs : Raw → List (Nat × Nat)} {ls : Raw → List (Nat × Bool)}
    (hrow : rowOf i.cls i.fn = some (xRow kd ka kb kc x zs ls build)) (hh : h.Accepted i.cls i.fn)
    (d : kd.Arg) (a : ka.Arg) (b : kb.Arg) (c : kc.Arg) (rm : RmArg x.rm) (td : TyArg x.td) (ts : TyArg x.ts) (m : MaskArg x.mask)
    (cnd : CndArg x.cnd) (H : ∀ r : Raw, r.Names i.fn (kd.code d) (ka.code a) (kb.code b) (kc.code c) 0 →
      r.HasX (RmArg.code x.rm rm) (TyArg.code x.td td) (TyArg.code x.ts ts) (MaskArg.mask x.mask m) (CndArg.code x.cnd cnd) →
      (∀ z ∈ zs r, z.2 = 0) ∧ (∀ l ∈ ls r, l.2 = true) ∧ build h r = i) : i.Decodes := by
  have hc := kc.code_lt c
  have hrm := RmArg.code_lt _ rm
  have htd := TyArg.code_lt _ td
  have hts := TyArg.code_lt _ ts
  have hcnd := CndArg.code_lt _ cnd
  have hs := xsub_lt (m := MaskArg.mask x.mask m) (hrm.trans (by decide)) htd hts (hcnd.trans (by decide))
  have h0 : 0 < 2 ^ 7 := by decide
  refine decodes_of_row hrow hh (ce_lt hc h0 hs) d a b c () (fld_ce_c hc h0 hs) (fld_ce_e h0 hs)
    fun r hlo hn => ?_
  obtain ⟨hz0, hx⟩ := Raw.hasX hlo (hrm.trans (by decide)) htd hts (hcnd.trans (by decide))
  obtain ⟨hzs, hls, hi⟩ := H r hn hx
  refine ⟨xRow_zeros_iff.2 ⟨hz0, fun hb => ?_, fun hb => Raw.mask_eq_zero ?_, fun ho => ?_, fun ho => ?_, fun hb => ?_, hzs⟩,
    xRow_limits_iff.2 ⟨fun _ => ?_, fun ok ho => ?_, fun ok ho => ?_, fun _ => ?_, hls⟩, hi⟩
  · exact hx.cnd.trans (CndArg.code_of_false cnd hb)
  · exact hx.m.trans (MaskArg.mask_of_false m hb)
  · exact hx.ts.trans (TyArg.code_of_none ts ho)
  · exact hx.td.trans (TyArg.code_of_none td ho)
  · exact hx.rm.trans (RmArg.code_of_false rm hb)
  · exact hx.cnd ▸ hcnd
  · rw [Raw.tsv, hx.ts]; exact TyArg.ok_of_some ts ok ho
  · rw [Raw.tdv, hx.td]; exact TyArg.ok_of_some td ok ho
  · exact hx.rm ▸ hrm

theorem decodes_of_sRow {sub : Nat} {zs : Raw → List (Nat × Nat)} {ls : Raw → List (Nat × Bool)}
    (hrow : rowOf i.cls i.fn = some (sRow kd ka kb kc ke zs ls build)) (hh : h.Accepted i.cls i.fn)
    (d : kd.Arg) (a : ka.Arg) (b : kb.Arg) (c : kc.Arg) (e : ke.Arg) (hs : sub < 2 ^ 38)
    (H : ∀ r : Raw, r.Names i.fn (kd.code d) (ka.code a) (kb.code b) (kc.code c) (ke.code e) →
      r.HasSub sub →
      (∀ z ∈ zs r, z.2 = 0) ∧ (∀ l ∈ ls r, l.2 = true) ∧ build h r = i) : i.Decodes := by
  have hc := kc.code_lt c
  have he := ke.code_lt e
  exact decodes_of_row hrow hh (ce_lt hc he hs) d a b c e (fld_ce_c hc he hs) (fld_ce_e he hs) fun r hlo hn =>
    H r hn fun _ _ hl => by rw [hlo, fld_ce hl]

end
end

end Sys2Proof
end

section
/-! SUPPORT for O1. The rows with a sub-field layout of their own: integer, matrix, copy, invocation and atomic instructions. -/
namespace Sys2Proof

section
variable {i : Instr} {h : Hdr} {kd ka kb kc ke : OpK} {build : Hdr → Raw → Instr}

/-- The rows of class 0x03 are found by the function divided by two, whose lowest bit is W (R66). -/
theorem decodes_of_int3 {op : Nat} {w : Bool} (hcls : i.cls = 0x03) (hfn : i.fn = 2 * op + b1 w)
    (hop : row03 op = some (kRow kd ka kb kc ke build)) (hh : h.noCache = true) (d : kd.Arg) (a : ka.Arg) (b : kb.Arg) (c : kc.Arg)
    (e : ke.Arg) (H : ∀ r : Raw, bit r.fn = w → r.d = kd.code d → r.a = ka.code a → r.b = kb.code b → r.c = kc.code c →
      r.e = ke.code e → build h r = i) : i.Decodes := by
  have hrow : rowOf i.cls i.fn = row03 op := by
    rw [hcls, hfn]
    show row03 ((2 * op + b1 w) / 2) = row03 op
    congr 1
    have := b1_lt w
    omega
  have hbit : bit (2 * op + b1 w) = w := by cases w <;> simp [bit, b1]
  exact decodes_of_kRow (hrow.trans hop) (.of_noCache hh) d a b c e fun r hn =>
    H r (by rw [hn.fn, hfn, hbit]) hn.d hn.a hn.b hn.c hn.e

end

theorem rmInt_zero {r : Raw} (h : rmOk r.tdv r.rmv = true) : ∀ z ∈ rmInt r, z.2 = 0 := by
  have hdyn : ∀ n < 8, Rm.ofCode n = .dyn → n = 0 := by decide
  intro z hz
  unfold rmInt at hz
  split at hz
  case isTrue hint =>
    rw [List.mem_singleton.1 hz]
    exact hdyn _ (fld_lt _ _ _) (by simpa [rmOk, hint, Raw.rmv] using h)
  case isFalse => contradiction

theorem mzZero_zero {r : Raw} (h : (!r.vmask.mz) = true) : ∀ z ∈ mzZero r, z.2 = 0 := by
  have hmz : r.vmask.mz = false := by simpa using h
  simp [mzZero, Raw.fld_mz, hmz, b1]

theorem isInt_or_lt_of_cndOk {t : Ty} {c : Cnd} (h : cndOk t c = true) : t.isInt = false ∨ c.code < 6 := by
  have hF : t.isF = true → t.isInt = false := by cases t <;> decide
  have hlt : c ≠ .un ∧ c ≠ .ord → c.code < 6 := by cases c <;> decide
  simp only [cndOk, Bool.or_eq_true, Bool.and_eq_true, bne_iff_ne] at h
  exact h.imp hF hlt

theorem isCvt_of_vcvtPair {td ts : Ty} (h : vcvtPair td ts = true) : td.isCvt = true ∧ ts.isCvt = true := by
  have hF {t : Ty} (ht : t.isF = true) : t.isIF = true := by simp [Ty.isIF, ht]
  simp only [vcvtPair, Bool.and_eq_true, Bool.or_eq_true, beq_iff_eq] at h
  simp only [Ty.isCvt, Bool.or_eq_true, beq_iff_eq]
  obtain ⟨-, (((⟨⟨htd, hts⟩, -⟩ | ⟨hts, htd⟩) | ⟨hts, htd⟩) | ⟨htd, hts⟩) | ⟨hts, htd⟩⟩ := h
  · exact ⟨.inl (.inl htd), .inl (.inl hts)⟩
  · exact ⟨.inl (.inl (hF htd)), .inl (.inr hts)⟩
  · exact ⟨.inl (.inr htd), .inl (.inl (hF hts))⟩
  · exact ⟨.inr htd, by rcases hts with rfl | rfl <;> decide⟩
  · exact ⟨by rcases htd with ((rfl | rfl) | rfl) | rfl <;> decide, .inr hts⟩

/-! ## The sub-fields of the entries (R244, R352, R377, R378) -/

@[simp] theorem MKind.ofCode_code (k : MKind) : MKind.ofCode k.code = k := by cases k <;> rfl
theorem MKind.code_lt (k : MKind) : k.code < 4 := by cases k <;> decide

/-- A field below bit `k` lies in what is added below that bit. -/
theorem fld_mul_add {x n k l w : Nat} (h : l + w ≤ k) : fld (x * 2 ^ k + n) l w = fld n l w := by
  have hk : 2 ^ k = 2 ^ l * (2 ^ w * 2 ^ (k - l - w)) := by rw [← pow_add, ← pow_add]; congr 1; omega
  rw [fld, hk, show x * (2 ^ l * (2 ^ w * 2 ^ (k - l - w))) + n = 2 ^ l * (2 ^ w * (x * 2 ^ (k - l - w))) + n by ring,
    Nat.mul_add_div (Nat.two_pow_pos l), Nat.mul_add_mod, fld]

theorem BitVec.ofNat_eq_of_toNat {w n : Nat} {x : BitVec w} (h : n = x.toNat) : BitVec.ofNat w n = x := by
  rw [h, BitVec.ofNat_toNat, BitVec.setWidth_eq]

theorem mmacSub_lt (s : MmacSub) : mmacSub s < 2 ^ 38 := by
  have hta := s.ta.code_lt
  have htb := s.tb.code_lt
  have hbits := And.intro (b1_lt s.sa) (And.intro (b1_lt s.sb) (And.intro (b1_lt s.bt) (And.intro (b1_lt s.a4) (b1_lt s.b4))))
  have hpred := And.intro (b1_lt s.ye) (And.intro (b1_lt s.ze) (b1_lt s.zk))
  unfold mmacSub; omega

namespace Raw.HasSub
variable {r : Raw}

theorem mmac {s : MmacSub} (hs : r.HasSub (mmacSub s)) : r.mmac = s ∧ fld r.lo 0 16 = 0 := by
  have hta := s.ta.code_lt
  have htb := s.tb.code_lt
  have hbits := And.intro (b1_lt s.sa) (And.intro (b1_lt s.sb) (And.intro (b1_lt s.bt) (And.intro (b1_lt s.a4) (b1_lt s.b4))))
  have hpred := And.intro (b1_lt s.ye) (And.intro (b1_lt s.ze) (b1_lt s.zk))
  have f33 : fld r.lo 33 5 = s.ta.code := by rw [hs (by decide)]; unfold fld mmacSub; omega
  have f28 : fld r.lo 28 5 = s.tb.code := by rw [hs (by decide)]; unfold fld mmacSub; omega
  have f27 : fld r.lo 27 1 = b1 s.sa := by rw [hs (by decide)]; unfold fld mmacSub; omega
  have f26 : fld r.lo 26 1 = b1 s.sb := by rw [hs (by decide)]; unfold fld mmacSub; omega
  have f25 : fld r.lo 25 1 = b1 s.bt := by rw [hs (by decide)]; unfold fld mmacSub; omega
  have f24 : fld r.lo 24 1 = b1 s.a4 := by rw [hs (by decide)]; unfold fld mmacSub; omega
  have f23 : fld r.lo 23 1 = b1 s.b4 := by rw [hs (by decide)]; unfold fld mmacSub; omega
  have f22 : fld r.lo 22 1 = b1 s.ye := by rw [hs (by decide)]; unfold fld mmacSub; omega
  have f20 : fld r.lo 20 2 = s.ys.toNat := by rw [hs (by decide)]; unfold fld mmacSub; omega
  have f19 : fld r.lo 19 1 = b1 s.ze := by rw [hs (by decide)]; unfold fld mmacSub; omega
  have f17 : fld r.lo 17 2 = s.zs.toNat := by rw [hs (by decide)]; unfold fld mmacSub; omega
  have f16 : fld r.lo 16 1 = b1 s.zk := by rw [hs (by decide)]; unfold fld mmacSub; omega
  have f0 : fld r.lo 0 16 = 0 := by rw [hs (by decide)]; unfold fld mmacSub; omega
  refine ⟨?_, f0⟩
  simp only [Raw.mmac, f33, f28, f27, f26, f25, f24, f23, f22, f20, f19, f17, f16, Ty.ofCode_code, bit_b1, BitVec.ofNat_toNat,
    BitVec.setWidth_eq]

theorem kind {k : MKind} {n : Nat} (hs : r.HasSub (k.code * 2 ^ 36 + n)) (hn : n < 2 ^ 36) :
    r.kind = k ∧ ∀ {l w : Nat}, l + w ≤ 36 → fld r.lo l w = fld n l w := by
  have hk := k.code_lt
  have f36 : fld r.lo 36 2 = k.code := by rw [hs (by decide)]; unfold fld; omega
  refine ⟨by rw [Raw.kind, f36, MKind.ofCode_code], fun hl => ?_⟩
  rw [hs (by omega), fld_mul_add hl]

theorem ldt {k : MKind} {ts : Ty} (hs : r.HasSub (k.code * 2 ^ 36 + ts.code * 2 ^ 31)) :
    r.kind = k ∧ Ty.ofCode (fld r.lo 31 5) = ts ∧ fld r.lo 0 31 = 0 := by
  have hts := ts.code_lt
  obtain ⟨hk, hf⟩ := hs.kind (by omega)
  have f31 : fld r.lo 31 5 = ts.code := by rw [hf (by decide)]; unfold fld; omega
  have f0 : fld r.lo 0 31 = 0 := by rw [hf (by decide)]; unfold fld; omega
  exact ⟨hk, by rw [f31, Ty.ofCode_code], f0⟩

theorem drain {td : Ty} {zr : Bool} (hs : r.HasSub (td.code * 2 ^ 33 + b1 zr * 2 ^ 32)) :
    Ty.ofCode (fld r.lo 33 5) = td ∧ bit (fld r.lo 32 1) = zr ∧ fld r.lo 0 32 = 0 := by
  have htd := td.code_lt
  have hzr := b1_lt zr
  have f33 : fld r.lo 33 5 = td.code := by rw [hs (by decide)]; unfold fld; omega
  have f32 : fld r.lo 32 1 = b1 zr := by rw [hs (by decide)]; unfold fld; omega
  have f0 : fld r.lo 0 32 = 0 := by rw [hs (by decide)]; unfold fld; omega
  exact ⟨by rw [f33, Ty.ofCode_code], by rw [f32, bit_b1], f0⟩

theorem ad {x : Bool} (hs : r.HasSub (b1 x * 2 ^ 37)) : bit (fld r.lo 37 1) = x ∧ fld r.lo 0 37 = 0 := by
  have hx := b1_lt x
  have f37 : fld r.lo 37 1 = b1 x := by rw [hs (by decide)]; unfold fld; omega
  have f0 : fld r.lo 0 37 = 0 := by rw [hs (by decide)]; unfold fld; omega
  exact ⟨by rw [f37, bit_b1], f0⟩

/-- The channel, ST and SCOPE of a copy, and what lies below them (R352). -/
theorem copy {ch : YZ} {st : Bool} {sco : Scope} {n : Nat}
    (hs : r.HasSub (ch.toNat * 2 ^ 36 + b1 st * 2 ^ 35 + sco.code * 2 ^ 32 + n)) (hn : n < 2 ^ 32) :
    BitVec.ofNat 2 (fld r.lo 36 2) = ch ∧ bit (fld r.lo 35 1) = st ∧ Scope.ofCode (fld r.lo 32 3) = sco ∧ fld r.lo 32 3 < 6 ∧
      ∀ {l w : Nat}, l + w ≤ 32 → fld r.lo l w = fld n l w := by
  have hst := b1_lt st
  have hsco := sco.code_lt
  have f36 : fld r.lo 36 2 = ch.toNat := by rw [hs (by decide)]; unfold fld; omega
  have f35 : fld r.lo 35 1 = b1 st := by rw [hs (by decide)]; unfold fld; omega
  have f32 : fld r.lo 32 3 = sco.code := by rw [hs (by decide)]; unfold fld; omega
  refine ⟨BitVec.ofNat_eq_of_toNat f36, by rw [f35, bit_b1], by rw [f32, Scope.ofCode_code], by rw [f32]; exact hsco, fun hl => ?_⟩
  have hsum : ch.toNat * 2 ^ 36 + b1 st * 2 ^ 35 + sco.code * 2 ^ 32 + n =
      (ch.toNat * 2 ^ 4 + b1 st * 2 ^ 3 + sco.code) * 2 ^ 32 + n := by ring
  rw [hs (by omega), hsum, fld_mul_add hl]

/-- A number at the foot of the word. -/
theorem low {l w : Nat} {n : BitVec l} (hs : r.HasSub n.toNat) (hlw : l + w = 38) : BitVec.ofNat l r.lo = n ∧ fld r.lo l w = 0 := by
  have hn := n.isLt
  have hlow : fld r.lo 0 l = n.toNat := by rw [hs (by omega), fld, pow_zero, Nat.div_one, Nat.mod_eq_of_lt hn]
  refine ⟨BitVec.eq_of_toNat_eq ?_, ?_⟩
  · rw [← hlow, BitVec.toNat_ofNat, fld, pow_zero, Nat.div_one]
  · rw [hs (by omega), fld, Nat.div_eq_of_lt hn, Nat.zero_mod]

theorem invoke {svc : BitVec 12} {na : BitVec 4} {wa : BitVec 8} {tw rp : Bool}
    (hs : r.HasSub (svc.toNat * 2 ^ 26 + na.toNat * 2 ^ 22 + wa.toNat * 2 ^ 14 + b1 tw * 2 ^ 13 + b1 rp * 2 ^ 12)) :
    BitVec.ofNat 12 (fld r.lo 26 12) = svc ∧ fld r.lo 22 4 = na.toNat ∧ fld r.lo 14 8 = wa.toNat ∧ bit (fld r.lo 13 1) = tw ∧
      bit (fld r.lo 12 1) = rp ∧ fld r.lo 0 12 = 0 := by
  have htw := b1_lt tw
  have hrp := b1_lt rp
  have f26 : fld r.lo 26 12 = svc.toNat := by rw [hs (by decide)]; unfold fld; omega
  have f22 : fld r.lo 22 4 = na.toNat := by rw [hs (by decide)]; unfold fld; omega
  have f14 : fld r.lo 14 8 = wa.toNat := by rw [hs (by decide)]; unfold fld; omega
  have f13 : fld r.lo 13 1 = b1 tw := by rw [hs (by decide)]; unfold fld; omega
  have f12 : fld r.lo 12 1 = b1 rp := by rw [hs (by decide)]; unfold fld; omega
  have f0 : fld r.lo 0 12 = 0 := by rw [hs (by decide)]; unfold fld; omega
  exact ⟨BitVec.ofNat_eq_of_toNat f26, f22, f14, by rw [f13, bit_b1], by rw [f12, bit_b1], f0⟩

end Raw.HasSub

/-! ## Matrix, copy, post and waybill instructions whose words have sub-fields -/

theorem YZ.cases (c : YZ) : c = 0 ∨ c = 1 ∨ c = 2 ∨ c = 3 := by revert c; decide

section
variable {h : Hdr} {a b c d e : G} {set ch : YZ} {st tw rp : Bool} {sco : Scope}

/-- The accumulator set of class 0x0A stands in the two low bits of the function (R72). -/
theorem Raw.set_eq {r : Raw} (n : Nat) (hfn : r.fn = 4 * n + set.toNat) : r.set = set := by
  have := set.isLt
  rw [Raw.set, hfn]
  exact BitVec.eq_of_toNat_eq (by rw [BitVec.toNat_ofNat]; omega)

theorem decodes_mzero {k : MKind} : (Instr.mzero h set k).Decodes := by
  have hk := k.code_lt
  obtain rfl | rfl | rfl | rfl := YZ.cases set
  all_goals
    exact decodes_of_sRow (h := h) (sub := k.code * 2 ^ 36 + 0) rfl (.inr rfl) () () () () () (by omega) fun r hn hs => by
      obtain ⟨rfl, h0⟩ := hs.kind (by decide)
      exact ⟨by simp [h0], nofun, congrArg (Instr.mzero h · r.kind) (congrArg (BitVec.ofNat 2) hn.fn)⟩

theorem decodes_mmac {s : MmacSub} (hw : (Instr.mmac h set a b s).wf = true) : (Instr.mmac h set a b s).Decodes := by
  obtain rfl | rfl | rfl | rfl := YZ.cases set
  all_goals
    exact decodes_of_sRow (h := h) (sub := mmacSub s) rfl (.inr rfl) () a b () () (mmacSub_lt s) fun r hn hs => by
      obtain ⟨rfl, h0⟩ := hs.mmac
      simp only [Instr.wf_mmac, Bool.and_eq_true, Bool.or_eq_true, Bool.not_eq_true', beq_iff_eq] at hw
      obtain ⟨⟨⟨⟨⟨hta, htb⟩, ha4⟩, hb4⟩, hye⟩, hze⟩ := hw
      exact ⟨mmacZeros_iff.2 ⟨h0, hze.imp_right And.symm, hye, hb4.symm, ha4.symm⟩, by simp [hta, htb], by
        simp [OpK.code, Raw.set_eq 1 hn.fn, hn.a, hn.b]⟩

theorem decodes_mdrain {p : P} {td : Ty} {zr : Bool} (htd : td.isDrain = true) : (Instr.mdrain h set d p td zr).Decodes := by
  have hlt := td.code_lt
  have hzr := b1_lt zr
  obtain rfl | rfl | rfl | rfl := YZ.cases set
  all_goals
    exact decodes_of_sRow (h := h) (sub := td.code * 2 ^ 33 + b1 zr * 2 ^ 32) rfl (.inr rfl) d () () p () (by omega) fun r hn hs => by
      obtain ⟨rfl, rfl, h0⟩ := hs.drain
      exact ⟨by simp [h0], by simp [htd], by simp [OpK.code, Raw.set_eq 2 hn.fn, hn.d, hn.c]⟩

theorem decodes_mldt {k : MKind} {ts : Ty} (hok : mldtPair k ts = true) : (Instr.mldt h set a k ts).Decodes := by
  have hk := k.code_lt
  have hts := ts.code_lt
  obtain rfl | rfl | rfl | rfl := YZ.cases set
  all_goals
    exact decodes_of_sRow (h := h) (sub := k.code * 2 ^ 36 + ts.code * 2 ^ 31) rfl (.inr rfl) () a () () () (by omega) fun r hn hs => by
      obtain ⟨rfl, rfl, h0⟩ := hs.ldt
      exact ⟨by simp [h0], by simp [hok], by simp [OpK.code, Raw.set_eq 3 hn.fn, hn.a]⟩

theorem decodes_mbound : (Instr.mbound h set d a).Decodes := by
  obtain rfl | rfl | rfl | rfl := YZ.cases set
  all_goals
    exact decodes_of_kRow (h := h) rfl (.inr rfl) d a () () () fun r hn => by
      simp [OpK.code, Raw.set_eq 7 hn.fn, hn.d, hn.a]

theorem decodes_cpy {ss ds : BitVec 16} (hw : (Instr.cpy h ch st sco ss ds d a b c).wf = true) :
    (Instr.cpy h ch st sco ss ds d a b c).Decodes := by
  have hst := b1_lt st
  have hsco := sco.code_lt
  have hwf : st = true ∨ sco = .slot := (Bool.or_eq_true_iff.1 hw).imp_right beq_iff_eq.1
  exact decodes_of_sRow (h := h) (sub := ch.toNat * 2 ^ 36 + b1 st * 2 ^ 35 + sco.code * 2 ^ 32 + (ss.toNat * 2 ^ 16 + ds.toNat))
    rfl (.inr rfl) d a b c () (by omega) fun r hn hs => by
    obtain ⟨rfl, rfl, rfl, h6, hf⟩ := hs.copy (by omega)
    have f16 : fld r.lo 16 16 = ss.toNat := by rw [hf (by decide)]; unfold fld; omega
    have f0 : fld r.lo 0 16 = ds.toNat := by rw [hf (by decide)]; unfold fld; omega
    exact ⟨scopeZero_iff.2 hwf, by simp [scopeOk, h6], by simp [OpK.code, hn.d, hn.a, hn.b, hn.c, f16, f0]⟩

theorem decodes_cpybt {nb : BitVec 8} (hw : (Instr.cpybt h ch st sco nb d a b c e).wf = true) :
    (Instr.cpybt h ch st sco nb d a b c e).Decodes := by
  have hst := b1_lt st
  have hsco := sco.code_lt
  obtain ⟨hwf, hnb⟩ := Bool.and_eq_true_iff.1 hw
  have hwf : st = true ∨ sco = .slot := (Bool.or_eq_true_iff.1 hwf).imp_right beq_iff_eq.1
  have hnb : nb.toNat ≠ 0 := fun h0 => bne_iff_ne.1 hnb (BitVec.eq_of_toNat_eq h0)
  exact decodes_of_sRow (h := h) (sub := ch.toNat * 2 ^ 36 + b1 st * 2 ^ 35 + sco.code * 2 ^ 32 + nb.toNat * 2 ^ 24)
    rfl (.inr rfl) d a b c e (by omega) fun r hn hs => by
    obtain ⟨rfl, rfl, rfl, h6, hf⟩ := hs.copy (by omega)
    have f24 : fld r.lo 24 8 = nb.toNat := by rw [hf (by decide)]; unfold fld; omega
    have f0 : fld r.lo 0 24 = 0 := by rw [hf (by decide)]; unfold fld; omega
    exact ⟨List.forall_mem_cons.2 ⟨f0, scopeZero_iff.2 hwf⟩, by simp [scopeOk, h6, f24, hnb], by
      simp [OpK.code, hn.d, hn.a, hn.b, hn.c, hn.e, f24]⟩

theorem decodes_invoke {svc : BitVec 12} {na : BitVec 4} {wa : BitVec 8} (hw : (Instr.invoke h d a b c svc na wa tw rp).wf = true) :
    (Instr.invoke h d a b c svc na wa tw rp).Decodes := by
  have htw := b1_lt tw
  have hrp := b1_lt rp
  simp only [Instr.wf_invoke, Bool.and_eq_true, Bool.or_eq_true, decide_eq_true_eq, beq_iff_eq] at hw
  obtain ⟨⟨⟨hh, hna⟩, hwa⟩, hc⟩ := hw
  exact decodes_of_sRow (sub := svc.toNat * 2 ^ 26 + na.toNat * 2 ^ 22 + wa.toNat * 2 ^ 14 + b1 tw * 2 ^ 13 + b1 rp * 2 ^ 12)
    rfl (.of_noCache hh) d a b c () (by omega) fun r hn hs => by
    obtain ⟨rfl, f22, f14, rfl, rfl, h0⟩ := hs.invoke
    refine ⟨invokeZeros_iff.2 ⟨h0, by rwa [f14, f22], ?_⟩, by simp [f22]; omega, by
      simp [OpK.code, hn.d, hn.a, hn.b, hn.c, f22, f14]⟩
    rw [hn.c]
    exact hc.imp_right fun h0 => by rw [h0]; rfl

end

/-! ## Atomics (R76, R77) -/

/-- The rows of the integer atomics other than amocas (R76). -/
theorem decodes_of_amo {i : Instr} {h : Hdr} {op : Nat} {w : AmoW} {n : Bool} {a d b : G}
    {build : Hdr → AmoW → Bool → G → G → G → Instr}
    (hcls : i.cls = 0x0D) (hfn : i.fn = 8 * op + 2 * w.code + b1 n) (hi : build h w n a d b = i) (hok : amoOk w n d = true)
    (hrow : ∀ x ≤ 1, row0D (8 * op + 2 * x + b1 n) = some (amoRow n build)) : i.Decodes := by
  obtain ⟨hw, hd⟩ := Bool.and_eq_true_iff.1 hok
  have hwidth : w.code ≤ 1 := by
    cases w with
    | b32 | b64 => decide
    | b128 => contradiction
  have hrow : rowOf i.cls i.fn = some (amoRow n build) := by
    rw [hcls, hfn]
    exact hrow _ hwidth
  have hn := b1_lt n
  have hfw : fld i.fn 1 2 = w.code := by rw [hfn]; unfold fld; omega
  have hfb : bit i.fn = n := by
    have hmod : (8 * op + 2 * w.code + b1 n) % 2 = b1 n := by omega
    rw [hfn, bit, hmod]
    cases n <;> rfl
  have hh : h.Accepted i.cls i.fn := .inr (by rw [hcls]; rfl)
  cases n with
  | false =>
    exact decodes_of_kRow (kd := .g) hrow hh d a b () () fun r hr => by
      simp [Raw.amoW, Raw.amoN, hr.fn, hfw, hfb, hr.d, hr.a, hr.b, OpK.code, hi]
  | true =>
    have hd : d = 0#5 := by simpa using hd
    exact decodes_of_kRow (kd := .zero) hrow hh () a b () () fun r hr => by
      simp [Raw.amoW, Raw.amoN, hr.fn, hfw, hfb, hr.d, hr.a, hr.b, OpK.code, ← hd, hi]

theorem row0D_cas_wide (n : Bool) : row0D (8 * 9 + 2 * AmoW.code .b128 + b1 n) = some (casRow n true) := by
  cases n <;> rfl

theorem row0D_cas_narrow {w : AmoW} (hw : w ≠ .b128) (n : Bool) : row0D (8 * 9 + 2 * w.code + b1 n) = some (casRow n false) := by
  cases w with
  | b32 | b64 => cases n <;> rfl
  | b128 => contradiction

theorem decodes_amocas {h : Hdr} {w : AmoW} {n : Bool} {a d b c : G} (hw : (Instr.amocas h w n a d b c).wf = true) :
    (Instr.amocas h w n a d b c).Decodes := by
  have hok : (n = false ∨ d = 0#5) ∧ (w ≠ .b128 ∨ (even5 d = true ∧ even5 b = true) ∧ even5 c = true) := by
    simpa [Instr.wf_amocas, even5] using hw
  obtain ⟨hd, heven⟩ := hok
  have hfn : (Instr.amocas h w n a d b c).fn = 8 * 9 + 2 * w.code + b1 n := rfl
  have hn := b1_lt n
  have hfw : fld (Instr.amocas h w n a d b c).fn 1 2 = w.code := by
    have : w.code < 3 := by cases w <;> decide
    rw [hfn]; unfold fld; omega
  have hfb : bit (Instr.amocas h w n a d b c).fn = n := by
    have hmod : (8 * 9 + 2 * w.code + b1 n) % 2 = b1 n := by omega
    rw [hfn, bit, hmod]
    cases n <;> rfl
  by_cases hwide : w = .b128
  · subst hwide
    obtain ⟨⟨hed, heb⟩, hec⟩ := heven.resolve_left fun h => h rfl
    have hrow := row0D_cas_wide n
    cases n with
    | false =>
      exact decodes_of_kRow (h := h) (kd := .g2) (ka := .g) (kb := .g2) (kc := .g2) (ke := .zero) hrow (.inr rfl)
        ⟨d, hed⟩ a ⟨b, heb⟩ ⟨c, hec⟩ () fun r hr => by
        simp [Raw.amoW, Raw.amoN, hr.fn, hfw, hfb, hr.d, hr.a, hr.b, hr.c, OpK.code]
    | true =>
      obtain rfl := hd.resolve_left nofun
      exact decodes_of_kRow (h := h) (kd := .zero) (ka := .g) (kb := .g2) (kc := .g2) (ke := .zero) hrow (.inr rfl)
        () a ⟨b, heb⟩ ⟨c, hec⟩ () fun r hr => by
        simp [Raw.amoW, Raw.amoN, hr.fn, hfw, hfb, hr.d, hr.a, hr.b, hr.c, OpK.code]
  · have hrow := row0D_cas_narrow hwide n
    cases n with
    | false =>
      exact decodes_of_kRow (h := h) (kd := .g) (ka := .g) (kb := .g) (kc := .g) (ke := .zero) hrow (.inr rfl) d a b c () fun r hr => by
        simp [Raw.amoW, Raw.amoN, hr.fn, hfw, hfb, hr.d, hr.a, hr.b, hr.c, OpK.code]
    | true =>
      obtain rfl := hd.resolve_left nofun
      exact decodes_of_kRow (h := h) (kd := .zero) (ka := .g) (kb := .g) (kc := .g) (ke := .zero) hrow (.inr rfl) () a b c () fun r hr => by
        simp [Raw.amoW, Raw.amoN, hr.fn, hfw, hfb, hr.d, hr.a, hr.b, hr.c, OpK.code]

/-- The rows of the floating-point atomics (R77). -/
theorem decodes_of_amof {i : Instr} {h : Hdr} {op : Nat} {t : AmoF} {n : Bool} {a : G} {d b : GF}
    {build : Hdr → AmoF → Bool → G → GF → GF → Instr} (hcls : i.cls = 0x0E) (hfn : i.fn = 16 * op + 2 * t.code + b1 n)
    (hi : build h t n a d b = i) (hok : amofOk n d = true)
    (hrow : row0E (16 * op + 2 * t.code + b1 n) = some (amofRow n build)) : i.Decodes := by
  have hrow : rowOf i.cls i.fn = some (amofRow n build) := by rw [hcls, hfn]; exact hrow
  have hn := b1_lt n
  have ht : t.code < 5 := by cases t <;> decide
  have hft : fld i.fn 1 3 = t.code := by rw [hfn]; unfold fld; omega
  have hfb : bit i.fn = n := by
    have hmod : (16 * op + 2 * t.code + b1 n) % 2 = b1 n := by omega
    rw [hfn, bit, hmod]
    cases n <;> rfl
  have hh : h.Accepted i.cls i.fn := .inr (by rw [hcls]; rfl)
  cases n with
  | false =>
    exact decodes_of_kRow (kd := .gf) hrow hh d a b () () fun r hr => by
      simp [hr.fn, hft, hfb, hr.d, hr.a, hr.b, OpK.code, hi]
  | true =>
    have hd : d = .g 0#5 := by simpa [amofOk] using hok
    exact decodes_of_kRow (kd := .zero) hrow hh () a b () () fun r hr => by
      simp [hr.fn, hft, hfb, hr.d, hr.a, hr.b, OpK.code, ← hd, hi]

end Sys2Proof
end

section
/-! O1: each instruction decodes from its own word, class by class. -/
namespace Sys2Proof

/-- The scope of an acquiring load or a releasing store stands in the three low bits of the function (R74). -/
theorem Raw.scope_eq {r : Raw} (n : Nat) {sco : Scope} (hfn : r.fn = 8 * n + sco.code) : Scope.ofCode (r.fn % 8) = sco := by
  have hmod : r.fn % 8 = sco.code := by rw [hfn]; have := sco.code_lt; omega
  rw [hmod, Scope.ofCode_code]

/-- Whether the instruction has a word, whose class satisfies `p`. -/
def Instr.hasCls (p : Nat → Bool) (i : Instr) : Bool := i.raw.any fun r => p r.cls

/-- Control, predicates and scalar integers: classes below 0x06. -/
theorem Instr.decodes_of_cls_lt {i : Instr} (hw : i.wf = true) (hc : i.hasCls (· < 0x06) = true) : i.Decodes := by
  cases i with
  | nop h | eret h | ifence h | rdone h =>
    exact decodes_of_kRow rfl (.of_noCache hw) () () () () () fun _ _ => rfl
  | trap h n =>
    exact decodes_of_iRow (lo := n.toNat) rfl (.of_noCache hw) () () (n.isLt.trans (by decide)) n.isLt fun r _ _ hlo => by simp [hlo]
  | brk h n =>
    exact decodes_of_iRow (lo := n.toNat) rfl (.of_noCache hw) () () (n.isLt.trans (by decide)) n.isLt fun r _ _ hlo => by simp [hlo]
  | csrr h d n =>
    exact decodes_of_iRow (lo := n.toNat) rfl (.of_noCache hw) d () (n.isLt.trans (by decide)) n.isLt fun r hd _ hlo => by
      simp [OpK.code, hd, hlo]
  | csrw h d n a | csrs h d n a | csrc h d n a =>
    exact decodes_of_iRow (lo := n.toNat) rfl (.of_noCache hw) d a (n.isLt.trans (by decide)) n.isLt fun r hd ha hlo => by
      simp [OpK.code, hd, ha, hlo]
  | movhi h d a n =>
    exact decodes_of_iRow (lo := n.toNat) rfl (.of_noCache hw) d a (n.isLt.trans (by decide)) n.isLt fun r hd ha hlo => by
      simp [OpK.code, hd, ha, hlo]
  | movi h d n =>
    exact decodes_of_iRow (lo := n.toNat) rfl (.of_noCache hw) d () n.isLt n.isLt fun r hd _ hlo => by
      simp [OpK.code, Raw.imm, hd, hlo]
  | cmpiEq h d a n | cmpiNe h d a n | cmpiLt h d a n | cmpiGe h d a n | cmpiLtz h d a n | cmpiGez h d a n =>
    exact decodes_of_iRow (lo := n.toNat) rfl (.of_noCache hw) d a n.isLt n.isLt fun r hd ha hlo => by
      simp [OpK.code, Raw.imm, hd, ha, hlo]
  | addi h w d a n =>
    cases w
    all_goals
      exact decodes_of_iRow (lo := n.toNat) rfl (.of_noCache hw) d a n.isLt n.isLt fun r hd ha hlo => by
        simp [OpK.code, Raw.imm, hd, ha, hlo]
  | shli h w d a n | shri h w d a n | shai h w d a n =>
    obtain ⟨hh, hn⟩ := Bool.and_eq_true_iff.1 hw
    have hn : w = false ∨ n.toNat < 32 := by simpa using hn
    cases w
    case false =>
      exact decodes_of_iRow (lo := n.toNat) rfl (.of_noCache hh) d a (n.isLt.trans (by decide)) n.isLt fun r hd ha hlo => by
        simp [OpK.code, hd, ha, hlo]
    case true =>
      have hlim := hn.resolve_left nofun
      exact decodes_of_iRow (lo := n.toNat) rfl (.of_noCache hh) d a (n.isLt.trans (by decide)) hlim fun r hd ha hlo => by
        simp [OpK.code, hd, ha, hlo]
  | bra h o => exact decodes_of_jRow (lo := o.toNat) rfl (.of_noCache hw) () o.isLt fun r _ hlo => by simp [Raw.imm, hlo]
  | call h d o | loop h d o =>
    exact decodes_of_jRow (lo := o.toNat) rfl (.of_noCache hw) d o.isLt fun r hd hlo => by simp [OpK.code, Raw.imm, hd, hlo]
  | ret h a | sstop h a | sbar h a | lfin h a =>
    exact decodes_of_kRow rfl (.of_noCache hw) () a () () () fun r hn => by simp [OpK.code, hn.a]
  | jmpi h d a => exact decodes_of_kRow rfl (.of_noCache hw) d a () () () fun r hn => by simp [OpK.code, hn.d, hn.a]
  | pnot h d a | pmov h d a => exact decodes_of_kRow rfl (.of_noCache hw) d a () () () fun r hn => by simp [OpK.code, hn.d, hn.a]
  | sstart h a b | cancel h a b =>
    exact decodes_of_kRow rfl (.of_noCache hw) () a b () () fun r hn => by simp [OpK.code, hn.a, hn.b]
  | launch h d a c => exact decodes_of_kRow rfl (.of_noCache hw) d a () c () fun r hn => by simp [OpK.code, hn.d, hn.a, hn.c]
  | ccount h d a b => exact decodes_of_kRow rfl (.of_noCache hw) d a b () () fun r hn => by simp [OpK.code, hn.d, hn.a, hn.b]
  | pand h d a b | por h d a b | pxor h d a b =>
    exact decodes_of_kRow rfl (.of_noCache hw) d a b () () fun r hn => by simp [OpK.code, hn.d, hn.a, hn.b]
  | add h w d a b | sub h w d a b | mul h w d a b | mulh h w d a b | mulhz h w d a b | div h w d a b | divz h w d a b
  | rem h w d a b | remz h w d a b | and h w d a b | or h w d a b | xor h w d a b | andn h w d a b | orn h w d a b | shl h w d a b
  | shr h w d a b | sha h w d a b | rot h w d a b | min h w d a b | max h w d a b | minz h w d a b | maxz h w d a b =>
    exact decodes_of_int3 rfl rfl rfl hw d a b () () fun r hw hd ha hb _ _ => by simp [OpK.code, hw, hd, ha, hb]
  | cmpEq h w d a b | cmpNe h w d a b | cmpLt h w d a b | cmpGe h w d a b | cmpLtz h w d a b | cmpGez h w d a b =>
    exact decodes_of_int3 rfl rfl rfl hw d a b () () fun r hw hd ha hb _ _ => by simp [OpK.code, hw, hd, ha, hb]
  | clz h w d a | ctz h w d a | popc h w d a | bswap h w d a =>
    exact decodes_of_int3 rfl rfl rfl hw d a () () () fun r hw hd ha _ _ _ => by simp [OpK.code, hw, hd, ha]
  | bfx h w d a b c | bfxs h w d a b c | mad h w d a b c =>
    exact decodes_of_int3 rfl rfl rfl hw d a b c () fun r hw hd ha hb hc _ => by simp [OpK.code, hw, hd, ha, hb, hc]
  | sel h w d a b c =>
    exact decodes_of_int3 rfl rfl rfl hw d a b c () fun r hw hd ha hb hc _ => by simp [OpK.code, hw, hd, ha, hb, hc]
  | bfi h w d a b c e =>
    exact decodes_of_int3 rfl rfl rfl hw d a b c e fun r hw hd ha hb hc he => by simp [OpK.code, hw, hd, ha, hb, hc, he]
  | lea h d m =>
    exact decodes_of_mRow0 rfl (.of_noCache hw) d m.base m.index m fun r hd ha hb hsc hdisp => by
      simp [OpK.code, Raw.mem, hd, ha, hb, hsc, hdisp]
  | _ => nomatch hc

/-- Scalar and vector floating point: classes 0x06 and 0x07, in form X. -/
theorem Instr.decodes_of_cls_fv {i : Instr} (hw : i.wf = true) (hc : i.hasCls (fun c => 0x06 ≤ c && c < 0x08) = true) :
    i.Decodes := by
  cases i with
  | fadd h t rm d a b | fsub h t rm d a b | fmul h t rm d a b | fdiv h t rm d a b =>
    exact decodes_of_xRow rfl (.of_noCache hw) d a b () rm ⟨t.ty, t.isF_ty⟩ () () () fun r hn hx => ⟨nofun, nofun, by
      simp [OpK.code, RmArg.code, TyArg.code, Raw.rmv, Raw.tdf, hn.d, hn.a, hn.b, hx.rm, hx.td]⟩
  | ffma h t rm d a b c | ffms h t rm d a b c | fnma h t rm d a b c =>
    exact decodes_of_xRow rfl (.of_noCache hw) d a b c rm ⟨t.ty, t.isF_ty⟩ () () () fun r hn hx => ⟨nofun, nofun, by
      simp [OpK.code, RmArg.code, TyArg.code, Raw.rmv, Raw.tdf, hn.d, hn.a, hn.b, hn.c, hx.rm, hx.td]⟩
  | fsqrt h t rm d a =>
    exact decodes_of_xRow rfl (.of_noCache hw) d a () () rm ⟨t.ty, t.isF_ty⟩ () () () fun r hn hx => ⟨nofun, nofun, by
      simp [OpK.code, RmArg.code, TyArg.code, Raw.rmv, Raw.tdf, hn.d, hn.a, hx.rm, hx.td]⟩
  | fmin h t d a b | fmax h t d a b | fsgn h t d a b =>
    exact decodes_of_xRow rfl (.of_noCache hw) d a b () () ⟨t.ty, t.isF_ty⟩ () () () fun r hn hx => ⟨nofun, nofun, by
      simp [OpK.code, TyArg.code, Raw.tdf, hn.d, hn.a, hn.b, hx.td]⟩
  | fabs h t d a | fneg h t d a =>
    exact decodes_of_xRow rfl (.of_noCache hw) d a () () () ⟨t.ty, t.isF_ty⟩ () () () fun r hn hx => ⟨nofun, nofun, by
      simp [OpK.code, TyArg.code, Raw.tdf, hn.d, hn.a, hx.td]⟩
  | fcmp h t c d a b =>
    exact decodes_of_xRow rfl (.of_noCache hw) d a b () () () ⟨t.ty, t.isF_ty⟩ () c fun r hn hx => ⟨nofun, by
      cases t <;> simp [TyArg.code, Raw.tsv, hx.ts, FTy.ty, Ty.isInt], by
      simp [OpK.code, TyArg.code, CndArg.code, Raw.tsf, hn.d, hn.a, hn.b, hx.ts, hx.cnd]⟩
  | fclass h t d a =>
    exact decodes_of_xRow rfl (.of_noCache hw) d a () () () () ⟨t.ty, t.isF_ty⟩ () () fun r hn hx => ⟨nofun, nofun, by
      simp [OpK.code, TyArg.code, Raw.tsf, hn.d, hn.a, hx.ts]⟩
  | fcvt h td ts rm d a =>
    obtain ⟨hh, hne⟩ := Bool.and_eq_true_iff.1 hw
    exact decodes_of_xRow rfl (.of_noCache hh) d a () () rm ⟨td.ty, td.isF_ty⟩ ⟨ts.ty, ts.isF_ty⟩ () () fun r hn hx => ⟨nofun, by
      cases td <;> cases ts <;> simp_all [TyArg.code, FTy.ty, Ty.code, hx.td, hx.ts], by
      simp [OpK.code, RmArg.code, TyArg.code, Raw.rmv, Raw.tdf, Raw.tsf, hn.d, hn.a, hx.rm, hx.td, hx.ts]⟩
  | fcvti h td ts rm d a =>
    obtain ⟨hh, htd⟩ := Bool.and_eq_true_iff.1 hw
    exact decodes_of_xRow rfl (.of_noCache hh) d a () () rm ⟨td, htd⟩ ⟨ts.ty, ts.isF_ty⟩ () () fun r hn hx => ⟨nofun, nofun, by
      simp [OpK.code, RmArg.code, TyArg.code, Raw.rmv, Raw.tdv, Raw.tsf, hn.d, hn.a, hx.rm, hx.td, hx.ts]⟩
  | icvtf h td ts rm d a =>
    obtain ⟨hh, hts⟩ := Bool.and_eq_true_iff.1 hw
    exact decodes_of_xRow rfl (.of_noCache hh) d a () () rm ⟨td.ty, td.isF_ty⟩ ⟨ts, hts⟩ () () fun r hn hx => ⟨nofun, nofun, by
      simp [OpK.code, RmArg.code, TyArg.code, Raw.rmv, Raw.tdf, Raw.tsv, hn.d, hn.a, hx.rm, hx.td, hx.ts]⟩
  | fmov h d a =>
    exact decodes_of_xRow rfl (.of_noCache hw) d a () () () () () () () fun r hn hx => ⟨nofun, nofun, by
      simp [OpK.code, hn.d, hn.a]⟩
  | vadd h t rm m d a b | vsub h t rm m d a b | vmul h t rm m d a b =>
    obtain ⟨hht, hrm⟩ := Bool.and_eq_true_iff.1 hw
    obtain ⟨hh, ht⟩ := Bool.and_eq_true_iff.1 hht
    exact decodes_of_xRow rfl (.of_noCache hh) d a b () rm ⟨t, ht⟩ () m () fun r hn hx =>
      ⟨rmInt_zero (by simp [Raw.tdv, Raw.rmv, RmArg.code, hx.td, hx.rm, TyArg.code, hrm]), nofun, by
      simp [OpK.code, RmArg.code, TyArg.code, MaskArg.mask, Raw.rmv, Raw.tdv, hn.d, hn.a, hn.b, hx.rm, hx.td, hx.m]⟩
  | vfma h t rm m d a b c | vfms h t rm m d a b c =>
    obtain ⟨hht, hrm⟩ := Bool.and_eq_true_iff.1 hw
    obtain ⟨hh, ht⟩ := Bool.and_eq_true_iff.1 hht
    exact decodes_of_xRow rfl (.of_noCache hh) d a b c rm ⟨t, ht⟩ () m () fun r hn hx =>
      ⟨rmInt_zero (by simp [Raw.tdv, Raw.rmv, RmArg.code, hx.td, hx.rm, TyArg.code, hrm]), nofun, by
      simp [OpK.code, RmArg.code, TyArg.code, MaskArg.mask, Raw.rmv, Raw.tdv, hn.d, hn.a, hn.b, hn.c, hx.rm, hx.td, hx.m]⟩
  | vmin h t m d a b | vmax h t m d a b | vperm h t m d a b | vand h t m d a b | vor h t m d a b | vxor h t m d a b =>
    obtain ⟨hh, ht⟩ := Bool.and_eq_true_iff.1 hw
    exact decodes_of_xRow rfl (.of_noCache hh) d a b () () ⟨t, ht⟩ () m () fun r hn hx => ⟨nofun, nofun, by
      simp [OpK.code, TyArg.code, MaskArg.mask, Raw.tdv, hn.d, hn.a, hn.b, hx.td, hx.m]⟩
  | vabs h t m d a | vneg h t m d a =>
    obtain ⟨hh, ht⟩ := Bool.and_eq_true_iff.1 hw
    exact decodes_of_xRow rfl (.of_noCache hh) d a () () () ⟨t, ht⟩ () m () fun r hn hx => ⟨nofun, nofun, by
      simp [OpK.code, TyArg.code, MaskArg.mask, Raw.tdv, hn.d, hn.a, hx.td, hx.m]⟩
  | vshl h t m d a b | vshr h t m d a b | vsha h t m d a b =>
    obtain ⟨hh, ht⟩ := Bool.and_eq_true_iff.1 hw
    exact decodes_of_xRow rfl (.of_noCache hh) d a b () () ⟨t, ht⟩ () m () fun r hn hx => ⟨nofun, nofun, by
      simp [OpK.code, TyArg.code, MaskArg.mask, Raw.tdv, hn.d, hn.a, hn.b, hx.td, hx.m]⟩
  | vcmp h t c m d a b =>
    obtain ⟨hht, hc⟩ := Bool.and_eq_true_iff.1 hw
    obtain ⟨hh, ht⟩ := Bool.and_eq_true_iff.1 hht
    exact decodes_of_xRow rfl (.of_noCache hh) d a b () () () ⟨t, ht⟩ m c fun r hn hx => ⟨nofun, by
      simpa [TyArg.code, CndArg.code, Raw.tsv, hx.ts, hx.cnd] using isInt_or_lt_of_cndOk hc, by
      simp [OpK.code, TyArg.code, CndArg.code, MaskArg.mask, Raw.tsv, hn.d, hn.a, hn.b, hx.ts, hx.cnd, hx.m]⟩
  | vsel h t d a b c =>
    obtain ⟨hh, ht⟩ := Bool.and_eq_true_iff.1 hw
    exact decodes_of_xRow rfl (.of_noCache hh) d a b c () ⟨t, ht⟩ () () () fun r hn hx => ⟨nofun, nofun, by
      simp [OpK.code, TyArg.code, Raw.tdv, hn.d, hn.a, hn.b, hn.c, hx.td]⟩
  | vcvt h td ts rm m d a =>
    obtain ⟨hh, hp⟩ := Bool.and_eq_true_iff.1 hw
    obtain ⟨htd, hts⟩ := isCvt_of_vcvtPair hp
    exact decodes_of_xRow rfl (.of_noCache hh) d a () () rm ⟨td, htd⟩ ⟨ts, hts⟩ m () fun r hn hx => ⟨nofun, by
      simpa [TyArg.code, Raw.tdv, Raw.tsv, hx.td, hx.ts] using hp, by
      simp [OpK.code, RmArg.code, TyArg.code, MaskArg.mask, Raw.rmv, Raw.tdv, Raw.tsv, hn.d, hn.a, hx.rm, hx.td, hx.ts, hx.m]⟩
  | vbcast h t m d a =>
    obtain ⟨hh, ht⟩ := Bool.and_eq_true_iff.1 hw
    exact decodes_of_xRow rfl (.of_noCache hh) d a () () () ⟨t, ht⟩ () m () fun r hn hx => ⟨nofun, nofun, by
      simp [OpK.code, TyArg.code, MaskArg.mask, Raw.tdv, hn.d, hn.a, hx.td, hx.m]⟩
  | vmovg h t d a b =>
    obtain ⟨hh, ht⟩ := Bool.and_eq_true_iff.1 hw
    exact decodes_of_xRow rfl (.of_noCache hh) d a b () () ⟨t, ht⟩ () () () fun r hn hx => ⟨nofun, nofun, by
      simp [OpK.code, TyArg.code, Raw.tdv, hn.d, hn.a, hn.b, hx.td]⟩
  | vext h t d a b =>
    obtain ⟨hh, ht⟩ := Bool.and_eq_true_iff.1 hw
    exact decodes_of_xRow rfl (.of_noCache hh) d a b () () ⟨t, ht⟩ () () () fun r hn hx => ⟨nofun, nofun, by
      simp [OpK.code, TyArg.code, Raw.tdv, hn.d, hn.a, hn.b, hx.td]⟩
  | vredadd h t rm m d a =>
    obtain ⟨hht, hmz⟩ := Bool.and_eq_true_iff.1 hw
    obtain ⟨hh, ht⟩ := Bool.and_eq_true_iff.1 hht
    exact decodes_of_xRow rfl (.of_noCache hh) d a () () rm ⟨t, ht⟩ () m () fun r hn hx => ⟨mzZero_zero (hx.m ▸ hmz), nofun, by
      simp [OpK.code, RmArg.code, TyArg.code, MaskArg.mask, Raw.rmv, Raw.tdv, hn.d, hn.a, hx.rm, hx.td, hx.m]⟩
  | vredmax h t m d a | vredmin h t m d a =>
    obtain ⟨hht, hmz⟩ := Bool.and_eq_true_iff.1 hw
    obtain ⟨hh, ht⟩ := Bool.and_eq_true_iff.1 hht
    exact decodes_of_xRow rfl (.of_noCache hh) d a () () () ⟨t, ht⟩ () m () fun r hn hx => ⟨mzZero_zero (hx.m ▸ hmz), nofun, by
      simp [OpK.code, TyArg.code, MaskArg.mask, Raw.tdv, hn.d, hn.a, hx.td, hx.m]⟩
  | vrcp h t m d a | vrsq h t m d a | vexp2 h t m d a | vlog2 h t m d a | vsin h t m d a | vcos h t m d a | vtanh h t m d a =>
    exact decodes_of_xRow rfl (.of_noCache hw) d a () () () ⟨t.ty, t.isF_ty⟩ () m () fun r hn hx => ⟨nofun, nofun, by
      simp [OpK.code, TyArg.code, MaskArg.mask, Raw.tdf, hn.d, hn.a, hx.td, hx.m]⟩
  | _ => nomatch hc

/-- The classes from 0x08 on. -/
theorem Instr.decodes_of_cls_ge {i : Instr} (hw : i.wf = true) (hc : i.hasCls (0x08 ≤ ·) = true) : i.Decodes := by
  cases i with
  | srep h => exact decodes_of_kRow rfl (.of_noCache hw) () () () () () fun _ _ => rfl
  | time h d => exact decodes_of_kRow rfl (.of_noCache hw) d () () () () fun r hn => by simp [OpK.code, hn.d]
  | sfree h d => exact decodes_of_kRow rfl (.of_noCache hw) d () () () () fun r hn => by simp [OpK.code, hn.d]
  | wbdrop h a => exact decodes_of_kRow rfl (.of_noCache hw) () a () () () fun r hn => by simp [OpK.code, hn.a]
  | tstat h d a => exact decodes_of_kRow rfl (.of_noCache hw) d a () () () fun r hn => by simp [OpK.code, hn.d, hn.a]
  | knot h d a => exact decodes_of_kRow rfl (.of_noCache hw) d a () () () fun r hn => by simp [OpK.code, hn.d, hn.a]
  | kpop h d a => exact decodes_of_kRow rfl (.of_noCache hw) d a () () () fun r hn => by simp [OpK.code, hn.d, hn.a]
  | sbind h d a => exact decodes_of_kRow rfl (.of_noCache hw) d a () () () fun r hn => by simp [OpK.code, hn.d, hn.a]
  | sstat h d a => exact decodes_of_kRow rfl (.of_noCache hw) d a () () () fun r hn => by simp [OpK.code, hn.d, hn.a]
  | wbbind h a b | ttab h a b =>
    exact decodes_of_kRow rfl (.of_noCache hw) () a b () () fun r hn => by simp [OpK.code, hn.a, hn.b]
  | kand h d a b | kor h d a b =>
    exact decodes_of_kRow rfl (.of_noCache hw) d a b () () fun r hn => by simp [OpK.code, hn.d, hn.a, hn.b]
  | waitcL h n | waitcS h n =>
    exact decodes_of_iRow (lo := n.toNat) rfl (.of_noCache hw) () () (n.isLt.trans (by decide)) n.isLt fun r _ _ hlo => by simp [hlo]
  | dbar h => exact decodes_of_kRow (h := h) rfl (.inr rfl) () () () () () fun _ _ => rfl
  | ld h sz d m =>
    exact decodes_of_mRow (h := h) (ls := fun _ => []) rfl (.inr rfl) d m.base m.index m sz fun r _ hd ha hb hsz hsc hdisp =>
      ⟨nofun, by simp [OpK.code, Raw.mem, Raw.size, hd, ha, hb, hsz, hsc, hdisp]⟩
  | st h sz m d =>
    exact decodes_of_mRow (h := h) (ls := fun _ => []) rfl (.inr rfl) d m.base m.index m sz fun r _ hd ha hb hsz hsc hdisp =>
      ⟨nofun, by simp [OpK.code, Raw.mem, Raw.size, hd, ha, hb, hsz, hsc, hdisp]⟩
  | ldSigned h sz d m =>
    exact decodes_of_mRow (h := h) rfl (.inr rfl) d m.base m.index m sz fun r _ hd ha hb hsz hsc hdisp =>
      ⟨by have hne := bne_iff_ne.1 hw; cases sz <;> simp_all [Size.code],
        by simp [OpK.code, Raw.mem, Raw.size, hd, ha, hb, hsz, hsc, hdisp]⟩
  | ldacq h sz s d m =>
    cases s
    all_goals
      exact decodes_of_mRow (h := h) (ls := fun _ => []) rfl (.inr rfl) d m.base m.index m sz fun r hfn hd ha hb hsz hsc hdisp =>
        ⟨nofun, by simp [OpK.code, Raw.mem, Raw.size, Raw.scope_eq 2 hfn, hd, ha, hb, hsz, hsc, hdisp]⟩
  | strel h sz s m d =>
    cases s
    all_goals
      exact decodes_of_mRow (h := h) (ls := fun _ => []) rfl (.inr rfl) d m.base m.index m sz fun r hfn hd ha hb hsz hsc hdisp =>
        ⟨nofun, by simp [OpK.code, Raw.mem, Raw.size, Raw.scope_eq 3 hfn, hd, ha, hb, hsz, hsc, hdisp]⟩
  | ldB128 h d m =>
    exact decodes_of_mRow0 (h := h) rfl (.inr rfl) ⟨d, hw⟩ m.base m.index m fun r hd ha hb hsc hdisp => by
      simp [OpK.code, Raw.mem, hd, ha, hb, hsc, hdisp]
  | stB128 h m d =>
    exact decodes_of_mRow0 (h := h) rfl (.inr rfl) ⟨d, hw⟩ m.base m.index m fun r hd ha hb hsc hdisp => by
      simp [OpK.code, Raw.mem, hd, ha, hb, hsc, hdisp]
  | pref h m | flush h m =>
    exact decodes_of_mRow0 (h := h) rfl (.inr rfl) () m.base m.index m fun r _ ha hb hsc hdisp => by
      simp [Raw.mem, ha, hb, OpK.code, hsc, hdisp]
  | vld h d m =>
    exact decodes_of_mRow0 (h := h) rfl (.inr rfl) d m.base m.index m fun r hd ha hb hsc hdisp => by
      simp [OpK.code, Raw.mem, hd, ha, hb, hsc, hdisp]
  | vst h m d =>
    exact decodes_of_mRow0 (h := h) rfl (.inr rfl) d m.base m.index m fun r hd ha hb hsc hdisp => by
      simp [OpK.code, Raw.mem, hd, ha, hb, hsc, hdisp]
  | vgather h d a b sc o | vscatter h d a b sc o =>
    exact decodes_of_mRow0 (h := h) rfl (.inr rfl) d a b ⟨0, 0, sc, o⟩ fun r hd ha hb hsc hdisp => by
      simp [OpK.code, hd, ha, hb, hsc, hdisp]
  | mzero h c k => exact decodes_mzero
  | mmac h c a b s => exact decodes_mmac hw
  | mdrain h c d p td zr => exact decodes_mdrain hw
  | mldt h c a k ts => exact decodes_mldt hw
  | mbound h c d a => exact decodes_mbound
  | msety h d a ad | msetz h d a ad =>
    have had := b1_lt ad
    exact decodes_of_sRow (h := h) (sub := b1 ad * 2 ^ 37) rfl (.inr rfl) d a () () () (by omega) fun r hn hs => by
      obtain ⟨rfl, h0⟩ := hs.ad
      exact ⟨by simp [h0], nofun, by simp [OpK.code, hn.d, hn.a]⟩
  | pgetv h d a c l =>
    exact decodes_of_sRow (h := h) (sub := l.toNat) rfl (.inr rfl) ⟨d, hw⟩ a () c () (by omega) fun r hn hs => by
      obtain ⟨rfl, h0⟩ := hs.low (w := 32) rfl
      exact ⟨by simp [h0], nofun, by simp only [OpK.code, hn.d, hn.a, hn.c, r5_toNat, r5_cv]⟩
  | pgetg h d a c q =>
    exact decodes_of_sRow (h := h) (sub := q.toNat) rfl (.inr rfl) d a () c () (by omega) fun r hn hs => by
      obtain ⟨rfl, h0⟩ := hs.low (w := 27) rfl
      exact ⟨by simp [h0], nofun, by simp only [OpK.code, hn.d, hn.a, hn.c, r5_toNat]⟩
  | wbstate h d a item | wbcause h d a item =>
    obtain ⟨hh, hitem⟩ := Bool.and_eq_true_iff.1 hw
    have hitem := of_decide_eq_true hitem
    exact decodes_of_sRow (sub := item.toNat) rfl (.of_noCache hh) d a () () () (by omega) fun r hn hs => by
      have f0 : fld r.lo 0 2 = item.toNat := by rw [hs (by decide)]; unfold fld; omega
      obtain ⟨rfl, h0⟩ := hs.low (w := 36) rfl
      exact ⟨by simp [h0], by simp only [List.forall_mem_singleton, f0]; exact decide_eq_true (Nat.lt_succ_of_le hitem), by
        simp only [OpK.code, hn.d, hn.a, r5_toNat]⟩
  | cpy h ch st sco ss ds d a b c => exact decodes_cpy hw
  | cpybt h ch st sco nb d a b c e => exact decodes_cpybt hw
  | invoke h d a b c svc na wa tw rp => exact decodes_invoke hw
  | amoadd h w n a d b | amoand h w n a d b | amoor h w n a d b | amoxor h w n a d b | amomin h w n a d b | amomax h w n a d b
  | amominz h w n a d b | amomaxz h w n a d b | amoswp h w n a d b =>
    refine decodes_of_amo rfl rfl rfl hw fun x hx => ?_
    interval_cases x <;> cases n <;> rfl
  | amocas h w n a d b c => exact decodes_amocas hw
  | amofadd h t n a d b | amofmin h t n a d b | amofmax h t n a d b =>
    refine decodes_of_amof rfl rfl rfl hw ?_
    cases t <;> cases n <;> rfl
  | mfetch h a b | cpchain h a b | pput h a b | pputg h a b | pwatch h a b =>
    exact decodes_of_kRow (h := h) rfl (.inr rfl) () a b () () fun r hn => by simp [OpK.code, hn.a, hn.b]
  | mcfg h a => exact decodes_of_kRow (h := h) rfl (.inr rfl) () a () () () fun r hn => by simp [OpK.code, hn.a]
  | cpwp h d a | cpstat h d a | pfresh h d a =>
    exact decodes_of_kRow (h := h) rfl (.inr rfl) d a () () () fun r hn => by simp [OpK.code, hn.d, hn.a]
  | pget h d a b => exact decodes_of_kRow (h := h) rfl (.inr rfl) d a b () () fun r hn => by simp [OpK.code, hn.d, hn.a, hn.b]
  | mwait h d a b c =>
    exact decodes_of_kRow (h := h) rfl (.inr rfl) d a b c () fun r hn => by simp [OpK.code, hn.d, hn.a, hn.b, hn.c]
  | pputv h a b => exact decodes_of_kRow (h := h) rfl (.inr rfl) () a ⟨b, hw⟩ () () fun r hn => by simp [OpK.code, hn.a, hn.b]
  | _ => nomatch hc

/-- The word of a well-formed instruction decodes to it: its row builds it from its operands. -/
theorem Instr.decodes {i : Instr} (hw : i.wf = true) : i.Decodes := by
  cases hr : i.raw with
  | none =>
    intro x hx
    simp [encode, hr] at hx
  | some r =>
    have hcls (p : Nat → Bool) (hp : p r.cls = true) : i.hasCls p = true := by simpa [Instr.hasCls, hr] using hp
    rcases Nat.lt_or_ge r.cls 0x06 with hlt | hge
    · exact Instr.decodes_of_cls_lt hw (hcls _ (decide_eq_true hlt))
    rcases Nat.lt_or_ge r.cls 0x08 with hlt | hge'
    · exact Instr.decodes_of_cls_fv hw (hcls _ (by simp [hge, hlt]))
    · exact Instr.decodes_of_cls_ge hw (hcls _ (decide_eq_true hge'))

/-- Settles O1: an instruction's row builds it from its operands, and its word passes that row's checks. -/
theorem decodeInvertsEncode : Obligations.DecodeInvertsEncode := by
  unfold Obligations.DecodeInvertsEncode
  intro i x hw hx
  exact Instr.decodes hw x hx

end Sys2Proof
end

section
/-! SUPPORT for O13. Every encoded instruction is an issue under its word's header; a failed guard, nop and ifence come to the end of
that issue. -/
namespace Sys2Proof.Machine
open Sys2Proof Sys2Proof.Claims

/-! ## Every encoded instruction issues (R54) -/

theorem exists_issue_mkRaw {s : State} {o : Host.Outcome State Fault Refusal} {h : Hdr} {cls fn d a b lo : Nat} {q : Req}
    {body : State → Eff} (ho : o = s.issue h q body) : ∃ q body, o = s.issue (mkRaw h cls fn d a b lo).hdr q body :=
  ⟨q, body, by rw [mkRaw_hdr, ho]⟩

theorem exec_eq_issue {i : Instr} {r : Raw} (hr : i.raw = some r) (s : State) : ∃ q body, exec i s = s.issue r.hdr q body := by
  cases i
  all_goals cases hr
  case vshl.refl b | vshr.refl b | vsha.refl b => cases b <;> exact exists_issue_mkRaw rfl
  case pref.refl h m =>
    show ∃ q body, execPref h m s = _
    exact exists_issue_mkRaw rfl
  all_goals exact exists_issue_mkRaw rfl

/-! ## The end of an issue that changes nothing -/

theorem SlotKept.refl (x : Slot) (cs : List Nat) : SlotKept x x cs where
  g _ _ := rfl
  f _ _ := rfl
  v _ _ := rfl
  p _ _ := rfl
  k _ _ := rfl
  counters := ⟨rfl, rfl, rfl, rfl, rfl⟩
  checked := ⟨rfl, rfl⟩
  trap := ⟨rfl, rfl, rfl, rfl, rfl, rfl⟩
  streams := rfl
  active := ⟨rfl, rfl⟩

theorem FpKept.refl (x : Slot) : FpKept x x := ⟨rfl, rfl, rfl⟩

/-- What the hints and the advance make of the current slot, and nothing else. -/
def State.advanced (s : State) (h : Hdr) (q : Req) : State :=
  s.upd fun x => s.me.order (x.advance h s.me.longs s.serial) h q false

theorem State.advanced_advanced (s : State) (h : Hdr) (q : Req) : Advanced s (s.advanced h q) :=
  Advanced.of_upd (f := id) rfl rfl

theorem State.advanced_kept (s : State) (h : Hdr) (q : Req) : Kept s (s.advanced h q) [] :=
  Kept.of_upd (f := id) (.refl _ _) (.refl _)

/-- A completion without tokens: the hints and the advance of the slot that the effect leaves. -/
theorem State.conclude_go {s s' : State} (h : Hdr) {q : Req} (ht : q.tokens = 0) (hra : s'.me.ra = none) :
    s.conclude h q (.go s') = s'.upd fun x => s.me.order (x.advance h s.me.longs s.serial) h q false := by
  simp only [State.conclude, ht, State.charge_zero]
  exact State.countAhead_sure (by simp [hra])

/-- R54: an issue whose guard fails, and which no hazard of the guard stops, only advances. -/
theorem State.issue_guard_failed {s : State} {h : Hdr} {q : Req} {body : State → Eff} (on : s.power ≠ .off)
    (hg : s.me.guardOk h = false) (hfree : s.me.chkHazard = true → rP h.gp ∉ s.me.pending) (hra : s.me.ra = none) :
    s.issue h q body = .next (s.advanced h {}) := by
  have hhaz : s.me.hazard [rP h.gp] = none := by
    unfold Slot.hazard
    split
    case isTrue hz => simp [hfree hz]
    case isFalse => rfl
  have hahead : s.me.ahead = false := by simp [Slot.ahead, hra]
  unfold State.issue
  cases hp : s.power with
  | off => exact absurd hp on
  | active | packageIdle => simp [hhaz, hahead, hg, State.conclude_go (q := {}) h rfl hra, State.advanced]

theorem failedGuardOnlyAdvances : FailedGuardOnlyAdvances := by
  intro s i r hr on hg hfree hra
  obtain ⟨q, body, hx⟩ := exec_eq_issue hr s
  exact ⟨_, hx.trans (State.issue_guard_failed on hg hfree hra), s.advanced_advanced _ _, s.advanced_kept _ _⟩

/-! ## nop and ifence -/

theorem nopActsThroughItsHintsOnly : NopActsThroughItsHintsOnly := by
  intro s h hr
  have hx : exec (.nop h) s = .next (s.advanced h {}) :=
    (State.issue_ready (q := {}) hr rfl).trans (congrArg _ (State.conclude_go h rfl hr.sure))
  refine ⟨_, hx, s.advanced_advanced _ _, s.advanced_kept _ _, fun hs => ?_⟩
  simp [State.advanced, Slot.order, Slot.advance, hs, Slot.hints, Slot.longs]

/-- The instruction cache of one core of the tile emptied (R448). -/
def Tile.emptyIcache (core : Fin 4) (x : Tile) : Tile := { x with icache := x.icache.set core.val [] }

/-- R448: with no store outstanding, ifence completes with its core's instruction cache empty. -/
theorem exec_ifence {s : State} {h : Hdr} (hr : Ready s h [] []) (hc : s.me.cnts = 0) :
    exec (.ifence h) s = .next ((s.updTile (Tile.emptyIcache (coreOf s.cur.2))).upd fun x =>
      s.me.order (x.advance h s.me.longs s.serial) h {} false) := by
  have hbody : (if s.me.cnts ≠ 0 then Eff.wait .stores else .go (s.updTile (Tile.emptyIcache (coreOf s.cur.2)))) =
      .go (s.updTile (Tile.emptyIcache (coreOf s.cur.2))) := if_neg (not_not_intro hc)
  have hme : (s.updTile (Tile.emptyIcache (coreOf s.cur.2))).me = s.me := by rw [State.me_updTile]; rfl
  calc exec (.ifence h) s
      = .next (s.conclude h {} (if s.me.cnts ≠ 0 then .wait .stores else .go (s.updTile (Tile.emptyIcache (coreOf s.cur.2))))) :=
        State.issue_ready (q := {}) hr rfl
    _ = _ := by rw [hbody, State.conclude_go (q := {}) h rfl (by rw [hme]; exact hr.sure)]

/-- R448: while a store is outstanding, ifence parks its slot. -/
theorem exec_ifence_wait {s : State} {h : Hdr} (hr : Ready s h [] []) (hc : s.me.cnts ≠ 0) :
    exec (.ifence h) s = .next (s.upd fun x => { x with park := .stores }) := by
  have hahead : s.me.ahead = false := by simp [Slot.ahead, hr.sure]
  calc exec (.ifence h) s
      = .next (s.conclude h {} (if s.me.cnts ≠ 0 then .wait .stores else .go _)) := State.issue_ready (q := {}) hr rfl
    _ = _ := by rw [if_pos hc]; simp [State.conclude, hahead]

theorem ifenceInvalidatesItsCore : IfenceInvalidatesItsCore := by
  intro s h hr
  refine ⟨fun hc => ⟨_, exec_ifence_wait hr hc, by simp, by simp⟩, fun hc => ⟨_, exec_ifence hr hc, ?_⟩⟩
  have hme : (s.updTile (Tile.emptyIcache (coreOf s.cur.2))).me = s.me := by rw [State.me_updTile]; rfl
  have hslot := SlotKept.advance (h := h) (m := s.me.longs) (b := s.serial) (q := {}) (o := s.me) (SlotKept.refl s.me [])
  have hfp := FpKept.advance (h := h) (m := s.me.longs) (b := s.serial) (q := {}) (o := s.me) (FpKept.refl s.me)
  refine ⟨⟨by simp [hme], by simp [hme], rfl⟩, by simpa [hme] using hslot, by simpa [hme] using hfp, ?_, fun u a => ?_, fun _ => rfl⟩
  · rw [State.myTile_upd, State.myTile_updTile]
    rfl
  · rw [(OutsideKept.of_upd _ _).store]
    by_cases hu : u = s.cur.1
    · rw [hu, State.updTile, State.tile_modTile_same]
      rfl
    · rw [State.updTile, State.tile_modTile_other _ _ _ _ hu]

/-- Settles O13: every encoded instruction is an issue, and what a failed guard, nop and ifence make of one is its end. -/
theorem guardsHintsAndInstructionFences : Obligations.GuardsHintsAndInstructionFences := by
  unfold Obligations.GuardsHintsAndInstructionFences
  exact ⟨failedGuardOnlyAdvances, nopActsThroughItsHintsOnly, ifenceInvalidatesItsCore⟩

end Sys2Proof.Machine
end

section
/-! SUPPORT for O3 and O5. A full instruction cache whose only copy of a word stands where the first free choice falls, and reads through
empty caches. -/
namespace Sys2Proof.Machine
open Sys2Proof Sys2Proof.Claims

/-! ## The instruction cache -/

theorem mapFind_eq_none {α : Type} {m : Map α} {n : Nat} (h : ∀ e ∈ m, e.1 ≠ n) : mapFind m n = none := by
  induction m with
  | nil => rfl
  | cons e m ih =>
    rw [mapFind, if_neg (h e (.head _)).symm]
    exact ih fun e he => h e (.tail _ he)

theorem mapFind_append_of_none {α : Type} {m m' : Map α} {n : Nat} (h : ∀ e ∈ m, e.1 ≠ n) : mapFind (m ++ m') n = mapFind m' n := by
  induction m with
  | nil => rfl
  | cons e m ih =>
    rw [List.cons_append, mapFind, if_neg (h e (.head _)).symm]
    exact ih fun e he => h e (.tail _ he)

/-- The place of the word that a full instruction cache of 48 KiB gives up at the first free choice (R9). -/
def evictedWay : Nat := Config.freeLevel 0 % 12288

theorem evictedWay_lt : evictedWay < 12288 := Nat.mod_lt _ (by decide)

/-- A full cache: the word of 0x10000 stands where the first choice falls; every other place holds that of 0xFFFC. -/
def straddledCache (w : BitVec 32) : Map (BitVec 32) :=
  List.replicate evictedWay (0xFFFC, 0) ++ (0x10000, w) :: List.replicate (12287 - evictedWay) (0xFFFC, 0)

theorem straddledCache_length (w : BitVec 32) : (straddledCache w).length = 12288 := by
  have := evictedWay_lt
  simp only [straddledCache, List.length_append, List.length_replicate, List.length_cons]
  omega

theorem mem_straddledCache {w : BitVec 32} {e : Nat × BitVec 32} (h : e ∈ straddledCache w) : e = (0xFFFC, 0) ∨ e = (0x10000, w) := by
  rcases List.mem_append.1 h with h | h
  · exact .inl (List.eq_of_mem_replicate h)
  · exact (List.mem_cons.1 h).symm.imp_left List.eq_of_mem_replicate

theorem mapFind_straddledCache_first (w : BitVec 32) : mapFind (straddledCache w) 0xFFF8 = none :=
  mapFind_eq_none fun e he => by rcases mem_straddledCache he with rfl | rfl <;> simp

theorem mapFind_straddledCache_last (w : BitVec 32) : mapFind (straddledCache w) 0x10000 = some w :=
  mapFind_append_of_none fun e he => by rw [List.eq_of_mem_replicate he]; decide

theorem eraseIdx_replicate_append {α : Type} (m n : Nat) (a b : α) :
    (List.replicate m a ++ b :: List.replicate n a).eraseIdx m = List.replicate (m + n) a := by
  rw [List.eraseIdx_append_of_length_le (List.length_replicate).le, List.length_replicate, Nat.sub_self, List.eraseIdx_zero, List.tail_cons,
    List.replicate_append_replicate]

/-- What is left when the word of 0x10000 has been given up. -/
theorem straddledCache_eraseIdx (w : BitVec 32) :
    (straddledCache w).eraseIdx (Config.freeLevel 0 % (straddledCache w).length) = List.replicate 12287 (0xFFFC, 0) := by
  have hle : evictedWay ≤ 12287 := Nat.le_of_lt_succ evictedWay_lt
  rw [straddledCache_length]
  exact (eraseIdx_replicate_append _ _ _ _).trans (by rw [Nat.add_sub_cancel' hle])

/-! ## A read through empty caches -/

/-- Only L2, the remote-data caches and the page directories differ. -/
def SameButCaches (s s' : State) : Prop := ∃ l2 rdc dirs, s' = { s with l2, rdc, dirs }

theorem SameButCaches.trans {s s' s'' : State} (h : SameButCaches s s') (h' : SameButCaches s' s'') : SameButCaches s s'' := by
  obtain ⟨_, _, _, rfl⟩ := h
  obtain ⟨l2, rdc, dirs, rfl⟩ := h'
  exact ⟨l2, rdc, dirs, rfl⟩

theorem SameButCaches.readHbm {s s' : State} (h : SameButCaches s s') (p : Part) (a n : Nat) : s'.readHbm p a n = s.readHbm p a n := by
  obtain ⟨l2, rdc, dirs, rfl⟩ := h
  induction n generalizing a with
  | zero => rfl
  | succ n ih => simp only [State.readHbm, ih]; rfl

theorem SameButCaches.part {s s' : State} (h : SameButCaches s s') (tag : Nat) : s'.part tag = s.part tag := by
  obtain ⟨l2, rdc, dirs, rfl⟩ := h
  rfl

section
variable {s : State} {tag die a n : Nat} {h : CacheHint}

theorem l2Touch_of_empty {write : Bool} (hl2 : s.l2 = []) :
    SameButCaches s (s.l2Touch tag a n write h) ∧ (s.l2Touch tag a n write h).rdc = s.rdc := by
  have hnil (i : Nat) : mapGet [] s.l2 i = [] := by rw [hl2]; rfl
  simp only [State.l2Touch, State.l2Evict, hnil, List.find?_nil, List.filter_nil, List.length_nil]
  split
  · exact ⟨⟨s.l2, s.rdc, s.dirs, rfl⟩, rfl⟩
  · exact ⟨⟨_, s.rdc, s.dirs, rfl⟩, rfl⟩

theorem dirPut_of_empty {g : Nat} {old d : Dir} (hrdc : s.rdc = []) :
    SameButCaches s (s.dirPut g old d) ∧ (s.dirPut g old d).rdc = [] ∧ (s.dirPut g old d).l2 = s.l2 :=
  ⟨⟨s.l2, _, _, rfl⟩, by simp [State.dirPut, dropCopies, hrdc], rfl⟩

theorem dirCount_of_empty (hrdc : s.rdc = []) : SameButCaches s (s.dirCount tag die a false) ∧ (s.dirCount tag die a false).rdc = [] ∧
    (s.dirCount tag die a false).l2 = s.l2 := by
  simp only [State.dirCount, Bool.false_eq_true, if_false]
  split
  · exact ⟨⟨s.l2, s.rdc, s.dirs, rfl⟩, hrdc, rfl⟩
  · exact dirPut_of_empty hrdc

theorem rdcFill_of_empty {bad : Nat} (hrdc : s.rdc = []) : SameButCaches s (s.rdcFill tag die a n bad h) := by
  have hnil (i : Nat) : mapGet [] s.rdc i = [] := by rw [hrdc]; rfl
  simp only [State.rdcFill, hnil, List.find?_nil, List.filter_nil, List.length_nil]
  split
  · exact ⟨s.l2, s.rdc, s.dirs, rfl⟩
  next hfill =>
    have hcap : 0 < 1024 * (s.part tag).groupsOn die := by
      refine Nat.pos_of_ne_zero fun h0 => hfill ?_
      simp [h0]
    rw [if_pos hcap]
    exact (dirPut_of_empty hrdc).1.trans ⟨_, _, _, rfl⟩

/-- With nothing in L2 or a remote-data cache, memory answers, and no more than those caches and the directories changes. -/
theorem tileRead_of_empty {t : TileId} (hl2 : s.l2 = []) (hrdc : s.rdc = []) :
    SameButCaches s (s.tileRead t .hbm a n h).1 ∧
      (s.tileRead t .hbm a n h).2.1 = s.readHbm (s.part (s.tile t).tag.toNat) a n := by
  have hnil (i : Nat) : mapGet [] s.rdc i = [] := by rw [hrdc]; rfl
  have hlook (tag : Nat) : s.rdcLook tag (dieOf t) a n = (s, none) := by simp only [State.rdcLook, hnil, List.find?_nil]
  obtain ⟨hcount, hrdc1, hl21⟩ := dirCount_of_empty (tag := (s.tile t).tag.toNat) (die := dieOf t) (a := a) hrdc
  obtain ⟨htouch, hrdc2⟩ := l2Touch_of_empty (tag := (s.tile t).tag.toNat) (a := a) (n := n) (write := false) (h := h) (hl21.trans hl2)
  have hlooked := hcount.trans htouch
  simp only [State.tileRead, State.dieRead, hlook, State.homeBits, State.homeLook, Bool.false_eq_true, if_false]
  exact ⟨hlooked.trans (rdcFill_of_empty (hrdc2.trans hrdc1)), by rw [hlooked.readHbm, hlooked.part]⟩

end

end Sys2Proof.Machine
end

section
/-! SUPPORT for O3 and O5. A step up to the fetch of a turn. -/
namespace Sys2Proof.Machine
open Sys2Proof Sys2Proof.Claims

/-- The state in which a slot takes a turn: the act is off the agenda, the slot's turn of the cycle used. -/
def State.inTurn (s : State) (t : TileId) (k : SlotId) (rest : List Act) (due : List (Fin 4)) : State :=
  { s.modTile t fun y => { y with due } with agenda := rest, cur := (t, k) }

/-- The state in which the turn fetches: the debugger's step is over, the turn counted. -/
def State.atFetch (s : State) (t : TileId) (k : SlotId) (rest : List Act) (due : List (Fin 4)) : State :=
  ((s.inTurn t k rest due).modTile t fun y => { y with dbgStep := none }).tileCount t 0 1

theorem State.tile_tileCount (s : State) (t : TileId) (ev n : Nat) :
    ∃ pmcnt pmstat, (s.tileCount t ev n).tile t = { s.tile t with pmcnt, pmstat } := by
  rw [State.tileCount, State.tile_modTile_same]
  dsimp only
  split
  · exact ⟨_, _, rfl⟩
  · split
    · exact ⟨_, _, rfl⟩
    · exact ⟨_, _, rfl⟩

section
variable {s : State} {t : TileId} {k : SlotId} {rest : List Act} {due : List (Fin 4)} {pc : Word}

theorem State.inTurn_tile : (s.inTurn t k rest due).tile t = { s.tile t with due } :=
  State.tile_modTile_same s t fun y => { y with due }

theorem State.inTurn_slot : (s.inTurn t k rest due).slot t k = s.slot t k := by
  rw [State.slot, State.inTurn_tile]
  rfl

theorem State.atFetch_tile : ∃ pmcnt pmstat, (s.atFetch t k rest due).tile t = { s.tile t with due, dbgStep := none, pmcnt, pmstat } := by
  obtain ⟨pmcnt, pmstat, htile⟩ := State.tile_tileCount ((s.inTurn t k rest due).modTile t fun y => { y with dbgStep := none }) t 0 1
  refine ⟨pmcnt, pmstat, ?_⟩
  rw [State.atFetch, htile, State.tile_modTile_same, State.inTurn_tile]

theorem State.atFetch_me : (s.atFetch t k rest due).me = s.slot t k := by
  obtain ⟨pmcnt, pmstat, htile⟩ := State.atFetch_tile (s := s) (t := t) (k := k) (rest := rest) (due := due)
  rw [show (s.atFetch t k rest due).me = ((s.atFetch t k rest due).tile t).slot k from rfl, htile]
  rfl

theorem takeTurn_inTurn (h : IssuesNext s t k rest due pc) :
    (s.inTurn t k rest due).takeTurn t k = (s.atFetch t k rest due).fetchAndRun := by
  obtain ⟨-, -, -, ⟨hawake, hstarting⟩, hforfeit, hparked, hdeferred, -⟩ := h
  rw [← State.inTurn_slot (rest := rest) (due := due)] at hstarting hforfeit hparked hdeferred
  have hcur : ({ s.inTurn t k rest due with cur := (t, k) } : State) = s.inTurn t k rest due := rfl
  have hstart : (s.inTurn t k rest due).startUp t k = s.inTurn t k rest due := by simp only [State.startUp, hstarting]
  have hnext : ((s.inTurn t k rest due).slot t k).nextTrap = none := by simp only [Slot.nextTrap, hdeferred, List.find?_nil]
  have hawake : (s.inTurn t k rest due).awake t k = true := by
    rw [State.awake, State.frozen, State.inTurn_slot, State.inTurn_tile]
    exact hawake
  simp only [State.takeTurn, hcur, hstart, hawake, hforfeit, hparked, Bool.not_true, Bool.false_eq_true, if_false, ne_eq,
    not_true_eq_false, State.issueTurn, hnext]
  rfl

/-- A step up to the fetch. -/
theorem step_issuesNext (h : IssuesNext s t k rest due pc) : step s = (s.atFetch t k rest due).fetchAndRun := by
  have hstep : step s = State.turn { s with agenda := rest } t k := by
    rw [step, h.turn]
    cases hp : s.power with
    | off => exact absurd hp h.on
    | active | packageIdle => rfl
  have hdue : (State.tile { s with agenda := rest } t).due = coreOf k :: due := h.cycle.2
  have hcycle : (State.tile { s with agenda := rest } t).cycle % 8 = k.val % 8 := h.cycle.1
  rw [hstep, ← takeTurn_inTurn h]
  simp only [State.turn, hdue, hcycle, and_self, if_true]
  rfl

end

end Sys2Proof.Machine
end

section
/-! SUPPORT for O3 and O5. What a fetch does, and what refusals and bytes of memory depend on. -/
namespace Sys2Proof.Machine
open Sys2Proof Sys2Proof.Claims

/-! ## What refusals and bytes depend on -/

theorem refuses_congr {s u : State} (h : u.parts = s.parts) (tag a n : Nat) : u.refuses tag a n = s.refuses tag a n := by
  unfold State.refuses State.owner State.part
  rw [h]

theorem readHbm_congr {s u : State} (hhbm : u.hbm = s.hbm) (hclear : u.clearMap = s.clearMap) (p : Part) (a n : Nat) :
    u.readHbm p a n = s.readHbm p a n := by
  have hbyte (ph : Nat) : u.hbmByte ph = s.hbmByte ph := by
    unfold State.hbmByte State.blockClear
    rw [hhbm, hclear]
  induction n generalizing a with
  | zero => rfl
  | succ n ih => simp only [State.readHbm, hbyte, ih]

/-! ## Fetching -/

/-- What a slot runs is what it fetches.  The definition is unfolded before it is applied to `s`: comparing it with its body at `s`, the
kernel would evaluate the fetch. -/
theorem fetchAndRun_of_ok {s s' : State} {i : Instr} (hs : s.me.srep = none) (hf : fetchFault s.myPart s.me.pc.toNat = none)
    (ha : s.fetchRefused s.cur.1 (coreOf s.cur.2) s.me.pc.toNat = false) (hi : s.fetchInsn s.cur.1 s.cur.2 s.me.pc = (s', .ok i)) :
    s.fetchAndRun = exec i s' := by
  have hreps : s.countReps = s := by simp only [State.countReps, hs]
  have hpc : s.me.issueAt = s.me.pc := by simp [Slot.issueAt, hs]
  generalize hrun : State.fetchAndRun = run
  delta State.fetchAndRun at hrun
  subst hrun
  beta_reduce
  rw [hreps]
  dsimp only
  rw [hpc, hf]
  dsimp only
  rw [ha, hi]
  rfl

theorem fetch32_hit {s : State} {t : TileId} {c : Fin 4} {a : Nat} {w : BitVec 32} (hfind : mapFind (s.tile t).icache[c.val] a = some w)
    (hw : w.toNat = s.readHbm (s.part (s.tile t).tag.toNat) a 4) : s.fetch32 t c a = (s, w.toNat) := by
  simp only [State.fetch32, hfind, hw, true_or, if_true]

theorem fetch32_miss {s : State} {t : TileId} {c : Fin 4} {a : Nat} (hfind : mapFind (s.tile t).icache[c.val] a = none) :
    s.fetch32 t c a = s.icacheFill t c a := by
  simp only [State.fetch32, hfind]

/-- A word that its home refuses is not filled in (R396). -/
theorem icacheFill_refused {s : State} {t : TileId} {c : Fin 4} {a : Nat} (hr : s.refuses (s.tile t).tag.toNat a 4 = true) :
    s.icacheFill t c a = (s, 0) := by
  simp only [State.icacheFill, hr, if_true]

/-- A full instruction cache gives a word up for the one it takes (R9). -/
theorem icacheFill_full {s : State} {t : TileId} {c : Fin 4} {a : Nat} (hr : s.refuses (s.tile t).tag.toNat a 4 = false)
    (hl2 : s.l2 = []) (hrdc : s.rdc = []) (hfind : mapFind (s.tile t).icache[c.val] a = none)
    (hfull : 12288 ≤ (s.tile t).icache[c.val].length) : ∃ s' v, SameButCaches s s' ∧
      v = s.readHbm (s.part (s.tile t).tag.toNat) a 4 ∧ s.icacheFill t c a =
        (State.modTile { s' with free := s.free + 1 } t fun y => { y with icache := y.icache.set c.val (mapSet
          ((s.tile t).icache[c.val].eraseIdx (Config.freeLevel s.free % (s.tile t).icache[c.val].length)) a (BitVec.ofNat 32 v)) }, v) := by
  obtain ⟨hsame, hv⟩ := tileRead_of_empty (t := t) (a := a) (n := 4) (h := .none) hl2 hrdc
  refine ⟨_, _, hsame, hv, ?_⟩
  obtain ⟨l2, rdc, dirs, hs'⟩ := hsame
  have htile : (s.tileRead t .hbm a 4).1.tile t = s.tile t := by rw [hs']; rfl
  have hfree : (s.tileRead t .hbm a 4).1.free = s.free := by rw [hs']
  simp only [State.icacheFill, hr, Bool.false_eq_true, if_false, htile, hfind, hfull, Option.isNone_none, decide_true, Bool.and_self,
    if_true, hfree]

end Sys2Proof.Machine
end

section
/-! O3 and O5 fail in one state. A partition names a slice group that another owns, and a slot's next instruction lies across the page
between its own group and that one. The core's instruction cache is full and holds the last word, so that no home refuses the fetch
when it begins (R396); but the first word's fill gives the last one up, a free choice (R9), and its home then refuses it. -/
namespace Sys2Proof.Machine
open Sys2Proof Sys2Proof.Claims

/-! ## The state -/

/-- The slot issues at 0xFFF8, whose last word is that of 0x10000. -/
def crossingSlot : Slot := { Slot.reset with active := true, pc := 0xFFF8, cnts := 1 }

/-- Partition 2, whose pages alternate between slice groups 0 and 1. -/
def crossingPart : Part := { Part.reset with en := true, pgroups := 2, groups := [(0, 0), (1, 1)] }

/-- Partition 1 owns slice group 1. Memory is zero but for the byte `x` at 0x10002 of partition 2. -/
def crossingMemory (x : Byte) : State :=
  { State.reset with
    parts := [(1, { Part.reset with en := true, pgroups := 1, groups := [(0, 1)] }), (2, crossingPart)]
    hbm := [(0x40000002, x)] }

/-- Tile 0 is partition 2's, its slots are about to issue, and each of its instruction caches is full. -/
def crossingTile (x : Byte) : Tile :=
  { Tile.reset with slots := Vector.replicate 32 crossingSlot, tag := 2, trapvec := 0x1003, due := [0],
                    icache := Vector.replicate 4 (straddledCache (x.setWidth 32 <<< 16)) }

def crossing (x : Byte) : State := { crossingMemory x with tiles := [(0, crossingTile x)], agenda := [.turn 0 0] }

section
variable (x : Byte)

theorem crossing_tile : (crossing x).tile 0 = crossingTile x := rfl
theorem crossing_part : (crossing x).part 2 = crossingPart := rfl

theorem crossing_slot : (crossing x).slot 0 0 = crossingSlot := by
  rw [State.slot, crossing_tile, Tile.slot, crossingTile]
  exact Vector.getElem_replicate _

theorem crossing_icache : ((crossing x).tile 0).icache[(0 : Fin 4).val] = straddledCache (x.setWidth 32 <<< 16) := by
  rw [crossing_tile, crossingTile]
  exact Vector.getElem_replicate _

/-- Group 0 gives partition 2 its words; group 1 refuses it (R396). -/
theorem crossing_refuses : (crossing x).refuses 2 0xFFF8 4 = false ∧ (crossing x).refuses 2 0xFFFC 4 = false ∧
    (crossing x).refuses 2 0x10000 4 = true := by
  have hmem : (crossing x).parts = (crossingMemory 0).parts := rfl
  rw [refuses_congr hmem, refuses_congr hmem, refuses_congr hmem]
  decide

end

/-- The instruction cache holds the word that group 1 would refuse. -/
theorem crossing_accepted {x : Byte} {u : State} (hparts : u.parts = (crossing x).parts) (htag : (u.tile 0).tag = 2)
    (hcache : (u.tile 0).icache[(0 : Fin 4).val] = straddledCache (x.setWidth 32 <<< 16)) : u.wordsRefused 0 0 0xFFF8 3 = false := by
  obtain ⟨hfirst, hmid, -⟩ := crossing_refuses x
  rw [State.wordsRefused, List.any_eq_false, hcache, htag]
  simp only [refuses_congr hparts]
  intro i hi
  have hi := List.mem_range.1 hi
  refine ne_true_of_eq_false (Bool.and_eq_false_iff.2 ?_)
  interval_cases i
  · exact .inr hfirst
  · exact .inr hmid
  · exact .inl (by rw [mapFind_straddledCache_last]; rfl)

/-- The words of the two instructions that memory holds at 0xFFF8. -/
theorem crossing_words {x : Byte} (hx : x = 0x40 ∨ x = 0x80) : (crossing x).readHbm crossingPart 0xFFF8 4 = 0 ∧
    (crossing x).readHbm crossingPart 0xFFFC 4 = 0 ∧
    (crossing x).readHbm crossingPart 0x10000 4 = (x.setWidth 32 <<< 16 : BitVec 32).toNat := by
  have hhbm : (crossing x).hbm = (crossingMemory x).hbm := rfl
  have hclear : (crossing x).clearMap = (crossingMemory x).clearMap := rfl
  simp only [readHbm_congr hhbm hclear]
  rcases hx with rfl | rfl <;> decide

theorem crossing_issuesNext {x : Byte} (hx : x = 0x40 ∨ x = 0x80) : IssuesNext (crossing x) 0 0 [] [] 0xFFF8 where
  on := nofun
  turn := rfl
  cycle := ⟨rfl, rfl⟩
  awake := by
    rw [State.awake, crossing_slot, crossing_tile]
    exact ⟨rfl, rfl⟩
  forfeit := by rw [crossing_slot]; rfl
  parked := by rw [crossing_slot]; rfl
  deferred := by rw [crossing_slot]; rfl
  counted := by rw [crossing_slot]; nofun
  issueAt := by rw [crossing_slot]; rfl
  fetch := by
    show fetchFault crossingPart 0xFFF8 = none
    decide
  cached a ha w hw := by
    have hcache : (a, w) ∈ straddledCache (x.setWidth 32 <<< 16) := by rw [← crossing_icache x]; exact hw
    obtain ⟨-, hmid, hlast⟩ := crossing_words hx
    rcases mem_straddledCache hcache with he | he
    · obtain ⟨rfl, rfl⟩ := Prod.mk.inj he
      exact hmid.symm
    · obtain ⟨rfl, rfl⟩ := Prod.mk.inj he
      exact hlast.symm
  accepted := crossing_accepted rfl rfl (crossing_icache x)
  room a _ := .inr (by
    show (List.filter _ (mapGet [] [] _)).length < 15
    exact Nat.zero_lt_succ 14)

/-! ## What it fetches -/

/-- The state in which the crossing turn fetches. -/
def crossingFetch (x : Byte) : State := (crossing x).atFetch 0 0 [] []

section
variable (x : Byte)

theorem crossingFetch_tile : ((crossingFetch x).tile 0).tag = 2 ∧ ((crossingFetch x).tile 0).slots = (crossingTile x).slots ∧
    ((crossingFetch x).tile 0).icache[(0 : Fin 4).val] = straddledCache (x.setWidth 32 <<< 16) := by
  obtain ⟨pmcnt, pmstat, htile⟩ := State.atFetch_tile (s := crossing x) (t := 0) (k := 0) (rest := []) (due := [])
  rw [crossingFetch, htile]
  exact ⟨rfl, rfl, crossing_icache x⟩

theorem crossingFetch_me : (crossingFetch x).me = crossingSlot := State.atFetch_me.trans (crossing_slot x)

theorem crossingFetch_refuses (a n : Nat) : (crossingFetch x).refuses 2 a n = (crossing x).refuses 2 a n := refuses_congr rfl _ _ _

/-- The state after the first word: the last one is no longer in the instruction cache. -/
structure CrossedFirst (x : Byte) (u : State) : Prop where
  power : u.power = .active
  parts : u.parts = (crossing x).parts
  memory : u.hbm = (crossing x).hbm ∧ u.clearMap = (crossing x).clearMap
  cur : u.cur = (0, 0)
  tag : (u.tile 0).tag = 2
  slots : (u.tile 0).slots = (crossingTile x).slots
  icache : (u.tile 0).icache[(0 : Fin 4).val] = mapSet (List.replicate 12287 (0xFFFC, 0)) 0xFFF8 0

end

theorem crossing_first {x : Byte} (hx : x = 0x40 ∨ x = 0x80) :
    ∃ u, CrossedFirst x u ∧ (crossingFetch x).fetch32 0 0 0xFFF8 = (u, 0) := by
  obtain ⟨htag, hslots, hcache⟩ := crossingFetch_tile x
  obtain ⟨hrefuses, -, -⟩ := crossing_refuses x
  obtain ⟨hword, -, -⟩ := crossing_words hx
  have hmiss : mapFind ((crossingFetch x).tile 0).icache[(0 : Fin 4).val] 0xFFF8 = none := by
    rw [hcache]; exact mapFind_straddledCache_first _
  obtain ⟨u, v, ⟨l2, rdc, dirs, rfl⟩, hv, hfill⟩ := icacheFill_full (s := crossingFetch x) (t := 0) (c := 0) (a := 0xFFF8)
    (by rw [htag]; exact (crossingFetch_refuses x _ _).trans hrefuses) rfl rfl hmiss (by rw [hcache, straddledCache_length])
  have hv0 : v = 0 := by
    rw [hv, htag]
    exact (readHbm_congr rfl rfl _ _ _).trans hword
  rw [fetch32_miss hmiss, hfill, hv0]
  refine ⟨_, ?_, rfl⟩
  refine ⟨rfl, rfl, ⟨rfl, rfl⟩, rfl, ?_, ?_, ?_⟩
  all_goals rw [State.tile_modTile_same]
  · exact htag
  · exact hslots
  · refine (Vector.getElem_set_self (by decide)).trans ?_
    rw [hcache]
    exact congrArg (mapSet · 0xFFF8 0) (straddledCache_eraseIdx _)

theorem mapFind_replicate_succ {α : Type} (n k : Nat) (b : α) : mapFind (List.replicate (n + 1) (k, b)) k = some b := by
  rw [List.replicate_succ, mapFind, if_pos rfl]

/-- The last word is refused, and the middle one is zero: what follows the first word reads as zero. -/
theorem CrossedFirst.words {x : Byte} {u : State} (hx : x = 0x40 ∨ x = 0x80) (h : CrossedFirst x u) :
    u.fetch32 0 0 0xFFFC = (u, 0) ∧ u.fetch32 0 0 0x10000 = (u, 0) := by
  obtain ⟨-, hparts, ⟨hhbm, hclear⟩, -, htag, -, hcache⟩ := h
  obtain ⟨-, -, hrefused⟩ := crossing_refuses x
  obtain ⟨-, hmid, -⟩ := crossing_words hx
  have hfind : mapFind (u.tile 0).icache[(0 : Fin 4).val] 0xFFFC = some 0 := by
    rw [hcache, mapFind_mapSet_other _ _ _ _ (by decide)]
    exact mapFind_replicate_succ 12286 _ _
  have hmiss : mapFind (u.tile 0).icache[(0 : Fin 4).val] 0x10000 = none := by
    rw [hcache, mapFind_mapSet_other _ _ _ _ (by decide)]
    exact mapFind_eq_none fun e he => by rw [List.eq_of_mem_replicate he]; decide
  have hword : (0 : BitVec 32).toNat = u.readHbm (u.part (u.tile 0).tag.toNat) 0xFFFC 4 := by
    have hpart : u.part (u.tile 0).tag.toNat = crossingPart := by
      rw [htag, State.part, hparts]; rfl
    rw [hpart, readHbm_congr hhbm hclear, hmid]
    rfl
  refine ⟨fetch32_hit hfind hword, ?_⟩
  rw [fetch32_miss hmiss, icacheFill_refused]
  rw [htag, refuses_congr hparts]
  exact hrefused

theorem fetchInsn_of_fetchWords {s s' : State} {t : TileId} {k : SlotId} {pc : Word} {w : Nat}
    (h : s.fetchWords t (coreOf k) pc.toNat 3 = (s', w)) : s.fetchInsn t k pc = (s', decode (BitVec.ofNat 96 w)) := by
  simp only [State.fetchInsn, h]

/-- Memory's last word is lost: what the slot fetches is the word of nop. -/
theorem crossing_fetchInsn {x : Byte} (hx : x = 0x40 ∨ x = 0x80) :
    ∃ u, CrossedFirst x u ∧ (crossingFetch x).fetchInsn 0 0 0xFFF8 = (u, .ok (.nop Hdr.plain)) := by
  obtain ⟨u, hu, hfirst⟩ := crossing_first hx
  obtain ⟨hmid, hlast⟩ := hu.words hx
  refine ⟨u, hu, ?_⟩
  have hdec : decode (BitVec.ofNat 96 0) = .ok (.nop Hdr.plain) := by decide
  have hwords : (crossingFetch x).fetchWords 0 0 0xFFF8 3 = (u, 0) := by
    simp only [State.fetchWords, hfirst, hmid, hlast, Nat.mul_zero, Nat.add_zero]
  rw [fetchInsn_of_fetchWords (k := 0) (pc := 0xFFF8) hwords, hdec]

/-- The step runs nop, whatever memory holds. -/
theorem crossing_step {x : Byte} (hx : x = 0x40 ∨ x = 0x80) :
    ∃ u, step (crossing x) = .next u ∧ u.me.park = .none ∧ u.me.tm = false := by
  obtain ⟨u, hu, hfetch⟩ := crossing_fetchInsn hx
  have hme : u.me = crossingSlot := by
    rw [State.me, hu.cur, State.slot, Tile.slot, hu.slots]
    exact Vector.getElem_replicate _
  have hfetchMe := crossingFetch_me x
  have hpart : (crossingFetch x).myPart = crossingPart := by
    show (crossingFetch x).part ((crossingFetch x).tile 0).tag.toNat = crossingPart
    rw [(crossingFetch_tile x).1]
    exact crossing_part x
  have hfault : fetchFault (crossingFetch x).myPart (crossingFetch x).me.pc.toNat = none := by
    rw [hpart, hfetchMe]
    decide
  have hrefused : (crossingFetch x).fetchRefused 0 (coreOf 0) (crossingFetch x).me.pc.toNat = false := by
    rw [hfetchMe]
    exact crossing_accepted rfl (crossingFetch_tile x).1 (crossingFetch_tile x).2.2
  have hrun : (crossingFetch x).fetchAndRun = exec (.nop Hdr.plain) u :=
    fetchAndRun_of_ok (by rw [hfetchMe]; rfl) hfault hrefused (by rw [hfetchMe]; exact hfetch)
  have hready : Ready u Hdr.plain [] [] := by
    refine ⟨by rw [hu.power]; nofun, ?_, ?_, ?_, nofun, ?_⟩ <;> rw [hme]
    · decide
    · nofun
    · decide
    · rfl
  obtain ⟨u', hnop, -, hkept, -⟩ := nopActsThroughItsHintsOnly u Hdr.plain hready
  refine ⟨u', (step_issuesNext (crossing_issuesNext hx)).trans (hrun.trans hnop), ?_, ?_⟩
  · rw [hkept.slot.active.2, hme]; rfl
  · rw [hkept.slot.trap.1, hme]; rfl

/-- The twelve bytes at the slot's PC: of `ifence`, and of a word of class 0x00 with an unassigned function (R63). -/
theorem crossing_decodes :
    decode (BitVec.ofNat 96 ((crossing 0x40).readHbm crossingPart 0xFFF8 12)) = .ok (.ifence Hdr.plain) ∧
    decode (BitVec.ofNat 96 ((crossing 0x80).readHbm crossingPart 0xFFF8 12)) = .illegal 2 83 := by
  rw [readHbm_congr (s := crossingMemory 0x40) (u := crossing 0x40) rfl rfl,
    readHbm_congr (s := crossingMemory 0x80) (u := crossing 0x80) rfl rfl]
  decide

/-! ## The refutations -/

theorem AtIssue.me_eq {s s' : State} {t : TileId} {k : SlotId} {rest : List Act} {due : List (Fin 4)} (h : AtIssue s s' t k rest due) :
    s'.me = s.slot t k := by
  have hcur : s'.cur = (t, k) := by rw [h.rest]
  rw [State.me, hcur, State.slot, h.tile]
  rfl

/-- Refutes O3: memory holds `ifence`, which would park the slot on its outstanding store, but the instruction cache gives up the last
word of it for the first, the home refuses that word, and the slot runs `nop`. -/
theorem not_stepRunsTheDecodedInstruction : ¬ Obligations.StepRunsTheDecodedInstruction := by
  unfold Obligations.StepRunsTheDecodedInstruction
  intro hO3
  obtain ⟨u, hstep, hpark, -⟩ := crossing_step (.inl rfl)
  obtain ⟨s1, hat, hexec⟩ := hO3 (crossing 0x40) 0 0 [] [] 0xFFF8 _ (crossing_issuesNext (.inl rfl)) crossing_decodes.1
  have hme : s1.me = crossingSlot := (AtIssue.me_eq hat).trans (crossing_slot _)
  have hready : Ready s1 Hdr.plain [] [] := by
    refine ⟨by rw [hat.rest]; nofun, ?_, ?_, ?_, nofun, ?_⟩ <;> rw [hme]
    · decide
    · nofun
    · decide
    · rfl
  have hwait := exec_ifence_wait hready (by rw [hme]; decide)
  have hu : u = s1.upd fun x => { x with park := .stores } := Host.Outcome.next.inj (hstep.symm.trans (hexec.trans hwait))
  rw [hu, State.me_upd] at hpark
  exact Park.noConfusion hpark

/-- Refutes O5: memory holds a word that is no instruction, but the instruction cache gives up the last word of it for the first, the
home refuses that word, and the slot runs `nop` without a trap. -/
theorem not_stepTrapsOnIllegalWordsAndPerformsEvents : ¬ Obligations.StepTrapsOnIllegalWordsAndPerformsEvents := by
  unfold Obligations.StepTrapsOnIllegalWordsAndPerformsEvents
  rintro ⟨hillegal, -⟩
  obtain ⟨u, hstep, -, htm⟩ := crossing_step (.inr rfl)
  have htrappable : Trappable { crossing 0x80 with cur := (0, 0) } := by
    have hme : State.me { crossing 0x80 with cur := (0, 0) } = crossingSlot := crossing_slot _
    refine ⟨nofun, by rw [hme]; rfl, ?_, by rw [hme]; rfl, by rw [hme]; rfl⟩
    show (crossingTile 0x80).trapvec &&& ~~~3 ≠ 0
    decide
  obtain ⟨s1, s2, hat, hnext, htaken⟩ := hillegal (crossing 0x80) 0 0 [] [] 0xFFF8 2 83 (crossing_issuesNext (.inr rfl)) crossing_decodes.2
    (by rw [crossing_slot]; rfl) htrappable
  have hu : u = s2 := Host.Outcome.next.inj (hstep.symm.trans hnext)
  rw [hu] at htm
  exact Bool.noConfusion (htm.symm.trans htaken.cause.1)

end Sys2Proof.Machine
end

section
/-! O17: the control transfers, each an issue that ends in a jump. -/
namespace Sys2Proof.Machine
open Sys2Proof Sys2Proof.Claims

/-! ## The end of an issue that transfers control (R124) -/

/-- An update of the current slot keeps what it keeps of the slot, and all else. -/
theorem Kept.of_slot {s : State} {f : Slot → Slot} {cs : List Nat} (k : SlotKept s.me (f s.me) cs) (fp : FpKept s.me (f s.me)) :
    Kept s (s.upd f) cs where
  slot := by rw [State.me_upd]; exact k
  fp := by rw [State.me_upd]; exact fp
  outside := OutsideKept.of_upd s f

/-- What becomes of the slot record at the end of an instruction that transfers control to `pc`. -/
def Slot.jumped (h : Hdr) (prev bound : Nat) (pc : Word) (x : Slot) : Slot :=
  { x with pc, waive := none, retry := none }.hints h prev bound

theorem SlotKept.jumped {x y o : Slot} {cs : List Nat} {h : Hdr} {m b : Nat} {pc : Word} {q : Req} (k : SlotKept x y cs) :
    SlotKept x (o.order (y.jumped h m b pc) h q true) cs where
  g := k.g
  f := k.f
  v := k.v
  p := k.p
  k := k.k
  counters := k.counters
  checked := k.checked
  trap := k.trap
  streams := k.streams
  active := k.active

theorem FpKept.jumped {x y o : Slot} {h : Hdr} {m b : Nat} {pc : Word} {q : Req} (k : FpKept x y) :
    FpKept x (o.order (y.jumped h m b pc) h q true) := ⟨k.fcsr, k.turns⟩

theorem State.conclude_jump {s s1 : State} (h : Hdr) (q : Req) (pc : Word) (hra : s1.me.ra = none) :
    s.conclude h q (.jump s1 pc) = s1.upd fun x => s.me.order (x.jumped h s.me.longs s.serial pc) h q true :=
  State.countAhead_sure (by rw [State.me_upd]; exact hra)

/-- An instruction that is ready and changes its slot by `f` before it transfers control to `pc`. -/
theorem State.issue_jump {s s1 : State} {h : Hdr} {q : Req} {body : State → Eff} {cs : List Nat} {pc : Word} (f : Slot → Slot)
    (hr : Ready s h q.reads q.writes) (ht : q.tokens = 0) (hb : body s = .jump s1 pc) (hs1 : ∀ u, s1.upd u = s.upd (u ∘ f))
    (hf : (f s.me).ra = none) (hk : SlotKept s.me (f s.me) cs) (hfp : FpKept s.me (f s.me)) :
    ∃ t, s.issue h q body = .next t ∧ t.me.pc = pc ∧ t.me.g = (f s.me).g ∧ Kept s t cs := by
  have hme : s1.me = f s.me := by
    have := congrArg State.me (hs1 id)
    rwa [State.me_upd, State.me_upd] at this
  refine ⟨_, (State.issue_ready hr ht).trans (congrArg _ ((congrArg _ hb).trans (State.conclude_jump h q pc (hme ▸ hf)))), ?_, ?_, ?_⟩
  · rw [State.me_upd]; rfl
  · rw [State.me_upd, hme]; rfl
  · rw [hs1]; exact Kept.of_slot hk.jumped hfp.jumped

theorem Slot.gr_congr {x y : Slot} (h : y.g = x.g) (n : G) : y.gr n = x.gr n := by
  unfold Slot.gr
  rw [h]

theorem Slot.gr_of_g_eq_gw {x y : Slot} {n : G} {v : Word} (h : y.g = (x.gw n v).g) : y.gr n = if n = 0 then 0 else v :=
  (Slot.gr_congr h n).trans (Slot.gr_gw x n v)

/-! ## bra, call, loop, ret and jmpi -/

section
variable {s : State} {h : Hdr} {q : Req} {body : State → Eff} {pc : Word}

/-- A jump that writes no register (bra, ret). -/
theorem issue_jump_plain (hr : Ready s h q.reads q.writes) (ht : q.tokens = 0) (hb : body s = .jump s pc) :
    ∃ t, s.issue h q body = .next t ∧ t.me.pc = pc ∧ Kept s t [] := by
  obtain ⟨t, hx, hpc, -, hk⟩ := State.issue_jump id hr ht hb (fun _ => rfl) hr.sure (.refl _ _) (.refl _)
  exact ⟨t, hx, hpc, hk⟩

/-- A jump that writes a link or a counter (call, jmpi, loop). -/
theorem issue_jump_gw {d : G} {v : Word} (hr : Ready s h q.reads q.writes) (ht : q.tokens = 0)
    (hb : body s = .jump (s.upd fun x => x.gw d v) pc) :
    ∃ t, s.issue h q body = .next t ∧ t.me.pc = pc ∧ t.me.gr d = (if d = 0 then 0 else v) ∧ Kept s t [rG d] := by
  obtain ⟨t, hx, hpc, hg, hk⟩ := State.issue_jump (fun x => x.gw d v) hr ht hb (fun _ => State.upd_upd _ _ _)
    (Slot.gw_ra _ _ _ hr.sure) (.gw _ _ _) (.gw _ _ _)
  exact ⟨t, hx, hpc, Slot.gr_of_g_eq_gw hg, hk⟩

/-- An instruction that writes a g register and goes on. -/
theorem issue_go_gw {d : G} {v : Word} (hr : Ready s h q.reads q.writes) (ht : q.tokens = 0)
    (hb : body s = .go (s.upd fun x => x.gw d v)) :
    ∃ t, s.issue h q body = .next t ∧ t.me.gr d = (if d = 0 then 0 else v) ∧ Advanced s t ∧ Kept s t [rG d] := by
  refine ⟨_, State.issue_done (fun x => x.gw d v) hr ht hb (Slot.gw_ra _ _ _ hr.sure), ?_, Advanced.of_upd (by simp) (by simp),
    Kept.of_upd (.gw _ _ _) (.gw _ _ _)⟩
  rw [State.me_upd]
  exact Slot.gr_of_g_eq_gw (x := s.me) (by simp)

end

theorem exec_loop {s : State} {h : Hdr} {d : G} (off : BitVec 52) (hr : Ready s h [rG d] [rG d]) :
    ∃ t, exec (.loop h d off) s = .next t ∧ t.me.gr d = (if d = 0 then 0 else s.me.gr d - 1) ∧
      (s.me.gr d - 1 ≠ 0 → t.me.pc = s.me.pc + 12 * off.signExtend 64) ∧ (s.me.gr d - 1 = 0 → Advanced s t) ∧ Kept s t [rG d] := by
  by_cases hn : s.me.gr d - 1 = 0
  · have hgo : ∃ t, exec (.loop h d off) s = .next t ∧ t.me.gr d = (if d = 0 then 0 else s.me.gr d - 1) ∧ Advanced s t ∧
        Kept s t [rG d] := issue_go_gw hr rfl (if_neg (not_not_intro hn))
    obtain ⟨t, hx, hg, ha, hk⟩ := hgo
    exact ⟨t, hx, hg, fun h => absurd hn h, fun _ => ha, hk⟩
  · have hjump : ∃ t, exec (.loop h d off) s = .next t ∧ t.me.pc = s.me.pc + 12 * off.signExtend 64 ∧
        t.me.gr d = (if d = 0 then 0 else s.me.gr d - 1) ∧ Kept s t [rG d] := issue_jump_gw hr rfl (if_pos hn)
    obtain ⟨t, hx, hpc, hg, hk⟩ := hjump
    exact ⟨t, hx, hg, fun _ => hpc, fun h => absurd h hn, hk⟩

/-- Settles O17: every transfer is an issue that ends in a jump, loop's last one an issue that goes on. -/
theorem controlTransfers : Obligations.ControlTransfers := by
  unfold Obligations.ControlTransfers
  intro s h d a off
  refine ⟨fun hr => issue_jump_plain (q := {}) hr rfl rfl, fun hr => issue_jump_gw (q := { writes := [rG d] }) hr rfl rfl,
    fun hr => exec_loop off hr, fun hr => issue_jump_plain (q := { reads := [rG a], deep := [rG a] }) hr rfl rfl,
    fun hr => issue_jump_gw (q := { reads := [rG a], writes := [rG d], deep := [rG a] }) hr rfl rfl⟩

end Sys2Proof.Machine
end


section
/-! SUPPORT for O10, O12, O16, O18 and O19. The checks of an issue in their order, and the trap of one that ends the issue. -/
namespace Sys2Proof.Machine
open Sys2Proof Sys2Proof.Claims

/-! ## The checks of an issue (R54, R89, R429, R203) -/

section
variable {s : State} {h : Hdr} {q : Req} {body : State → Eff} {c : Nat}

theorem Slot.ahead_of_ra {x : Slot} (hra : x.ra = none) : x.ahead = false := by simp [Slot.ahead, hra]

theorem Slot.hazard_eq_none {x : Slot} {cs : List Nat} (h : x.chkHazard = true → ∀ c ∈ cs, c ∉ x.pending) : x.hazard cs = none := by
  unfold Slot.hazard
  split
  case isTrue hz => exact List.find?_eq_none.2 fun c hc => by simpa using h hz c hc
  case isFalse => rfl

/-- A guard that passes, with nothing wrong about it, leaves the checks of the operands. -/
theorem State.issue_of_guardSound (gs : GuardSound s h) : s.issue h q body = .next (s.issueChecked h q body) := by
  obtain ⟨on, guard, free, -, sure⟩ := gs
  have hhaz : (if q.quiet then none else s.me.hazard [rP h.gp]) = none := by
    rw [Slot.hazard_eq_none (by simpa using free), ite_self]
  unfold State.issue
  cases hp : s.power with
  | off => exact absurd hp on
  | active | packageIdle => simp [hhaz, Slot.ahead_of_ra sure, guard]

theorem State.runsMarked_of_ra (hra : s.me.ra = none) : s.runsMarked h q = none := by
  simp [State.runsMarked, Slot.ahead_of_ra hra]

/-- R89: a source that is outstanding under CHECKED.HAZARD ends the issue. -/
theorem State.issue_hazard (gs : GuardSound s h) (hq : q.quiet = false) (hc : s.me.hazard q.reads = some c) :
    s.issue h q body = .next (s.conclude h q (.trap cHazard 0 (w64 c))) := by
  rw [State.issue_of_guardSound gs, State.issueChecked, State.runsMarked_of_ra gs.sure]
  simp [hq, hc]

/-- R429: past the hazards, a poisoned source ends the issue. -/
theorem State.issue_poison (gs : GuardSound s h) (hq : q.quiet = false) (hw : s.me.waive = none) (hfree : s.me.hazard q.reads = none)
    (hc : (rP h.gp :: q.reads).find? (fun c => s.me.bad.contains c) = some c) :
    s.issue h q body = .next (s.conclude h q (.trap cSoft 1 (w64 c))) := by
  rw [State.issue_of_guardSound gs, State.issueChecked, State.runsMarked_of_ra gs.sure]
  simp only [hq, hfree, hw, hc]
  simp

/-- Past the hazards and the poison, an instruction that checks its bound registers itself comes to its effect. -/
theorem State.issue_streams (gs : GuardSound s h) (hfree : s.me.hazard q.reads = none) (hsound : ∀ c ∈ q.reads, c ∉ s.me.bad)
    (hstreams : q.streams = true) (ht : q.tokens = 0) : s.issue h q body = .next (s.conclude h q (body s)) := by
  have hbad : (rP h.gp :: q.reads).find? (fun c => s.me.bad.contains c) = none := by
    refine List.find?_eq_none.2 fun c hc => ?_
    have : c ∉ s.me.bad := by
      rcases List.mem_cons.1 hc with rfl | hc
      · exact gs.sound
      · exact hsound c hc
    simpa using this
  rw [State.issue_of_guardSound gs, State.issueChecked, State.runsMarked_of_ra gs.sure]
  simp only [hbad, hfree]
  simp [hstreams, ht, gs.sure]

theorem State.conclude_trap (hra : s.me.ra = none) (code info : Nat) (val : Word) :
    s.conclude h q (.trap code info val) = (s.trapMe code info val).upd fun y => s.me.guarded y h := by
  simp [State.conclude, Slot.ahead_of_ra hra]

theorem State.conclude_trapIn (hra : s.me.ra = none) (s1 : State) (code info : Nat) (val : Word) :
    s.conclude h q (.trapIn s1 code info val) = (s1.trapMe code info val).upd fun y => s.me.guarded y h := by
  simp [State.conclude, Slot.ahead_of_ra hra]

theorem State.conclude_wait (hra : s.me.ra = none) (p : Park) :
    s.conclude h q (.wait p) = s.upd fun x => { x with park := p } := by
  simp [State.conclude, Slot.ahead_of_ra hra]

end

/-! ## The trap that ends an issue (R421) -/

/-- A slot that has entered its handler at `pc`. -/
def Slot.inHandler (x : Slot) (tr : TrapRec) (pc : Word) : Slot := { x.enterTrap tr with pc }

/-- A slot that can enter the handler at once does so. -/
theorem State.takeTrap_handled {s : State} {t : TileId} {k : SlotId} {tr : TrapRec} (hl : (s.slot t k).longs = 0)
    (hra : (s.slot t k).ra = none) (htm : (s.slot t k).tm = false) (hh : (s.tile t).handler ≠ 0) :
    s.takeTrap t k tr = s.modSlot t k fun x => x.inHandler tr (s.tile t).handler := by
  rw [State.takeTrap, if_pos ⟨hl, by rw [hra]; rfl⟩]
  simp only [State.deliver]
  rw [if_pos ⟨hh, htm⟩]
  exact State.modSlot_modSlot s t k (fun x => x.enterTrap tr) fun y => { y with pc := (s.tile t).handler }

/-- A slot with a long result outstanding waits for it before the trap (R421). -/
theorem State.takeTrap_waits {s : State} {t : TileId} {k : SlotId} {tr : TrapRec} (hl : (s.slot t k).longs ≠ 0) :
    s.takeTrap t k tr = s.modSlot t k fun x => { x with park := .trap tr, sPark := false, yPark := none, pc := tr.pc, srep := none } :=
  if_neg fun h => hl h.1

/-- The trap of an instruction of a slot that can enter the handler is taken, and nothing else changes. -/
theorem trapTaken_trapMe {s : State} (ht : Trappable s) (x : Slot) (h : Hdr) (code info : Nat) (val : Word) :
    TrapTaken s ((s.trapMe code info val).upd fun y => x.guarded y h) code info s.me.pc val := by
  have htake : (s.trapMe code info val).upd (fun y => x.guarded y h) =
      s.upd fun y => x.guarded (y.inHandler (s.me.trapAt code info val) s.myTile.handler) h := by
    rw [State.trapMe, State.takeTrap_handled ht.longs ht.sure ht.tm ht.handler]
    exact State.upd_upd _ _ _
  rw [htake]
  exact
    { at_ := by rw [State.me_upd]; rfl
      cause := by rw [State.me_upd]; exact ⟨rfl, rfl, rfl⟩
      saved := by rw [State.me_upd]; exact ⟨rfl, rfl⟩
      regs := by rw [State.me_upd]; exact ⟨rfl, rfl, rfl, rfl, rfl⟩
      left := by rw [State.me_upd]; exact ⟨rfl, rfl, rfl, rfl, rfl, rfl, rfl⟩
      outside := OutsideKept.of_upd _ _ }

/-- An issue whose outcome is a trap without effect, in a slot that can enter the handler. -/
theorem traps_of_issue {s : State} {h : Hdr} {i : Instr} {q : Req} {code info : Nat} {val : Word} (ht : Trappable s)
    (hx : exec i s = .next (s.conclude h q (.trap code info val))) : Traps s i code info s.me.pc val :=
  ⟨_, hx.trans (congrArg _ (State.conclude_trap ht.sure code info val)), trapTaken_trapMe ht s.me h code info val⟩

end Sys2Proof.Machine
end

section
/-! O10: an outstanding, poisoned or bound operand ends the issue before the effect. -/
namespace Sys2Proof.Machine
open Sys2Proof Sys2Proof.Claims

theorem hazardTrapOnOutstandingRegister : HazardTrapOnOutstandingRegister := by
  intro s h w d a b gs hchk hpend hl
  have hhaz : s.me.hazard [rG a, rG b] = some (rG a) := by simp [Slot.hazard, hchk, hpend]
  have hx : exec (.add h w d a b) s = .next (s.upd fun x => s.me.guarded
      { x with park := .trap (s.me.trapAt cHazard 0 (w64 (rG a))), sPark := false, yPark := none, pc := s.me.pc, srep := none } h) := by
    refine (State.issue_hazard gs rfl hhaz).trans (congrArg _ ?_)
    rw [State.conclude_trap gs.sure, State.trapMe, State.takeTrap_waits hl]
    exact State.upd_upd _ _ _
  refine ⟨_, hx, ?_, ?_, ?_, ?_, OutsideKept.of_upd _ _⟩ <;> rw [State.me_upd]
  · rfl
  · rfl
  · exact ⟨fun _ _ => rfl, fun _ _ => rfl, fun _ _ => rfl, fun _ _ => rfl, fun _ _ => rfl, ⟨rfl, rfl, rfl, rfl, rfl⟩, ⟨rfl, rfl⟩,
      ⟨rfl, rfl, rfl, rfl, rfl, rfl⟩, rfl, ⟨rfl, rfl⟩⟩
  · exact ⟨rfl, rfl, rfl⟩

/-- The first of two sources, where neither is outstanding and it is poisoned, ends the issue. -/
theorem traps_of_poisoned_first {s : State} {h : Hdr} {i : Instr} {q : Req} {body : State → Eff} {a b : Nat} (gs : GuardSound s h)
    (ht : Trappable s) (hw : s.me.waive = none) (hx : exec i s = s.issue h q body) (hq : q.quiet = false) (hreads : q.reads = [a, b])
    (hfree : s.me.chkHazard = true → a ∉ s.me.pending ∧ b ∉ s.me.pending) (ha : a ∈ s.me.bad) : Traps s i 15 1 s.me.pc (w64 a) := by
  have hhaz : s.me.hazard q.reads = none := Slot.hazard_eq_none (by simpa [hreads] using hfree)
  have hfind : (rP h.gp :: q.reads).find? (fun c => s.me.bad.contains c) = some a := by simp [hreads, gs.sound, ha]
  exact traps_of_issue ht (hx.trans (State.issue_poison gs hq hw hhaz hfind))

theorem poisonedOperandTraps : PoisonedOperandTraps := by
  intro s h gs ht hw
  exact ⟨fun w d a b hfree ha => traps_of_poisoned_first gs ht hw rfl rfl rfl hfree ha,
    fun t rm d a b hfree ha => traps_of_poisoned_first gs ht hw rfl rfl rfl hfree ha⟩

theorem Slot.boundAt_rV {x : Slot} (n : BitVec 3) : x.boundAt (rV (n.setWidth 5)) = (x.streams[n.toNat]).isSome := by
  have hn : (n.setWidth 5).toNat = n.toNat := by
    have := n.isLt
    rw [BitVec.toNat_setWidth]
    omega
  have hlt := n.isLt
  simp only [Slot.boundAt, rV, hn]
  rw [if_pos (by omega)]
  congr 2
  omega

/-- R325, R203: a vld that passes the checks of its access traps on a bound destination. -/
theorem loadEff_bound {s : State} {h : Hdr} {u : Use} {kind : OpKind} {a n b : Nat} {ds : List Dest} {c : Cls}
    (hc : checkAccess s s.myPart u a n = .ok c) (hb : s.me.boundAt b = true) : s.loadEff h u kind a n ds [b] = .trap cProt 0 (w64 b) := by
  simp [State.loadEff, hc, hb]

theorem boundStreamRegisterTraps : BoundStreamRegisterTraps := by
  intro s h n m gs ht hops _ _ hbound _ ⟨c, hc⟩
  have hhaz : s.me.hazard (memCodes m) = none := Slot.hazard_eq_none fun hz c hc => (hops c hc).1 hz
  have heff := loadEff_bound (h := h) (kind := .load) (ds := [destOf (rV (n.setWidth 5)) 0 1024 false]) hc
    ((Slot.boundAt_rV n).trans hbound)
  exact traps_of_issue ht ((State.issue_streams gs hhaz (fun c hc => (hops c hc).2) rfl rfl).trans
    (congrArg (fun e => Host.Outcome.next (s.conclude h _ e)) heff))

/-- Settles O10: each check of the issue that fails ends it in the trap. -/
theorem operandChecksTrapBeforeAnyEffect : Obligations.OperandChecksTrapBeforeAnyEffect := by
  unfold Obligations.OperandChecksTrapBeforeAnyEffect
  exact ⟨hazardTrapOnOutstandingRegister, poisonedOperandTraps, boundStreamRegisterTraps⟩

end Sys2Proof.Machine
end


section
/-! SUPPORT for O16, O20 and O21. Tokens, and the end of an instruction that raises flags. -/
namespace Sys2Proof.Machine
open Sys2Proof Sys2Proof.Claims

/-! ## Tokens (R117, R118) -/

/-- The state after `n` tokens are charged, if any are. -/
abbrev chargedBy (s : State) (n : Nat) : State := if n = 0 then s else charged s n

section
variable (s : State) (n : Nat)

@[simp] theorem charged_me : (charged s n).me = s.me := by rw [charged, State.me_updTile]; rfl

@[simp] theorem chargedBy_me : (chargedBy s n).me = s.me := by
  unfold chargedBy
  split
  · rfl
  · exact charged_me s n

theorem chargedBy_cur : (chargedBy s n).cur = s.cur := by
  unfold chargedBy
  split <;> rfl

theorem charged_upd (f : Slot → Slot) : charged (s.upd f) n = (charged s n).upd f := by
  have hl : charged (s.upd f) n =
      (s.modTile s.cur.1 fun y => y.setSlot s.cur.2 (f s.me)).modTile s.cur.1 fun x => { x with tokUsed := x.tokUsed + n } := rfl
  have hr : (charged s n).upd f = (s.modTile s.cur.1 fun x => { x with tokUsed := x.tokUsed + n }).modTile s.cur.1
      fun y => y.setSlot s.cur.2 (f (charged s n).me) := rfl
  rw [hl, hr, charged_me, State.modTile_modTile, State.modTile_modTile]
  rfl

theorem chargedBy_upd (f : Slot → Slot) : chargedBy (s.upd f) n = (chargedBy s n).upd f := by
  unfold chargedBy
  split
  · rfl
  · exact charged_upd s n f

variable {s n}

/-- R117: tokens that the round still has are only counted. -/
theorem State.charge_of_left (hra : s.me.ra = none) (hn : n ≠ 0 → TokensLeft s n ∧ s.myTile.stretch = false) :
    s.charge n = chargedBy s n := by
  unfold State.charge chargedBy
  by_cases h0 : n = 0
  · rw [if_pos (.inl h0), if_pos h0]
  · obtain ⟨⟨hdecl, hmax⟩, hstretch⟩ := hn h0
    have hmin : Nat.min 65535 (s.myTile.tokUsed + n) = s.myTile.tokUsed + n := Nat.min_eq_right hmax
    rw [if_neg (by simp [h0, Slot.ahead_of_ra hra]), if_neg h0]
    simp only [hmin, hstretch, Nat.not_lt.2 hdecl, decide_false, Bool.or_false, Bool.false_eq_true, if_false]
    rfl

theorem tokensLeft_upd (h : TokensLeft s n) (f : Slot → Slot) : TokensLeft (s.upd f) n := by
  unfold TokensLeft
  rw [State.myTile_upd]
  exact h

end

/-- What an instruction that is ready comes to, where its tokens are left: its effect, concluded. -/
theorem State.issue_ready_tokens {s : State} {h : Hdr} {q : Req} {body : State → Eff} (hr : Ready s h q.reads q.writes)
    (ht : q.tokens ≠ 0 → TokensLeft s q.tokens) : s.issue h q body = .next (s.conclude h q (body s)) := by
  obtain ⟨on, guard, free, sound, plain, sure⟩ := hr
  have gs : GuardSound s h := ⟨on, guard, fun hz => free hz _ (.head _), sound _ (.head _), sure⟩
  have hfree : (if q.quiet then none else s.me.hazard q.reads) = none := by
    rw [Slot.hazard_eq_none fun hz c hc => free hz c (.tail _ hc), ite_self]
  have hsound : (rP h.gp :: q.reads).find? (fun c => s.me.bad.contains c) = none :=
    List.find?_eq_none.2 fun c hc => by simpa using sound c hc
  have hplain : (q.writes ++ q.reads).find? s.me.boundAt = none := List.find?_eq_none.2 fun c hc => by simp [plain c hc]
  have htok : ¬ (q.tokens ≠ 0 ∧ s.myTile.tokUsed + q.tokens > s.myTile.tokDecl ∧ s.me.chkPower = true ∧ s.me.waive ≠ some cPower) :=
    fun ⟨h0, hgt, _⟩ => Nat.not_lt.2 (ht h0).1 hgt
  rw [State.issue_of_guardSound gs, State.issueChecked, State.runsMarked_of_ra sure]
  simp only [hfree, hsound, hplain, ite_self, sure, Option.isSome_none, Bool.false_eq_true, and_false, if_false, if_neg htok]

/-! ## The end of an instruction that raises flags (R146, R149) -/

/-- A slot update that writes registers with codes `cs` alone: the slot's place, the flags and run-ahead stay. -/
structure WritesOnly (x y : Slot) (cs : List Nat) : Prop where
  kept : SlotKept x y cs
  fp : FpKept x y
  pc : y.pc = x.pc
  srep : y.srep = x.srep
  ra : y.ra = x.ra

theorem WritesOnly.fw {x : Slot} (hra : x.ra = none) (n : F) (v : Word) : WritesOnly x (x.fw n v) [rF n] :=
  ⟨.fw _ _ _, .fw _ _ _, rfl, rfl, (Slot.fw_ra _ _ _ hra).trans hra.symm⟩

theorem WritesOnly.vw {x : Slot} (hra : x.ra = none) (n : V) (v : VWord) : WritesOnly x (x.vw n v) [rV n] :=
  ⟨.vw _ _ _, .vw _ _ _, rfl, rfl, (Slot.vw_ra _ _ _ hra).trans hra.symm⟩

theorem WritesOnly.kw {x : Slot} (hra : x.ra = none) (n : K) (v : Word) : WritesOnly x (x.kw n v) [rK n] :=
  ⟨.kw _ _ _, .kw _ _ _, rfl, rfl, (Slot.kw_ra _ _ _ hra).trans hra.symm⟩

/-- The flags raised and the turns of the normaliser, after a write. -/
def Slot.fpDone (x : Slot) (fl : Nat) (sub : Bool) : Slot := (x.raise fl).normalise sub

section
variable (x : Slot) (fl : Nat) (sub : Bool)

@[simp] theorem Slot.fpDone_fcsr : (x.fpDone fl sub).fcsr = x.fcsr ||| w64 (fl % 32 * 2 ^ 8) := by
  unfold Slot.fpDone Slot.normalise
  split <;> rfl

@[simp] theorem Slot.fpDone_forfeit : (x.fpDone fl sub).forfeit = x.forfeit + if sub then 2 else 0 := by
  unfold Slot.fpDone Slot.normalise
  split <;> rfl

@[simp] theorem Slot.fpDone_normturns : (x.fpDone fl sub).normturns = x.normturns + if sub then 2 else 0 := by
  unfold Slot.fpDone Slot.normalise
  split
  · rfl
  · exact (BitVec.add_zero _).symm

/-- Raising flags and normalising leave every register and all else of the slot. -/
theorem Slot.fpDone_eq : ∃ fcsr forfeit normturns, x.fpDone fl sub = { x with fcsr, forfeit, normturns } := by
  unfold Slot.fpDone Slot.normalise
  split
  · exact ⟨_, _, _, rfl⟩
  · exact ⟨_, x.forfeit, x.normturns, rfl⟩

end

theorem SlotKept.fpDone {x y : Slot} {cs : List Nat} (k : SlotKept x y cs) (fl : Nat) (sub : Bool) : SlotKept x (y.fpDone fl sub) cs := by
  obtain ⟨a, b, c, h⟩ := y.fpDone_eq fl sub
  rw [h]
  exact ⟨k.g, k.f, k.v, k.p, k.k, k.counters, k.checked, k.trap, k.streams, k.active⟩

theorem Slot.trapping_of_quiet {s : State} {fl : Nat} (hq : Quiet s fl) : s.me.trapping fl = 0 := by
  unfold Slot.trapping
  split
  · rfl
  · exact hq

/-- An instruction without an enabled flag and with its tokens left: its tokens are charged, its write made, its flags raised. -/
theorem State.issue_fpEnd {s : State} {h : Hdr} {q : Req} {body : State → Eff} {fl : Nat} {sub : Bool} {k : State → State} {cs : List Nat}
    (w : Slot → Slot) (hr : Ready s h q.reads q.writes) (ht : q.tokens ≠ 0 → TokensLeft s q.tokens ∧ s.myTile.stretch = false)
    (hb : body s = s.fpEnd fl sub k) (hk : k s = s.upd w) (hq : Quiet s fl) (hw : WritesOnly s.me (w s.me) cs) :
    ∃ t, s.issue h q body = .next t ∧ (∃ fcsr forfeit normturns, ∃ y : Slot, y = { w s.me with fcsr, forfeit, normturns } ∧
        t.me = s.me.order (y.advance h s.me.longs s.serial) h q false) ∧
      Advanced s t ∧ KeptFp (chargedBy s q.tokens) t cs ∧ FpEnds s t fl sub := by
  have hra : (w s.me).ra = none := hw.ra.trans hr.sure
  have heff : body s = .go (s.upd fun x => (w x).fpDone fl sub) := by
    rw [hb, State.fpEnd, Slot.trapping_of_quiet hq, hk]
    exact congrArg Eff.go (State.upd_upd s w _)
  obtain ⟨a, b, c, hdone⟩ := (w s.me).fpDone_eq fl sub
  have hra' : ((w s.me).fpDone fl sub).ra = none := by rw [hdone]; exact hra
  have hconc : s.conclude h q (body s) = (chargedBy s q.tokens).upd fun x =>
      s.me.order (Slot.advance h s.me.longs s.serial ((w x).fpDone fl sub)) h q false := by
    rw [heff]
    simp only [State.conclude]
    rw [State.charge_of_left (s := s.upd _) (by rw [State.me_upd]; exact hra')
      fun h0 => ⟨tokensLeft_upd (ht h0).1 _, by rw [State.myTile_upd]; exact (ht h0).2⟩, chargedBy_upd, State.upd_upd]
    exact State.countAhead_sure (by simp [hra'])
  refine ⟨_, (State.issue_ready_tokens hr fun h0 => (ht h0).1).trans (congrArg _ hconc), ⟨a, b, c, _, rfl, ?_⟩, ⟨?_, ?_, ?_⟩, ⟨?_, ?_⟩, ⟨?_, ?_, ?_⟩⟩
  · rw [State.me_upd, chargedBy_me, hdone]
  · simp [Slot.pcAfter, hdone, hw.pc, hw.srep]
  · simp [Slot.repsAfter, hdone, hw.srep]
  · exact chargedBy_cur s q.tokens
  · rw [State.me_upd, chargedBy_me]
    exact (hw.kept.fpDone fl sub).advance
  · exact OutsideKept.of_upd _ _
  · simp [hw.fp.fcsr]
  · simp [hw.fp.turns.1]
  · simp [hw.fp.turns.2]

end Sys2Proof.Machine
end


section
/-! O16: the arithmetic of class 0x06 is one operation, `State.fop`, whose end is a result with its flags or the trap of R146. -/
namespace Sys2Proof.Machine
open Sys2Proof Sys2Proof.Claims

/-- An update of the current tile that changes nothing, after one of the current slot. -/
theorem State.updTile_upd_self {s : State} {f : Slot → Slot} {g : Tile → Tile} (hg : g (s.upd f).myTile = (s.upd f).myTile) :
    (s.upd f).updTile g = s.upd f := by
  have hl : (s.upd f).updTile g = (s.upd f).setTile s.cur.1 (g (s.upd f).myTile) := rfl
  have hr : s.upd f = s.setTile s.cur.1 (s.myTile.setSlot s.cur.2 (f s.me)) := rfl
  rw [hl, hg, State.myTile_upd, hr, State.setTile_setTile]

section
variable {s : State} {h : Hdr} {i : Instr} {ty : FTy} {tok : Nat} {d : F} {src : List F} {f : Slot → List Nat → FR} {r : FR}

/-- R183: the result of an operation on f registers, without an enabled flag and with its tokens left. -/
theorem fop_done (hx : exec i s = s.fop h ty tok d src f) (hf : f s.me (src.map (fenc s ty)) = r) (hr : Ready s h (src.map rF) [rF d])
    (ht : tok ≠ 0 → TokensLeft s tok ∧ s.myTile.stretch = false) (hq : Quiet s r.fl) :
    ∃ t, exec i s = .next t ∧ t.me.fr d = w64 r.bits ∧ Advanced s t ∧ KeptFp (chargedBy s tok) t [rF d] ∧
      FpEnds s t r.fl ((r.bits :: src.map (fenc s ty)).any (Fmt.isSub (FTy.fmt ty))) := by
  subst hf
  obtain ⟨t, hnext, ⟨a, b, c, y, hy, hme⟩, hadv, hkept, hends⟩ := State.issue_fpEnd (s := s) (h := h)
    (q := { reads := src.map rF, writes := [rF d], tokens := tok }) (fun x => x.fw d (w64 (f s.me (src.map (fenc s ty))).bits)) hr ht
    (body := fun s => s.fpEnd (f s.me (src.map (fenc s ty))).fl (((f s.me (src.map (fenc s ty))).bits :: src.map (fenc s ty)).any (Fmt.isSub (FTy.fmt ty)))
      fun u => u.upd fun x => x.fw d (w64 (f s.me (src.map (fenc s ty))).bits)) rfl rfl hq (.fw hr.sure _ _)
  refine ⟨t, hx.trans hnext, ?_, hadv, hkept, hends⟩
  have hregs : t.me.f = (s.me.fw d (w64 (f s.me (src.map (fenc s ty))).bits)).f := by rw [hme, hy]; simp
  rw [Slot.fr, hregs]
  exact Slot.fr_fw _ _ _

theorem fop_sets (hx : exec i s = s.fop h ty 0 d src f) (hf : f s.me (src.map (fenc s ty)) = r) (hr : Ready s h (src.map rF) [rF d]) :
    FloatSets s i ty d src r := fop_done hx hf hr (absurd rfl)

theorem fop_setsToken (hx : exec i s = s.fop h ty 1 d src f) (hf : f s.me (src.map (fenc s ty)) = r)
    (hr : Ready s h (src.map rF) [rF d]) : FloatSetsToken s i ty d src r :=
  fun hq ht hst => fop_done hx hf hr (fun _ => ⟨ht, hst⟩) hq

/-- R146: an enabled flag of such an operation is raised and traps, and no destination is written. -/
theorem fop_traps (hx : exec i s = s.fop h ty tok d src f) (hf : f s.me (src.map (fenc s ty)) = r) (hr : Ready s h (src.map rF) [rF d]) (ht : tok ≠ 0 → TokensLeft s tok)
    (htr : Trappable s) (hw : s.me.waive = none) : FpTraps s i r.fl := by
  intro hq
  subst hf
  generalize hfl : (f s.me (src.map (fenc s ty))).fl = fl at hq ⊢
  have htrapping : s.me.trapping fl ≠ 0 := by rw [Slot.trapping, if_neg (by simp [hw])]; exact hq
  have hissue : s.fop h ty tok d src f = .next (s.conclude h { reads := src.map rF, writes := [rF d], tokens := tok }
      (.trapIn (s.upd fun x => x.raise fl) cFloat 0 (w64 (fl % 32)))) := by
    refine (State.issue_ready_tokens hr ht).trans (congrArg (fun e => Host.Outcome.next (s.conclude h _ e)) ?_)
    subst hfl
    exact if_pos htrapping
  rw [State.conclude_trapIn htr.sure] at hissue
  have hme : (s.upd fun x => x.raise fl).me = s.me.raise fl := State.me_upd _ _
  have htr' : Trappable (s.upd fun x => x.raise fl) :=
    ⟨htr.on, by rw [hme]; exact htr.tm, by rw [State.myTile_upd]; exact htr.handler, by rw [hme]; exact htr.longs, by rw [hme]; exact htr.sure⟩
  have htaken := trapTaken_trapMe htr' s.me h cFloat 0 (w64 (fl % 32))
  refine ⟨_, hx.trans hissue, ?_⟩
  rw [State.updTile_upd_self (by rw [htaken.outside.tile]; rfl)]
  rw [hme] at htaken
  exact htaken

end

/-! ## Each instruction as its operation -/

section
variable (s : State) (h : Hdr) (ty : FTy) (rm : Rm) (d a b c : F)

theorem exec_fadd : exec (.fadd h ty rm d a b) s = s.fop h ty 0 d [a, b]
    fun x l => fpAdd (FTy.fmt ty) (x.rmMode rm) (fv1 (FTy.fmt ty) l) (fv2 (FTy.fmt ty) l) := rfl
theorem exec_fsub : exec (.fsub h ty rm d a b) s = s.fop h ty 0 d [a, b]
    fun x l => fpAdd (FTy.fmt ty) (x.rmMode rm) (fv1 (FTy.fmt ty) l) (fv2 (FTy.fmt ty) l).flip := rfl
theorem exec_fmul : exec (.fmul h ty rm d a b) s = s.fop h ty 0 d [a, b]
    fun x l => fpMul (FTy.fmt ty) (x.rmMode rm) (fv1 (FTy.fmt ty) l) (fv2 (FTy.fmt ty) l) := rfl
theorem exec_fdiv : exec (.fdiv h ty rm d a b) s = s.fop h ty 1 d [a, b]
    fun x l => fpDiv (FTy.fmt ty) (x.rmMode rm) (fv1 (FTy.fmt ty) l) (fv2 (FTy.fmt ty) l) := rfl
theorem exec_fsqrt : exec (.fsqrt h ty rm d a) s = s.fop h ty 1 d [a]
    fun x l => fpSqrt (FTy.fmt ty) (x.rmMode rm) (fv1 (FTy.fmt ty) l) := rfl
theorem exec_ffma : exec (.ffma h ty rm d a b c) s = s.fop h ty 0 d [a, b, c]
    fun x l => fpFma (FTy.fmt ty) (x.rmMode rm) false (fv1 (FTy.fmt ty) l) (fv2 (FTy.fmt ty) l) (fv3 (FTy.fmt ty) l) := rfl
theorem exec_ffms : exec (.ffms h ty rm d a b c) s = s.fop h ty 0 d [a, b, c]
    fun x l => fpFma (FTy.fmt ty) (x.rmMode rm) false (fv1 (FTy.fmt ty) l) (fv2 (FTy.fmt ty) l) (fv3 (FTy.fmt ty) l).flip := rfl
theorem exec_fnma : exec (.fnma h ty rm d a b c) s = s.fop h ty 0 d [a, b, c]
    fun x l => fpFma (FTy.fmt ty) (x.rmMode rm) true (fv1 (FTy.fmt ty) l) (fv2 (FTy.fmt ty) l) (fv3 (FTy.fmt ty) l) := rfl

end

theorem floatTrapWritesNoDestination : FloatTrapWritesNoDestination := by
  intro s h ty rm d a b c htr hw
  refine ⟨fun hr => ⟨?add, ?sub, ?mul, fun ht => ?div⟩, fun hr ht => ?sqrt, fun hr => ⟨?fma, ?fms, ?nma⟩⟩
  case add => exact fop_traps (exec_fadd ..) rfl hr (absurd rfl) htr hw
  case sub => exact fop_traps (exec_fsub ..) rfl hr (absurd rfl) htr hw
  case mul => exact fop_traps (exec_fmul ..) rfl hr (absurd rfl) htr hw
  case div => exact fop_traps (exec_fdiv ..) rfl hr (fun _ => ht) htr hw
  case sqrt => exact fop_traps (exec_fsqrt ..) rfl hr (fun _ => ht) htr hw
  case fma => exact fop_traps (exec_ffma ..) rfl hr (absurd rfl) htr hw
  case fms => exact fop_traps (exec_ffms ..) rfl hr (absurd rfl) htr hw
  case nma => exact fop_traps (exec_fnma ..) rfl hr (absurd rfl) htr hw

theorem floatArithmetic : FloatArithmetic := by
  refine ⟨fun s h ty rm d a b c => ⟨fun hr => ⟨?_, ?_, ?_⟩, fun hr => ⟨?_, ?_, ?_⟩⟩,
    fun s h ty rm d a b => ⟨fun hr => ?_, fun hr => ?_⟩⟩
  · exact fop_sets (exec_fadd ..) rfl hr
  · exact fop_sets (exec_fsub ..) rfl hr
  · exact fop_sets (exec_fmul ..) rfl hr
  · exact fop_sets (exec_ffma ..) rfl hr
  · exact fop_sets (exec_ffms ..) rfl hr
  · exact fop_sets (exec_fnma ..) rfl hr
  · exact fop_setsToken (exec_fdiv ..) rfl hr
  · exact fop_setsToken (exec_fsqrt ..) rfl hr

/-- Settles O16: each instruction is `State.fop` of its exact operation. -/
theorem floatArithmeticAndItsTrap : Obligations.FloatArithmeticAndItsTrap := by
  unfold Obligations.FloatArithmeticAndItsTrap
  exact ⟨floatTrapWritesNoDestination, floatArithmetic⟩

end Sys2Proof.Machine
end


section
/-! SUPPORT for O20 and O21. Lanes of a vector register as numbers, and what a lane function makes of the lit ones. -/
namespace Sys2Proof.Machine
open Sys2Proof Sys2Proof.Claims

/-! ## Bits and lists of numbers -/

theorem bitAt_eq_testBit (x i : Nat) : bitAt x i = x.testBit i := by
  rw [Nat.testBit_eq_decide_div_mod_eq]
  rfl

theorem natsFrom_eq_range' (a n : Nat) : natsFrom a n = List.range' a n := by
  induction n generalizing a with
  | zero => rfl
  | succ n ih => rw [natsFrom, ih, List.range'_succ]

theorem natsFrom_zero (n : Nat) : natsFrom 0 n = List.range n := by rw [natsFrom_eq_range', List.range_eq_range']

theorem laneB_toNat (w : Nat) (x : VWord) (i : Nat) : (laneB w x i).toNat = laneAt w x.toNat i := by
  rw [laneB, BitVec.extractLsb'_toNat, Nat.shiftRight_eq_div_pow]
  rfl

/-! ## Lanes written over a register (R194, R196) -/

/-- What a lane that is written, or kept, holds. -/
def laneOver (w old i : Nat) (o : Option Nat) : Nat := match o with | some v => v % 2 ^ w | none => laneAt w old i

theorem laneOver_lt (w old i : Nat) (o : Option Nat) : laneOver w old i o < 2 ^ w := by
  cases o <;> exact Nat.mod_lt _ (Nat.two_pow_pos w)

theorem mergeLanes_cons (w old : Nat) (o : Option Nat) (l : List (Option Nat)) (i : Nat) :
    mergeLanes w old (o :: l) i = laneOver w old i o * 2 ^ (w * i) + mergeLanes w old l (i + 1) := by cases o <;> rfl

theorem dvd_mergeLanes (w old : Nat) (l : List (Option Nat)) (i : Nat) : 2 ^ (w * i) ∣ mergeLanes w old l i := by
  induction l generalizing i with
  | nil => exact Nat.dvd_zero _
  | cons o l ih =>
    rw [mergeLanes_cons]
    exact Nat.dvd_add (Nat.dvd_mul_left _ _) ((Nat.pow_dvd_pow 2 (Nat.mul_le_mul_left w (Nat.le_succ i))).trans (ih (i + 1)))

/-- Lane i + j of lanes written from lane i upward. -/
theorem laneAt_mergeLanes (w old : Nat) (l : List (Option Nat)) (i j : Nat) (hj : j < l.length) :
    laneAt w (mergeLanes w old l i) (i + j) = laneOver w old (i + j) l[j] := by
  induction l generalizing i j with
  | nil => exact absurd hj (Nat.not_lt_zero j)
  | cons o l ih =>
    rw [mergeLanes_cons]
    obtain ⟨c, hc⟩ := dvd_mergeLanes w old l (i + 1)
    have hv := laneOver_lt w old i o
    have hpow : 2 ^ (w * (i + 1)) = 2 ^ w * 2 ^ (w * i) := by rw [← Nat.pow_add]; congr 1; ring
    cases j with
    | zero =>
      have hsplit : laneOver w old i o * 2 ^ (w * i) + mergeLanes w old l (i + 1) = (laneOver w old i o + 2 ^ w * c) * 2 ^ (w * i) := by
        rw [hc, hpow]; ring
      rw [hsplit, laneAt, bitsAt, Nat.add_zero, Nat.mul_comm i w, Nat.mul_div_cancel _ (Nat.two_pow_pos _), Nat.add_mul_mod_self_left,
        Nat.mod_eq_of_lt hv]
      rfl
    | succ j =>
      have hlow : laneOver w old i o * 2 ^ (w * i) < 2 ^ (w * (i + 1)) := by
        rw [hpow]; exact Nat.mul_lt_mul_of_pos_right hv (Nat.two_pow_pos _)
      have hexp : (i + (j + 1)) * w = w * (i + 1) + j * w := by ring
      have hshift : laneAt w (laneOver w old i o * 2 ^ (w * i) + mergeLanes w old l (i + 1)) (i + (j + 1)) =
          laneAt w (mergeLanes w old l (i + 1)) (i + (j + 1)) := by
        rw [laneAt, laneAt, bitsAt, bitsAt, hexp, Nat.pow_add, ← Nat.div_div_eq_div_mul, ← Nat.div_div_eq_div_mul, hc,
          Nat.add_mul_div_left _ _ (Nat.two_pow_pos _), Nat.div_eq_of_lt hlow, Nat.zero_add, Nat.mul_div_cancel_left _ (Nat.two_pow_pos _)]
      have hlen : j < l.length := Nat.lt_of_succ_lt_succ hj
      rw [hshift, show i + (j + 1) = i + 1 + j by ring, ih (i + 1) j hlen]
      rfl

/-- A lane of a register that takes 1024 bits of a number. -/
theorem laneB_ofNat {w j : Nat} (hw : (j + 1) * w ≤ 1024) (x : Nat) : laneB w (BitVec.ofNat 1024 x) j = BitVec.ofNat w (laneAt w x j) := by
  refine BitVec.eq_of_toNat_eq ?_
  rw [laneB_toNat, BitVec.toNat_ofNat, BitVec.toNat_ofNat]
  have hle : j * w + w ≤ 1024 := by rw [← Nat.succ_mul]; exact hw
  refine Nat.eq_of_testBit_eq fun b => ?_
  simp only [laneAt, bitsAt, Nat.testBit_mod_two_pow, Nat.testBit_div_two_pow]
  by_cases hb : b < w
  · simp [hb, show b + j * w < 1024 by omega]
  · simp [hb]

/-! ## One function on every lit lane (R196, R212) -/

section
variable (x : Slot) (m : VMask) (t : Ty) (src : List Nat) (f : Nat → List Nat → FR)

/-- The operands of a lane, and what the function makes of them. -/
def laneArgs (i : Nat) : List Nat := src.map fun v => laneAt t.width v i
def laneRes (i : Nat) : FR := f i (laneArgs t src i)

/-- One lane added in front of those above it. -/
def Slot.laneStep (i : Nat) (o : VOut) : VOut :=
  if x.lit m t.width i then
    { o with lanes := some (laneRes t src f i).bits :: o.lanes, fl := o.fl ||| (laneRes t src f i).fl,
             sub := o.sub || ((laneRes t src f i).bits :: laneArgs t src i).any (subTy t) }
  else { o with lanes := (if m.mz then some 0 else none) :: o.lanes }

theorem Slot.lanewise_eq : x.lanewise m t src f = (List.range (lanesOf t.width)).foldr (x.laneStep m t src f) {} := by
  rw [← natsFrom_zero]
  rfl

theorem lanes_foldr_laneStep (l : List Nat) : (l.foldr (x.laneStep m t src f) {}).lanes =
    l.map fun i => if x.lit m t.width i then some (laneRes t src f i).bits else if m.mz then some 0 else none := by
  induction l with
  | nil => rfl
  | cons i l ih =>
    rw [List.foldr_cons, List.map_cons, Slot.laneStep]
    split <;> simp only [ih]

theorem testBit_fl_foldr_laneStep (l : List Nat) (b : Nat) : (l.foldr (x.laneStep m t src f) {}).fl.testBit b = true ↔
    ∃ i ∈ l, x.lit m t.width i = true ∧ (laneRes t src f i).fl.testBit b = true := by
  induction l with
  | nil => simp
  | cons i l ih =>
    rw [List.foldr_cons, Slot.laneStep]
    split
    case isTrue h => simp [Nat.testBit_or, ih, h, or_comm]
    case isFalse h => simp [ih, h]

theorem sub_foldr_laneStep (l : List Nat) : (l.foldr (x.laneStep m t src f) {}).sub =
    l.any fun i => x.lit m t.width i && ((laneRes t src f i).bits :: laneArgs t src i).any (subTy t) := by
  induction l with
  | nil => rfl
  | cons i l ih =>
    rw [List.foldr_cons, List.any_cons, Slot.laneStep]
    split
    case isTrue h => simp only [ih, h, Bool.true_and, Bool.or_comm]
    case isFalse h => simp only [ih, h, Bool.false_and, Bool.false_or]

end

end Sys2Proof.Machine
end


section
/-! SUPPORT for O20 and O21. A vector instruction of no bound register, and the end of one on lanes of a floating-point type. -/
namespace Sys2Proof.Machine
open Sys2Proof Sys2Proof.Claims

theorem FTy.isF_ty (ty : FTy) : ty.ty.isF = true := by cases ty <;> rfl
theorem FTy.width_ty (ty : FTy) : ty.ty.width = (FTy.fmt ty).width := by cases ty <;> rfl
theorem FTy.subTy_ty (ty : FTy) : subTy ty.ty = Fmt.isSub (FTy.fmt ty) := by
  funext n
  rw [subTy, FTy.isF_ty, Bool.true_and]
  rfl

/-! ## No bound register (R203) -/

theorem Slot.streamOf_of_unbound {x : Slot} {v : V} (h : x.boundAt (rV v) = false) : x.streamOf v = none := by
  unfold Slot.streamOf
  split
  case isTrue hv =>
    rw [Slot.boundAt, if_pos ⟨Nat.le_add_right _ _, Nat.add_lt_add_left hv 64⟩] at h
    have hb : (x.binding (rV v - 64)).isSome = false := h
    rw [rV, Nat.add_sub_cancel_left] at hb
    simpa using hb
  case isFalse => rfl

theorem Slot.pops_of_unbound {x : Slot} {src : List V} (h : ∀ v ∈ src, x.streamOf v = none) : x.pops src = [] := by
  have : src.filter (fun v => (x.streamOf v).isSome) = [] := List.filter_eq_nil_iff.2 fun v hv => by simp [h v hv]
  rw [Slot.pops, this]
  rfl

/-- What a vector instruction whose sources and destination are not bound needs at issue, and what its effect is. -/
theorem State.vop_of_unbound {s : State} {h : Hdr} {tok : Nat} {other : List Nat} {src : List V} {d : VDst}
    {f : State → Slot → List Nat → VOut} {merge : Bool} (hsrc : ∀ v ∈ src, s.me.streamOf v = none)
    (hd : ∀ v w, d = .v v w → s.me.streamOf v = none) :
    let o := f s s.me (src.map fun v => (s.me.vr v).toNat)
    ∃ body, s.vop h tok other src d f id merge =
        s.issue h { reads := src.map rV ++ other, writes := [d.code], tokens := tok, streams := true, merge } body ∧
      body s = s.fpEnd o.fl o.sub fun u => (u.upd id).vwrite d o := by
  intro o
  refine ⟨_, rfl, ?_⟩
  have hread : (src.map fun v => s.vread v) = src.map fun v => (s.me.vr v).toNat :=
    List.map_congr_left fun v hv => by rw [State.vread, hsrc v hv]
  simp only [Slot.pops_of_unbound hsrc, List.filterMap_nil, List.isEmpty_nil, Bool.not_true, Bool.or_false, List.any_nil, Bool.false_or,
    List.filter_nil, List.head?_nil, ite_self, List.contains_nil, Bool.false_eq_true, if_false, hread, if_true, List.foldl_nil, id_eq]
  cases d with
  | v v w =>
    simp [Slot.pushAt, hd v w rfl]
    rfl
  | k | gf =>
    simp
    rfl

/-! ## Flags of many lanes (R144, R146) -/

/-- The flag bits of FCSR, each 8 above its enable (R145). -/
theorem getLsbD_flagBits (fl i : Nat) : (w64 (fl % 32 * 2 ^ 8)).getLsbD i = (decide (8 ≤ i ∧ i < 13) && fl.testBit (i - 8)) := by
  rw [w64, BitVec.getLsbD_ofNat, Nat.testBit_mul_two_pow, show (32 : Nat) = 2 ^ 5 by norm_num, Nat.testBit_mod_two_pow]
  by_cases h8 : 8 ≤ i
  · by_cases h13 : i < 13
    · simp [h8, h13, show i < 64 by omega, show i - 8 < 5 by omega]
    · simp [h13, show ¬ i - 8 < 5 by omega]
  · simp [h8]

theorem quiet_iff {s : State} {fl : Nat} : Quiet s fl ↔ ∀ b, b < 5 → s.me.fcsr.toNat.testBit b = true → fl.testBit b = false := by
  have hbit (b : Nat) : (fl &&& s.me.fcsr.toNat % 32).testBit b = (fl.testBit b && (decide (b < 5) && s.me.fcsr.toNat.testBit b)) := by
    rw [Nat.testBit_and, show (32 : Nat) = 2 ^ 5 by norm_num, Nat.testBit_mod_two_pow]
  constructor
  · intro h b hb hon
    have := hbit b
    rw [show fl &&& s.me.fcsr.toNat % 32 = 0 from h] at this
    simpa [hb, hon] using this.symm
  · intro h
    refine Nat.eq_of_testBit_eq fun b => ?_
    rw [hbit, Nat.zero_testBit]
    by_cases hb : b < 5
    · cases hon : s.me.fcsr.toNat.testBit b with
      | false => simp
      | true => simp [h b hb hon]
    · simp [hb]

/-- The union of the lit lanes' flags. -/
structure IsUnion (n : Nat) (on : Nat → Bool) (fls : Nat → Nat) (fl : Nat) : Prop where
  testBit : ∀ b, fl.testBit b = true ↔ ∃ j, j < n ∧ on j = true ∧ (fls j).testBit b = true

theorem IsUnion.quiet {s : State} {n fl : Nat} {on : Nat → Bool} {fls : Nat → Nat} (h : IsUnion n on fls fl)
    (hq : ∀ j, j < n → on j = true → Quiet s (fls j)) : Quiet s fl := by
  refine quiet_iff.2 fun b hb hon => ?_
  rw [Bool.eq_false_iff]
  intro hbit
  obtain ⟨j, hj, hlit, hjb⟩ := (h.testBit b).1 hbit
  rw [quiet_iff.1 (hq j hj hlit) b hb hon] at hjb
  cases hjb

theorem IsUnion.flagsUnion {s t : State} {n fl : Nat} {on : Nat → Bool} {fls : Nat → Nat} (h : IsUnion n on fls fl)
    (hf : t.me.fcsr = s.me.fcsr ||| w64 (fl % 32 * 2 ^ 8)) : FlagsUnion s t n on fls := by
  constructor
  · intro b hb
    rw [hf, BitVec.getLsbD_or, getLsbD_flagBits, Bool.or_eq_true, Nat.add_sub_cancel_left, ← h.testBit,
      decide_eq_true (by omega), Bool.true_and]
  · intro b hb
    rw [hf, BitVec.getLsbD_or, getLsbD_flagBits, decide_eq_false (by omega), Bool.false_and, Bool.or_false]

/-! ## Lanes of a floating-point type (R212) -/

theorem Slot.lit_eq (s : State) (m : VMask) (w i : Nat) : s.me.lit m w i = activeAt s m w i := by
  rw [Slot.lit, bitAt_eq_testBit]
  rfl

section
variable (s : State) (ty : FTy) (src : List V)

/-- Operand n of lane j, as a number. -/
def laneNum (j n : Nat) : Nat := (laneB (FTy.fmt ty).width (s.me.vr (src.getD n 0)) j).toNat

theorem laneArgs_eq (j : Nat) : laneArgs ty.ty (src.map fun v => (s.me.vr v).toNat) j = (List.range src.length).map (laneNum s ty src j) := by
  refine List.ext_getElem (by simp [laneArgs]) fun n hn _ => ?_
  have hsrc : n < src.length := by simpa [laneArgs] using hn
  simp [laneArgs, laneNum, laneB_toNat, FTy.width_ty, hsrc]

variable {s ty src}
variable {h : Hdr} {i : Instr} {m : VMask} {d : V} {tok : Nat} {r : (Nat → Nat) → FR} {g : List Nat → FR} {gs : Slot → List Nat → FR}
  {merge : Bool}

/-- What one function makes of the lit lanes of a floating-point type. -/
structure LanesOut (s : State) (ty : FTy) (src : List V) (m : VMask) (r : (Nat → Nat) → FR) (o : VOut) : Prop where
  lanes : o.lanes = (List.range (1024 / (FTy.fmt ty).width)).map fun j =>
    if activeAt s m (FTy.fmt ty).width j then some (r (laneNum s ty src j)).bits else if m.mz then some 0 else none
  fl : IsUnion (1024 / (FTy.fmt ty).width) (activeAt s m (FTy.fmt ty).width) (fun j => (r (laneNum s ty src j)).fl) o.fl
  sub : o.sub = (List.range (1024 / (FTy.fmt ty).width)).any fun j => activeAt s m (FTy.fmt ty).width j &&
    ((r (laneNum s ty src j)).bits :: (List.range src.length).map (laneNum s ty src j)).any (Fmt.isSub (FTy.fmt ty))

theorem lanesOut_lanewise (hg : ∀ ln : Nat → Nat, g ((List.range src.length).map ln) = r ln) :
    LanesOut s ty src m r (s.me.lanewise m ty.ty (src.map fun v => (s.me.vr v).toNat) fun _ l => g l) := by
  have hres (j : Nat) : laneRes ty.ty (src.map fun v => (s.me.vr v).toNat) (fun _ l => g l) j = r (laneNum s ty src j) := by
    rw [laneRes, laneArgs_eq, hg]
  have hn : lanesOf ty.ty.width = 1024 / (FTy.fmt ty).width := by rw [lanesOf, FTy.width_ty]
  rw [Slot.lanewise_eq, hn]
  constructor
  · simp only [lanes_foldr_laneStep, hres, Slot.lit_eq, FTy.width_ty]
  · constructor
    intro b
    simp only [testBit_fl_foldr_laneStep, hres, Slot.lit_eq, FTy.width_ty, List.mem_range]
  · simp only [sub_foldr_laneStep, hres, Slot.lit_eq, FTy.width_ty, laneArgs_eq, FTy.subTy_ty]

theorem FTy.width_pos (ty : FTy) : 0 < (FTy.fmt ty).width := by unfold Fmt.width; omega

/-- The lanes of a register that holds them (R194, R196). -/
theorem LanesOut.lanesAre {o : VOut} (ho : LanesOut s ty src m r o) {t : State}
    (ht : t.me.vr d = BitVec.ofNat 1024 (mergeLanes (FTy.fmt ty).width (s.me.vr d).toNat o.lanes 0)) :
    LanesAre s t d (FTy.fmt ty).width m fun j => BitVec.ofNat _ (r (laneNum s ty src j)).bits := by
  intro j hj
  have hlen : j < o.lanes.length := by rw [ho.lanes, List.length_map, List.length_range]; exact hj
  have hbits : (j + 1) * (FTy.fmt ty).width ≤ 1024 := (Nat.mul_le_mul_right _ hj).trans (Nat.div_mul_le_self _ _)
  have hlane := laneAt_mergeLanes (FTy.fmt ty).width (s.me.vr d).toNat o.lanes 0 j hlen
  rw [Nat.zero_add] at hlane
  rw [ht, laneB_ofNat hbits, hlane]
  simp only [ho.lanes, List.getElem_map, List.getElem_range]
  by_cases hon : activeAt s m (FTy.fmt ty).width j = true
  · simp only [hon, if_true, laneOver]
    exact BitVec.eq_of_toNat_eq (by simp)
  · simp only [hon, Bool.false_eq_true, if_false]
    by_cases hz : m.mz = true
    · simp [hz, laneOver]
    · simp only [hz, Bool.false_eq_true, if_false, laneOver, ← laneB_toNat, BitVec.ofNat_toNat, BitVec.setWidth_eq]

/-- A vector instruction of one function on every lit lane of a floating-point type. -/
theorem vecSetsFp_of_vop
    (hx : exec i s = s.vop h tok (maskCodes m) src (.v d ty.ty.width) (fun _ x v => x.lanewise m ty.ty v fun _ l => gs x l) id merge)
    (hg : ∀ ln : Nat → Nat, gs s.me ((List.range src.length).map ln) = r ln) (hr : Ready s h (src.map rV ++ maskCodes m) [rV d]) :
    VecSetsFp s i ty d m tok src r := by
  intro hquiet htok
  have hsrc : ∀ v ∈ src, s.me.streamOf v = none := fun v hv =>
    Slot.streamOf_of_unbound (hr.plain _ (List.mem_append_right _ (List.mem_append_left _ (List.mem_map_of_mem hv))))
  have hd : s.me.streamOf d = none := Slot.streamOf_of_unbound (hr.plain _ (.head _))
  obtain ⟨body, hissue, hbody⟩ := State.vop_of_unbound (s := s) (h := h) (tok := tok) (other := maskCodes m) (d := .v d ty.ty.width)
    (f := fun _ x v => x.lanewise m ty.ty v fun _ l => gs x l) (merge := merge) hsrc
    (fun v w' hv => by rw [← (VDst.v.inj hv).1]; exact hd)
  have ho := lanesOut_lanewise (s := s) (m := m) (ty := ty) (src := src) hg
  generalize s.me.lanewise m ty.ty (src.map fun v => (s.me.vr v).toNat) (fun _ l => gs s.me l) = o at ho hbody
  have hwrite : (s.upd id).vwrite (.v d ty.ty.width) o =
      s.upd fun x => x.vw d (BitVec.ofNat 1024 (mergeLanes (FTy.fmt ty).width (x.vr d).toNat o.lanes 0)) := by
    simp only [State.vwrite, State.me_upd, id_eq, hd, FTy.width_ty]
    exact State.upd_upd _ _ _
  obtain ⟨t, hnext, ⟨a, b, c, y, hy, hme⟩, hadv, hkept, hends⟩ := State.issue_fpEnd (cs := [rV d])
    (q := { reads := src.map rV ++ maskCodes m, writes := [rV d], tokens := tok, streams := true, merge }) _ hr htok hbody hwrite (ho.fl.quiet hquiet) (.vw hr.sure _ _)
  have hv : t.me.vr d = BitVec.ofNat 1024 (mergeLanes (FTy.fmt ty).width (s.me.vr d).toNat o.lanes 0) := by
    have hregs : t.me.v = (s.me.vw d (BitVec.ofNat 1024 (mergeLanes (FTy.fmt ty).width (s.me.vr d).toNat o.lanes 0))).v := by
      rw [hme, hy]; simp
    rw [Slot.vr, hregs]
    exact Slot.vr_vw _ _ _
  exact ⟨t, (hx.trans hissue).trans hnext, ho.lanesAre hv, hadv, hkept, ho.fl.flagsUnion hends.flags, by rw [hends.forfeit, ho.sub]; rfl⟩

end

end Sys2Proof.Machine
end


section
/-! O20: the lane instructions of class 0x07 on floating-point types, and vcmp's bits. -/
namespace Sys2Proof.Machine
open Sys2Proof Sys2Proof.Claims

/-! ## vcmp (R214) -/

section
variable (x : Slot) (m : VMask) (t : Ty) (cnd : Cnd) (d : K) (a b : Nat)

/-- The comparison of lane i. -/
def cmpRes (i : Nat) : Bool × Nat := laneCmp t cnd (laneAt t.width a i) (laneAt t.width b i)

/-- One lane's bit added below those of the lanes above it. -/
def Slot.cmpStep (i : Nat) (o : VOut) : VOut :=
  if x.lit m t.width i then
    { o with val := 2 * o.val + bool01 (cmpRes t cnd a b i).1, fl := o.fl ||| (cmpRes t cnd a b i).2,
             sub := o.sub || subTy t (laneAt t.width a i) || subTy t (laneAt t.width b i) }
  else { o with val := 2 * o.val + (if m.mz then 0 else bool01 (bitAt (x.kr d).toNat i)) }

/-- The bit of lane i: the comparison, or what the mask leaves. -/
def Slot.cmpBit (i : Nat) : Bool :=
  if x.lit m t.width i then (cmpRes t cnd a b i).1 else !m.mz && (x.kr d).getLsbD i

theorem Slot.cmpStep_val (i : Nat) (o : VOut) :
    (x.cmpStep m t cnd d a b i o).val = 2 * o.val + (x.cmpBit m t cnd d a b i).toNat := by
  unfold Slot.cmpStep Slot.cmpBit
  have hbool (y : Bool) : bool01 y = y.toNat := by cases y <;> rfl
  split
  · simp only [hbool]
  · cases m.mz with
    | true => simp
    | false => simp [hbool, bitAt_eq_testBit, BitVec.testBit_toNat]

theorem testBit_val_foldr_cmpStep (l : List Nat) (j : Nat) :
    (l.foldr (x.cmpStep m t cnd d a b) {}).val.testBit j = (l[j]?.map (x.cmpBit m t cnd d a b)).getD false := by
  induction l generalizing j with
  | nil => simp
  | cons i l ih =>
    rw [List.foldr_cons, Slot.cmpStep_val]
    cases j with
    | zero => cases hb : x.cmpBit m t cnd d a b i <;> simp [Nat.testBit_zero, hb]
    | succ j =>
      have hdiv : (2 * (l.foldr (x.cmpStep m t cnd d a b) {}).val + (x.cmpBit m t cnd d a b i).toNat) / 2 =
          (l.foldr (x.cmpStep m t cnd d a b) {}).val := by
        have := Bool.toNat_lt (x.cmpBit m t cnd d a b i)
        omega
      rw [Nat.testBit_succ, hdiv, ih, List.getElem?_cons_succ]

theorem testBit_fl_foldr_cmpStep (l : List Nat) (k : Nat) : (l.foldr (x.cmpStep m t cnd d a b) {}).fl.testBit k = true ↔
    ∃ i ∈ l, x.lit m t.width i = true ∧ (cmpRes t cnd a b i).2.testBit k = true := by
  induction l with
  | nil => simp
  | cons i l ih =>
    rw [List.foldr_cons, Slot.cmpStep]
    split
    case isTrue h => simp [Nat.testBit_or, ih, h, or_comm]
    case isFalse h => simp [ih, h]

end

theorem exec_vcmp (s : State) (h : Hdr) (t : Ty) (cnd : Cnd) (m : VMask) (k : K) (a b : V) : exec (.vcmp h t cnd m k a b) s =
    s.vop h 0 (maskCodes m) [a, b] (.k k)
      (fun _ x v => (natsFrom 0 (lanesOf t.width)).foldr (x.cmpStep m t cnd k (arg1 v) (arg2 v)) {}) id (maskMerges m) := rfl

theorem laneCmp_ty (ty : FTy) (cnd : Cnd) (p q : Nat) : laneCmp ty.ty cnd p q = fpCmp (FTy.fmt ty) cnd p q := if_pos (FTy.isF_ty ty)

section
variable {s : State} {h : Hdr} {ty : FTy} {cnd : Cnd} {m : VMask} {k : K} {a b : V}

/-- What vcmp makes of the lit lanes of a floating-point type, each compared as `r` says. -/
structure CmpOut (s : State) (ty : FTy) (m : VMask) (k : K) (r : Nat → Bool × Nat) (o : VOut) : Prop where
  fl : IsUnion (1024 / ty.ty.width) (activeAt s m ty.ty.width) (fun j => (r j).2) o.fl
  val : ∀ j, o.val.testBit j = (decide (j < 1024 / ty.ty.width) &&
    if activeAt s m ty.ty.width j then (r j).1 else !m.mz && (s.me.kr k).getLsbD j)

theorem cmpOut_foldr : CmpOut s ty m k
    (fun j => fpCmp (FTy.fmt ty) cnd (laneB ty.ty.width (s.me.vr a) j).toNat (laneB ty.ty.width (s.me.vr b) j).toNat)
    ((natsFrom 0 (lanesOf ty.ty.width)).foldr (s.me.cmpStep m ty.ty cnd k (s.me.vr a).toNat (s.me.vr b).toNat) {}) := by
  have hres (j : Nat) : cmpRes ty.ty cnd (s.me.vr a).toNat (s.me.vr b).toNat j =
      fpCmp (FTy.fmt ty) cnd (laneB ty.ty.width (s.me.vr a) j).toNat (laneB ty.ty.width (s.me.vr b) j).toNat := by
    rw [cmpRes, laneCmp_ty, ← laneB_toNat, ← laneB_toNat]
  rw [natsFrom_zero, lanesOf]
  constructor
  · constructor
    intro b
    simp only [testBit_fl_foldr_cmpStep, hres, Slot.lit_eq, List.mem_range]
  · intro j
    rw [testBit_val_foldr_cmpStep]
    by_cases hj : j < 1024 / ty.ty.width
    · simp only [List.getElem?_range hj, Option.map_some, Option.getD_some, Slot.cmpBit, hres, Slot.lit_eq, hj, decide_true, Bool.true_and]
    · rw [List.getElem?_eq_none (by rw [List.length_range]; exact Nat.le_of_not_lt hj)]
      simp [hj]

/-- R214: the bits of the lit lanes are the comparisons, the others what the mask leaves, and the bits above the lanes zero. -/
theorem vcmp_float (hr : Ready s h (vecReads [a, b] m) [rK k]) :
    let r (j : Nat) := fpCmp (FTy.fmt ty) cnd (laneB ty.ty.width (s.me.vr a) j).toNat (laneB ty.ty.width (s.me.vr b) j).toNat
    let n := 1024 / ty.ty.width
    (∀ j, j < n → activeAt s m ty.ty.width j = true → Quiet s (r j).2) →
      ∃ u, exec (.vcmp h ty.ty cnd m k a b) s = .next u ∧ Advanced s u ∧ KeptFp s u [rK k] ∧
        FlagsUnion s u n (activeAt s m ty.ty.width) (fun j => (r j).2) ∧
        ∀ j, j < 64 → (u.me.kr k).getLsbD j =
          (decide (j < n) && if activeAt s m ty.ty.width j then (r j).1 else !m.mz && (s.me.kr k).getLsbD j) := by
  intro r n hquiet
  have hsrc : ∀ v ∈ [a, b], s.me.streamOf v = none := fun v hv =>
    Slot.streamOf_of_unbound (hr.plain _ (List.mem_append_right _ (List.mem_append_left _ (List.mem_map_of_mem hv))))
  obtain ⟨body, hissue, hbody⟩ := State.vop_of_unbound (s := s) (h := h) (tok := 0) (other := maskCodes m) (d := .k k)
    (f := fun _ x v => (natsFrom 0 (lanesOf ty.ty.width)).foldr (x.cmpStep m ty.ty cnd k (arg1 v) (arg2 v)) {}) (merge := maskMerges m) hsrc
    (fun _ _ hv => nomatch hv)
  obtain ⟨o, hout, hbody⟩ : ∃ o, CmpOut s ty m k r o ∧ body s = s.fpEnd o.fl o.sub fun u => (u.upd id).vwrite (.k k) o :=
    ⟨_, cmpOut_foldr, hbody⟩
  obtain ⟨t, hnext, ⟨a', b', c', y, hy, hme⟩, hadv, hkept, hends⟩ := State.issue_fpEnd (cs := [rK k])
    (q := { reads := [a, b].map rV ++ maskCodes m, writes := [rK k], streams := true, merge := maskMerges m })
    (fun x => x.kw k (w64 o.val)) hr (absurd rfl) hbody (State.upd_upd _ _ _) (hout.fl.quiet hquiet) (.kw hr.sure _ _)
  refine ⟨t, hissue.trans hnext, hadv, hkept, hout.fl.flagsUnion hends.flags, fun j hj => ?_⟩
  have hk : t.me.kr k = w64 o.val := by
    have hregs : t.me.k = (s.me.kw k (w64 o.val)).k := by rw [hme, hy, Slot.order_k, Slot.advance_k]
    rw [Slot.kr, hregs]
    exact Slot.kr_kw _ _ _
  rw [hk, w64, BitVec.getLsbD_ofNat, hout.val, decide_eq_true hj, Bool.true_and]

end

/-! ## The lane functions (R213) -/

theorem lane_ty (ty : FTy) (i : List Nat → Int) (f : Fmt → List Nat → FR) (l : List Nat) : lane ty.ty i f l = f (FTy.fmt ty) l :=
  if_pos (FTy.isF_ty ty)

theorem laneMinMax_ty (ty : FTy) (isMax : Bool) (a b : Nat) : laneMinMax ty.ty isMax a b = fpMinMax (FTy.fmt ty) isMax a b :=
  if_pos (FTy.isF_ty ty)

theorem tok64_ty (ty : FTy) : tok64 ty.ty = if ty = .f64 then 1 else 0 := by cases ty <;> rfl

/-- R189: the sign bit cleared. -/
theorem withSign_zero (ty : FTy) (x : Nat) : (⟨x % 2 ^ (ty.ty.width - 1), 0⟩ : FR) = withSign ty 0 (mag ty x) := by
  rw [withSign, mag, FTy.width_ty, Nat.zero_mul, Nat.add_zero]

/-- R189: the sign bit inverted. -/
theorem withSign_flip (ty : FTy) (x : Nat) :
    (⟨(x + 2 ^ (ty.ty.width - 1)) % 2 ^ ty.ty.width, 0⟩ : FR) = withSign ty (1 - sgn ty x) (mag ty x) := by
  rw [withSign, mag, sgn, FTy.width_ty]
  obtain ⟨w, hw⟩ : ∃ w, (FTy.fmt ty).width = w + 1 := ⟨_, (Nat.succ_pred_eq_of_pos (FTy.width_pos ty)).symm⟩
  rw [hw, Nat.add_sub_cancel]
  congr 1
  have hpos := Nat.two_pow_pos w
  have hpow : 2 ^ (w + 1) = 2 ^ w * 2 := Nat.pow_succ 2 w
  have hdiv : (x + 2 ^ w) / 2 ^ w = x / 2 ^ w + 1 := Nat.add_div_right x hpos
  rw [hpow, Nat.mod_mul, Nat.add_mod_right, hdiv, Nat.mul_comm]
  congr 2
  omega

/-! ## Each instruction as its lane function -/

/-- An unbound instruction of one function `g` on every lit lane of a floating-point type. -/
abbrev State.vlanes (s : State) (h : Hdr) (tok : Nat) (m : VMask) (ty : FTy) (d : V) (src : List V) (g : Slot → List Nat → FR) :
    Host.Outcome State Fault Refusal :=
  s.vop h tok (maskCodes m) src (.v d ty.ty.width) (fun _ x v => x.lanewise m ty.ty v fun _ l => g x l) id (maskMerges m)

section
variable (s : State) (h : Hdr) (ty : FTy) (rm : Rm) (m : VMask) (d a b c : V)

theorem exec_vadd : exec (.vadd h ty.ty rm m d a b) s = s.vlanes h (tok64 ty.ty) m ty d [a, b] fun x l =>
    lane ty.ty (fun l => (arg1 l : Int) + arg2 l) (fun f l => fpAdd f (x.rmMode rm) (FV.decode f (arg1 l)) (FV.decode f (arg2 l))) l := rfl
theorem exec_vsub : exec (.vsub h ty.ty rm m d a b) s = s.vlanes h (tok64 ty.ty) m ty d [a, b] fun x l =>
    lane ty.ty (fun l => (arg1 l : Int) - arg2 l) (fun f l => fpAdd f (x.rmMode rm) (FV.decode f (arg1 l)) (FV.decode f (arg2 l)).flip) l := rfl
theorem exec_vmul : exec (.vmul h ty.ty rm m d a b) s = s.vlanes h (tok64 ty.ty) m ty d [a, b] fun x l =>
    lane ty.ty (fun l => (arg1 l : Int) * arg2 l) (fun f l => fpMul f (x.rmMode rm) (FV.decode f (arg1 l)) (FV.decode f (arg2 l))) l := rfl
theorem exec_vfma : exec (.vfma h ty.ty rm m d a b c) s = s.vlanes h (tok64 ty.ty) m ty d [a, b, c] fun x l =>
    lane ty.ty (fun l => (arg1 l : Int) * arg2 l + arg3 l)
      (fun f l => fpFma f (x.rmMode rm) false (FV.decode f (arg1 l)) (FV.decode f (arg2 l)) (FV.decode f (arg3 l))) l := rfl
theorem exec_vfms : exec (.vfms h ty.ty rm m d a b c) s = s.vlanes h (tok64 ty.ty) m ty d [a, b, c] fun x l =>
    lane ty.ty (fun l => (arg1 l : Int) * arg2 l - arg3 l)
      (fun f l => fpFma f (x.rmMode rm) false (FV.decode f (arg1 l)) (FV.decode f (arg2 l)) (FV.decode f (arg3 l)).flip) l := rfl
theorem exec_vmin : exec (.vmin h ty.ty m d a b) s =
    s.vlanes h 0 m ty d [a, b] fun _ l => laneMinMax ty.ty false (arg1 l) (arg2 l) := rfl
theorem exec_vmax : exec (.vmax h ty.ty m d a b) s =
    s.vlanes h 0 m ty d [a, b] fun _ l => laneMinMax ty.ty true (arg1 l) (arg2 l) := rfl
theorem exec_vabs : exec (.vabs h ty.ty m d a) s = s.vlanes h 0 m ty d [a] fun _ l =>
    if ty.ty.isF then ⟨arg1 l % 2 ^ (ty.ty.width - 1), 0⟩ else intRes ty.ty ((tyVal ty.ty (arg1 l)).natAbs : Int) := rfl
theorem exec_vneg : exec (.vneg h ty.ty m d a) s = s.vlanes h 0 m ty d [a] fun _ l =>
    if ty.ty.isF then ⟨(arg1 l + 2 ^ (ty.ty.width - 1)) % 2 ^ ty.ty.width, 0⟩ else intRes ty.ty (-(arg1 l : Int)) := rfl

end

/-- Settles O20: each instruction is one function on every lit lane, the scalar instruction's. -/
theorem vectorFloatLanes : Obligations.VectorFloatLanes := by
  unfold Obligations.VectorFloatLanes
  intro s h ty rm cnd m d a b c k
  rw [← tok64_ty]
  refine ⟨fun hr => ⟨?add, ?sub, ?mul, ?min, ?max⟩, fun hr => ⟨?fma, ?fms⟩, fun hr => vcmp_float hr, fun hr => ⟨?abs, ?neg⟩⟩
  case add => exact vecSetsFp_of_vop (exec_vadd ..) (fun _ => lane_ty ..) hr
  case sub => exact vecSetsFp_of_vop (exec_vsub ..) (fun _ => lane_ty ..) hr
  case mul => exact vecSetsFp_of_vop (exec_vmul ..) (fun _ => lane_ty ..) hr
  case min => exact vecSetsFp_of_vop (exec_vmin ..) (fun _ => laneMinMax_ty ..) hr
  case max => exact vecSetsFp_of_vop (exec_vmax ..) (fun _ => laneMinMax_ty ..) hr
  case fma => exact vecSetsFp_of_vop (exec_vfma ..) (fun _ => lane_ty ..) hr
  case fms => exact vecSetsFp_of_vop (exec_vfms ..) (fun _ => lane_ty ..) hr
  case abs => exact vecSetsFp_of_vop (exec_vabs ..) (fun ln => (if_pos ty.isF_ty).trans (withSign_zero ty (ln 0))) hr
  case neg => exact vecSetsFp_of_vop (exec_vneg ..) (fun ln => (if_pos ty.isF_ty).trans (withSign_flip ty (ln 0))) hr

end Sys2Proof.Machine
end


section
/-! SUPPORT for O21. A value that a format represents is rounded to its encoding, exactly. -/
namespace Sys2Proof.Machine
open Sys2Proof Sys2Proof.Claims

/-! ## Exact scaling -/

section
variable {s m : Nat} {e q : Int}

/-- Two dyadic numbers s × 2^e and m × 2^q are equal. -/
def SameDyadic (s : Nat) (e : Int) (m : Nat) (q : Int) : Prop := s * 2 ^ (e - q).toNat = m * 2 ^ (q - e).toNat

/-- The one of the higher exponent is the other, shifted. -/
theorem SameDyadic.cases (h : SameDyadic s e m q) :
    (∃ n : Nat, q = e + n ∧ s = m * 2 ^ n) ∨ (∃ n : Nat, e = q + n ∧ 0 < n ∧ m = s * 2 ^ n) := by
  unfold SameDyadic at h
  by_cases hle : e ≤ q
  · obtain ⟨n, hn⟩ := Int.le.dest hle
    refine .inl ⟨n, hn.symm, ?_⟩
    rwa [show (e - q).toNat = 0 by omega, show (q - e).toNat = n by omega, pow_zero, mul_one] at h
  · obtain ⟨n, hn⟩ := Int.le.dest (Int.le_of_not_le hle)
    refine .inr ⟨n, hn.symm, by omega, ?_⟩
    rw [show (q - e).toNat = 0 by omega, show (e - q).toNat = n by omega, pow_zero, mul_one] at h
    exact h.symm

theorem SameDyadic.scaleDiv (h : SameDyadic s e m q) : ∃ d, 0 < d ∧ scaleDiv m 1 (q - e) = (s, 0, d) := by
  rcases h.cases with ⟨n, rfl, rfl⟩ | ⟨n, rfl, hn, rfl⟩
  · refine ⟨1, Nat.one_pos, ?_⟩
    simp [Machine.scaleDiv, Nat.mod_one]
  · refine ⟨2 ^ n, Nat.two_pow_pos n, ?_⟩
    have hneg : ¬ (q - (q + n) ≥ 0) := by omega
    have hexp : (-(q - (q + n))).toNat = n := by omega
    simp only [Machine.scaleDiv, if_neg hneg, hexp, one_mul, Nat.mul_div_cancel _ (Nat.two_pow_pos n), Nat.mul_mod_left]

theorem log2_mul_two_pow {s : Nat} (hs : s ≠ 0) (n : Nat) : Nat.log2 (s * 2 ^ n) = Nat.log2 s + n := by
  induction n with
  | zero => rw [pow_zero, mul_one, Nat.add_zero]
  | succ n ih =>
    rw [pow_succ, ← mul_assoc, Nat.log2_eq_log_two, Nat.log_mul_base Nat.one_lt_two (mul_ne_zero hs (Nat.two_pow_pos n).ne'),
      ← Nat.log2_eq_log_two, ih, Nat.add_assoc]

theorem SameDyadic.log2 (h : SameDyadic s e m q) (hs : s ≠ 0) : (Nat.log2 s : Int) + e = Nat.log2 m + q := by
  rcases h.cases with ⟨n, rfl, rfl⟩ | ⟨n, rfl, hn, rfl⟩
  · rw [log2_mul_two_pow (left_ne_zero_of_mul hs)]
    push_cast
    ring
  · rw [log2_mul_two_pow hs]
    push_cast
    ring

end

theorem ilog_one (m : Nat) (hm : m ≠ 0) : ilog m 1 = Nat.log2 m := by
  have hpow : 2 ^ Nat.log2 m ≤ m := by rw [Nat.log2_eq_log_two]; exact Nat.pow_log_le_self 2 hm
  have hdiv : m / 2 ^ Nat.log2 m ≠ 0 := Nat.div_ne_zero_iff.2 ⟨(Nat.two_pow_pos _).ne', hpow⟩
  have hone : Nat.log2 1 = 0 := by decide
  unfold ilog
  simp only [hone, Nat.cast_zero, sub_zero]
  rw [if_neg]
  rcases Nat.eq_zero_or_pos (Nat.log2 m) with h0 | hpos
  · simpa [scaleDiv, h0] using hm
  · have hneg : ¬ (-((Nat.log2 m : Int)) ≥ 0) := by omega
    simpa only [scaleDiv, if_neg hneg, neg_neg, Int.toNat_natCast, one_mul] using hdiv

/-! ## Encodings of numbers (R134) -/

/-- The exponent of the least magnitude of a format, in units of its last place. -/
def Fmt.qmin (f : Fmt) : Int := 1 - (f.bias : Int) - (f.m : Int)

/-- What an encoding of a number in a format with infinities is made of: its sign, its exponent field and its fraction. -/
structure NumFields (f : Fmt) (y : Nat) (n : Bool) (s : Nat) (e : Int) (ex fr : Nat) : Prop where
  fr_lt : fr < 2 ^ f.m
  ex_lt : ex < 2 ^ f.e - 1
  bits : y = f.signBit n + (ex * 2 ^ f.m + fr)
  num : (ex = 0 ∧ s = fr ∧ e = f.qmin) ∨ (0 < ex ∧ s = 2 ^ f.m + fr ∧ e = f.qmin + (ex - 1 : Nat))

theorem eq_signBit_add {f : Fmt} {y : Nat} (hy : y < 2 ^ f.width) :
    y = f.signBit (bitAt y (f.e + f.m)) + (bitsAt y f.m f.e * 2 ^ f.m + bitsAt y 0 f.m) := by
  have htop : y / 2 ^ (f.e + f.m) < 2 := by
    rw [Nat.div_lt_iff_lt_mul (Nat.two_pow_pos _), ← pow_succ']
    rwa [Fmt.width, Nat.add_assoc, Nat.add_comm 1] at hy
  have hsign : f.signBit (bitAt y (f.e + f.m)) = 2 ^ (f.e + f.m) * (y / 2 ^ (f.e + f.m)) := by
    unfold Fmt.signBit bitAt
    rw [Nat.mod_eq_of_lt htop]
    generalize y / 2 ^ (f.e + f.m) = b at htop
    rcases (by omega : b = 0 ∨ b = 1) with rfl | rfl <;> simp
  have hmid : y / 2 ^ f.m / 2 ^ f.e = y / 2 ^ (f.e + f.m) := by rw [Nat.div_div_eq_div_mul, ← pow_add, Nat.add_comm]
  have h1 := Nat.div_add_mod (y / 2 ^ f.m) (2 ^ f.e)
  have h2 := Nat.div_add_mod y (2 ^ f.m)
  rw [hsign, bitsAt, bitsAt, pow_zero, Nat.div_one, ← hmid, pow_add]
  calc y = 2 ^ f.m * (2 ^ f.e * (y / 2 ^ f.m / 2 ^ f.e) + y / 2 ^ f.m % 2 ^ f.e) + y % 2 ^ f.m := by rw [h1, h2]
    _ = _ := by ring

theorem numFields_of_decode {f : Fmt} (hinf : f.hasInf = true) {y : Nat} {n : Bool} {s : Nat} {e : Int}
    (h : FV.decode f y = .num n s e) (hy : y < 2 ^ f.width) : ∃ ex fr, NumFields f y n s e ex fr := by
  refine ⟨bitsAt y f.m f.e, bitsAt y 0 f.m, ?_⟩
  have hfr : bitsAt y 0 f.m < 2 ^ f.m := Nat.mod_lt _ (Nat.two_pow_pos _)
  have hex : bitsAt y f.m f.e < 2 ^ f.e := Nat.mod_lt _ (Nat.two_pow_pos _)
  unfold FV.decode at h
  simp only [hinf, Bool.true_and, Bool.not_true, Bool.and_false, Bool.false_and, Bool.false_eq_true, if_false, beq_iff_eq] at h
  split at h
  case isTrue => split at h <;> cases h
  case isFalse hne =>
    have hsign := eq_signBit_add hy
    split at h
    case isTrue h0 =>
      injection h with hn hs he
      exact ⟨hfr, by omega, hn ▸ hsign, .inl ⟨h0, hs.symm, he.symm⟩⟩
    case isFalse h0 =>
      injection h with hn hs he
      exact ⟨hfr, by omega, hn ▸ hsign, .inr ⟨by omega, hs.symm, by rw [← he, Fmt.qmin]; omega⟩⟩

section
variable {f : Fmt} {y s ex fr : Nat} {n : Bool} {e : Int}

/-- The magnitude bits are the significand counted from the exponent of the least magnitude. -/
theorem NumFields.magnitude (h : NumFields f y n s e ex fr) : f.qmin ≤ e ∧ (e - f.qmin).toNat * 2 ^ f.m + s = ex * 2 ^ f.m + fr := by
  rcases h.num with ⟨rfl, rfl, rfl⟩ | ⟨hex, rfl, rfl⟩
  · simp
  · refine ⟨by omega, ?_⟩
    obtain ⟨k, rfl⟩ := Nat.exists_eq_succ_of_ne_zero hex.ne'
    rw [add_sub_cancel_left, Int.toNat_natCast, Nat.succ_sub_one, Nat.succ_eq_add_one, Nat.add_mul, one_mul, add_assoc]

theorem NumFields.le_maxFinite (h : NumFields f y n s e ex fr) (hinf : f.hasInf = true) : ex * 2 ^ f.m + fr ≤ f.maxFinite := by
  have hle : (ex + 1) * 2 ^ f.m ≤ (2 ^ f.e - 1) * 2 ^ f.m := Nat.mul_le_mul_right _ h.ex_lt
  have := h.fr_lt
  rw [Nat.add_mul, one_mul] at hle
  rw [Fmt.maxFinite, if_pos hinf]
  omega

/-- The exponent to which a rounding to f.m fraction bits takes the number is its own. -/
theorem NumFields.roundExp (h : NumFields f y n s e ex fr) (hs : s ≠ 0) : max ((Nat.log2 s : Int) + e - f.m) f.qmin = e := by
  rw [Nat.log2_eq_log_two]
  have hfr := h.fr_lt
  rcases h.num with ⟨rfl, rfl, rfl⟩ | ⟨hex, rfl, rfl⟩
  · have : Nat.log 2 s < f.m := Nat.log_lt_of_lt_pow hs hfr
    omega
  · have : Nat.log 2 (2 ^ f.m + fr) = f.m := Nat.log_eq_of_pow_le_of_lt_pow (by omega) (by rw [pow_succ]; omega)
    omega

end

/-- R140: a value that the format represents is delivered as its encoding, without a flag. -/
theorem Fmt.round_of_numFields {f : Fmt} {y s ex fr m : Nat} {n : Bool} {e q : Int} (hinf : f.hasInf = true)
    (h : NumFields f y n s e ex fr) (hsame : SameDyadic s e m q) : f.round .rne n m 1 q = ⟨y, 0⟩ := by
  obtain ⟨hqmin, hmag⟩ := h.magnitude
  by_cases hs : s = 0
  · subst hs
    have hm : m = 0 := by
      have h0 : m * 2 ^ (q - e).toNat = 0 := hsame.symm.trans (Nat.zero_mul _)
      exact (Nat.mul_eq_zero.1 h0).resolve_right (Nat.two_pow_pos _).ne'
    have hy : y = f.signBit n := by
      rcases h.num with ⟨rfl, hfr, rfl⟩ | ⟨_, hs, _⟩
      · rw [h.bits, ← hfr, Nat.zero_mul]
        rfl
      · have := Nat.two_pow_pos f.m
        omega
    rw [Fmt.round, if_pos hm, hy]
    rfl
  · have hm : m ≠ 0 := by
      rintro rfl
      have h0 : s * 2 ^ (e - q).toNat = 0 := hsame.trans (Nat.zero_mul _)
      exact hs ((Nat.mul_eq_zero.1 h0).resolve_right (Nat.two_pow_pos _).ne')
    obtain ⟨d, hd, hdiv⟩ := hsame.scaleDiv
    have hexp : max (ilog m 1 + q - (f.m : Int)) (1 - (f.bias : Int) - (f.m : Int)) = e := by
      rw [ilog_one m hm, ← hsame.log2 hs]
      exact h.roundExp hs
    have hup : Mode.rne.up n s 0 d = false := by
      have hd0 : (0 : Nat) ≠ d := hd.ne
      simp [Mode.up, hd0]
    unfold Fmt.round
    rw [if_neg hm]
    simp only [hexp, hdiv, hup, Bool.false_eq_true, if_false, if_true]
    have hbits : (e - (1 - (f.bias : Int) - (f.m : Int))).toNat * 2 ^ f.m + s = ex * 2 ^ f.m + fr := hmag
    rw [hbits, if_neg (Nat.not_lt.2 (h.le_maxFinite hinf)), h.bits]

theorem FTy.hasInf_fmt (ty : FTy) : (FTy.fmt ty).hasInf = true := by cases ty <;> rfl

/-- What an encoding of a number m × 2^q reads as, and its fields. -/
theorem fields_of_encodes {ty : FTy} {y m : Nat} {n : Bool} {q : Int} (h : Encodes (FTy.fmt ty) y n m q) :
    ∃ s e ex fr, FV.decode (FTy.fmt ty) y = .num n s e ∧ NumFields (FTy.fmt ty) y n s e ex fr ∧ SameDyadic s e m q := by
  obtain ⟨hy, s, e, hdec, hsame⟩ := h
  obtain ⟨ex, fr, hf⟩ := numFields_of_decode (FTy.hasInf_fmt ty) hdec hy
  exact ⟨s, e, ex, fr, hdec, hf, hsame⟩

theorem round_of_encodes {ty : FTy} {y m : Nat} {n : Bool} {q : Int} (h : Encodes (FTy.fmt ty) y n m q) :
    (FTy.fmt ty).round .rne n m 1 q = ⟨y, 0⟩ := by
  obtain ⟨s, e, ex, fr, -, hf, hsame⟩ := fields_of_encodes h
  exact Fmt.round_of_numFields (FTy.hasInf_fmt ty) hf hsame

end Sys2Proof.Machine
end


section
/-! O21: the special functions on every lit lane, and their invalid, infinite, zero and exact cases. -/
namespace Sys2Proof.Machine
open Sys2Proof Sys2Proof.Claims

/-! ## Exact arguments (R221) -/

section
variable {ty : FTy} {x y s m : Nat} {n : Bool} {e k : Int} {fn : Fn}

/-- A power of two is found as one. -/
theorem SameDyadic.powOf (h : SameDyadic s e 1 k) (hs : s ≠ 0) : powOf s e = some k := by
  have hlog := h.log2 hs
  have hone : Nat.log2 1 = 0 := by decide
  rw [hone, Nat.cast_zero, zero_add] at hlog
  have hpow : s = 2 ^ Nat.log2 s := by
    rcases h.cases with ⟨j, rfl, rfl⟩ | ⟨j, rfl, hj, h1⟩
    · rw [log2_mul_two_pow Nat.one_ne_zero, hone, one_mul, Nat.zero_add]
    · have := Nat.eq_one_of_mul_eq_one_left h1.symm
      have h2 : 1 < 2 ^ j := Nat.one_lt_two_pow hj.ne'
      omega
  rw [Machine.powOf, if_pos hpow, hlog]

theorem SameDyadic.ne_zero (h : SameDyadic s e m k) (hm : m ≠ 0) : s ≠ 0 := by
  rintro rfl
  have h0 : m * 2 ^ (k - e).toNat = 0 := h.symm.trans (Nat.zero_mul _)
  exact hm ((Nat.mul_eq_zero.1 h0).resolve_right (Nat.two_pow_pos _).ne')

theorem exactIn_of_encodes {q : Int} (h : Encodes (FTy.fmt ty) y n m q) : exactIn (Fmt.of ty.ty) n m q = some ⟨y, 0⟩ := by
  have hround : (Fmt.of ty.ty).round .rne n m 1 q = ⟨y, 0⟩ := round_of_encodes h
  simp only [exactIn, hround, if_true]

/-- A special function at a finite nonzero argument of which the exact result is known. -/
theorem Fn.apply_rcp (hx : FV.decode (Fmt.of ty.ty) x = .num n s e) (hs : s ≠ 0) (hp : powOf s e = some k)
    (hy : exactIn (Fmt.of ty.ty) n 1 (-k) = some ⟨y, 0⟩) : Fn.apply .rcp ty x = ⟨y, 0⟩ := by
  simp only [Fn.apply, hx, if_neg hs, hp, hy]

theorem Fn.apply_rsq (hx : FV.decode (Fmt.of ty.ty) x = .num false s e) (hs : s ≠ 0) (hp : powOf s e = some (2 * k))
    (hy : exactIn (Fmt.of ty.ty) false 1 (-k) = some ⟨y, 0⟩) : Fn.apply .rsq ty x = ⟨y, 0⟩ := by
  have hhalf : 2 * k / 2 = k := by omega
  have heven : 2 * k % 2 = 0 := by omega
  simp only [Fn.apply, hx, if_neg hs, hp, heven, hhalf, and_self, if_true, hy]

theorem Fn.apply_log2 (hx : FV.decode (Fmt.of ty.ty) x = .num false s e) (hs : s ≠ 0) (hp : powOf s e = some k)
    (hy : (Fmt.of ty.ty).roundInt .rne false k 0 = ⟨y, 0⟩) : Fn.apply .log2 ty x = ⟨y, 0⟩ := by
  simp only [Fn.apply, hx, if_neg hs, hp, hy, Bool.false_eq_true, if_false]

theorem Fn.apply_exp2 {i d : Nat} (hx : FV.decode (Fmt.of ty.ty) x = .num n s e) (hs : s ≠ 0) (hi : scaleDiv s 1 e = (i, 0, d)) (hlt : i < 4096)
    (hy : exactIn (Fmt.of ty.ty) false 1 (if n then -(i : Int) else i) = some ⟨y, 0⟩) : Fn.apply .exp2 ty x = ⟨y, 0⟩ := by
  simp only [Fn.apply, hx, if_neg hs, hi, hlt, and_self, if_true, hy]

/-- The exponents of a format's powers of two. -/
theorem natAbs_lt_of_encodes (h : Encodes (FTy.fmt ty) y n 1 k) : k.natAbs < 4096 := by
  obtain ⟨s, e, ex, fr, -, hf, hsame⟩ := fields_of_encodes h
  have hlog := hsame.log2 (hsame.ne_zero Nat.one_ne_zero)
  have hone : Nat.log2 1 = 0 := by decide
  rw [hone, Nat.cast_zero, zero_add] at hlog
  have hfr := hf.fr_lt
  have hex := hf.ex_lt
  have hs : Nat.log2 s < (FTy.fmt ty).m + 1 := by
    rw [Nat.log2_eq_log_two]
    refine Nat.log_lt_of_lt_pow (hsame.ne_zero Nat.one_ne_zero) ?_
    rcases hf.num with ⟨-, rfl, -⟩ | ⟨-, rfl, -⟩ <;> rw [pow_succ] <;> omega
  have hq : (FTy.fmt ty).m ≤ 52 ∧ 2 ^ (FTy.fmt ty).e ≤ 2048 ∧ (FTy.fmt ty).bias ≤ 1023 := by cases ty <;> decide
  rcases hf.num with ⟨-, -, he⟩ | ⟨-, -, he⟩ <;> unfold Fmt.qmin at he <;> omega

end

/-- R221: reciprocals and reciprocal roots of powers of two, powers of integers and logarithms of powers of two. -/
theorem special_exact (ty : FTy) (x y : Nat) (n : Bool) (k : Int) (i : Nat) :
    (Encodes (FTy.fmt ty) x n 1 k → Encodes (FTy.fmt ty) y n 1 (-k) → Fn.apply .rcp ty x = ⟨y, 0⟩) ∧
    (Encodes (FTy.fmt ty) x false 1 (2 * k) → Encodes (FTy.fmt ty) y false 1 (-k) → Fn.apply .rsq ty x = ⟨y, 0⟩) ∧
    (i ≠ 0 → Encodes (FTy.fmt ty) x n i 0 → Encodes (FTy.fmt ty) y false 1 (if n then -(i : Int) else i) → Fn.apply .exp2 ty x = ⟨y, 0⟩) ∧
    (Encodes (FTy.fmt ty) x false 1 k → Encodes (FTy.fmt ty) y (decide (k < 0)) k.natAbs 0 → Fn.apply .log2 ty x = ⟨y, 0⟩) := by
  refine ⟨fun hx hy => ?rcp, fun hx hy => ?rsq, fun hi hx hy => ?exp2, fun hx hy => ?log2⟩
  all_goals
    obtain ⟨s, e, ex, fr, hdec, hf, hsame⟩ := fields_of_encodes hx
  case rcp =>
    have hs := hsame.ne_zero Nat.one_ne_zero
    exact Fn.apply_rcp hdec hs (hsame.powOf hs) (exactIn_of_encodes hy)
  case rsq =>
    have hs := hsame.ne_zero Nat.one_ne_zero
    exact Fn.apply_rsq hdec hs (hsame.powOf hs) (exactIn_of_encodes hy)
  case exp2 =>
    have hs := hsame.ne_zero hi
    have hlt := natAbs_lt_of_encodes hy
    have hrev : SameDyadic i 0 s e := hsame.symm
    obtain ⟨d, -, hdiv⟩ := hrev.scaleDiv
    rw [sub_zero] at hdiv
    exact Fn.apply_exp2 hdec hs hdiv (by cases n <;> simpa using hlt) (exactIn_of_encodes hy)
  case log2 =>
    have hs := hsame.ne_zero Nat.one_ne_zero
    refine Fn.apply_log2 hdec hs (hsame.powOf hs) ?_
    have hround : (Fmt.of ty.ty).round .rne (decide (k < 0)) k.natAbs 1 0 = ⟨y, 0⟩ := round_of_encodes hy
    unfold Fmt.roundInt
    split
    case isTrue h0 =>
      subst h0
      exact hround
    case isFalse => exact hround

/-! ## Invalid, infinite and zero arguments (R221) -/

section
variable {ty : FTy} {x : Nat}

theorem FV.of_isNan {v : FV} (h : v.isNan = true) : ∃ n, v = .nan n v.isSnan := by
  cases v with
  | nan n sg => exact ⟨n, rfl⟩
  | inf | num => cases h

theorem FV.of_isInf {v : FV} (h : v.isInf = true) : v = .inf v.neg := by
  cases v with
  | inf n => rfl
  | nan | num => cases h

theorem FV.of_isZero {v : FV} (h : v.isZero = true) : ∃ e, v = .num v.neg 0 e := by
  cases v with
  | nan | inf => cases h
  | num n s e =>
    cases s with
    | zero => exact ⟨e, rfl⟩
    | succ s => cases h

theorem FV.of_finite {v : FV} (hnan : v.isNan = false) (hinf : v.isInf = false) (hzero : v.isZero = false) :
    ∃ s e, s ≠ 0 ∧ v = .num v.neg s e := by
  cases v with
  | nan => cases hnan
  | inf => cases hinf
  | num n s e =>
    refine ⟨s, e, ?_, rfl⟩
    rintro rfl
    cases hzero

/-- The rounding of 1 is exact, with either sign. -/
theorem round_one (ty : FTy) (n : Bool) : (FTy.fmt ty).round .rne n 1 1 0 =
    ⟨(FTy.fmt ty).signBit n + ((FTy.fmt ty).round .rne false 1 1 0).bits, 0⟩ := by cases ty <;> cases n <;> decide

theorem special_nan (h : (FV.decode (FTy.fmt ty) x).isNan = true) (fn : Fn) :
    Fn.apply fn ty x = ⟨(FTy.fmt ty).qnan, if (FV.decode (FTy.fmt ty) x).isSnan then 1 else 0⟩ := by
  obtain ⟨n, hv⟩ := FV.of_isNan h
  have hdec : FV.decode (Fmt.of ty.ty) x = .nan n (FV.decode (FTy.fmt ty) x).isSnan := hv
  rw [Fn.apply, hdec]
  rfl

theorem special_zero (h : (FV.decode (FTy.fmt ty) x).isZero = true) :
    let f := FTy.fmt ty
    let v := FV.decode f x
    let one := (f.round .rne false 1 1 0).bits
    Fn.apply .rcp ty x = ⟨f.signBit v.neg + f.infBits, 2⟩ ∧ Fn.apply .rsq ty x = ⟨f.signBit v.neg + f.infBits, 2⟩ ∧
      Fn.apply .exp2 ty x = ⟨one, 0⟩ ∧ Fn.apply .log2 ty x = ⟨f.signBit true + f.infBits, 2⟩ ∧
      Fn.apply .sin ty x = ⟨f.signBit v.neg, 0⟩ ∧ Fn.apply .cos ty x = ⟨one, 0⟩ ∧ Fn.apply .tanh ty x = ⟨f.signBit v.neg, 0⟩ := by
  intro f v one
  obtain ⟨e, hv⟩ := FV.of_isZero h
  have hdec : FV.decode (Fmt.of ty.ty) x = .num v.neg 0 e := hv
  have hone : f.round .rne false 1 1 0 = ⟨one, 0⟩ := (round_one ty false).trans (congrArg (FR.mk · 0) (Nat.zero_add _))
  simp only [Fn.apply, hdec, if_true]
  exact ⟨rfl, rfl, hone, rfl, rfl, hone, rfl⟩

theorem special_inf (h : (FV.decode (FTy.fmt ty) x).isInf = true) :
    let f := FTy.fmt ty
    let v := FV.decode f x
    let one := (f.round .rne false 1 1 0).bits
    Fn.apply .rcp ty x = ⟨f.signBit v.neg, 0⟩ ∧
      Fn.apply .rsq ty x = (if v.neg then ⟨f.qnan, 1⟩ else ⟨0, 0⟩) ∧
      Fn.apply .exp2 ty x = (if v.neg then ⟨0, 0⟩ else ⟨f.infBits, 0⟩) ∧
      Fn.apply .log2 ty x = (if v.neg then ⟨f.qnan, 1⟩ else ⟨f.infBits, 0⟩) ∧
      Fn.apply .sin ty x = ⟨f.qnan, 1⟩ ∧ Fn.apply .cos ty x = ⟨f.qnan, 1⟩ ∧ Fn.apply .tanh ty x = ⟨f.signBit v.neg + one, 0⟩ := by
  intro f v one
  have hdec : FV.decode (Fmt.of ty.ty) x = .inf v.neg := FV.of_isInf h
  have hinf : FR.inf f false = ⟨f.infBits, 0⟩ := congrArg (FR.mk · 0) (Nat.zero_add _)
  simp only [Fn.apply, hdec]
  exact ⟨rfl, rfl, by rw [← hinf]; rfl, by rw [← hinf]; rfl, rfl, rfl, round_one ty v.neg⟩

theorem special_negative (hnan : (FV.decode (FTy.fmt ty) x).isNan = false) (hinf : (FV.decode (FTy.fmt ty) x).isInf = false)
    (hzero : (FV.decode (FTy.fmt ty) x).isZero = false) (hneg : (FV.decode (FTy.fmt ty) x).neg = true) :
    Fn.apply .rsq ty x = ⟨(FTy.fmt ty).qnan, 1⟩ ∧ Fn.apply .log2 ty x = ⟨(FTy.fmt ty).qnan, 1⟩ := by
  obtain ⟨s, e, hs, hv⟩ := FV.of_finite hnan hinf hzero
  rw [hneg] at hv
  have hdec : FV.decode (Fmt.of ty.ty) x = .num true s e := hv
  simp only [Fn.apply, hdec, if_neg hs]
  constructor
  · cases powOf s e <;> simp <;> rfl
  · cases powOf s e <;> simp <;> rfl

end

/-! ## Each instruction as its lane function (R220) -/

section
variable (s : State) (h : Hdr) (ty : FTy) (m : VMask) (d a : V)

theorem exec_vrcp : exec (.vrcp h ty m d a) s = s.vlanes h 1 m ty d [a] fun _ l => Fn.rcp.apply ty (arg1 l) := rfl
theorem exec_vrsq : exec (.vrsq h ty m d a) s = s.vlanes h 1 m ty d [a] fun _ l => Fn.rsq.apply ty (arg1 l) := rfl
theorem exec_vexp2 : exec (.vexp2 h ty m d a) s = s.vlanes h 1 m ty d [a] fun _ l => Fn.exp2.apply ty (arg1 l) := rfl
theorem exec_vlog2 : exec (.vlog2 h ty m d a) s = s.vlanes h 1 m ty d [a] fun _ l => Fn.log2.apply ty (arg1 l) := rfl
theorem exec_vsin : exec (.vsin h ty m d a) s = s.vlanes h 1 m ty d [a] fun _ l => Fn.sin.apply ty (arg1 l) := rfl
theorem exec_vcos : exec (.vcos h ty m d a) s = s.vlanes h 1 m ty d [a] fun _ l => Fn.cos.apply ty (arg1 l) := rfl
theorem exec_vtanh : exec (.vtanh h ty m d a) s = s.vlanes h 1 m ty d [a] fun _ l => Fn.tanh.apply ty (arg1 l) := rfl

variable {s h ty m d a}

/-- A special function on every lit lane, for one token. -/
theorem vecSetsFp_special {i : Instr} {fn : Fn} (hx : exec i s = s.vlanes h 1 m ty d [a] fun _ l => fn.apply ty (arg1 l))
    (hr : Ready s h (vecReads [a] m) [rV d]) : VecSetsFp s i ty d m 1 [a] (fun x => Fn.apply fn ty (x 0)) :=
  vecSetsFp_of_vop hx (fun _ => rfl) hr

end

/-- Settles O21: each instruction is its special function on every lit lane, and the function's cases are read off its definition. -/
theorem vectorSpecialFunctions : Obligations.VectorSpecialFunctions := by
  unfold Obligations.VectorSpecialFunctions
  refine ⟨fun s h ty m d a hr => ⟨?rcp, ?rsq, ?exp2, ?log2, ?sin, ?cos, ?tanh⟩, fun ty x => ⟨?nan, ?zero, ?inf, ?negative, ?exact⟩⟩
  case rcp => exact vecSetsFp_special (exec_vrcp ..) hr
  case rsq => exact vecSetsFp_special (exec_vrsq ..) hr
  case exp2 => exact vecSetsFp_special (exec_vexp2 ..) hr
  case log2 => exact vecSetsFp_special (exec_vlog2 ..) hr
  case sin => exact vecSetsFp_special (exec_vsin ..) hr
  case cos => exact vecSetsFp_special (exec_vcos ..) hr
  case tanh => exact vecSetsFp_special (exec_vtanh ..) hr
  case nan => exact special_nan
  case zero => exact special_zero
  case inf => exact special_inf
  case negative => exact special_negative
  case exact => exact special_exact ty x

end Sys2Proof.Machine
end


section
/-! SUPPORT for O18, O19, O38 and O46. The end of a slot's activity and of its round: what they leave of the tile, and of all else. -/
namespace Sys2Proof.Machine
open Sys2Proof Sys2Proof.Claims

/-! ## What the end of a round leaves (R96) -/

/-- The slots and the store of tile t, the other tiles, and all else of the module but its partitions stay. -/
structure RoundFrame (s s' : State) (t : TileId) : Prop where
  slots : (s'.tile t).slots = (s.tile t).slots
  store : (s'.tile t).store = (s.tile t).store
  others : ∀ u, u ≠ t → s'.tile u = s.tile u
  rest : s' = { s with tiles := s'.tiles, parts := s'.parts }

section
variable {s s' s'' : State} {t : TileId}

theorem RoundFrame.refl (s : State) (t : TileId) : RoundFrame s s t := ⟨rfl, rfl, fun _ _ => rfl, rfl⟩

theorem RoundFrame.trans (h : RoundFrame s s' t) (h' : RoundFrame s' s'' t) : RoundFrame s s'' t where
  slots := h'.slots.trans h.slots
  store := h'.store.trans h.store
  others u hu := (h'.others u hu).trans (h.others u hu)
  rest := by rw [h'.rest, h.rest]

theorem RoundFrame.modTile {f : Tile → Tile} (hslots : (f (s.tile t)).slots = (s.tile t).slots)
    (hstore : (f (s.tile t)).store = (s.tile t).store) : RoundFrame s (s.modTile t f) t where
  slots := by rw [State.tile_modTile_same, hslots]
  store := by rw [State.tile_modTile_same, hstore]
  others u hu := State.tile_modTile_other s t u f hu
  rest := rfl

theorem RoundFrame.setLaunch {tag e : Nat} {l : Launch} : RoundFrame s (s.setLaunch tag e l) t := ⟨rfl, rfl, fun _ _ => rfl, rfl⟩

theorem RoundFrame.tileSample {src v : Nat} : RoundFrame s (s.tileSample t src v) t := .modTile rfl rfl

/-- The tile and the module when a round has completed, before the launch counts it (R96, R98, R233). -/
def State.roundEnded (s : State) (t : TileId) (last : Bool) : State :=
  ((s.tileSample t 0x203 ((s.tile t).period.toNat - ((s.tile t).cycle - (s.tile t).roundAt))).tileSample t 0x215 (s.tile t).tokUsed).modTile t
    fun y => { y.endPins with inRound := false, stretch := false, roundsOver := y.roundsOver || last }

/-- A slot of the tile is active or about to be. -/
def Tile.anyActive (x : Tile) : Bool := x.slots.any fun y => y.active || y.starting.isSome

theorem roundCheck_busy (h : ((s.tile t).inRound && !(s.tile t).anyActive) = false) : s.roundCheck t = s :=
  if_neg (by simpa [Tile.anyActive] using h)

theorem roundCheck_idle (h : ((s.tile t).inRound && !(s.tile t).anyActive) = true) :
    ∃ last, s.roundCheck t = s.roundEnded t last ∨ ∃ tag e l, s.roundCheck t = (s.roundEnded t last).setLaunch tag e l := by
  simp only [State.roundCheck]
  rw [if_pos (by simpa [Tile.anyActive] using h)]
  split
  case h_2 => exact ⟨_, .inl rfl⟩
  case h_1 =>
    split
    · exact ⟨_, .inr ⟨_, _, _, rfl⟩⟩
    · exact ⟨_, .inl rfl⟩

theorem RoundFrame.roundCheck (s : State) (t : TileId) : RoundFrame s (s.roundCheck t) t := by
  have hended (last : Bool) : RoundFrame s (s.roundEnded t last) t := (RoundFrame.tileSample.trans .tileSample).trans (.modTile rfl rfl)
  cases hidle : (s.tile t).inRound && !(s.tile t).anyActive with
  | false => rw [roundCheck_busy hidle]; exact .refl s t
  | true =>
    obtain ⟨last, h | ⟨tag, e, l, h⟩⟩ := roundCheck_idle hidle
    · rw [h]; exact hended last
    · rw [h]; exact (hended last).trans .setLaunch

theorem RoundFrame.slot (h : RoundFrame s s' t) (u : TileId) (k : SlotId) : s'.slot u k = s.slot u k := by
  by_cases hu : u = t
  · subst hu
    simp only [State.slot, Tile.slot, h.slots]
  · simp only [State.slot, h.others u hu]

theorem RoundFrame.cur (h : RoundFrame s s' t) : s'.cur = s.cur := by rw [h.rest]

theorem RoundFrame.me (h : RoundFrame s s' t) : s'.me = s.me := by rw [State.me, h.cur, h.slot]; rfl

theorem RoundFrame.hbm (h : RoundFrame s s' t) : s'.hbm = s.hbm := by rw [h.rest]

theorem RoundFrame.memoryKept (h : RoundFrame s s' t) : MemoryKept s s' := by
  constructor
  · intro a
    rw [h.rest]
    rfl
  · intro u a
    by_cases hu : u = t
    · rw [hu, h.store]
    · rw [h.others u hu]

theorem anyActive_eq_false {x : Tile} (h : ∀ k, (x.slot k).active = false ∧ (x.slot k).starting = none) : x.anyActive = false := by
  rw [Bool.eq_false_iff]
  intro hany
  obtain ⟨k, hk, hbusy⟩ := Vector.any_iff_exists.1 hany
  obtain ⟨hactive, hstarting⟩ := h ⟨k, hk⟩
  simp only [Tile.slot] at hactive hstarting
  simp [hactive, hstarting] at hbusy

/-- R96: the round of a tile without an active slot is over. -/
theorem roundCheck_inRound (hidle : (s.tile t).anyActive = false) : ((s.roundCheck t).tile t).inRound = false := by
  have hended (last : Bool) : ((s.roundEnded t last).tile t).inRound = false := by rw [State.roundEnded, State.tile_modTile_same]
  cases hround : (s.tile t).inRound with
  | false => rw [roundCheck_busy (by simp [hround])]; exact hround
  | true =>
    obtain ⟨last, h | ⟨tag, e, l, h⟩⟩ := roundCheck_idle (s := s) (t := t) (by simp [hround, hidle])
    · rw [h]; exact hended last
    · rw [h]; exact hended last

end

/-! ## What the end of a slot's activity leaves (R126) -/

theorem keepTraps_slot (x : Tile) (who : SlotId → Bool) (j : SlotId) :
    ∃ deferred, (x.keepTraps who).slot j = { x.slot j with deferred } := by
  simp only [Tile.keepTraps, Tile.slot, Vector.getElem_mapIdx]
  split
  · exact ⟨[], rfl⟩
  · exact ⟨(x.slots[j.val]).deferred, rfl⟩

theorem keepTraps_slot_other (x : Tile) {j k : SlotId} (hj : j ≠ k) : (x.keepTraps (· == k)).slot j = x.slot j := by
  simp only [Tile.keepTraps, Tile.slot, Vector.getElem_mapIdx]
  rw [if_neg]
  intro hany
  obtain ⟨i, hi, hval⟩ := List.any_eq_true.1 hany
  have hik : i = k := by simpa using (List.mem_filter.1 hi).2
  rw [hik] at hval
  exact hj (Fin.ext (by simpa using hval : k.val = j.val).symm)

section
variable (s : State) (t : TileId) (k : SlotId)

/-- The end of slot k's activity: its record finished, deferred traps kept for the next round, and the round checked. -/
theorem finishSlot_slot : ∃ deferred, (s.finishSlot t k).slot t k = { (s.slot t k).finish with deferred } := by
  obtain ⟨d, hd⟩ := keepTraps_slot ((s.modSlot t k Slot.finish).tile t) (· == k) k
  refine ⟨d, ?_⟩
  rw [State.finishSlot, (RoundFrame.roundCheck _ t).slot, State.slot, State.tile_modTile_same, hd]
  simp

theorem finishSlot_slot_other {j : SlotId} (hj : j ≠ k) : (s.finishSlot t k).slot t j = s.slot t j := by
  rw [State.finishSlot, (RoundFrame.roundCheck _ t).slot, State.slot, State.tile_modTile_same, keepTraps_slot_other _ hj]
  exact State.slot_modSlot_other s t k j _ hj

theorem finishSlot_tile_other {u : TileId} (hu : u ≠ t) : (s.finishSlot t k).tile u = s.tile u := by
  rw [State.finishSlot, (RoundFrame.roundCheck _ t).others u hu, State.tile_modTile_other _ _ _ _ hu, State.tile_modSlot_other _ _ _ _ _ hu]

theorem finishSlot_rest : s.finishSlot t k = { s with tiles := (s.finishSlot t k).tiles, parts := (s.finishSlot t k).parts } :=
  (RoundFrame.roundCheck _ t).rest

theorem finishSlot_store : ((s.finishSlot t k).tile t).store = (s.tile t).store := by
  rw [State.finishSlot, (RoundFrame.roundCheck _ t).store, State.tile_modTile_same, State.tile_modSlot_same]
  rfl

theorem finishSlot_memoryKept : MemoryKept s (s.finishSlot t k) := by
  constructor
  · intro a
    rw [finishSlot_rest]
    rfl
  · intro u a
    by_cases hu : u = t
    · rw [hu, finishSlot_store]
    · rw [finishSlot_tile_other s t k hu]

variable {s t k}

/-- R96: the last slot's end is the round's. -/
theorem finishSlot_inRound (h : ∀ j, (s.slot t j).starting = none ∧ (j ≠ k → (s.slot t j).active = false)) :
    ((s.finishSlot t k).tile t).inRound = false := by
  refine roundCheck_inRound (anyActive_eq_false fun j => ?_)
  rw [State.tile_modTile_same]
  by_cases hj : j = k
  · obtain ⟨d, hd⟩ := keepTraps_slot ((s.modSlot t k Slot.finish).tile t) (· == k) k
    rw [hj, hd]
    simp only [State.tile_modSlot_same, Tile.slot_setSlot_same]
    exact ⟨rfl, (h k).1⟩
  · rw [keepTraps_slot_other _ hj]
    simp only [State.tile_modSlot_same, Tile.slot_setSlot_other _ _ _ _ hj]
    exact ⟨(h j).2 hj, (h j).1⟩

end

end Sys2Proof.Machine
end


section
/-! O18: sstart, sstop, rdone and sbar. -/
namespace Sys2Proof.Machine
open Sys2Proof Sys2Proof.Claims

/-! ## The end of an instruction that changes more than its slot -/

section
variable {s s1 : State} {h : Hdr} {q : Req} {body : State → Eff}

/-- The state in which an instruction that leaves `s1` has completed. -/
def State.completed (s s1 : State) (h : Hdr) (q : Req) : State :=
  s1.upd fun x => s.me.order (x.advance h s.me.longs s.serial) h q false

theorem exec_go {i : Instr} (hx : exec i s = s.issue h q body) (hr : Ready s h q.reads q.writes) (ht : q.tokens = 0)
    (hb : body s = .go s1) (hra : s1.me.ra = none) : exec i s = .next (s.completed s1 h q) :=
  hx.trans ((State.issue_ready hr ht).trans (congrArg _ (hb ▸ State.conclude_go h ht hra)))

theorem State.completed_me : (s.completed s1 h q).me = s.me.order (s1.me.advance h s.me.longs s.serial) h q false := State.me_upd _ _

theorem completed_advanced (hcur : s1.cur = s.cur) (hpc : s1.me.pc = s.me.pc) (hsrep : s1.me.srep = s.me.srep) :
    Advanced s (s.completed s1 h q) where
  pc := by rw [State.completed_me, Slot.order_pc, Slot.advance_pc, Slot.pcAfter, hpc, hsrep]; rfl
  srep := by rw [State.completed_me, Slot.order_srep, Slot.advance_srep, Slot.repsAfter, hsrep]; rfl
  cur := hcur

theorem completed_slotKept {cs : List Nat} (hk : SlotKept s.me s1.me cs) : SlotKept s.me (s.completed s1 h q).me cs := by
  rw [State.completed_me]
  exact hk.advance

theorem completed_slot_other {j : SlotId} (hcur : s1.cur = s.cur) (hj : j ≠ s.cur.2) :
    (s.completed s1 h q).slot s.cur.1 j = s1.slot s.cur.1 j := by
  rw [State.completed, State.upd, hcur]
  exact State.slot_modSlot_other _ _ _ _ _ hj

theorem completed_memoryKept (hm : MemoryKept s s1) : MemoryKept s (s.completed s1 h q) :=
  ⟨fun a => hm.1 a, fun u a => ((OutsideKept.of_upd s1 _).store u a).trans (hm.2 u a)⟩

/-- An instruction that leaves its own slot alone completes. -/
theorem exec_go_me {i : Instr} (hx : exec i s = s.issue h q body) (hr : Ready s h q.reads q.writes) (ht : q.tokens = 0)
    (hb : body s = .go s1) (hcur : s1.cur = s.cur) (hme : s1.me = s.me) :
    exec i s = .next (s.completed s1 h q) ∧ Advanced s (s.completed s1 h q) ∧ SlotKept s.me (s.completed s1 h q).me [] :=
  ⟨exec_go hx hr ht hb (hme ▸ hr.sure), completed_advanced hcur (hme ▸ rfl) (hme ▸ rfl), completed_slotKept (hme ▸ .refl _ _)⟩

/-- An instruction that is ready and whose effect is a trap takes it, in a slot that can enter the handler. -/
theorem exec_traps {i : Instr} {code info : Nat} {val : Word} (hx : exec i s = s.issue h q body) (hr : Ready s h q.reads q.writes)
    (ht : q.tokens = 0) (hb : body s = .trap code info val) (htr : Trappable s) : Traps s i code info s.me.pc val :=
  traps_of_issue htr (hx.trans ((State.issue_ready hr ht).trans (congrArg (fun e => Host.Outcome.next (s.conclude h q e)) hb)))

theorem completed_self : s.completed s h q = s.advanced h q := rfl

end

/-! ## sstart (R127) -/

/-- What an sstart leaves of the slot it starts. -/
def Slot.started (t : Tile) (k : SlotId) (pc : Word) (x : Slot) : Slot :=
  { x.begin t k t.round pc with active := false, starting := some (t.cycle + 8) }

theorem begun_started (x : Slot) (t : Tile) (k : SlotId) (pc : Word) : Begun t k { x.started t k pc with active := true } pc where
  args := ⟨rfl, rfl, rfl, rfl, rfl⟩
  g n hn := by
    have h0 : n ≠ 0 := by rintro rfl; exact absurd hn (by decide)
    have hlt := n.isLt
    simp only [Slot.gr, if_neg h0, Slot.started, Slot.begin]
    rw [Vector.getElem_set_ne _ _ (by omega), Vector.getElem_set_ne _ _ (by omega), Vector.getElem_set_ne _ _ (by omega),
      Vector.getElem_set_ne _ _ (by omega), Vector.getElem_set_ne _ _ (by omega), Vector.getElem_replicate]
  f n := by simp [Slot.fr, Slot.started, Slot.begin]
  v n := by simp [Slot.vr, Slot.started, Slot.begin]
  p n hn := by rw [Slot.pr, if_neg hn]; simp [Slot.started, Slot.begin]
  k n := by simp [Slot.kr, Slot.started, Slot.begin]
  pc := rfl
  active := ⟨rfl, rfl⟩
  zero := ⟨rfl, rfl⟩
  checked := ⟨rfl, rfl⟩
  streams n := by simp [Slot.started, Slot.begin]

section
variable {s : State} {h : Hdr} {a b : G} {k : SlotId}

/-- What an sstart asks for. -/
def Req.slotStart (a b : G) : Req := { reads := [rG a, rG b], deep := [rG a], outside := true }

/-- The module with slot k of the tile started at an entry. -/
def State.started (s : State) (k : SlotId) (pc : Word) : State :=
  s.modSlot s.cur.1 k (Slot.started s.myTile k pc)

theorem started_cur {pc : Word} : (s.started k pc).cur = s.cur := rfl

theorem started_slot {pc : Word} : (s.started k pc).slot s.cur.1 k = (s.slot s.cur.1 k).started s.myTile k pc := State.slot_modSlot_same _ _ _ _

theorem started_slot_other {pc : Word} {j : SlotId} (hj : j ≠ k) : (s.started k pc).slot s.cur.1 j = s.slot s.cur.1 j :=
  State.slot_modSlot_other _ _ _ _ _ hj

/-- The effect of an sstart. -/
def State.sstart (s : State) (a b : G) : Eff :=
  if (s.me.gr a).toNat > 31 then .trap cProt 0 (s.me.gr a)
  else if (s.slot s.cur.1 (slotOf (s.me.gr a).toNat)).active then .go s
  else .go (s.started (slotOf (s.me.gr a).toNat) (s.me.gr b))

theorem exec_sstart_eq (h : Hdr) (a b : G) (s : State) : exec (.sstart h a b) s = s.issue h (Req.slotStart a b) (·.sstart a b) := rfl

theorem sstart_inactive (hn : (s.me.gr a).toNat ≤ 31) (hx : (s.slot s.cur.1 (slotOf (s.me.gr a).toNat)).active = false) :
    s.sstart a b = .go (s.started (slotOf (s.me.gr a).toNat) (s.me.gr b)) :=
  (if_neg (Nat.not_lt.2 hn)).trans (if_neg (Bool.eq_false_iff.1 hx))

theorem exec_sstart (hr : Ready s h [rG a, rG b] []) (hn : (s.me.gr a).toNat ≤ 31) (hk : slotOf (s.me.gr a).toNat = k)
    (hx : (s.slot s.cur.1 k).active = false) (hne : k ≠ s.cur.2) : ∃ t, exec (.sstart h a b) s = .next t ∧ Advanced s t ∧
      SlotKept s.me t.me [] ∧ Begun s.myTile k { t.slot s.cur.1 k with active := true } (s.me.gr b) ∧
      (t.slot s.cur.1 k).active = false ∧ (t.slot s.cur.1 k).starting = some (s.myTile.cycle + 8) ∧
      (t.slot s.cur.1 k).sbarCnt = (s.slot s.cur.1 k).sbarCnt ∧
      (∀ j, j ≠ k → j ≠ s.cur.2 → t.slot s.cur.1 j = s.slot s.cur.1 j) ∧ t.hbm = s.hbm := by
  subst hk
  have hme : (s.started (slotOf (s.me.gr a).toNat) (s.me.gr b)).me = s.me := started_slot_other hne.symm
  obtain ⟨hnext, hadv, hkept⟩ := exec_go_me (s1 := s.started (slotOf (s.me.gr a).toNat) (s.me.gr b)) (exec_sstart_eq h a b s) hr rfl
    (sstart_inactive hn hx) rfl hme
  have hslot : (s.completed (s.started (slotOf (s.me.gr a).toNat) (s.me.gr b)) h (Req.slotStart a b)).slot s.cur.1 (slotOf (s.me.gr a).toNat) =
      (s.slot s.cur.1 (slotOf (s.me.gr a).toNat)).started s.myTile (slotOf (s.me.gr a).toNat) (s.me.gr b) :=
    (completed_slot_other started_cur hne).trans started_slot
  refine ⟨_, hnext, hadv, hkept, ?_, ?_, ?_, ?_, fun j hj hcur => (completed_slot_other started_cur hcur).trans (started_slot_other hj), rfl⟩
  · rw [hslot]; exact begun_started _ _ _ _
  · rw [hslot]; rfl
  · rw [hslot]; rfl
  · rw [hslot]; rfl

theorem startUp_slot {c : Nat} (hc : (s.slot s.cur.1 k).starting = some c) : (s.startUp s.cur.1 k).slot s.cur.1 k =
    if c ≤ s.myTile.cycle then { s.slot s.cur.1 k with active := true, starting := none } else s.slot s.cur.1 k := by
  simp only [State.startUp, hc]
  by_cases hle : c ≤ (s.tile s.cur.1).cycle
  · rw [if_pos hle]
    exact (State.slot_modSlot_same _ _ _ _).trans (if_pos hle).symm
  · rw [if_neg hle]
    exact (if_neg hle).symm

/-! ## sstop and rdone (R126, R127) -/

/-- The effect of an sstop of another slot. -/
theorem sstop_body (hn : (s.me.gr a).toNat ≤ 31) (hk : slotOf (s.me.gr a).toNat = k) (hne : k ≠ s.cur.2) :
    (if (s.me.gr a).toNat > 31 then Eff.trap cProt 0 (s.me.gr a)
      else if slotOf (s.me.gr a).toNat = s.cur.2 then (if s.me.ahead then .wait .ending else .own s.endSelf)
      else .go (s.stopSlot (slotOf (s.me.gr a).toNat))) = .go (s.stopSlot k) := by
  rw [if_neg (Nat.not_lt.2 hn), hk, if_neg hne]

theorem stopSlot_inactive (hx : (s.slot s.cur.1 k).active = false) : s.stopSlot k = s := by
  rw [State.stopSlot]
  simp [hx]

/-- What an sstop leaves of the slot it stops, before the slot ends. -/
def Slot.leaving (x : Slot) : Slot := if x.ahead then x.dropUnconfirmed else x

/-- The tile without what slot k has in the matrix array, and without what it gives up in run-ahead. -/
def State.leaving (s : State) (k : SlotId) : State :=
  s.updTile fun t => let t1 := t.leaveMatrix (· == k)
    if (s.slot s.cur.1 k).ahead then t1.giveUp k (s.slot s.cur.1 k).leaving else t1

theorem stopSlot_active (hx : (s.slot s.cur.1 k).active = true) : s.stopSlot k =
    if (s.slot s.cur.1 k).leaving.longs = 0 then (s.leaving k).finishSlot s.cur.1 k
    else (s.leaving k).modSlot s.cur.1 k fun y => { y with park := .halting, sPark := false, yPark := none, srep := none } := by
  exact if_neg (by simp [hx])

theorem leaving_slot_other {j : SlotId} (hj : j ≠ k) : (s.leaving k).slot s.cur.1 j = s.slot s.cur.1 j := by
  rw [State.slot, State.leaving, State.updTile, State.tile_modTile_same]
  split
  · exact Tile.slot_setSlot_other _ _ _ _ hj
  · rfl

theorem leaving_store : ((s.leaving k).tile s.cur.1).store = (s.tile s.cur.1).store := by
  rw [State.leaving, State.updTile, State.tile_modTile_same]
  split <;> rfl

theorem memoryKept_trans {s t u : State} (h : MemoryKept s t) (h' : MemoryKept t u) : MemoryKept s u :=
  ⟨fun a => (h'.1 a).trans (h.1 a), fun v a => (h'.2 v a).trans (h.2 v a)⟩

theorem leaving_memoryKept : MemoryKept s (s.leaving k) := by
  refine ⟨fun a => rfl, fun u a => ?_⟩
  by_cases hu : u = s.cur.1
  · rw [hu, leaving_store]
  · rw [State.leaving, State.updTile, State.tile_modTile_other _ _ _ _ hu]

theorem modSlot_memoryKept (s : State) (t : TileId) (k : SlotId) (f : Slot → Slot) : MemoryKept s (s.modSlot t k f) := by
  refine ⟨fun a => rfl, fun u a => ?_⟩
  by_cases hu : u = t
  · rw [hu, State.tile_modSlot_same]
    rfl
  · rw [State.tile_modSlot_other _ _ _ _ _ hu]

/-- R127: what an sstop of an active slot leaves. -/
theorem stopSlot_leaves (hx : (s.slot s.cur.1 k).active = true) :
    (∀ j, j ≠ k → (s.stopSlot k).slot s.cur.1 j = s.slot s.cur.1 j) ∧ MemoryKept s (s.stopSlot k) ∧ (s.stopSlot k).cur = s.cur ∧
    (if (s.slot s.cur.1 k).leaving.longs = 0 then ((s.stopSlot k).slot s.cur.1 k).active = false
      else ((s.stopSlot k).slot s.cur.1 k).park = .halting) := by
  rw [stopSlot_active hx]
  split
  · refine ⟨fun j hj => (finishSlot_slot_other _ _ _ hj).trans (leaving_slot_other hj),
      memoryKept_trans leaving_memoryKept (finishSlot_memoryKept _ _ _), by rw [finishSlot_rest]; rfl, ?_⟩
    obtain ⟨d, hd⟩ := finishSlot_slot (s.leaving k) s.cur.1 k
    rw [hd]
    rfl
  · refine ⟨fun j hj => (State.slot_modSlot_other _ _ _ _ _ hj).trans (leaving_slot_other hj),
      memoryKept_trans leaving_memoryKept (modSlot_memoryKept _ _ _ _), rfl, ?_⟩
    rw [State.slot_modSlot_same]

/-- What an sstop asks for. -/
def Req.slotStop (a : G) : Req := { reads := [rG a], deep := [rG a], outside := true }

/-- The effect of an sstop. -/
def State.sstop (s : State) (a : G) : Eff :=
  if (s.me.gr a).toNat > 31 then .trap cProt 0 (s.me.gr a)
  else if slotOf (s.me.gr a).toNat = s.cur.2 then (if s.me.ahead then .wait .ending else .own s.endSelf)
  else .go (s.stopSlot (slotOf (s.me.gr a).toNat))

theorem exec_sstop_eq (h : Hdr) (a : G) (s : State) : exec (.sstop h a) s = s.issue h (Req.slotStop a) (·.sstop a) := rfl

/-- An sstop of another slot completes in the state that stopping the slot leaves. -/
theorem exec_sstop_other (hr : Ready s h [rG a] []) (hn : (s.me.gr a).toNat ≤ 31) (hk : slotOf (s.me.gr a).toNat = k) (hne : k ≠ s.cur.2)
    (hcur : (s.stopSlot k).cur = s.cur) (hme : (s.stopSlot k).me = s.me) :
    exec (.sstop h a) s = .next (s.completed (s.stopSlot k) h (Req.slotStop a)) ∧ Advanced s (s.completed (s.stopSlot k) h (Req.slotStop a)) ∧
      SlotKept s.me (s.completed (s.stopSlot k) h (Req.slotStop a)).me [] :=
  exec_go_me (s1 := s.stopSlot k) (exec_sstop_eq h a s) hr rfl (hk ▸ (if_neg (Nat.not_lt.2 hn)).trans (if_neg (hk ▸ hne))) hcur hme

theorem exec_sstop_active (hr : Ready s h [rG a] []) (hn : (s.me.gr a).toNat ≤ 31) (hk : slotOf (s.me.gr a).toNat = k) (hne : k ≠ s.cur.2)
    (hx : (s.slot s.cur.1 k).active = true) : ∃ t, exec (.sstop h a) s = .next t ∧ Advanced s t ∧ SlotKept s.me t.me [] ∧
      MemoryKept s t ∧ (∀ j, j ≠ k → j ≠ s.cur.2 → t.slot s.cur.1 j = s.slot s.cur.1 j) ∧
      (if (s.slot s.cur.1 k).leaving.longs = 0 then (t.slot s.cur.1 k).active = false else (t.slot s.cur.1 k).park = .halting) := by
  obtain ⟨hothers, hmem, hcur, hend⟩ := stopSlot_leaves hx
  have hme : (s.stopSlot k).me = s.me := by rw [State.me, hcur]; exact hothers _ hne.symm
  obtain ⟨hnext, hadv, hkept⟩ := exec_sstop_other hr hn hk hne hcur hme
  refine ⟨_, hnext, hadv, hkept, completed_memoryKept hmem, fun j hj hjc => (completed_slot_other hcur hjc).trans (hothers j hj), ?_⟩
  rw [completed_slot_other hcur hne]
  exact hend

theorem exec_sstop_inactive (hr : Ready s h [rG a] []) (hn : (s.me.gr a).toNat ≤ 31) (hk : slotOf (s.me.gr a).toNat = k) (hne : k ≠ s.cur.2)
    (hx : (s.slot s.cur.1 k).active = false) : ∃ t, exec (.sstop h a) s = .next t ∧ Advanced s t ∧ Kept s t [] := by
  have hstop := stopSlot_inactive hx
  obtain ⟨hnext, hadv, -⟩ := exec_sstop_other hr hn hk hne (by rw [hstop]) (by rw [hstop])
  rw [hstop] at hnext hadv
  exact ⟨_, hnext, hadv, s.advanced_kept h _⟩

/-! ## The end of the issuing slot (R126) -/

/-- An instruction that ends its own slot. -/
theorem exec_own {s s1 : State} {h : Hdr} {q : Req} {body : State → Eff} {i : Instr} (hx : exec i s = s.issue h q body)
    (hr : Ready s h q.reads q.writes) (ht : q.tokens = 0) (hb : body s = .own s1) :
    exec i s = .next (s1.upd fun y => s.me.guarded y h) :=
  hx.trans ((State.issue_ready hr ht).trans (congrArg (fun e => Host.Outcome.next (s.conclude h q e)) hb))

theorem ending_own (hra : s.me.ra = none) : (if s.me.ahead then Eff.wait .ending else .own s.endSelf) = .own s.endSelf :=
  if_neg (by simp [Slot.ahead_of_ra hra])

theorem endSelf_done (hl : s.me.longs = 0) : s.endSelf = s.finishSlot s.cur.1 s.cur.2 := if_pos hl

theorem endSelf_waits (hl : s.me.longs ≠ 0) : s.endSelf = s.upd fun x => { x with park := .ending, sPark := false, yPark := none } := if_neg hl

theorem endSelf_ends {y : Slot → Slot} (hl : s.me.longs = 0) (hy : ∀ x, (y x).active = x.active) :
    (s.endSelf.upd y).me.active = false := by
  rw [State.me_upd, hy, endSelf_done hl]
  obtain ⟨d, hd⟩ := finishSlot_slot s s.cur.1 s.cur.2
  rw [State.me, finishSlot_rest]
  exact (congrArg Slot.active hd).trans rfl

theorem endSelf_parks (hl : s.me.longs ≠ 0) :
    (s.endSelf.upd fun y => s.me.guarded y h).me.park = .ending ∧ (s.endSelf.upd fun y => s.me.guarded y h).me.active = s.me.active := by
  rw [endSelf_waits hl, State.me_upd, State.me_upd]
  exact ⟨rfl, rfl⟩

theorem endSelf_inRound (hl : s.me.longs = 0) (hidle : ∀ j, (s.slot s.cur.1 j).starting = none ∧ (j ≠ s.cur.2 → (s.slot s.cur.1 j).active = false)) :
    (s.endSelf.upd fun y => s.me.guarded y h).myTile.inRound = false := by
  rw [State.myTile_upd, endSelf_done hl]
  show (s.finishSlot s.cur.1 s.cur.2).myTile.inRound = false
  rw [State.myTile, finishSlot_rest]
  exact finishSlot_inRound hidle

/-- R126: what an instruction that ends its own slot leaves. -/
theorem exec_ends {q : Req} {body : State → Eff} {i : Instr} (hx : exec i s = s.issue h q body) (hr : Ready s h q.reads q.writes)
    (ht : q.tokens = 0) (hb : body s = .own s.endSelf) : ∃ t, exec i s = .next t ∧
      (s.me.longs ≠ 0 → t.me.park = .ending ∧ t.me.active = s.me.active) ∧
      (s.me.longs = 0 → t.me.active = false ∧
        (s.myTile.inRound = true → (∀ j, (s.slot s.cur.1 j).starting = none ∧ (j ≠ s.cur.2 → (s.slot s.cur.1 j).active = false)) →
          t.myTile.inRound = false)) :=
  ⟨_, exec_own hx hr ht hb, endSelf_parks, fun hl => ⟨endSelf_ends hl fun _ => rfl, fun _ => endSelf_inRound hl⟩⟩

theorem exec_rdone (hr : Ready s h [] []) : ∃ t, exec (.rdone h) s = .next t ∧
      (s.me.longs ≠ 0 → t.me.park = .ending ∧ t.me.active = s.me.active) ∧
      (s.me.longs = 0 → t.me.active = false ∧
        (s.myTile.inRound = true → (∀ j, (s.slot s.cur.1 j).starting = none ∧ (j ≠ s.cur.2 → (s.slot s.cur.1 j).active = false)) →
          t.myTile.inRound = false)) :=
  exec_ends (q := { outside := true }) (body := fun s => if s.me.ahead then .wait .ending else .own s.endSelf) rfl hr rfl (ending_own hr.sure)

theorem exec_sstop_self (hr : Ready s h [rG a] []) (hn : (s.me.gr a).toNat ≤ 31) (hk : slotOf (s.me.gr a).toNat = s.cur.2) :
    ∃ t, exec (.sstop h a) s = .next t ∧ (if s.me.longs = 0 then t.me.active = false else t.me.park = .ending) := by
  obtain ⟨t, hnext, hwait, hdone⟩ := exec_ends (exec_sstop_eq h a s) hr rfl
    ((if_neg (Nat.not_lt.2 hn)).trans ((if_pos hk).trans (ending_own hr.sure)))
  refine ⟨t, hnext, ?_⟩
  split
  case isTrue hl => exact (hdone hl).1
  case isFalse hl => exact (hwait hl).1

/-! ## sbar (R128) -/

/-- Every slot of a mask is inactive or has executed as many sbars as the current slot after its next one. -/
def State.allArrived (s : State) (mask : Word) : Bool :=
  allSlots.all fun j => j == s.cur.2 || !mask.getLsbD j.val || !(s.slot s.cur.1 j).active || (s.slot s.cur.1 j).sbarCnt ≥ s.me.sbarCnt + 1

/-- The module with the current slot's arrival counted. -/
def State.arrived (s : State) : State := s.upd fun x => { x with sbarCnt := x.sbarCnt + 1 }

theorem sbarOk_arrived (mask : Word) : s.arrived.myTile.sbarOk s.cur.2 mask = s.allArrived mask := by
  rw [Tile.sbarOk, State.allArrived, State.arrived, State.myTile_upd]
  refine congrArg _ (funext fun j => ?_)
  by_cases hj : j = s.cur.2
  · simp [hj]
  · rw [Tile.slot_setSlot_same, Tile.slot_setSlot_other _ _ _ _ hj]
    rfl

/-- The effect of an sbar. -/
def State.sbar (s : State) (a : G) : Eff :=
  if s.arrived.myTile.sbarOk s.cur.2 (s.me.gr a) then .go s.arrived else .park s.arrived (.sbar (s.me.gr a))

theorem exec_sbar_eq (h : Hdr) (a : G) (s : State) :
    exec (.sbar h a) s = s.issue h { reads := [rG a], outside := true } (·.sbar a) := rfl

/-- The state in which an instruction that leaves `s1` has issued and parked its slot. -/
def State.waiting (s s1 : State) (h : Hdr) (q : Req) (p : Park) : State :=
  s1.upd fun x => s.me.order { x.advance h s.me.longs s.serial with park := p } h q false

theorem waiting_me {s s1 : State} {q : Req} {p : Park} : (s.waiting s1 h q p).me =
    s.me.order { s1.me.advance h s.me.longs s.serial with park := p } h q false := State.me_upd _ _

theorem conclude_park {s s1 : State} {q : Req} (p : Park) (ht : q.tokens = 0) (hra : s.me.ra = none) (hra1 : s1.me.ra = none) :
    s.conclude h q (.park s1 p) = s.waiting s1 h q p := by
  simp only [State.conclude, Slot.ahead_of_ra hra, ht, State.charge_zero]
  exact State.countAhead_sure (by simp [hra1])

theorem waiting_advanced {s s1 : State} {q : Req} {p : Park} (hcur : s1.cur = s.cur) (hpc : s1.me.pc = s.me.pc) (hsrep : s1.me.srep = s.me.srep) :
    Advanced s (s.waiting s1 h q p) where
  pc := by rw [waiting_me, Slot.order_pc]; exact (Slot.advance_pc _ _ _ _).trans (by rw [Slot.pcAfter, hpc, hsrep]; rfl)
  srep := by rw [waiting_me, Slot.order_srep]; exact (Slot.advance_srep _ _ _ _).trans (by rw [Slot.repsAfter, hsrep]; rfl)
  cur := hcur

theorem exec_parks {s s1 : State} {h : Hdr} {q : Req} {body : State → Eff} {i : Instr} {p : Park} (hx : exec i s = s.issue h q body)
    (hr : Ready s h q.reads q.writes) (ht : q.tokens = 0) (hb : body s = .park s1 p) (hra : s1.me.ra = none) :
    exec i s = .next (s.waiting s1 h q p) :=
  hx.trans ((State.issue_ready hr ht).trans (congrArg _ (hb ▸ conclude_park p ht hr.sure hra)))

theorem arrived_me : s.arrived.me = { s.me with sbarCnt := s.me.sbarCnt + 1 } := State.me_upd _ _

theorem exec_sbar (hr : Ready s h [rG a] []) : ∃ t, exec (.sbar h a) s = .next t ∧ Advanced s t ∧ t.me.sbarCnt = s.me.sbarCnt + 1 ∧
    t.me.park = (if s.allArrived (s.me.gr a) then s.me.park else .sbar (s.me.gr a)) := by
  have hra : s.arrived.me.ra = none := by rw [arrived_me]; exact hr.sure
  have hpc : s.arrived.me.pc = s.me.pc := by rw [arrived_me]
  have hsrep : s.arrived.me.srep = s.me.srep := by rw [arrived_me]
  cases hall : s.allArrived (s.me.gr a) with
  | true =>
    refine ⟨_, exec_go (exec_sbar_eq h a s) hr rfl (if_pos ((sbarOk_arrived _).trans hall)) hra, completed_advanced rfl hpc hsrep, ?_, ?_⟩
    · simp [State.completed_me, arrived_me]
    · simp [State.completed_me, arrived_me]
  | false =>
    refine ⟨_, exec_parks (exec_sbar_eq h a s) hr rfl (if_neg (Bool.eq_false_iff.1 ((sbarOk_arrived _).trans hall))) hra,
      waiting_advanced rfl hpc hsrep, ?_, ?_⟩
    · simp [waiting_me, arrived_me]
    · simp [waiting_me]

end

/-- Settles O18: each instruction's effect on the slot it names, on its own and on the others. -/
theorem slotsStartStopAndMeet : Obligations.SlotsStartStopAndMeet := by
  intro s h a b
  refine ⟨fun hr => ⟨fun hn htr => ?_, fun hn hx => ?_, fun hn hx hne => exec_sstart hr hn rfl hx hne, fun _ hc => startUp_slot hc⟩,
    fun hr => ⟨fun hn htr => ?_, fun hn hx hne => exec_sstop_inactive hr hn rfl hne hx, fun hn hx hne hahead => ?_,
      fun hn hx hne hahead => ?_, fun hn hk => exec_sstop_self hr hn hk, exec_sbar hr⟩, exec_rdone⟩
  · exact exec_traps (exec_sstart_eq h a b s) hr rfl (if_pos hn) htr
  · exact ⟨_, (exec_go_me (s1 := s) (exec_sstart_eq h a b s) hr rfl ((if_neg (Nat.not_lt.2 hn)).trans (if_pos hx)) rfl rfl).1,
      s.advanced_advanced h _, s.advanced_kept h _⟩
  · exact exec_traps (exec_sstop_eq h a s) hr rfl (if_pos hn) htr
  · have hend := exec_sstop_active hr hn rfl hne hx
    rwa [Slot.leaving, if_neg (Bool.eq_false_iff.1 hahead)] at hend
  · obtain ⟨t, hnext, hadv, -, -, -, hend⟩ := exec_sstop_active hr hn rfl hne hx
    rw [Slot.leaving, if_pos hahead] at hend
    exact ⟨t, hnext, hadv, hend⟩

end Sys2Proof.Machine
end


section
/-! SUPPORT for O19 and O46. The end of launches and objects (R109 to R111): which tiles halt, which launches end, and what completing objects leaves. -/
namespace Sys2Proof.Machine
open Sys2Proof Sys2Proof.Claims

/-! ## A tile halted by a cancel (R111) -/

/-- The slots of a tile have only stopped, and given up run-ahead; it serves the launch it served. -/
structure Tile.OnlyStops (x y : Tile) : Prop where
  active : ∀ k, (x.slot k).active = false → (y.slot k).active = false
  sure : ∀ k, (x.slot k).ra = none → (y.slot k).ra = none
  launch : y.launch = x.launch

theorem Tile.OnlyStops.refl (x : Tile) : x.OnlyStops x := ⟨fun _ h => h, fun _ h => h, rfl⟩

theorem Tile.OnlyStops.trans {x y z : Tile} (h : x.OnlyStops y) (h' : y.OnlyStops z) : x.OnlyStops z where
  active k hk := h'.active k (h.active k hk)
  sure k hk := h'.sure k (h.sure k hk)
  launch := h'.launch.trans h.launch

/-- A change of a tile that keeps its slots and its launch. -/
theorem Tile.OnlyStops.of_slots {x y : Tile} (hs : y.slots = x.slots) (hl : y.launch = x.launch) : x.OnlyStops y where
  active k hk := by simpa only [Tile.slot, hs] using hk
  sure k hk := by simpa only [Tile.slot, hs] using hk
  launch := hl

/-- A change of every slot that keeps `active` and run-ahead. -/
theorem Tile.OnlyStops.of_map {x y : Tile} {f : Slot → Slot} (hs : y.slots = x.slots.map f) (hl : y.launch = x.launch)
    (ha : ∀ z, (f z).active = z.active) (hr : ∀ z, (f z).ra = z.ra) : x.OnlyStops y := by
  have hslot (k : SlotId) : y.slot k = f (x.slot k) := by simp [Tile.slot, hs]
  exact ⟨fun k hk => by rw [hslot, ha, hk], fun k hk => by rw [hslot, hr, hk], hl⟩

/-- One step of a halt: slot k, if it is active or about to be, becomes what `f` makes of it. -/
def Tile.haltSlot (f : Slot → Slot) (t : Tile) (k : SlotId) : Tile :=
  if (t.slot k).active || (t.slot k).starting.isSome then t.giveUp k (f (t.slot k)) else t

theorem mem_allSlots (k : SlotId) : k ∈ allSlots := by
  refine List.mem_map.2 ⟨k.val, ?_, Fin.ext (Nat.mod_eq_of_lt k.isLt)⟩
  rw [natsFrom_zero]
  exact List.mem_range.2 k.isLt

theorem haltSlots_eq (f : Slot → Slot) (t : Tile) : t.haltSlots f = allSlots.foldl (Tile.haltSlot f) (t.leaveMatrix fun _ => true) := rfl

section
variable {f : Slot → Slot} (hactive : ∀ x, (f x).active = false) (hsure : ∀ x, x.ra = none → (f x).ra = none)
include hactive

include hsure in
theorem haltSlot_onlyStops (t : Tile) (k : SlotId) : t.OnlyStops (t.haltSlot f k) := by
  rw [Tile.haltSlot]
  split
  case isFalse => exact .refl t
  case isTrue =>
    refine ⟨fun j hj => ?_, fun j hj => ?_, rfl⟩ <;> by_cases hjk : j = k
    · rw [hjk]; exact (congrArg Slot.active (Tile.slot_setSlot_same _ _ _)).trans (hactive _)
    · exact (congrArg Slot.active (Tile.slot_setSlot_other _ _ _ _ hjk)).trans hj
    · rw [hjk]; exact (congrArg Slot.ra (Tile.slot_setSlot_same _ _ _)).trans (hsure _ (hjk ▸ hj))
    · exact (congrArg Slot.ra (Tile.slot_setSlot_other _ _ _ _ hjk)).trans hj

theorem haltSlot_inactive (t : Tile) (k : SlotId) : ((t.haltSlot f k).slot k).active = false := by
  rw [Tile.haltSlot]
  split
  case isTrue => exact (congrArg Slot.active (Tile.slot_setSlot_same _ _ _)).trans (hactive _)
  case isFalse h => exact (Bool.or_eq_false_iff.1 (Bool.eq_false_iff.2 h)).1

include hsure

theorem foldl_haltSlot (ks : List SlotId) (t : Tile) : t.OnlyStops (ks.foldl (Tile.haltSlot f) t) ∧
    ∀ k ∈ ks, ((ks.foldl (Tile.haltSlot f) t).slot k).active = false := by
  induction ks generalizing t with
  | nil => exact ⟨.refl t, fun k hk => absurd hk List.not_mem_nil⟩
  | cons j ks ih =>
    obtain ⟨hstops, hdone⟩ := ih (t.haltSlot f j)
    refine ⟨(haltSlot_onlyStops hactive hsure t j).trans hstops, fun k hk => ?_⟩
    rcases List.mem_cons.1 hk with rfl | hk
    · exact hstops.active _ (haltSlot_inactive hactive t k)
    · exact hdone k hk

theorem haltSlots_onlyStops (t : Tile) : t.OnlyStops (t.haltSlots f) :=
  haltSlots_eq f t ▸ (Tile.OnlyStops.of_slots (x := t) (y := t.leaveMatrix fun _ => true) rfl rfl).trans (foldl_haltSlot hactive hsure allSlots _).1

theorem haltSlots_inactive (t : Tile) (k : SlotId) : ((t.haltSlots f).slot k).active = false :=
  haltSlots_eq f t ▸ (foldl_haltSlot hactive hsure allSlots _).2 k (mem_allSlots k)

end

theorem abandon_active (x : Slot) : x.abandon.active = false := by
  unfold Slot.abandon
  split
  · split <;> rfl
  · rfl

theorem halt_active (x : Slot) : x.halt.active = false := abandon_active x

theorem dropChannel_onlyStops (t : Tile) (c : Fin 4) : t.OnlyStops (t.dropChannel c) := .of_map rfl rfl (fun _ => rfl) fun _ => rfl

/-- A tile with no slot active that takes part in no more rounds. -/
def Tile.dead (y : Tile) : Prop := y.halted = true ∧ ∀ k, (y.slot k).active = false

/-- The slots of a tile halted by a cancel, its copy channels emptied. -/
def Tile.drained0 (t : Tile) : Tile := ((((t.haltSlots Slot.halt).dropChannel 0).dropChannel 1).dropChannel 2).dropChannel 3

theorem drained0_onlyStops (t : Tile) : (t.haltSlots Slot.halt).OnlyStops t.drained0 :=
  (((dropChannel_onlyStops _ 0).trans (dropChannel_onlyStops _ 1)).trans (dropChannel_onlyStops _ 2)).trans (dropChannel_onlyStops _ 3)

theorem kill_eq (t : Tile) : t.kill =
    { t.drained0 with
      inRound := false, roundsOver := true, halted := true, rerun := none, pendingTraps := [], slots := t.drained0.slots.map fun x => { x with ctxGen := x.ctxGen + 1 } } := rfl

theorem kill_onlyStops_drained (t : Tile) : t.drained0.OnlyStops t.kill := by
  rw [kill_eq]
  generalize t.drained0 = x
  exact .of_map (f := fun x => { x with ctxGen := x.ctxGen + 1 }) rfl rfl (fun _ => rfl) fun _ => rfl

theorem kill_onlyStops (t : Tile) : t.OnlyStops t.kill :=
  ((haltSlots_onlyStops halt_active (fun _ _ => rfl) t).trans (drained0_onlyStops t)).trans (kill_onlyStops_drained t)

theorem kill_dead (t : Tile) : t.kill.dead :=
  ⟨rfl, fun k => ((drained0_onlyStops t).trans (kill_onlyStops_drained t)).active k (haltSlots_inactive halt_active (fun _ _ => rfl) t k)⟩

/-! ## The launches of a partition -/

theorem part_setPart_same (s : State) (p : Nat) (x : Part) : (s.setPart p x).part p = x := mapGet_mapSet_same _ _ _ _

theorem part_setPart_other (s : State) (x : Part) {p q : Nat} (h : q ≠ p) : (s.setPart p x).part q = s.part q := mapGet_mapSet_other _ _ _ _ _ h

theorem part_modPart_same (s : State) (p : Nat) (f : Part → Part) : (s.modPart p f).part p = f (s.part p) := part_setPart_same _ _ _

theorem part_modPart_other (s : State) (f : Part → Part) {p q : Nat} (h : q ≠ p) : (s.modPart p f).part q = s.part q := part_setPart_other _ _ h

theorem launch_congr {s t : State} {tag e : Nat} (h : (t.part tag).launches = (s.part tag).launches) : t.launch tag e = s.launch tag e := by
  rw [State.launch, State.launch, h]

theorem launch_setLaunch_same {s : State} {tag e : Nat} {l : Launch} (hl : l.live = true) : (s.setLaunch tag e l).launch tag e = some l := by
  rw [State.launch, State.setLaunch, part_modPart_same, mapFind_mapSet_same]
  exact if_pos hl

theorem launch_setLaunch_other {s : State} {tag e e' : Nat} {l : Launch} (he : e' ≠ e) : (s.setLaunch tag e l).launch tag e' = s.launch tag e' := by
  rw [State.launch, State.setLaunch, part_modPart_same, mapFind_mapSet_other _ _ _ _ he]
  rfl

theorem live_of_launch {s : State} {tag e : Nat} {l : Launch} (h : s.launch tag e = some l) :
    mapFind (s.part tag).launches e = some l ∧ l.live = true := by
  rw [State.launch] at h
  split at h
  case h_2 => cases h
  case h_1 l' hfind =>
    split at h
    case isFalse => cases h
    case isTrue hlive =>
      cases h
      exact ⟨hfind, hlive⟩

/-! ## A change of several tiles -/

section
variable {f : Tile → Tile} {ts : List TileId} {s : State} {u : TileId}

theorem foldl_modTile_rest (ts : List TileId) (s : State) (f : Tile → Tile) : ts.foldl (fun s t => s.modTile t f) s =
    { s with tiles := (ts.foldl (fun s t => s.modTile t f) s).tiles } := by
  induction ts generalizing s with
  | nil => rfl
  | cons t ts ih => rw [List.foldl_cons, ih]; rfl

theorem foldl_modTile_keeps {P : Tile → Prop} (hf : ∀ y, P y → P (f y)) (h : P (s.tile u)) :
    P ((ts.foldl (fun s t => s.modTile t f) s).tile u) := by
  induction ts generalizing s with
  | nil => exact h
  | cons t ts ih =>
    refine ih ?_
    by_cases hu : u = t
    · rw [hu, State.tile_modTile_same]; exact hf _ (hu ▸ h)
    · rw [State.tile_modTile_other _ _ _ _ hu]; exact h

theorem foldl_modTile_of_mem {P : Tile → Prop} (hf : ∀ y, P (f y)) (hu : u ∈ ts) : P ((ts.foldl (fun s t => s.modTile t f) s).tile u) := by
  induction ts generalizing s with
  | nil => exact absurd hu List.not_mem_nil
  | cons t ts ih =>
    rcases List.mem_cons.1 hu with rfl | hu
    · exact foldl_modTile_keeps (s := s.modTile u f) (fun y _ => hf y) ((congrArg P (State.tile_modTile_same s u f)).mpr (hf _))
    · exact ih hu

end

/-! ## The end of launches (R111) -/

/-- What ending launches of a partition with a status leaves: launches that ended already, the tile lists, and tiles that have only stopped. -/
structure EndFrame (s t : State) (tag : Nat) (st : Byte) : Prop where
  cur : t.cur = s.cur
  tiles : ∀ u, (s.tile u).OnlyStops (t.tile u)
  dead : ∀ u, (s.tile u).dead → (t.tile u).dead
  tileList : (t.part tag).tileList = (s.part tag).tileList
  launch : ∀ e, t.launch tag e = s.launch tag e ∨
    ∃ l, s.launch tag e = some l ∧ l.ending = none ∧ t.launch tag e = some { l with ending := some st }

/-- A live launch has ended with a status, and its tiles have halted. -/
def Ended (s t : State) (tag e : Nat) (l : Launch) (st : Byte) : Prop :=
  t.launch tag e = some { l with ending := some st } ∧ ∀ u ∈ s.launchTiles tag e, (t.tile u).dead

section
variable {s t u : State} {tag e : Nat} {st : Byte} {l : Launch}

theorem EndFrame.refl (s : State) : EndFrame s s tag st := ⟨rfl, fun _ => .refl _, fun _ h => h, rfl, fun _ => .inl rfl⟩

theorem EndFrame.trans (h : EndFrame s t tag st) (h' : EndFrame t u tag st) : EndFrame s u tag st where
  cur := h'.cur.trans h.cur
  tiles v := (h.tiles v).trans (h'.tiles v)
  dead v hv := h'.dead v (h.dead v hv)
  tileList := h'.tileList.trans h.tileList
  launch e := by
    rcases h'.launch e with hsame | ⟨l, hl, hnone, hend⟩
    · rw [hsame]; exact h.launch e
    · rcases h.launch e with hsame | ⟨l', -, -, hend'⟩
      · exact .inr ⟨l, hsame ▸ hl, hnone, hend⟩
      · rw [hend'] at hl
        cases hl
        cases hnone

theorem EndFrame.launchTiles (h : EndFrame s t tag st) (e : Nat) : t.launchTiles tag e = s.launchTiles tag e := by
  simp only [State.launchTiles, h.tileList, (h.tiles _).launch]

theorem EndFrame.ended (h : EndFrame t u tag st) (he : Ended s t tag e l st) : Ended s u tag e l st := by
  refine ⟨?_, fun v hv => h.dead v (he.2 v hv)⟩
  rcases h.launch e with hsame | ⟨l', hl', hnone, -⟩
  · exact hsame.trans he.1
  · rw [he.1] at hl'
    cases hl'
    cases hnone

/-- The module with a launch out of its queue. -/
def State.outOfQueues (s : State) (tag e : Nat) : State := { s with queues := s.queues.map fun q => q.filter fun x => x ≠ (tag, e) }

/-- The module when a live launch ends, before its tiles halt: its status is set, and it leaves its queue and the saved contexts. -/
def State.ending (s : State) (tag e : Nat) (l : Launch) (st : Byte) : State :=
  ((s.setLaunch tag e { l with ending := some st }).outOfQueues tag e).dropSaved tag e

theorem setLaunch_tileList : ((s.setLaunch tag e l).part tag).tileList = (s.part tag).tileList := by
  rw [State.setLaunch, part_modPart_same]
  rfl

theorem endLaunch_live (hl : s.launch tag e = some l) (hend : l.ending = none) : s.endLaunch tag e st =
    (s.launchTiles tag e).foldl (fun s t => s.modTile t Tile.kill) (s.ending tag e l st) := by
  have htiles : ((s.setLaunch tag e { l with ending := some st }).outOfQueues tag e).launchTiles tag e = s.launchTiles tag e :=
    congrArg (fun ts : List TileId => ts.filter fun t => (s.tile t).launch == some e) setLaunch_tileList
  rw [← htiles]
  simp only [State.endLaunch, hl, hend]
  rfl

theorem endLaunch_of_not_live (h : ∀ l, s.launch tag e = some l → l.ending ≠ none) : s.endLaunch tag e st = s := by
  rw [State.endLaunch]
  split
  · rfl
  case h_2 l hl => exact if_pos (Option.isSome_iff_ne_none.2 (h l hl))

theorem endLaunch_other {e' : Nat} (he : e' ≠ e) : (s.endLaunch tag e st).launch tag e' = s.launch tag e' := by
  by_cases h : ∃ l, s.launch tag e = some l ∧ l.ending = none
  · obtain ⟨l, hl, hend⟩ := h
    rw [endLaunch_live hl hend, foldl_modTile_rest]
    exact launch_setLaunch_other he
  · rw [endLaunch_of_not_live fun l hl hend => h ⟨l, hl, hend⟩]

theorem endLaunch_ended (hl : s.launch tag e = some l) (hend : l.ending = none) : Ended s (s.endLaunch tag e st) tag e l st := by
  rw [endLaunch_live hl hend]
  refine ⟨?_, fun u hu => foldl_modTile_of_mem (P := Tile.dead) kill_dead hu⟩
  rw [foldl_modTile_rest]
  exact launch_setLaunch_same (live_of_launch hl).2

theorem endLaunch_frame (s : State) (tag e : Nat) (st : Byte) : EndFrame s (s.endLaunch tag e st) tag st := by
  by_cases h : ∃ l, s.launch tag e = some l ∧ l.ending = none
  case neg => rw [endLaunch_of_not_live fun l hl hend => h ⟨l, hl, hend⟩]; exact .refl s
  case pos =>
    obtain ⟨l, hl, hend⟩ := h
    refine ⟨?_, fun u => ?_, fun u hu => ?_, ?_, fun e' => ?_⟩
    · rw [endLaunch_live hl hend, foldl_modTile_rest]; rfl
    · rw [endLaunch_live hl hend]
      exact foldl_modTile_keeps (P := (s.tile u).OnlyStops) (fun y hy => hy.trans (kill_onlyStops y)) (.refl _)
    · rw [endLaunch_live hl hend]
      exact foldl_modTile_keeps (P := Tile.dead) (fun y _ => kill_dead y) hu
    · rw [endLaunch_live hl hend, foldl_modTile_rest]
      exact setLaunch_tileList
    · by_cases he : e' = e
      · subst he; exact .inr ⟨l, hl, hend, (endLaunch_ended hl hend).1⟩
      · exact .inl (endLaunch_other he)

/-- The end of several launches. -/
theorem foldl_endLaunch (ls : List (Nat × Launch)) (s : State) : EndFrame s (ls.foldl (fun s l => s.endLaunch tag l.1 st) s) tag st ∧
    (∀ e, e ∉ ls.map (·.1) → (ls.foldl (fun s l => s.endLaunch tag l.1 st) s).launch tag e = s.launch tag e) ∧
    ∀ e l, e ∈ ls.map (·.1) → s.launch tag e = some l → l.ending = none →
      Ended s (ls.foldl (fun s l => s.endLaunch tag l.1 st) s) tag e l st := by
  induction ls generalizing s with
  | nil => exact ⟨.refl s, fun _ _ => rfl, fun e l he => absurd he List.not_mem_nil⟩
  | cons a ls ih =>
    obtain ⟨hframe, hother, hended⟩ := ih (s.endLaunch tag a.1 st)
    have hfirst := endLaunch_frame s tag a.1 st
    refine ⟨hfirst.trans hframe, fun e he => ?_, fun e l he hl hend => ?_⟩
    · rw [List.map_cons, List.mem_cons, not_or] at he
      exact (hother e he.2).trans (endLaunch_other he.1)
    · by_cases hea : e = a.1
      · subst hea; exact hframe.ended (endLaunch_ended hl hend)
      · have hrest := hended e l ((List.mem_cons.1 he).resolve_left hea) ((endLaunch_other hea).trans hl) hend
        exact ⟨hrest.1, fun u hu => hrest.2 u (by rw [hfirst.launchTiles]; exact hu)⟩

end

/-! ## Completing objects (R110) -/

/-- Tiles, launches and tile lists stay: what completing objects leaves. -/
structure LaunchesKept (s t : State) : Prop where
  tiles : t.tiles = s.tiles
  cur : t.cur = s.cur
  part : ∀ g, (t.part g).launches = (s.part g).launches ∧ (t.part g).tileList = (s.part g).tileList

section
variable {s t u : State} {tag : Nat}

theorem LaunchesKept.refl (s : State) : LaunchesKept s s := ⟨rfl, rfl, fun _ => ⟨rfl, rfl⟩⟩

theorem LaunchesKept.trans (h : LaunchesKept s t) (h' : LaunchesKept t u) : LaunchesKept s u :=
  ⟨h'.tiles.trans h.tiles, h'.cur.trans h.cur, fun g => ⟨(h'.part g).1.trans (h.part g).1, (h'.part g).2.trans (h.part g).2⟩⟩

/-- A change that keeps tiles, partitions and the turn. -/
theorem LaunchesKept.of_parts (htiles : t.tiles = s.tiles) (hcur : t.cur = s.cur) (hparts : t.parts = s.parts) : LaunchesKept s t :=
  ⟨htiles, hcur, fun g => by simp [State.part, hparts]⟩

theorem LaunchesKept.setPart {p : Part} (hl : p.launches = (s.part tag).launches) (ht : p.tileList = (s.part tag).tileList) :
    LaunchesKept s (s.setPart tag p) where
  tiles := rfl
  cur := rfl
  part g := by
    by_cases hg : g = tag
    · subst hg; rw [part_setPart_same]; exact ⟨hl, ht⟩
    · rw [part_setPart_other _ _ hg]; exact ⟨rfl, rfl⟩

theorem LaunchesKept.modPart {f : Part → Part} (hl : (f (s.part tag)).launches = (s.part tag).launches)
    (ht : (f (s.part tag)).tileList = (s.part tag).tileList) : LaunchesKept s (s.modPart tag f) := .setPart hl ht

theorem LaunchesKept.foldl {α : Type} {f : State → α → State} (hf : ∀ s a, LaunchesKept s (f s a)) (l : List α) (s : State) :
    LaunchesKept s (l.foldl f s) := by
  induction l generalizing s with
  | nil => exact .refl s
  | cons a l ih => exact (hf s a).trans (ih _)

theorem LaunchesKept.writeHbmBytes {p : Part} {n : Nat} (s : State) (a x : Nat) : LaunchesKept s (s.writeHbmBytes p a x n) := by
  induction n generalizing s a x with
  | zero => exact .refl s
  | succ n ih =>
    refine LaunchesKept.trans ?_ (ih _ _ _)
    rw [State.touchBlock]
    split
    · exact .of_parts rfl rfl rfl
    · exact .of_parts rfl rfl rfl

theorem LaunchesKept.dirCount {die a : Nat} {w : Bool} (s : State) : LaunchesKept s (s.dirCount tag die a w) := by
  rw [State.dirCount]
  split
  · exact .of_parts rfl rfl rfl
  · split
    · exact .refl s
    · exact .of_parts rfl rfl rfl

theorem LaunchesKept.partWrite {a x n : Nat} (s : State) : LaunchesKept s (s.partWrite tag a x n) := by
  rw [State.partWrite]
  split
  · exact .refl s
  · exact (LaunchesKept.foldl (fun s _ => .dirCount s) _ s).trans ((LaunchesKept.writeHbmBytes _ a x).trans (.of_parts rfl rfl rfl))

theorem LaunchesKept.emit {o : Output} (s : State) : LaunchesKept s (s.emit o) := .of_parts rfl rfl rfl

theorem LaunchesKept.event {i : Instr} (s : State) : LaunchesKept s (s.event i) := .of_parts rfl rfl rfl

theorem LaunchesKept.stampTo {addr x : Nat} (s : State) : LaunchesKept s (s.stampTo tag addr x) := by
  rw [State.stampTo]
  split
  · exact .refl s
  · split
    · dsimp only
      split
      · exact .emit s
      · exact .setPart rfl rfl
    · exact .partWrite s

theorem LaunchesKept.reportFree {ws : List Word} (s : State) : LaunchesKept s (s.reportFree tag ws) :=
  LaunchesKept.foldl (fun s c => by split; exacts [.event s, .emit s]) _ s

theorem LaunchesKept.returnGrants (s : State) : LaunchesKept s (s.returnGrants tag) := by
  rw [State.returnGrants]
  refine LaunchesKept.trans (LaunchesKept.foldl (fun s c => ?_) _ s) (.modPart rfl rfl)
  dsimp only
  split
  · exact .refl s
  · split
    · exact .event s
    · exact .emit s

theorem LaunchesKept.settleGraph (s : State) (i : Nat) : LaunchesKept s (s.settleGraph tag i) := by
  simp only [State.settleGraph]
  split
  · exact .refl s
  · split
    · exact .refl s
    · exact (LaunchesKept.stampTo s).trans (.modPart rfl rfl)

theorem LaunchesKept.settlePhase (s : State) (i : Nat) : LaunchesKept s (s.settlePhase tag i) := by
  simp only [State.settlePhase]
  split
  · exact .refl s
  · split
    · exact .refl s
    · exact (LaunchesKept.stampTo s).trans (.modPart rfl rfl)

theorem LaunchesKept.settleJob (s : State) (i : Nat) : LaunchesKept s (s.settleJob tag i) := by
  simp only [State.settleJob]
  split
  · exact .refl s
  · split
    · exact .refl s
    · split
      · exact ((LaunchesKept.stampTo s).trans ((LaunchesKept.reportFree _).trans (.modPart rfl rfl))).trans (.returnGrants _)
      · exact (LaunchesKept.stampTo s).trans ((LaunchesKept.reportFree _).trans (.modPart rfl rfl))

theorem LaunchesKept.settle (s : State) (tag : Nat) : LaunchesKept s (s.settle tag) :=
  ((LaunchesKept.foldl (fun s i => .settleGraph s i) _ s).trans (.foldl (fun s i => .settlePhase s i) _ _)).trans
    (.foldl (fun s i => .settleJob s i) _ _)

theorem LaunchesKept.launch (h : LaunchesKept s t) (tag e : Nat) : t.launch tag e = s.launch tag e := launch_congr (h.part tag).1

theorem LaunchesKept.tile (h : LaunchesKept s t) (u : TileId) : t.tile u = s.tile u := congrFun (State.tile_of_tiles h.tiles) u

end

end Sys2Proof.Machine
end


section
/-! O19: launch, lfin, cancel and ccount. -/
namespace Sys2Proof.Machine
open Sys2Proof Sys2Proof.Claims

/-! ## What cancel ends (R111, R131) -/

section
variable {s t : State} {tag : Nat} {st : Byte} {n e : Nat} {l : Launch}

theorem LaunchesKept.endFrame (h : LaunchesKept s t) : EndFrame s t tag st where
  cur := h.cur
  tiles u := by rw [h.tile]; exact .refl _
  dead u hu := by rw [h.tile]; exact hu
  tileList := (h.part tag).2
  launch e := .inl (h.launch tag e)

/-- A live launch below an instance, under this number. -/
def Part.launchUnder (p : Part) (n e : Nat) : Bool := p.launches.any fun l => l.1 == e && l.2.live && l.2.up.contains n

/-- The live launches below an instance. -/
def Part.launchesUnder (p : Part) (n : Nat) : List (Nat × Launch) := p.launches.filter fun l => l.2.live && l.2.up.contains n

theorem mem_launchesUnder {p : Part} : e ∈ (p.launchesUnder n).map (·.1) ↔ p.launchUnder n e = true := by
  simp only [Part.launchesUnder, Part.launchUnder, List.mem_map, List.mem_filter, List.any_eq_true, Bool.and_eq_true, beq_iff_eq]
  constructor
  · rintro ⟨l, ⟨hl, hlive, hup⟩, rfl⟩; exact ⟨l, hl, ⟨rfl, hlive⟩, hup⟩
  · rintro ⟨l, hl, ⟨rfl, hlive⟩, hup⟩; exact ⟨l, ⟨hl, hlive, hup⟩, rfl⟩

/-- What the end of an object does to the launches, `under` those below it: they end with the status, no other one changes, and where there is none
no tile does. -/
structure EndsUnder (s t : State) (tag : Nat) (st : Byte) (under : Nat → Bool) : Prop where
  frame : EndFrame s t tag st
  other : ∀ e, under e = false → t.launch tag e = s.launch tag e
  ended : ∀ e l, under e = true → s.launch tag e = some l → l.ending = none → Ended s t tag e l st
  idle : (∀ e l, s.launch tag e = some l → under e = false) → t.tiles = s.tiles

theorem EndsUnder.of_kept {under : Nat → Bool} (h : LaunchesKept s t) (hu : ∀ e, under e = false) : EndsUnder s t tag st under where
  frame := h.endFrame
  other e _ := h.launch tag e
  ended e l he := by rw [hu] at he; cases he
  idle _ := h.tiles

/-- Completing what is due afterwards changes none of it. -/
theorem EndsUnder.then_kept {u : State} {under : Nat → Bool} (h : EndsUnder s t tag st under) (h' : LaunchesKept t u) :
    EndsUnder s u tag st under where
  frame := h.frame.trans h'.endFrame
  other e he := (h'.launch tag e).trans (h.other e he)
  ended e l he hl hend := (LaunchesKept.endFrame h').ended (h.ended e l he hl hend)
  idle hi := h'.tiles.trans (h.idle hi)

theorem foldl_endLaunch_idle {ls : List (Nat × Launch)} (h : ∀ a ∈ ls, s.launch tag a.1 = none) :
    ls.foldl (fun s l => s.endLaunch tag l.1 st) s = s := by
  induction ls with
  | nil => rfl
  | cons a ls ih =>
    rw [List.foldl_cons, endLaunch_of_not_live fun l hl => by rw [h a List.mem_cons_self] at hl; cases hl]
    exact ih fun b hb => h b (List.mem_cons_of_mem _ hb)

/-- The module with the objects of an instance and below it ending. -/
def State.objectsEnding (s : State) (tag n : Nat) (st : Byte) : State :=
  s.modPart tag fun p => { p with graphs := endIn p.graphs n st, phases := endIn p.phases n st, jobs := endIn p.jobs n st }

theorem objectsEnding_kept (s : State) (tag n : Nat) (st : Byte) : LaunchesKept s (s.objectsEnding tag n st) := .modPart rfl rfl

theorem endInst_eq (s : State) (tag n : Nat) (st : Byte) : s.endInst tag n st =
    ((s.part tag).launchesUnder n).foldl (fun s l => s.endLaunch tag l.1 st) (s.objectsEnding tag n st) := by
  rw [Part.launchesUnder, ← ((objectsEnding_kept s tag n st).part tag).1]
  rfl

theorem endInst_endsUnder (s : State) (tag n : Nat) (st : Byte) : EndsUnder s (s.endInst tag n st) tag st ((s.part tag).launchUnder n) := by
  have hpre := objectsEnding_kept s tag n st
  rw [endInst_eq]
  obtain ⟨hframe, hother, hended⟩ := foldl_endLaunch (tag := tag) (st := st) ((s.part tag).launchesUnder n) (s.objectsEnding tag n st)
  refine ⟨hpre.endFrame.trans hframe, fun e he => ?_, fun e l he hl hend => ?_, fun hidle => ?_⟩
  · refine (hother e ?_).trans (hpre.launch tag e)
    rw [mem_launchesUnder, he]
    exact Bool.false_ne_true
  · obtain ⟨hlaunch, hdead⟩ := hended e l (mem_launchesUnder.2 he) ((hpre.launch tag e).trans hl) hend
    exact ⟨hlaunch, fun u hu => hdead u (by rw [(LaunchesKept.endFrame (st := st) hpre).launchTiles]; exact hu)⟩
  · rw [foldl_endLaunch_idle]
    · exact hpre.tiles
    · intro a ha
      rw [hpre.launch tag a.1]
      cases hl : s.launch tag a.1 with
      | none => rfl
      | some l =>
        have hunder : (s.part tag).launchUnder n a.1 = true := mem_launchesUnder.1 (List.mem_map_of_mem ha)
        rw [hidle a.1 l hl] at hunder
        cases hunder

theorem endLaunch_endsUnder (hl : s.launch tag n = some l) : EndsUnder s (s.endLaunch tag n st) tag st (· == n) where
  frame := endLaunch_frame s tag n st
  other e he := endLaunch_other (by simpa using he)
  ended e l' he hl' hend := by
    obtain rfl : e = n := by simpa using he
    exact endLaunch_ended hl' hend
  idle hi := by simpa using hi n l hl

end

section
variable {s : State}

/-- The live launches below the live object of an index, if there is one. -/
def Part.launchUnderAt (p : Part) (m : Map Obj) (i e : Nat) : Bool :=
  match mapFind m i with
  | some o => p.launchUnder o.inst e
  | none => false

theorem endAt_endsUnder (s : State) (tag : Nat) (m : Map Obj) (i : Nat) (st : Byte) :
    EndsUnder s (s.endAt tag m i st) tag st ((s.part tag).launchUnderAt m i) := by
  unfold State.endAt
  split
  case h_1 o ho =>
    have hunder : (s.part tag).launchUnderAt m i = (s.part tag).launchUnder o.inst := by
      funext e
      simp only [Part.launchUnderAt, ho]
    exact hunder ▸ endInst_endsUnder s tag o.inst st
  case h_2 ho => exact .of_kept (.refl s) fun e => by simp [Part.launchUnderAt, ho]

/-- R109: an identifier names the launch in the entry of its low byte, if the generation is its own. -/
theorem underObject_launch {id e : Nat} {l : Launch} (hl : s.launch s.myTag e = some l) :
    underObject s 1 id e = true ↔ e = id % 256 ∧ id = id % 256 + l.gen.toNat * 256 := by
  simp only [underObject, hl, Bool.and_eq_true, beq_iff_eq, decide_eq_true_eq]
  constructor
  · rintro ⟨hid, he⟩; omega
  · rintro ⟨he, hid⟩; omega

theorem underObject_launch_none {id e : Nat} (hl : s.launch s.myTag e = none) : underObject s 1 id e = false := by simp only [underObject, hl]

/-- The launch that an identifier names ends, or nothing does. -/
theorem endIdentified_endsUnder (s : State) (id : Nat) : EndsUnder s (match s.launch s.myTag (id % 256) with
      | some l => if id = id % 256 + l.gen.toNat * 256 then s.endLaunch s.myTag (id % 256) 3 else s
      | none => s) s.myTag 3 (underObject s 1 id) := by
  have hunder {e : Nat} (he : underObject s 1 id e = true) :
      ∃ l, s.launch s.myTag (id % 256) = some l ∧ e = id % 256 ∧ id = id % 256 + l.gen.toNat * 256 := by
    cases hl : s.launch s.myTag e with
    | none => rw [underObject_launch_none hl] at he; cases he
    | some l =>
      obtain ⟨rfl, hid⟩ := (underObject_launch hl).1 he
      exact ⟨l, hl, rfl, hid⟩
  split
  case h_2 hnone =>
    refine .of_kept (.refl s) fun e => Bool.eq_false_iff.2 fun he => ?_
    obtain ⟨l, hl, -⟩ := hunder he
    rw [hnone] at hl
    cases hl
  case h_1 l hl =>
    split
    case isFalse hid =>
      refine .of_kept (.refl s) fun e => Bool.eq_false_iff.2 fun he => ?_
      obtain ⟨l', hl', -, hid'⟩ := hunder he
      obtain rfl : l = l' := Option.some.inj (hl.symm.trans hl')
      exact hid hid'
    case isTrue hid =>
      have hself : underObject s 1 id = (· == id % 256) := by
        funext e
        rw [Bool.eq_iff_iff, beq_iff_eq]
        constructor
        · intro he
          obtain ⟨-, -, he', -⟩ := hunder he
          exact he'
        · rintro rfl
          exact (underObject_launch hl).2 ⟨rfl, hid⟩
      exact hself ▸ endLaunch_endsUnder hl

/-- R131: what a cancel does to the launches of its partition. -/
theorem endObject_endsUnder (s : State) (level id : Nat) :
    EndsUnder s (s.endObject s.myTag level id 3) s.myTag 3 (underObject s level id) := by
  match level with
  | 0 => exact (endAt_endsUnder s s.myTag s.myPart.jobs id 3).then_kept (.settle _ _)
  | 1 => exact (endIdentified_endsUnder s id).then_kept (.settle _ _)
  | 2 => exact (endAt_endsUnder s s.myTag s.myPart.graphs id 3).then_kept (.settle _ _)
  | 3 => exact (endAt_endsUnder s s.myTag s.myPart.phases id 3).then_kept (.settle _ _)
  | _ + 4 => exact (endAt_endsUnder s s.myTag s.myPart.jobs id 3).then_kept (.settle _ _)

end

/-! ## lfin (R130) -/

section
variable {s : State} {h : Hdr} {a b d : G} {e : Nat} {l : Launch}

/-- The launch with lfin's code, its tiles' rounds over. -/
def State.launchFinished (s : State) (e : Nat) (l : Launch) (code : Byte) : State :=
  (s.launchTiles s.myTag e).foldl (fun s u => s.modTile u fun y => { y with roundsOver := true, rerun := none })
    (s.setLaunch s.myTag e { l with fin := some code })

theorem lfinDo_eq (he : s.myTile.launch = some e) (hl : s.launch s.myTag e = some l) (code : Byte) :
    s.lfinDo s.cur.1 code = if l.fin.isSome then s else s.launchFinished e l code := by
  have hl' : s.launch (s.tile s.cur.1).tag.toNat e = some l := hl
  have he' : (s.tile s.cur.1).launch = some e := he
  simp only [State.lfinDo, he', hl']
  rfl

theorem launchFinished_cur {code : Byte} : (s.launchFinished e l code).cur = s.cur := by rw [State.launchFinished, foldl_modTile_rest]; rfl

theorem launchFinished_me {code : Byte} : (s.launchFinished e l code).me = s.me := by
  rw [State.me, launchFinished_cur]
  exact foldl_modTile_keeps (P := fun y => y.slot s.cur.2 = s.me) (fun y hy => hy) rfl

/-- A change of the current slot leaves all else of every tile. -/
theorem tile_upd (s : State) (f : Slot → Slot) (u : TileId) : ∃ slots, (s.upd f).tile u = { s.tile u with slots } := by
  by_cases hu : u = s.cur.1
  · subst hu
    exact ⟨_, State.tile_modSlot_same _ _ _ _⟩
  · exact ⟨(s.tile u).slots, State.tile_modSlot_other _ _ _ _ _ hu⟩

theorem exec_lfin (hr : Ready s h [rG a] []) (he : s.myTile.launch = some e) (hl : s.launch s.myTag e = some l) :
    ∃ t, exec (.lfin h a) s = .next t ∧ Advanced s t ∧ SlotKept s.me t.me [] ∧
      t.launch s.myTag e = some (if l.fin.isSome then l else { l with fin := some ((s.me.gr a).setWidth 8) }) ∧
      (l.fin = none → ∀ u ∈ s.launchTiles s.myTag e, (t.tile u).roundsOver = true) := by
  have hbody : (if s.me.ra.isSome then Eff.go (s.addOp (Op.plain (.act (.lfin ((s.me.gr a).setWidth 8)))) true)
      else .go (s.lfinDo s.cur.1 ((s.me.gr a).setWidth 8))) = .go (if l.fin.isSome then s else s.launchFinished e l ((s.me.gr a).setWidth 8)) := by
    rw [← lfinDo_eq he hl]
    exact if_neg (by simp [hr.sure])
  cases hfin : l.fin with
  | some c =>
    rw [hfin] at hbody
    obtain ⟨hnext, hadv, hkept⟩ := exec_go_me (i := .lfin h a) (q := { reads := [rG a], mem := true }) (s1 := s) rfl hr rfl hbody rfl rfl
    exact ⟨_, hnext, hadv, hkept, hl, fun hnone => by cases hnone⟩
  | none =>
    rw [hfin] at hbody
    obtain ⟨hnext, hadv, hkept⟩ := exec_go_me (i := .lfin h a) (q := { reads := [rG a], mem := true })
      (s1 := s.launchFinished e l ((s.me.gr a).setWidth 8)) rfl hr rfl hbody launchFinished_cur launchFinished_me
    refine ⟨_, hnext, hadv, hkept, ?_, fun _ u hu => ?_⟩
    · show (s.launchFinished e l ((s.me.gr a).setWidth 8)).launch s.myTag e = _
      rw [State.launchFinished, foldl_modTile_rest]
      exact launch_setLaunch_same (live_of_launch hl).2
    · obtain ⟨slots, hslots⟩ := tile_upd (s.launchFinished e l ((s.me.gr a).setWidth 8)) (fun x =>
        s.me.order (x.advance h s.me.longs s.serial) h { reads := [rG a], mem := true } false) u
      rw [State.completed, hslots]
      exact foldl_modTile_of_mem (P := fun y => y.roundsOver = true) (fun _ => rfl) hu

/-! ## cancel (R131) -/

/-- The levels and identifiers that R131 admits. -/
theorem levelFault_iff (v i : Word) : levelFault v.toNat i.toNat = true ↔
    v = 0 ∨ 4 < v.toNat ∨ (v = 2 ∧ 4095 < i.toNat) ∨ (v = 3 ∧ 1023 < i.toNat) ∨ (v = 4 ∧ 255 < i.toNat) := by
  have hv (n : Nat) (hn : n < 2 ^ 64) : v = BitVec.ofNat 64 n ↔ v.toNat = n := by
    rw [← BitVec.toNat_inj, BitVec.toNat_ofNat, Nat.mod_eq_of_lt hn]
  have h0 := hv 0 (by decide)
  have h2 := hv 2 (by decide)
  have h3 := hv 3 (by decide)
  have h4 := hv 4 (by decide)
  simp only [levelFault, Bool.or_eq_true, Bool.and_eq_true, decide_eq_true_eq, beq_iff_eq]
  rw [show (0 : Word) = BitVec.ofNat 64 0 from rfl, show (2 : Word) = BitVec.ofNat 64 2 from rfl,
    show (3 : Word) = BitVec.ofNat 64 3 from rfl, show (4 : Word) = BitVec.ofNat 64 4 from rfl, h0, h2, h3, h4]
  omega

/-- What a cancel asks for. -/
def Req.levelled (a b : G) : Req := { reads := [rG a, rG b], deep := [rG a, rG b], mem := true }

/-- The effect of a cancel. -/
def State.cancel (s : State) (a b : G) : Eff :=
  if levelFault (s.me.gr a).toNat (s.me.gr b).toNat then .trap cProt 0 (s.me.gr b)
  else if s.me.ra.isSome then .go (s.addOp (Op.plain (.act (.cancel (s.me.gr a).toNat (s.me.gr b).toNat))) true)
  else .go (s.endObject s.myTag (s.me.gr a).toNat (s.me.gr b).toNat 3)

theorem exec_cancel_eq (h : Hdr) (a b : G) (s : State) : exec (.cancel h a b) s = s.issue h (Req.levelled a b) (·.cancel a b) := rfl

theorem completed_launch {s1 : State} {q : Req} {tag : Nat} : (s.completed s1 h q).launch tag e = s1.launch tag e := rfl

theorem completed_dead {s1 : State} {q : Req} {u : TileId} (hd : (s1.tile u).dead) : ((s.completed s1 h q).tile u).dead := by
  by_cases hu : u = s1.cur.1
  · subst hu
    rw [State.completed, State.upd, State.tile_modSlot_same]
    refine ⟨hd.1, fun k => ?_⟩
    by_cases hk : k = s1.cur.2
    · subst hk
      rw [Tile.slot_setSlot_same, Slot.order_active, Slot.advance_active]
      exact hd.2 _
    · rw [Tile.slot_setSlot_other _ _ _ _ hk]
      exact hd.2 k
  · rw [State.completed, State.upd, State.tile_modSlot_other _ _ _ _ _ hu]
    exact hd

theorem exec_cancel (hr : Ready s h [rG a, rG b] []) (hok : levelFault (s.me.gr a).toNat (s.me.gr b).toNat = false) :
    ∃ t, exec (.cancel h a b) s = .next t ∧
      (∀ e l, s.launch s.myTag e = some l → l.ending = none →
        t.launch s.myTag e = some (if underObject s (s.me.gr a).toNat (s.me.gr b).toNat e then { l with ending := some 3 } else l) ∧
        (underObject s (s.me.gr a).toNat (s.me.gr b).toNat e = true →
          ∀ u ∈ s.launchTiles s.myTag e, (t.tile u).halted = true ∧ ∀ k, (t.slot u k).active = false)) ∧
      ((∀ e l, s.launch s.myTag e = some l → underObject s (s.me.gr a).toNat (s.me.gr b).toNat e = false) →
        Advanced s t ∧ SlotKept s.me t.me []) := by
  have hends := endObject_endsUnder s (s.me.gr a).toNat (s.me.gr b).toNat
  have hra : (s.endObject s.myTag (s.me.gr a).toNat (s.me.gr b).toNat 3).me.ra = none := by
    rw [State.me, hends.frame.cur]
    exact (hends.frame.tiles s.cur.1).sure s.cur.2 hr.sure
  have hbody : s.cancel a b = .go (s.endObject s.myTag (s.me.gr a).toNat (s.me.gr b).toNat 3) :=
    (if_neg (Bool.eq_false_iff.1 hok)).trans (if_neg (by simp [hr.sure]))
  generalize hs1 : s.endObject s.myTag (s.me.gr a).toNat (s.me.gr b).toNat 3 = s1 at hends hra hbody
  refine ⟨_, exec_go (exec_cancel_eq h a b s) hr rfl hbody hra, fun e l hl hend => ?_, fun hidle => ?_⟩
  · refine ⟨?_, fun hunder u hu => completed_dead ((hends.ended e l hunder hl hend).2 u hu)⟩
    rw [completed_launch]
    cases hunder : underObject s (s.me.gr a).toNat (s.me.gr b).toNat e with
    | true => exact (hends.ended e l hunder hl hend).1
    | false => exact (hends.other e hunder).trans hl
  · have hme : s1.me = s.me := by
      rw [State.me, hends.frame.cur, State.slot, State.tile_of_tiles (hends.idle hidle)]
      rfl
    exact ⟨completed_advanced hends.frame.cur (congrArg Slot.pc hme) (congrArg Slot.srep hme), completed_slotKept (hme ▸ .refl _ _)⟩

end

/-! ## launch and ccount: an operation in the slot's queue (R129, R132) -/

section
variable {s : State} {h : Hdr} {q : Req} {o : Op} {outward : Bool}

/-- An operation as the current slot issues it, in certainty. -/
def State.issued (s : State) (o : Op) : Op :=
  { o with id := s.serial, pc := s.me.pc, held := false, idx := 0, t0 := s.myTile.cycle, ns := s.time.tai }

/-- A slot with one more operation outstanding, counted. -/
def Slot.queue (x : Slot) (o : Op) : Slot :=
  { x with ops := x.ops ++ [o], cntl := x.cntl + (if o.cntL then 1 else 0), cnts := x.cnts + (if o.cntS then 1 else 0) }

theorem addOp_me (hra : s.me.ra = none) (hconf : o.conf = true) : (s.addOp o outward).me = s.me.queue (s.issued o) := by
  have hme : State.me { s with serial := s.serial + 1 } = s.me := rfl
  simp only [State.addOp, State.fresh, State.me_upd, hme, hra, hconf]
  cases hl : o.cntL <;> cases hs : o.cntS <;> simp [Slot.queue, State.issued, hra, hconf, hl, hs]

theorem order_ops_append {x y : Slot} {j : Bool} (hops : y.ops = x.ops ++ [o]) (ho : o.hostBytes = []) : (x.order y h q j).ops = y.ops := by
  have hmine : (y.ops.filter fun o => !(x.ops.any fun q => q.id == o.id) && !o.hostBytes.isEmpty) = [] := by
    rw [List.filter_eq_nil_iff, hops]
    intro p hp
    rcases List.mem_append.1 hp with hp | hp
    · have : (x.ops.any fun q => q.id == p.id) = true := List.any_eq_true.2 ⟨p, hp, beq_self_eq_true _⟩
      simp [this]
    · rw [List.mem_singleton.1 hp, ho]; simp
  simp only [Slot.order, hmine]
  simp

/-- An instruction whose effect is one more operation, none of whose bytes lies in host memory. -/
theorem exec_queues {i : Instr} {body : State → Eff} (hx : exec i s = s.issue h q body) (hr : Ready s h q.reads q.writes) (ht : q.tokens = 0)
    (hb : body s = .go (s.addOp o outward)) (hconf : o.conf = true) (hperf : o.performed = false) (ho : o.hostBytes = []) :
    ∃ t, exec i s = .next t ∧ Queued s t (s.issued o) := by
  have hme := addOp_me (outward := outward) hr.sure hconf
  refine ⟨_, exec_go hx hr ht hb (by rw [hme]; exact hr.sure), ?_, ⟨rfl, rfl, hperf, rfl⟩, ?_, ?_, ?_, ?_⟩
  · have hops : (Slot.advance h s.me.longs s.serial (s.me.queue (s.issued o))).ops = s.me.ops ++ [s.issued o] := Slot.advance_ops _ _ _ _
    rw [State.completed_me, hme, order_ops_append hops ho, hops]
  · rw [State.completed_me, hme]
    exact SlotKept.advance ⟨fun _ _ => rfl, fun _ _ => rfl, fun _ _ => rfl, fun _ _ => rfl, fun _ _ => rfl, ⟨rfl, rfl, rfl, rfl, rfl⟩,
      ⟨rfl, rfl⟩, ⟨rfl, rfl, rfl, rfl, rfl, rfl⟩, rfl, ⟨rfl, rfl⟩⟩
  · rw [State.completed_me, hme]
    exact FpKept.advance ⟨rfl, rfl, rfl⟩
  · simp only [State.completed, State.addOp, State.fresh, State.upd_upd]
    exact OutsideKept.of_upd _ _
  · exact completed_advanced rfl (by rw [hme]; rfl) (by rw [hme]; rfl)

/-- An instruction that waits for a condition parks its slot and issues again afterwards. -/
theorem exec_waits {i : Instr} {body : State → Eff} {p : Park} (hx : exec i s = s.issue h q body) (hr : Ready s h q.reads q.writes)
    (ht : q.tokens = 0) (hb : body s = .wait p) :
    ∃ t, exec i s = .next t ∧ t.me.park = p ∧ t.me.pc = s.me.pc ∧ t.me.ops = s.me.ops := by
  refine ⟨_, hx.trans ((State.issue_ready hr ht).trans (congrArg _ (hb ▸ State.conclude_wait hr.sure p))), ?_⟩
  simp only [State.me_upd, and_self]

/-- A request to the hub die. -/
def Op.query (x : Query) (ds : List Dest) : Op := { Op.plain (.query x) with dests := ds }

theorem exec_asks {i : Instr} {body : State → Eff} {x : Query} {ds : List Dest} (hx : exec i s = s.issue h q body)
    (hr : Ready s h q.reads q.writes) (ht : q.tokens = 0) (hb : body s = .go (s.ask x ds outward)) :
    ∃ t o, exec i s = .next t ∧ Queued s t o ∧ o.kind = .query x ∧ destsOf o = ds.map fun d => (d.code, d.lo, d.bits) := by
  obtain ⟨t, hnext, hqueued⟩ := exec_queues (o := Op.query x ds) hx hr ht hb rfl rfl rfl
  exact ⟨t, _, hnext, hqueued, rfl, rfl⟩

theorem destOf_rG (d : G) (lo bits : Nat) (sg : Bool) : (destOf (rG d) lo bits sg).code = destG d := by
  have h0 : rG d = 0 ∨ rG d = 96 ↔ d = 0 := by simp only [rG, ← BitVec.toNat_inj]; have := d.isLt; simp; omega
  simp only [destOf, destG, h0]

theorem destOf_rP (d : P) (lo bits : Nat) (sg : Bool) : (destOf (rP d) lo bits sg).code = destP d := by
  have h0 : rP d = 0 ∨ rP d = 96 ↔ d = 0 := by simp only [rP, ← BitVec.toNat_inj]; have := d.isLt; simp
  simp only [destOf, destP, h0]

/-- The effect of a launch. -/
def State.launchEff (s : State) (d a : G) (c : P) : Eff :=
  if (s.me.gr a).toNat % 128 ≠ 0 then .trap cAlign 0 (s.me.gr a)
  else if (s.me.gr a).toNat + 128 > s.myPart.extent then .trap cProt 0 (s.me.gr a)
  else if s.me.cnts ≠ 0 then .wait .stores
  else .go (s.ask (.launch (s.me.gr a).toNat) [destOf (rG d) 0 64 false, destOf (rP c) 64 1 false] true)

/-- What a launch asks for. -/
def Req.launching (d a : G) (c : P) : Req := { reads := [rG a], writes := [rG d, rP c], deep := [rG a], mem := true }

theorem exec_launch_eq (h : Hdr) (d a : G) (c : P) (s : State) :
    exec (.launch h d a c) s = s.issue h (Req.launching d a c) (·.launchEff d a c) := rfl

/-- The effect of a ccount. -/
def State.ccountEff (s : State) (d a b : G) : Eff :=
  if levelFault (s.me.gr a).toNat (s.me.gr b).toNat then .trap cProt 0 (s.me.gr b)
  else .go (s.ask (.ccount (s.me.gr a).toNat (s.me.gr b).toNat) [destOf (rG d) 0 64 false] false)

/-- What a ccount asks for. -/
def Req.counting (d a b : G) : Req := { reads := [rG a, rG b], writes := [rG d], deep := [rG a, rG b], mem := true }

theorem exec_ccount_eq (h : Hdr) (d a b : G) (s : State) :
    exec (.ccount h d a b) s = s.issue h (Req.counting d a b) (·.ccountEff d a b) := rfl

end

/-- Settles O19: launch and ccount by what they put into the slot's queue, lfin and cancel by what they do to launches and their tiles. -/
theorem launchesFinishCancelCount : Obligations.LaunchesFinishCancelCount := by
  intro s h d a b c
  refine ⟨fun hr => ⟨fun hal htr => ?_, fun hal hext htr => ?_, fun hal hext => ⟨fun hc => ?_, fun hc => ?_⟩⟩,
    fun hr e l he hl => exec_lfin hr he hl, fun hr => ⟨fun hbad htr => ?_, fun hok => ?_⟩, fun hr => ⟨fun hbad htr => ?_, fun hok => ?_⟩⟩
  · exact exec_traps (exec_launch_eq h d a c s) hr rfl (if_pos hal) htr
  · exact exec_traps (exec_launch_eq h d a c s) hr rfl ((if_neg (not_not.2 hal)).trans (if_pos hext)) htr
  · exact exec_waits (exec_launch_eq h d a c s) hr rfl ((if_neg (not_not.2 hal)).trans ((if_neg (Nat.not_lt.2 hext)).trans (if_pos hc)))
  · obtain ⟨t, o, hnext, hqueued, hkind, hdests⟩ := exec_asks (exec_launch_eq h d a c s) hr rfl
      ((if_neg (not_not.2 hal)).trans ((if_neg (Nat.not_lt.2 hext)).trans (if_neg (not_not.2 hc))))
    refine ⟨t, o, hnext, hqueued, hkind, hdests.trans ?_⟩
    simp only [List.map_cons, List.map_nil, destOf_rG, destOf_rP]
    rfl
  · exact exec_traps (exec_cancel_eq h a b s) hr rfl (if_pos ((levelFault_iff _ _).2 hbad)) htr
  · exact exec_cancel hr (Bool.eq_false_iff.2 fun hf => hok ((levelFault_iff _ _).1 hf))
  · exact exec_traps (exec_ccount_eq h d a b s) hr rfl (if_pos ((levelFault_iff _ _).2 hbad)) htr
  · obtain ⟨t, o, hnext, hqueued, hkind, hdests⟩ := exec_asks (exec_ccount_eq h d a b s) hr rfl
      (if_neg fun hf => hok ((levelFault_iff _ _).1 hf))
    refine ⟨t, o, hnext, hqueued, hkind, hdests.trans ?_⟩
    simp only [List.map_cons, List.map_nil, destOf_rG]
    rfl

end Sys2Proof.Machine
end


section
/-! SUPPORT for O29 and O36. A read at a home and through the caches: memory answers, and no more than caches, directories, counters and free
choices change. -/
namespace Sys2Proof.Machine
open Sys2Proof Sys2Proof.Claims

/-! ## What a read leaves (R265, R266) -/

/-- Caches, directories, free choices, and tiles but for their slots and tag, may differ. -/
structure ReadFrame (s s' : State) : Prop where
  slots : ∀ u, (s'.tile u).slots = (s.tile u).slots
  tag : ∀ u, (s'.tile u).tag = (s.tile u).tag
  rest : s' = { s with tiles := s'.tiles, l2 := s'.l2, rdc := s'.rdc, dirs := s'.dirs, free := s'.free }

section
variable {s s' s'' : State} {tag die a n : Nat} {t : TileId} {h : CacheHint}

theorem ReadFrame.refl (s : State) : ReadFrame s s := ⟨fun _ => rfl, fun _ => rfl, rfl⟩

theorem ReadFrame.trans (h : ReadFrame s s') (h' : ReadFrame s' s'') : ReadFrame s s'' where
  slots u := (h'.slots u).trans (h.slots u)
  tag u := (h'.tag u).trans (h.tag u)
  rest := by rw [h'.rest, h.rest]

/-- A change of caches, directories and free choices alone. -/
theorem ReadFrame.of_caches {l2 : Map (List L2Line)} {rdc : Map (List RLine)} {dirs : Map (List Dir)} {free : Nat} :
    ReadFrame s { s with l2, rdc, dirs, free } := ⟨fun _ => rfl, fun _ => rfl, rfl⟩

theorem ReadFrame.modTile {f : Tile → Tile} (hslots : ∀ x, (f x).slots = x.slots) (htag : ∀ x, (f x).tag = x.tag) :
    ReadFrame s (s.modTile t f) where
  slots u := by
    by_cases hu : u = t
    · rw [hu, State.tile_modTile_same, hslots]
    · rw [State.tile_modTile_other _ _ _ _ hu]
  tag u := by
    by_cases hu : u = t
    · rw [hu, State.tile_modTile_same, htag]
    · rw [State.tile_modTile_other _ _ _ _ hu]
  rest := rfl

theorem ReadFrame.part (h : ReadFrame s s') (g : Nat) : s'.part g = s.part g := by rw [h.rest]; rfl

theorem ReadFrame.slot (h : ReadFrame s s') (u : TileId) (k : SlotId) : s'.slot u k = s.slot u k := by
  simp only [State.slot, Tile.slot, h.slots]

theorem ReadFrame.hbmByte (h : ReadFrame s s') (ph : Nat) : s'.hbmByte ph = s.hbmByte ph := by rw [h.rest]; rfl

theorem readHbm_of_hbmByte (h : ∀ ph, s'.hbmByte ph = s.hbmByte ph) (p : Part) (a n : Nat) : s'.readHbm p a n = s.readHbm p a n := by
  induction n generalizing a with
  | zero => rfl
  | succ n ih => rw [State.readHbm, State.readHbm, ih, h]

theorem ReadFrame.readHbm (h : ReadFrame s s') (p : Part) (a n : Nat) : s'.readHbm p a n = s.readHbm p a n := readHbm_of_hbmByte h.hbmByte p a n

theorem ReadFrame.badHbm (h : ReadFrame s s') : s'.badHbm = s.badHbm := by rw [h.rest]

/-! ## The steps of a read -/

theorem ReadFrame.tileCount {ev m : Nat} : ReadFrame s (s.tileCount t ev m) := by
  refine .modTile (fun x => ?_) (fun x => ?_)
  · dsimp only; split
    · rfl
    · split <;> rfl
  · dsimp only; split
    · rfl
    · split <;> rfl

theorem ReadFrame.tileSample {src v : Nat} : ReadFrame s (s.tileSample t src v) := .modTile (fun _ => rfl) fun _ => rfl

theorem ReadFrame.dirPut {g : Nat} {old d : Dir} : ReadFrame s (s.dirPut g old d) := .of_caches

theorem ReadFrame.dirCount {w : Bool} : ReadFrame s (s.dirCount tag die a w) ∧ (s.dirCount tag die a w).l2 = s.l2 := by
  rw [State.dirCount]
  split
  · exact ⟨.dirPut, rfl⟩
  · split
    · exact ⟨.refl s, rfl⟩
    · exact ⟨.dirPut, rfl⟩

/-- A line in L2, or room for it, is so for any state with the same L2 and partitions. -/
theorem l2Room_of_frame (hroom : L2Room s tag a) (hf : ReadFrame s s') (hl2 : s'.l2 = s.l2) : L2Room s' tag a := by
  rwa [L2Room, hl2, hf.part]

/-- An access to a line that is in L2, or has room there, gives up no other line. -/
theorem ReadFrame.l2Touch {w : Bool} (hroom : L2Room s tag a) : ReadFrame s (s.l2Touch tag a n w h) := by
  simp only [State.l2Touch]
  split
  case h_1 => exact .of_caches
  case h_2 hfind =>
    split
    · exact .refl s
    · have hset : ((mapGet [] s.l2 ((s.part tag).homeSlice a)).filter fun l =>
          Config.l2Set l.key % 128 == Config.l2Set ((s.part tag).lineKey tag a) % 128).length < 16 := by
        rcases hroom with ⟨l, hl, hkey⟩ | hlt
        · exact absurd (List.find?_eq_none.1 hfind l hl) (by simp [hkey])
        · exact Nat.lt_succ_of_lt hlt
      simp only [State.l2Evict, if_pos hset]
      exact .of_caches

theorem ReadFrame.rdcFill {bad : Nat} : ReadFrame s (s.rdcFill tag die a n bad h) := by
  simp only [State.rdcFill]
  split
  · exact .refl s
  · exact ReadFrame.dirPut.trans .of_caches

/-- The module after a free choice. -/
def State.chosen (s : State) : State := { s with free := s.free + 1 }

theorem rdcLook_found {l : RLine} (hfind : (mapGet [] s.rdc (4 * tag + die)).find? (fun l => l.key == (s.part tag).lineKey tag a) = some l) :
    s.rdcLook tag die a n = if Config.freeBool s.free = true then
        ({ s.chosen with rdc := mapSet s.rdc (4 * tag + die) ((mapGet [] s.rdc (4 * tag + die)).filter fun x => x.key != (s.part tag).lineKey tag a) }, none)
      else (s.chosen, if l.valid &&& sectorBits a n = sectorBits a n then some l else none) := by
  simp only [State.rdcLook, hfind]
  rfl

/-- A remote-data cache answers with a copy that it holds, and L2 stays. -/
theorem ReadFrame.rdcLook : ReadFrame s (s.rdcLook tag die a n).1 ∧ (s.rdcLook tag die a n).1.l2 = s.l2 ∧
    ∀ l, (s.rdcLook tag die a n).2 = some l → l ∈ mapGet [] s.rdc (4 * tag + die) := by
  cases hfind : (mapGet [] s.rdc (4 * tag + die)).find? fun l => l.key == (s.part tag).lineKey tag a with
  | none =>
    rw [show s.rdcLook tag die a n = (s, none) by simp only [State.rdcLook, hfind]]
    exact ⟨.refl s, rfl, fun l hl => by cases hl⟩
  | some l =>
    rw [rdcLook_found hfind]
    split
    · exact ⟨.of_caches, rfl, fun l hl => by cases hl⟩
    · refine ⟨.of_caches, rfl, fun l' hl' => ?_⟩
      dsimp only at hl'
      split at hl' <;> cases hl'
      exact List.mem_of_find?_eq_some hfind

theorem badBits_of_sound (hbad : s.badHbm = []) (p : Part) (a n : Nat) : s.badBits p a n = 0 := by
  have hat (b m : Nat) : s.badHbmAt p b m = false := by simp [State.badHbmAt, hbad]
  simp only [State.badBits, hat, Bool.and_false, Bool.false_eq_true, if_false]
  exact List.foldl_fixed' (fun _ => rfl) _

/-- R262, R396: at its home an HBM address reads as memory. -/
theorem homeBits_hbm_bytes (hroom : L2Room s tag a) : ReadFrame s (s.homeBits tag die .hbm a n h).1 ∧
    (s.homeBits tag die .hbm a n h).2.1 = s.readHbm (s.part tag) a n := by
  obtain ⟨hcount, hl2⟩ := ReadFrame.dirCount (s := s) (tag := tag) (die := die) (a := a) (w := false)
  have hf := hcount.trans (.l2Touch (n := n) (w := false) (h := h) (l2Room_of_frame hroom hcount hl2))
  exact ⟨hf, (hf.readHbm _ a n).trans (by rw [hf.part])⟩

/-- R428: where memory is sound the home's answer is. -/
theorem homeBits_hbm_sound (hroom : L2Room s tag a) (hbad : s.badHbm = []) : (s.homeBits tag die .hbm a n h).2.2 = 0 :=
  badBits_of_sound ((homeBits_hbm_bytes (die := die) (n := n) (h := h) hroom).1.badHbm.trans hbad) _ _ _

/-- R265: an agent's read of an HBM address is memory's, from whichever cache. -/
theorem dieRead_hbm_bytes (hroom : L2Room s tag a) :
    ReadFrame s (s.dieRead tag die .hbm a n h).1 ∧ (s.dieRead tag die .hbm a n h).2.1 = s.readHbm (s.part tag) a n := by
  obtain ⟨hlook, hl2, -⟩ := ReadFrame.rdcLook (s := s) (tag := tag) (die := die) (a := a) (n := n)
  simp only [State.dieRead]
  split
  case h_1 s1 l heq =>
    rw [heq] at hlook
    exact ⟨hlook, (hlook.readHbm _ a n).trans (by rw [hlook.part])⟩
  case h_2 s1 heq =>
    rw [heq] at hlook hl2
    obtain ⟨hbits, hval⟩ := homeBits_hbm_bytes (die := die) (n := n) (h := h) (l2Room_of_frame hroom hlook hl2)
    exact ⟨(hlook.trans hbits).trans .rdcFill, (hval.trans (hlook.readHbm _ a n)).trans (by rw [hlook.part])⟩

/-- R265, R428: the answer is sound where memory and the copies of the die are. -/
theorem dieRead_hbm_sound (hroom : L2Room s tag a) (hbad : s.badHbm = []) (hcopies : ∀ l ∈ mapGet [] s.rdc (4 * tag + die), l.bad = 0) :
    (s.dieRead tag die .hbm a n h).2.2.1 = 0 := by
  obtain ⟨hlook, hl2, hmem⟩ := ReadFrame.rdcLook (s := s) (tag := tag) (die := die) (a := a) (n := n)
  simp only [State.dieRead]
  split
  case h_1 s1 l heq =>
    rw [heq] at hmem
    show l.bad &&& granuleBits a n = 0
    rw [hcopies l (hmem l rfl), Nat.zero_and]
  case h_2 s1 heq =>
    rw [heq] at hlook hl2
    exact homeBits_hbm_sound (l2Room_of_frame hroom hlook hl2) (hlook.badHbm.trans hbad)

theorem tileRead_hbm (hroom : L2Room s (s.tile t).tag.toNat a) (hbad : s.badHbm = [])
    (hcopies : ∀ l ∈ mapGet [] s.rdc (4 * (s.tile t).tag.toNat + dieOf t), l.bad = 0) : ReadFrame s (s.tileRead t .hbm a n h).1 ∧
    (s.tileRead t .hbm a n h).2.1 = s.readHbm (s.part (s.tile t).tag.toNat) a n ∧ (s.tileRead t .hbm a n h).2.2 = 0 := by
  obtain ⟨hread, hval⟩ := dieRead_hbm_bytes (n := n) (h := h) hroom
  refine ⟨?_, hval, dieRead_hbm_sound hroom hbad hcopies⟩
  simp only [State.tileRead]
  split
  · exact hread.trans .tileCount
  · exact hread

theorem ReadFrame.l1Fill {c : Fin 4} {x : Sector} : ReadFrame s (s.l1Fill t c x) := by
  simp only [State.l1Fill]
  split
  · exact .modTile (fun _ => rfl) fun _ => rfl
  · split
    · exact .refl s
    · exact ReadFrame.trans (s' := { s with free := s.free + 1 }) .of_caches (.modTile (fun _ => rfl) fun _ => rfl)

/-- An owner's home refuses nothing of HBM (R396). -/
theorem refuses_hbm (ha : a < 2 ^ 39) (ho : Owned s tag a) : s.refuses tag a n = false := by
  have hcls : clsAt a = .hbm := if_pos ha
  simp only [State.refuses, hcls]
  rw [show s.owner ((s.part tag).homeGroup a) = some tag from ho]
  simp

/-! ## Bytes of a longer read -/

theorem readHbm_lt (s : State) (p : Part) (a n : Nat) : s.readHbm p a n < 2 ^ (8 * n) := by
  induction n generalizing a with
  | zero => exact Nat.one_pos
  | succ n ih =>
    have hb := (s.hbmByte (p.phys a)).isLt
    have hrest := ih (a + 1)
    rw [State.readHbm, Nat.mul_succ, Nat.pow_add]
    omega

theorem readHbm_add (s : State) (p : Part) (a m n : Nat) : s.readHbm p a (m + n) = s.readHbm p a m + 2 ^ (8 * m) * s.readHbm p (a + m) n := by
  induction m generalizing a with
  | zero => simp [State.readHbm]
  | succ m ih =>
    rw [Nat.succ_add, State.readHbm, State.readHbm, ih, Nat.mul_succ, Nat.pow_add, show a + (m + 1) = a + 1 + m by omega]
    ring

/-- n bytes within a read of N. -/
theorem bitsAt_readHbm (s : State) (p : Part) {a m n N : Nat} (hN : m + n ≤ N) :
    bitsAt (s.readHbm p a N) (8 * m) (8 * n) = s.readHbm p (a + m) n := by
  obtain ⟨r, rfl⟩ := Nat.exists_eq_add_of_le hN
  rw [Nat.add_assoc, readHbm_add, readHbm_add, bitsAt, Nat.add_mul_div_left _ _ (Nat.two_pow_pos _),
    Nat.div_eq_of_lt (readHbm_lt _ _ _ _), Nat.zero_add, Nat.add_mul_mod_self_left, Nat.mod_eq_of_lt (readHbm_lt _ _ _ _)]

/-! ## One line (R10, R262) -/

/-- HBM addresses of one line have one home and one place in L2. -/
theorem home_of_line (p : Part) (tag : Nat) {a b : Nat} (ha : a < 2 ^ 39) (hb : b < 2 ^ 39) (h : a / 256 = b / 256) :
    p.homeGroup a = p.homeGroup b ∧ p.homeSlice a = p.homeSlice b ∧ p.lineKey tag a = p.lineKey tag b := by
  have hu : a / 65536 = b / 65536 := by omega
  have hphys : p.phys a / 256 = p.phys b / 256 := by simp only [Part.phys, hu]; omega
  have hclsa : clsAt a = .hbm := if_pos ha
  have hclsb : clsAt b = .hbm := if_pos hb
  have hhomea : p.homeAddr a = a := by simp only [Part.homeAddr, hclsa]
  have hhomeb : p.homeAddr b = b := by simp only [Part.homeAddr, hclsb]
  have hgroup : p.homeGroup a = p.homeGroup b := by rw [Part.homeGroup, Part.homeGroup, hhomea, hhomeb]; omega
  have h8 : bitsAt a 8 2 = bitsAt b 8 2 := by simp only [bitsAt]; omega
  have h12 : bitsAt a 12 2 = bitsAt b 12 2 := by simp only [bitsAt]; omega
  refine ⟨hgroup, ?_, ?_⟩
  · rw [Part.homeSlice, Part.homeSlice, hgroup, hhomea, hhomeb, h8, h12]
  · simp only [Part.lineKey, hclsa, hclsb, hphys]

theorem l2Room_of_line {b : Nat} (ha : a < 2 ^ 39) (hb : b < 2 ^ 39) (hline : a / 256 = b / 256) (hroom : L2Room s tag b) : L2Room s tag a := by
  obtain ⟨-, hslice, hkey⟩ := home_of_line (s.part tag) tag ha hb hline
  rwa [L2Room, hslice, hkey]

end

end Sys2Proof.Machine
end


section
/-! O36: pieces of loads and stores at their homes, long results, and a query. -/
namespace Sys2Proof.Machine
open Sys2Proof Sys2Proof.Claims

/-! ## Events at a tile -/

theorem State.happen_on {s : State} {f : State → State} (hon : s.power ≠ .off) : s.happen f = .next (f s) := by
  unfold State.happen
  split
  case h_1 h => exact absurd h hon
  case h_2 => rfl

theorem State.happenAt_live {s : State} {t : TileId} {f : State → State} (hon : s.power ≠ .off) (hlive : s.frozen t = false) :
    s.happenAt t f = .next (f s) := by
  rw [State.happenAt, State.happen_on hon, if_neg (by simp [hlive])]

section
variable {s : State} {t : TileId} {k : SlotId} {id ext i : Nat} {o : Op}

/-! ## A slot's operations -/

theorem id_of_opOf {x : Slot} (ho : x.opOf id = some o) : o.id = id := by
  have := List.find?_some ho
  simpa using this

/-- An operation of the slot that is replaced by one of its identity is the replacement. -/
theorem opOf_setOp {x : Slot} {o' : Op} (ho : x.opOf id = some o) (hid : o'.id = id) : (x.setOp o').opOf id = some o' := by
  subst hid
  simp only [Slot.opOf, Slot.setOp] at ho ⊢
  generalize x.ops = l at ho
  induction l with
  | nil => cases ho
  | cons q qs ih =>
    by_cases hq : q.id = o'.id
    · simp [hq]
    · rw [List.find?_cons_of_neg (by simpa using hq)] at ho
      rw [List.map_cons, if_neg hq, List.find?_cons_of_neg (by simpa using hq)]
      exact ih ho

theorem opOf_dropOp {x : Slot} (hid : o.id = id) : (x.dropOp o).opOf id = none := by
  subst hid
  simp only [Slot.opOf, Slot.dropOp, List.find?_eq_none, List.mem_filter]
  rintro q ⟨-, hq⟩
  simpa using hq

/-! ## A load's piece (R85, R273) -/

/-- What a load's piece leaves of its operation. -/
def Op.gotPiece (o : Op) (i v : Nat) (pc : Piece) : Op :=
  { o with pieces := o.pieces.eraseIdx i, ready := (o.pieces.eraseIdx i).isEmpty, data := putBits o.data (8 * pc.pos) (8 * pc.size) v }

/-- R259, R265: a load's piece of HBM that L1 does not hold is memory's, read alone or with its sector. -/
theorem cachedRead_hbm {pc : Piece} (hkind : o.kind = .load) (hp : PlainHbm s t pc.addr pc.size)
    (hl1 : ∀ y ∈ (s.tile t).l1[k.val / 8], y.addr ≠ pc.addr / 64 * 64) :
    ReadFrame s (s.cachedRead t k o pc).1 ∧ (s.cachedRead t k o pc).2 = (s.readHbm (partOf s t) pc.addr pc.size, false) := by
  obtain ⟨hlt, hpos, hgranule⟩ := hp.hbm
  have hcls : clsAt pc.addr = .hbm := if_pos (by omega)
  have hmiss : ((s.tile t).l1Of (coreOf k)).find? (fun x => x.addr = pc.addr / 64 * 64) = none :=
    List.find?_eq_none.2 fun y hy => by simpa using hl1 y hy
  have hcount : ReadFrame s (s.tileCount t 0x002 1) := .tileCount
  have hpart : (s.tileCount t 0x002 1).part ((s.tileCount t 0x002 1).tile t).tag.toNat = partOf s t := by
    rw [hcount.part, hcount.tag]; rfl
  have hcopies : ∀ l ∈ mapGet [] (s.tileCount t 0x002 1).rdc (4 * ((s.tileCount t 0x002 1).tile t).tag.toNat + dieOf t), l.bad = 0 := by
    rw [hcount.tag]; exact hp.copies
  have hread (b n : Nat) (h : CacheHint) (hb : b < 2 ^ 39) (hline : b / 256 = pc.addr / 256) :=
    tileRead_hbm (s := s.tileCount t 0x002 1) (t := t) (a := b) (n := n) (h := h)
      (by rw [hcount.tag]; exact l2Room_of_frame (l2Room_of_line hb (by omega) hline hp.room) hcount rfl) hp.sound hcopies
  simp only [State.cachedRead, hkind, Bool.false_eq_true, if_false, hmiss, hcls]
  split
  · obtain ⟨hf, hv, hz⟩ := hread pc.addr pc.size o.hint (by omega) rfl
    refine ⟨hcount.trans hf, ?_⟩
    rw [hv, hz, hpart, hcount.readHbm]
    rfl
  · obtain ⟨hf, hv, hz⟩ := hread (pc.addr / 64 * 64) 64 o.hint (by omega) (by omega)
    refine ⟨(hcount.trans hf).trans .l1Fill, ?_⟩
    rw [hv, hz, hpart, hcount.readHbm, bitsAt_readHbm _ _ (by omega), show pc.addr / 64 * 64 + pc.addr % 64 = pc.addr by omega]
    simp [bitAt]

/-- R85, R273: a load's piece that its home gives. -/
theorem returnPiece_load {pc : Piece} (hop : (s.slot t k).opOf id = some o) (hkind : o.kind = .load) (hpc : o.pieces[i]? = some pc)
    (hsend : (s.slot t k).sendable o i pc = true) (hp : PlainHbm s t pc.addr pc.size)
    (hl1 : ∀ y ∈ (s.tile t).l1[k.val / 8], y.addr ≠ pc.addr / 64 * 64) (hatom : (s.tile t).atomOn (coreOf k) id (pc.addr / 64) = false) :
    ∃ s1, ReadFrame s s1 ∧ s.returnPiece t k o i ext =
      s1.modSlot t k fun x => x.setOp (o.gotPiece i (s.readHbm (partOf s t) pc.addr pc.size) pc) := by
  obtain ⟨hframe, hval⟩ := cachedRead_hbm (k := k) hkind hp hl1
  have hlt : pc.addr < 2 ^ 39 := by have := hp.hbm; omega
  have hcls : clsAt pc.addr = .hbm := if_pos hlt
  refine ⟨_, hframe, ?_⟩
  rw [← id_of_opOf hop] at hatom
  simp only [State.returnPiece, hpc, hsend, hatom, refuses_hbm hlt hp.owned, State.loadPiece, hcls, hval, hkind]
  simp [bool01, Op.gotPiece, hkind]

/-- What LONG_RESULT_RETURN does with an operation of the slot. -/
def State.longReturn (s : State) (t : TileId) (k : SlotId) (o : Op) (part ext : Nat) : State :=
  if o.mark then s.modSlot t k fun y => y.dropOp o
  else if o.ready then
    (match o.kind with
    | .sample n _ _ m => s.deliverSample t k o n m
    | _ => (s.loadSample t o).deliverDest t k o part)
  else match o.kind with
    | .load | .acq _ => s.returnPiece t k o part ext
    | .query q => if (s.slot t k).free o then s.performQuery t k o q ext else s
    | _ => s

theorem exec_longResultReturn (hop : HasOp s t k id o) : exec (.longResultReturn t k id i ext) s = .next (s.longReturn t k o i ext) := by
  obtain ⟨hfind, hon, hlive⟩ := hop
  show execLongResultReturn t k id i ext s = _
  rw [execLongResultReturn, State.happenAt_live hon hlive]
  simp only [hfind]
  rfl

theorem exec_loadPiece {pc : Piece} (hop : HasOp s t k id o) (hmark : o.mark = false) (hkind : o.kind = .load) (hready : o.ready = false)
    (hpc : o.pieces[i]? = some pc) (hsend : (s.slot t k).sendable o i pc = true) (hp : PlainHbm s t pc.addr pc.size)
    (hl1 : ∀ y ∈ (s.tile t).l1[k.val / 8], y.addr ≠ pc.addr / 64 * 64) (hatom : (s.tile t).atomOn (coreOf k) id (pc.addr / 64) = false) :
    ∃ u, exec (.longResultReturn t k id i ext) s = .next u ∧
      (u.slot t k).opOf id = some (o.gotPiece i (s.readHbm (partOf s t) pc.addr pc.size) pc) ∧
      (∀ r, (u.slot t k).gr r = (s.slot t k).gr r) ∧ (∀ ph, u.hbmByte ph = s.hbmByte ph) := by
  obtain ⟨s1, hframe, hs1⟩ := returnPiece_load (ext := ext) hop.1 hkind hpc hsend hp hl1 hatom
  have hstep : s.longReturn t k o i ext = s1.modSlot t k fun x => x.setOp (o.gotPiece i (s.readHbm (partOf s t) pc.addr pc.size) pc) := by
    rw [← hs1]
    simp [State.longReturn, hmark, hready, hkind]
  refine ⟨_, (exec_longResultReturn hop).trans (congrArg _ hstep), ?_⟩
  rw [State.slot_modSlot_same, hframe.slot]
  have hid : o.id = id := id_of_opOf hop.1
  exact ⟨opOf_setOp hop.1 hid, fun r => rfl, fun ph => hframe.hbmByte ph⟩

/-! ## A result that is ready (R85, R88, R322) -/

theorem ReadFrame.loadSample : ReadFrame s (s.loadSample t o) := by
  unfold State.loadSample
  split
  · split
    · exact .tileSample
    · exact .refl s
  · split
    · exact .tileSample
    · exact .refl s
  · exact .refl s

/-- A slot whose operation has delivered its one result, to a g register. -/
def Slot.delivered (x : Slot) (o : Op) (r : G) (v : Nat) : Slot :=
  let y := x.land o.id (rG r) v false
  Slot.dropOp { y with yPark := match y.yPark with | some (b, n) => if o.id < b then none else some (b, n) | none => none } o

theorem cw_rG (x : Slot) (r : G) (v : Nat) : x.cw (rG r) v = x.gw r (w64 v) := by
  have hr : BitVec.ofNat 5 (rG r) = r := by simp [rG]
  rw [Slot.cw, if_pos (show rG r < 32 from r.isLt), hr]

theorem delivered_gr {x : Slot} {r q : G} {v : Nat} : (x.delivered o r v).gr q = (x.gw r (w64 v)).gr q := by
  simp only [Slot.delivered, Slot.land, Slot.dropOp, cw_rG]
  rfl

theorem delivered_cntl {x : Slot} {r : G} {v : Nat} : (x.delivered o r v).cntl = if o.cntL then x.cntl - 1 else x.cntl := by
  simp only [Slot.delivered, Slot.land, Slot.dropOp, cw_rG, Bool.false_eq_true, if_false, Slot.gw_cntl]

theorem exec_loadResult {r : G} {lo bits : Nat} (hop : HasOp s t k id o) (hmark : o.mark = false) (hkind : o.kind = .load) (hready : o.ready = true)
    (hbad : o.bad = false) (hr : r ≠ 0) (hdests : o.dests = [{ code := rG r, lo, bits, signed := false }]) :
    ∃ u, exec (.longResultReturn t k id 0 ext) s = .next u ∧ (u.slot t k).gr r = w64 (bitsAt o.data lo bits) ∧
      (u.slot t k).opOf id = none ∧ (u.slot t k).cntl = (if o.cntL then (s.slot t k).cntl - 1 else (s.slot t k).cntl) ∧
      (∀ q, q ≠ r → (u.slot t k).gr q = (s.slot t k).gr q) ∧ ∀ ph, u.hbmByte ph = s.hbmByte ph := by
  have hframe : ReadFrame s (s.loadSample t o) := .loadSample
  have hstep : s.longReturn t k o 0 ext = (s.loadSample t o).modSlot t k fun x => x.delivered o r (bitsAt o.data lo bits) := by
    simp only [State.longReturn, hmark, hready, hkind, State.deliverDest, hdests, hbad]
    rfl
  refine ⟨_, (exec_longResultReturn hop).trans (congrArg _ hstep), ?_⟩
  rw [State.slot_modSlot_same, hframe.slot]
  refine ⟨?_, opOf_dropOp (id_of_opOf hop.1), ?_, fun q hq => ?_, fun ph => hframe.hbmByte ph⟩
  · rw [delivered_gr, Slot.gr_gw, if_neg hr]
  · exact delivered_cntl
  · rw [delivered_gr]
    exact (SlotKept.gw _ r _).g q (by simpa [rG, BitVec.toNat_inj] using hq)

/-! ## A store's piece (R302, R322) -/

/-- R2, R267: a write at the home of an HBM address is a write of memory, and changes caches and directories besides. -/
theorem homeWrite_hbm {tag die a v n : Nat} {h : CacheHint} (hroom : L2Room s tag a) :
    ∃ s1, ReadFrame s s1 ∧ s.homeWrite tag die .hbm a v n h = s1.writeHbm (s.part tag) a v n := by
  obtain ⟨hcount, hl2⟩ := ReadFrame.dirCount (s := s) (tag := tag) (die := die) (a := a) (w := true)
  have hframe := hcount.trans (.l2Touch (n := n) (w := true) (h := h) (l2Room_of_frame hroom hcount hl2))
  exact ⟨_, hframe, by rw [← hframe.part]; rfl⟩

theorem ReadFrame.blockClear {s1 : State} (h : ReadFrame s s1) (ph : Nat) : s1.blockClear ph = s.blockClear ph := by rw [h.rest]; rfl

/-- What a write of memory within a granule leaves, after a change of caches alone. -/
theorem writeHbm_written {s1 : State} {a v n : Nat} (hf : ReadFrame s s1) (hp : PlainHbm s t a n) :
    HbmWritten s (s1.writeHbm (partOf s t) a v n) t a n v ∧ (s1.writeHbm (partOf s t) a v n).tiles = s1.tiles := by
  obtain ⟨hlt, hpos, hgranule⟩ := hp.hbm
  have hwf : Memory.wf s1.hbm = true := by rw [hf.rest]; exact hp.wf
  obtain ⟨hread, -, hother, htiles⟩ := (hbmKeepsWhatIsWritten s1 (partOf s t) a v n hwf (by omega) hpos).1 ((hf.blockClear _).trans hp.clear)
  exact ⟨⟨hread, fun ph hph => (hother ph hph).trans (hf.hbmByte ph)⟩, htiles⟩

/-- A claim about what memory holds, for states with the same memory. -/
theorem hbmWritten_congr {u u' : State} {a n v : Nat} (h : ∀ ph, u'.hbmByte ph = u.hbmByte ph) (hw : HbmWritten s u t a n v) :
    HbmWritten s u' t a n v := ⟨(readHbm_of_hbmByte h _ a n).trans hw.1, fun ph hph => (h ph).trans (hw.2 ph hph)⟩

theorem performPiece_store {pc : Piece} (hpieces : o.pieces = [pc]) (hsend : (s.slot t k).sendable o 0 pc = true)
    (hp : PlainHbm s t pc.addr pc.size) : ∃ (s1 : State) (f : Tile → Tile), ReadFrame s s1 ∧ (∀ x, (f x).slots = x.slots) ∧ s.performPiece t k o 0 ext =
      ((s1.writeHbm (partOf s t) pc.addr (bitsAt o.data (8 * pc.pos) (8 * pc.size)) pc.size).modTile t f).modSlot t k fun x => x.dropOp o := by
  have hlt : pc.addr < 2 ^ 39 := by have := hp.hbm; omega
  have hcls : clsAt pc.addr = .hbm := if_pos hlt
  obtain ⟨s1, hframe, hs1⟩ := homeWrite_hbm (die := dieOf t) (v := bitsAt o.data (8 * pc.pos) (8 * pc.size)) (n := pc.size) (h := o.hint) hp.room
  refine ⟨s1, fun y => if o.hint == .noAlloc then y.l1Drop (coreOf k) pc.addr
    else y.l1Store (coreOf k) pc.addr (bitsAt o.data (8 * pc.pos) (8 * pc.size)) pc.size, hframe, fun x => ?_, ?_⟩
  · dsimp only
    split <;> rfl
  · simp only [State.performPiece, hpieces, List.getElem?_cons_zero, hsend, refuses_hbm hlt hp.owned, State.storePiece, hcls, hs1]
    rfl

theorem exec_storePiece {pc : Piece} (hop : HasOp s t k id o) (hkind : o.kind = .store) (hpieces : o.pieces = [pc])
    (hsend : (s.slot t k).sendable o 0 pc = true) (hp : PlainHbm s t pc.addr pc.size) :
    ∃ u, exec (.storePerformed t k id 0 ext) s = .next u ∧
      HbmWritten s u t pc.addr pc.size (bitsAt o.data (8 * pc.pos) (8 * pc.size)) ∧ (u.slot t k).opOf id = none ∧
      (u.slot t k).cnts = (if o.cntS then (s.slot t k).cnts - 1 else (s.slot t k).cnts) ∧ ∀ r, (u.slot t k).gr r = (s.slot t k).gr r := by
  obtain ⟨hfind, hon, hlive⟩ := hop
  obtain ⟨s1, f, hframe, hf, hs1⟩ := performPiece_store (ext := ext) hpieces hsend hp
  have hstep : exec (.storePerformed t k id 0 ext) s = .next (s.performPiece t k o 0 ext) := by
    show execStorePerformed t k id 0 ext s = _
    rw [execStorePerformed, State.happenAt_live hon hlive]
    simp only [hfind, hkind]
  obtain ⟨hwritten, htiles⟩ := writeHbm_written (v := bitsAt o.data (8 * pc.pos) (8 * pc.size)) hframe hp
  have hid : o.id = id := id_of_opOf hfind
  refine ⟨_, hstep.trans (congrArg _ hs1), hbmWritten_congr (u := s1.writeHbm (partOf s t) pc.addr (bitsAt o.data (8 * pc.pos) (8 * pc.size)) pc.size) (fun _ => rfl) hwritten, ?_⟩
  rw [State.slot_modSlot_same, State.slot, State.tile_modTile_same, Tile.slot]
  simp only [hf]
  rw [State.tile_of_tiles htiles]
  show ((s1.slot t k).dropOp o).opOf id = none ∧ ((s1.slot t k).dropOp o).cnts = _ ∧ ∀ r, ((s1.slot t k).dropOp o).gr r = _
  rw [hframe.slot]
  exact ⟨opOf_dropOp hid, rfl, fun r => rfl⟩

/-! ## A query (R85) -/

theorem exec_queryTime (hop : HasOp s t k id o) (hmark : o.mark = false) (hkind : o.kind = .query .time) (hready : o.ready = false)
    (hfree : (s.slot t k).free o = true) : ∃ u, exec (.longResultReturn t k id i ext) s = .next u ∧
      (u.slot t k).opOf id = some { o with data := s.time.tai, ready := true, performed := true } := by
  have hstep : s.longReturn t k o i ext = s.answered t k o s.time.tai := by
    simp only [State.longReturn, hmark, hready, hkind, hfree]
    rfl
  refine ⟨_, (exec_longResultReturn hop).trans (congrArg _ hstep), ?_⟩
  rw [State.answered, State.slot_modSlot_same]
  have hid : o.id = id := id_of_opOf hop.1
  exact opOf_setOp hop.1 hid

end

/-- Settles O36: each event performs the piece or result at its home, by what the home gives and takes. -/
theorem operationsPerformAtTheirHomes : Obligations.OperationsPerformAtTheirHomes := by
  intro s t k id i ext o hop hmark
  exact ⟨fun pc hkind hready hpc hsend hp hl1 hatom => exec_loadPiece hop hmark hkind hready hpc hsend hp hl1 hatom,
    fun r lo bits hkind hready hbad hr hdests => exec_loadResult hop hmark hkind hready hbad hr hdests,
    fun pc hkind hpieces hsend hp => exec_storePiece hop hkind hpieces hsend hp,
    fun hkind hready hfree => exec_queryTime hop hmark hkind hready hfree⟩

end Sys2Proof.Machine
end


section
/-! O38: waits park, and parks end. -/
namespace Sys2Proof.Machine
open Sys2Proof Sys2Proof.Claims

/-! ## waitc (R332) -/

section
variable {s : State} {h : Hdr} {q : Req} {body : State → Eff} {i : Instr}

/-- `s1` is `s` with its slot changed by `f`, as far as any further change of the slot can tell. -/
def SlotBy (s s1 : State) (f : Slot → Slot) : Prop := ∀ u, s1.upd u = s.upd (u ∘ f)

theorem slotBy_upd (f : Slot → Slot) : SlotBy s (s.upd f) f := fun _ => State.upd_upd _ _ _

theorem slotBy_id : SlotBy s s id := fun _ => rfl

theorem slotBy_me {s1 : State} {f : Slot → Slot} (hs : SlotBy s s1 f) : s1.me = f s.me := by
  have hid := congrArg State.me (hs id)
  rwa [State.me_upd, State.me_upd] at hid

/-- An instruction that changes its slot by `f` and completes. -/
theorem exec_go_by {s1 : State} {f : Slot → Slot} (hx : exec i s = s.issue h q body) (hr : Ready s h q.reads q.writes) (ht : q.tokens = 0)
    (hb : body s = .go s1) (hs : SlotBy s s1 f) (hra : (f s.me).ra = none) (hk : SlotKept s.me (f s.me) []) (hfp : FpKept s.me (f s.me))
    (hpc : (f s.me).pc = s.me.pc) (hsrep : (f s.me).srep = s.me.srep) : ∃ t, exec i s = .next t ∧ Advanced s t ∧ Kept s t [] := by
  refine ⟨_, exec_go hx hr ht hb (by rw [slotBy_me hs]; exact hra), ?_, ?_⟩
  · rw [State.completed, hs]
    exact Advanced.of_upd (f := f) hpc hsrep
  · rw [State.completed, hs]
    exact Kept.of_upd (f := f) hk hfp

/-- An instruction that changes its slot by `f` and parks it. -/
theorem exec_parks_by {s1 : State} {f : Slot → Slot} {p : Park} (hx : exec i s = s.issue h q body) (hr : Ready s h q.reads q.writes)
    (ht : q.tokens = 0) (hb : body s = .park s1 p) (hs : SlotBy s s1 f) (hra : (f s.me).ra = none) (hpc : (f s.me).pc = s.me.pc)
    (hsrep : (f s.me).srep = s.me.srep) : ∃ t, exec i s = .next t ∧ Advanced s t ∧ t.me.park = p ∧ OutsideKept s t := by
  have hme := slotBy_me hs
  refine ⟨_, exec_parks hx hr ht hb (by rw [hme]; exact hra), waiting_advanced ?_ (by rw [hme, hpc]) (by rw [hme, hsrep]), ?_, ?_⟩
  · have hcur : (s1.upd id).cur = (s.upd (id ∘ f)).cur := congrArg State.cur (hs id)
    exact hcur
  · rw [waiting_me, Slot.order_park]
  · rw [State.waiting, hs]
    exact OutsideKept.of_upd _ _

/-- What a waitc that goes on or parks leaves of its slot: a wait to zero orders later host accesses. -/
theorem exec_waitc {n : BitVec 16} {c : Bool} {s1 : State} {count : Word} {f : Slot → Slot} (hr : Ready s h [] []) (hx : exec i s = s.issue h {} body)
    (hb : body s = if count.toNat ≤ n.toNat then .go s1 else .park s1 (.count c n.toNat)) (hs : SlotBy s s1 f)
    (hf : ∃ hostOrd, f s.me = { s.me with hostOrd }) :
    (count.toNat ≤ n.toNat → ∃ t, exec i s = .next t ∧ Advanced s t ∧ Kept s t []) ∧
    (n.toNat < count.toNat → ∃ t, exec i s = .next t ∧ Advanced s t ∧ t.me.park = .count c n.toNat ∧ OutsideKept s t) := by
  obtain ⟨hostOrd, hw⟩ := hf
  have hra : (f s.me).ra = none := by rw [hw]; exact hr.sure
  have hpc : (f s.me).pc = s.me.pc := by rw [hw]
  have hsrep : (f s.me).srep = s.me.srep := by rw [hw]
  refine ⟨fun hle => ?_, fun hlt => ?_⟩
  · rw [if_pos hle] at hb
    refine exec_go_by hx hr rfl hb hs hra ?_ ?_ hpc hsrep
    · rw [hw]
      exact ⟨fun _ _ => rfl, fun _ _ => rfl, fun _ _ => rfl, fun _ _ => rfl, fun _ _ => rfl, ⟨rfl, rfl, rfl, rfl, rfl⟩, ⟨rfl, rfl⟩,
        ⟨rfl, rfl, rfl, rfl, rfl, rfl⟩, rfl, ⟨rfl, rfl⟩⟩
    · rw [hw]
      exact ⟨rfl, rfl, rfl⟩
  · rw [if_neg (Nat.not_le.2 hlt)] at hb
    exact exec_parks_by hx hr rfl hb hs hra hpc hsrep

/-- A wait to zero changes the slot, any other one nothing. -/
theorem waited_by (n : BitVec 16) (counted : HostAccess → Bool) : ∃ f, SlotBy s (if n = 0 then s.upd (Slot.waited · counted) else s) f ∧
    ∃ hostOrd, f s.me = { s.me with hostOrd } := by
  split
  · exact ⟨_, slotBy_upd _, _, rfl⟩
  · exact ⟨_, slotBy_id, s.me.hostOrd, rfl⟩

end

/-! ## mwait's issue (R333) -/

section
variable {s : State} {h : Hdr} {d : P} {a b c : G}

/-- What an mwait asks for. -/
def Req.stamp (d : P) (a b c : G) : Req := { reads := [rG a, rG b, rG c], writes := [rP d], deep := [rG a], mem := true }

/-- The park of an mwait issued now. -/
def State.stampPark (s : State) (h : Hdr) (d : P) (v : Word) (b c : G) : Park :=
  .mwait d v (s.me.gr b) s.myTile.cycle (s.me.gr c).toNat h.cache

/-- The state with the search for the translation of a host stamp's page begun. -/
def State.probing (s : State) (v : Word) : State := s.addOp { Op.plain .probe with addr := v.toNat, size := 8, conf := false, far := [v.toNat] } false

/-- The effect of an mwait. -/
def State.mwaitEff (s : State) (h : Hdr) (d : P) (a b c : G) : Eff :=
  let v := s.me.gr a
  if v.toNat % 8 ≠ 0 then .trap cAlign 0 v
  else match s.myPart.classOf v.toNat 8 with
    | some .remote => .trap cProt 0 v
    | some .view => .trap cProt 0 v
    | none => .trap cProt 0 v
    | some .host => s.pageOk v.toNat (.park (s.probing v) ((s.probing v).stampPark h d v b c))
    | some cl => if !s.myPart.permits cl v.toNat 8 needR then .trap cProt 0 v else .park s (s.stampPark h d v b c)

theorem exec_mwait_eq (h : Hdr) (d : P) (a b c : G) (s : State) :
    exec (.mwait h d a b c) s = s.issue h (Req.stamp d a b c) (·.mwaitEff h d a b c) := rfl

theorem window_bounds {v n : Nat} (h : inWindow v n = true) : 2 ^ 48 ≤ v ∧ v + n ≤ 2 ^ 49 := by
  obtain ⟨o, ho, rfl | rfl⟩ := inWindow_iff.1 h
  · simp only [linBase]; omega
  · simp only [swzBase]; omega

theorem classOf_hole {p : Part} {v : Nat} (h : (2 ^ 39 ≤ v ∧ v < 2 ^ 48) ∨ 2 ^ 50 ≤ v) :
    p.classOf v 8 = some .remote ∨ p.classOf v 8 = some .view ∨ p.classOf v 8 = none := by
  unfold Part.classOf
  split
  · omega
  · split
    · exact .inr (.inr rfl)
    · split
      · split
        · exact .inr (.inl rfl)
        · exact .inr (.inr rfl)
      · split
        case isTrue hwin => have := window_bounds hwin; omega
        case isFalse =>
          split
          case isTrue hhost =>
            rw [Bool.and_eq_true, decide_eq_true_eq, decide_eq_true_eq] at hhost
            omega
          case isFalse =>
            split
            · exact .inl rfl
            · exact .inr (.inr rfl)

theorem classOf_window {p : Part} {v n : Nat} (h : inWindow v n = true) : p.classOf v n = some .store := by
  obtain ⟨hlo, -⟩ := window_bounds h
  rw [Part.classOf, if_neg (by omega), if_neg (by omega), if_neg (by omega), if_pos h]

theorem classOf_host {p : Part} {v : Nat} (hlo : 2 ^ 49 ≤ v) (hhi : v < 2 ^ 50) (hal : v % 8 = 0) : p.classOf v 8 = some .host := by
  have hwin : inWindow v 8 = false := Bool.eq_false_iff.2 fun hw => by have := window_bounds hw; omega
  rw [Part.classOf, if_neg (by omega), if_neg (by omega), if_neg (by omega), hwin, if_neg (by simp), if_pos]
  rw [Bool.and_eq_true]
  exact ⟨decide_eq_true hlo, decide_eq_true (by omega)⟩

/-- A stamp outside HBM, the tile store and the host traps. -/
theorem mwaitEff_hole (hal : (s.me.gr a).toNat % 8 = 0)
    (hole : (2 ^ 39 ≤ (s.me.gr a).toNat ∧ (s.me.gr a).toNat < 2 ^ 48) ∨ 2 ^ 50 ≤ (s.me.gr a).toNat) :
    s.mwaitEff h d a b c = .trap cProt 0 (s.me.gr a) := by
  simp only [State.mwaitEff, hal, ne_eq, not_true_eq_false, if_false]
  rcases classOf_hole (p := s.myPart) hole with hcls | hcls | hcls <;> rw [hcls]

theorem exec_mwait_parks (hr : Ready s h [rG a, rG b, rG c] [rP d]) (hal : (s.me.gr a).toNat % 8 = 0)
    (hok : HbmOk s (s.me.gr a).toNat 8 1 ∨ inWindow (s.me.gr a).toNat 8 = true) :
    ∃ t, exec (.mwait h d a b c) s = .next t ∧ Advanced s t ∧ t.me.park = s.stampPark h d (s.me.gr a) b c ∧ OutsideKept s t := by
  have hb : s.mwaitEff h d a b c = .park s (s.stampPark h d (s.me.gr a) b c) := by
    simp only [State.mwaitEff, hal, ne_eq, not_true_eq_false, if_false]
    rcases hok with ⟨hlt, hext, -, hgrant⟩ | hwin
    · have hcls : s.myPart.classOf (s.me.gr a).toNat 8 = some .hbm := (if_pos hlt).trans (if_pos hext)
      simp [hcls, Part.permits, needR, hgrant]
    · have hcls : s.myPart.classOf (s.me.gr a).toNat 8 = some .store := by
        exact classOf_window hwin
      simp [hcls, Part.permits]
  exact exec_parks_by (exec_mwait_eq h d a b c s) hr rfl hb slotBy_id hr.sure rfl rfl

/-- The order of host accesses marks at most the operations that the instruction adds. -/
theorem order_ops_new {x y : Slot} {o : Op} {q : Req} {j : Bool} (hops : y.ops = x.ops ++ [o]) :
    ∃ relaxed, (x.order y h q j).ops = x.ops ++ [{ o with relaxed }] := by
  have hold (p : Op) (hp : p ∈ x.ops) :
      ((y.ops.filter fun o => !(x.ops.any fun q => q.id == o.id) && !o.hostBytes.isEmpty).any fun q => q.id == p.id) = false := by
    rw [List.any_eq_false]
    intro m hm hid
    obtain ⟨-, hm⟩ := List.mem_filter.1 hm
    have hin : (x.ops.any fun q => q.id == m.id) = true := List.any_eq_true.2 ⟨p, hp, by rw [beq_iff_eq] at hid ⊢; exact hid.symm⟩
    simp [hin] at hm
  have hpart (g : Op → Op) (hg : ∀ p ∈ x.ops, g p = p) (ho : ∃ relaxed, g o = { o with relaxed }) :
      ∃ relaxed, y.ops.map g = x.ops ++ [{ o with relaxed }] := by
    obtain ⟨relaxed, ho⟩ := ho
    refine ⟨relaxed, ?_⟩
    rw [hops, List.map_append, List.map_congr_left hg, List.map_id', List.map_singleton, ho]
  refine hpart _ (fun p hp => if_neg (by rw [hold p hp]; exact Bool.false_ne_true)) ?_
  split
  · exact ⟨_, rfl⟩
  · exact ⟨o.relaxed, rfl⟩

/-- An access that starts run-ahead is counted by it. -/
theorem countAhead_fresh {r : RunAhead} (hra : s.me.ra = some r) (hfault : r.fault = none) :
    s.countAhead = s.upd fun x => { x with ra := some { r with issued := r.issued + 1 } } := by
  simp only [State.countAhead, hra, hfault]

/-- The operation that finds a host stamp's translation. -/
def State.probe (s : State) (v : Word) : Op :=
  { Op.plain .probe with addr := v.toNat, size := 8, conf := false, far := [v.toNat], id := s.serial, pc := s.me.pc, t0 := s.myTile.cycle,
                         ns := s.time.tai }

theorem probing_me (v : Word) (hra : s.me.ra = none) : ∃ r, r.fault = none ∧
    (s.probing v).me = { s.me with ops := s.me.ops ++ [s.probe v], ra := some r } := by
  have hme : State.me { s with serial := s.serial + 1 } = s.me := rfl
  refine ⟨{ ckpts := [(s.serial, s.me.ckpt)], issued := 0, fault := none, marks := [], pages := [], pre := [] }, rfl, ?_⟩
  · simp only [State.probing, State.addOp, State.fresh, State.me_upd, hme, hra]
    rfl

/-- An instruction whose effect is a wait for a translation. -/
theorem exec_parks_fresh {s1 : State} {q : Req} {body : State → Eff} {i : Instr} {p : Park} {r : RunAhead} {o : Op} (hx : exec i s = s.issue h q body)
    (hr : Ready s h q.reads q.writes) (ht : q.tokens = 0) (hb : body s = .park s1 p) (hcur : s1.cur = s.cur)
    (hme : s1.me = { s.me with ops := s.me.ops ++ [o], ra := some r }) (hfault : r.fault = none) :
    ∃ t relaxed, exec i s = .next t ∧ Advanced s t ∧ t.me.ops = s.me.ops ++ [{ o with relaxed }] ∧ t.me.park = p := by
  have hra : (s.waiting s1 h q p).me.ra = some r := by
    rw [waiting_me, Slot.order_ra]
    exact (Slot.advance_ra _ _ _ _).trans (by rw [hme])
  have hconcl : s.conclude h q (.park s1 p) = (s.waiting s1 h q p).upd fun x => { x with ra := some { r with issued := r.issued + 1 } } := by
    rw [← countAhead_fresh hra hfault]
    simp only [State.conclude, Slot.ahead_of_ra hr.sure, ht, State.charge_zero]
    rfl
  obtain ⟨relaxed, hops⟩ := order_ops_new (x := s.me) (y := { s1.me.advance h s.me.longs s.serial with park := p }) (o := o) (h := h) (q := q) (j := false)
    ((Slot.advance_ops _ _ _ _).trans (by rw [hme]))
  refine ⟨_, relaxed, hx.trans ((State.issue_ready hr ht).trans (congrArg _ (hb ▸ hconcl))), ?_, ?_, ?_⟩
  · obtain ⟨hpc, hsrep, hcur'⟩ := waiting_advanced (h := h) (q := q) (p := p) hcur (by rw [hme]) (by rw [hme])
    exact ⟨by rw [State.me_upd]; exact hpc, by rw [State.me_upd]; exact hsrep, hcur'⟩
  · rw [State.me_upd, waiting_me]
    exact hops
  · rw [State.me_upd, waiting_me, Slot.order_park]

theorem exec_mwait_host (hr : Ready s h [rG a, rG b, rG c] [rP d]) (hal : (s.me.gr a).toNat % 8 = 0) (hlo : 2 ^ 49 ≤ (s.me.gr a).toNat)
    (hhi : (s.me.gr a).toNat < 2 ^ 50) (hpage : ∀ f ∈ s.me.failed, f.1 ≠ (s.me.gr a).toNat / 65536) :
    ∃ t o, exec (.mwait h d a b c) s = .next t ∧ Advanced s t ∧ t.me.ops = s.me.ops ++ [o] ∧ o.kind = .probe ∧ o.conf = false ∧
      o.far = [(s.me.gr a).toNat] ∧ t.me.park = s.stampPark h d (s.me.gr a) b c := by
  obtain ⟨r, hfault, hme⟩ := probing_me (s.me.gr a) hr.sure
  have hpark : (s.probing (s.me.gr a)).stampPark h d (s.me.gr a) b c = s.stampPark h d (s.me.gr a) b c := by
    have hcycle : (s.probing (s.me.gr a)).myTile.cycle = s.myTile.cycle := by
      simp only [State.probing, State.addOp, State.fresh, State.myTile_upd]
      rfl
    simp only [State.stampPark, hme, hcycle]
    rfl
  have hb : s.mwaitEff h d a b c = .park (s.probing (s.me.gr a)) (s.stampPark h d (s.me.gr a) b c) := by
    have hfind : s.me.failed.find? (fun f => f.1 = (s.me.gr a).toNat / 65536) = none :=
      List.find?_eq_none.2 fun f hf => by simpa using hpage f hf
    simp only [State.mwaitEff, hal, ne_eq, not_true_eq_false, if_false, classOf_host hlo hhi hal, State.pageOk, hfind, hpark]
  obtain ⟨t, relaxed, hnext, hadv, hops, hp⟩ := exec_parks_fresh (exec_mwait_eq h d a b c s) hr rfl hb rfl hme hfault
  exact ⟨t, _, hnext, hadv, hops, rfl, rfl, rfl, hp⟩

end

/-- R332, R333. -/
theorem waitsPark : Claims.WaitsPark := by
  intro s h n d a b c
  refine ⟨fun hr => ?_, fun hr => ⟨fun htr hal => ?_, fun htr hal hole => ?_, exec_mwait_parks hr, exec_mwait_host hr⟩⟩
  · obtain ⟨f, hs, hf⟩ := waited_by (s := s) n (·.cntL)
    obtain ⟨g, hs', hg⟩ := waited_by (s := s) n (·.cntS)
    obtain ⟨hgoL, hparkL⟩ := exec_waitc (i := .waitcL h n) (c := false) (count := s.me.cntl) hr rfl rfl hs hf
    obtain ⟨hgoS, hparkS⟩ := exec_waitc (i := .waitcS h n) (c := true) (count := s.me.cnts) hr rfl rfl hs' hg
    exact ⟨hgoL, hparkL, hgoS, hparkS⟩
  · exact exec_traps (exec_mwait_eq h d a b c s) hr rfl (if_pos hal) htr
  · exact exec_traps (exec_mwait_eq h d a b c s) hr rfl (mwaitEff_hole hal hole) htr

/-! ## Parks that end (R83) -/

section
variable {s : State} {t : TileId} {k : SlotId}

/-- What SLOT_RESUME does. -/
theorem exec_slotResume (hon : s.power ≠ .off) (hlive : s.frozen t = false) :
    exec (.slotResume t k) s = .next (if s.resumable t k then s.resume t k else s) :=
  State.happenAt_live hon hlive

/-- A slot that goes on. -/
def Slot.goesOn (x : Slot) : Slot := { x with park := .none, sPark := false, yPark := none }

/-- A trap that is delivered to a slot outside trap mode with a handler. -/
theorem deliver_handled {s : State} {tr : TrapRec} (htm : (s.slot t k).tm = false) (hh : (s.tile t).handler ≠ 0) :
    s.deliver t k tr = s.modSlot t k fun x => x.inHandler tr (s.tile t).handler := by
  simp only [State.deliver]
  rw [if_pos ⟨hh, htm⟩]
  exact State.modSlot_modSlot s t k (fun x => x.enterTrap tr) fun y => { y with pc := (s.tile t).handler }

/-- The same for a trap delivered after a change of the slot. -/
theorem deliver_modSlot {s : State} {f : Slot → Slot} {tr : TrapRec} (htm : (f (s.slot t k)).tm = false) (hh : (s.tile t).handler ≠ 0) :
    (s.modSlot t k f).deliver t k tr = s.modSlot t k fun x => (f x).inHandler tr (s.tile t).handler := by
  have hhandler : ((s.modSlot t k f).tile t).handler = (s.tile t).handler := by
    rw [State.tile_modSlot_same]
    rfl
  rw [deliver_handled (by rw [State.slot_modSlot_same]; exact htm) (by rw [hhandler]; exact hh), hhandler]
  exact State.modSlot_modSlot _ _ _ _ _

/-- A slot in an ordinary park, without marker and yield, resumes exactly when the park is over. -/
theorem resumable_of_park (hact : (s.slot t k).active = true) (hp : (s.slot t k).park ≠ .none) (hsp : (s.slot t k).sPark = false)
    (hyp : (s.slot t k).yPark = none) : s.resumable t k = s.parkOver t k := by
  have hne : ((s.slot t k).park != .none) = true := by simpa using hp
  simp [State.resumable, hact, hne, hsp, hyp]

theorem resume_of_none (hp : (s.slot t k).park = .none) : s.resume t k = s.modSlot t k Slot.goesOn := by
  simp only [State.resume, hp]
  rfl

/-- A park that ends when `c` holds, after which the slot goes on. -/
theorem ends_of_parkOver {c : Prop} (hon : s.power ≠ .off) (hlive : s.frozen t = false) (hact : (s.slot t k).active = true)
    (hp : (s.slot t k).park ≠ .none) (hres : s.resume t k = s.modSlot t k Slot.goesOn) (hc : s.parkOver t k = true ↔ c) : Ends s t k c := by
  intro hsp hyp
  rw [exec_slotResume hon hlive, resumable_of_park hact hp hsp hyp]
  refine ⟨fun hyes => ⟨_, congrArg _ (if_pos (hc.2 hyes)), ?_⟩, fun hno => congrArg _ (if_neg fun h => hno (hc.1 h))⟩
  rw [hres, State.slot_modSlot_same]
  exact ⟨rfl, rfl, hact⟩

section
variable (hon : s.power ≠ .off) (hlive : s.frozen t = false) (hact : (s.slot t k).active = true)
include hon hlive hact

theorem ends_count {c : Bool} {n : Nat} (hp : (s.slot t k).park = .count c n) :
    Ends s t k ((if c then (s.slot t k).cnts else (s.slot t k).cntl).toNat ≤ n) :=
  ends_of_parkOver hon hlive hact (by simp [hp]) (by simp only [State.resume, hp]; rfl) (by simp [State.parkOver, hp])

theorem ends_sbar {m : Word} (hp : (s.slot t k).park = .sbar m) :
    Ends s t k (∀ j, j ≠ k → m.getLsbD j.val = true → (s.slot t j).active = false ∨ (s.slot t k).sbarCnt ≤ (s.slot t j).sbarCnt) := by
  refine ends_of_parkOver hon hlive hact (by simp [hp]) (by simp only [State.resume, hp]; rfl) ?_
  simp only [State.parkOver, hp, Tile.sbarOk, List.all_eq_true]
  constructor
  · intro h j hj hm
    have := h j (mem_allSlots j)
    simpa [hj, hm, State.slot] using this
  · intro h j _
    by_cases hj : j = k
    · simp [hj]
    · cases hm : m.getLsbD j.val with
      | false => simp
      | true => simpa [hj, State.slot] using h j hj hm

theorem ends_confirm (hp : (s.slot t k).park = .confirm) : Ends s t k ((s.slot t k).ra = none) :=
  ends_of_parkOver hon hlive hact (by simp [hp]) (by simp only [State.resume, hp]; rfl) (by simp [State.parkOver, hp])

theorem ends_acquire (hp : (s.slot t k).park = .acquire) : Ends s t k (∀ o ∈ (s.slot t k).ops, ∀ sc, o.kind ≠ .acq sc) := by
  refine ends_of_parkOver hon hlive hact (by simp [hp]) (by simp only [State.resume, hp]; rfl) ?_
  simp only [State.parkOver, hp, Slot.acquiring, Bool.not_eq_true', List.any_eq_false]
  refine forall₂_congr fun o _ => ?_
  cases o.kind <;> simp

theorem ends_release (hp : (s.slot t k).park = .release) : Ends s t k (∀ o ∈ (s.slot t k).ops, o.cntL = false ∧ o.cntS = false) := by
  refine ends_of_parkOver hon hlive hact (by simp [hp]) (by simp only [State.resume, hp]; rfl) ?_
  simp only [State.parkOver, hp, Slot.counted, List.isEmpty_iff, List.map_eq_nil_iff, List.filter_eq_nil_iff]
  refine forall₂_congr fun o _ => ?_
  simp

theorem ends_stores (hp : (s.slot t k).park = .stores) : Ends s t k ((s.slot t k).cnts = 0) :=
  ends_of_parkOver hon hlive hact (by simp [hp]) (by simp only [State.resume, hp]; rfl) (by simp [State.parkOver, hp])

theorem ends_queue {ch : Fin 4} (hp : (s.slot t k).park = .queue ch) :
    Ends s t k (((s.tile t).channel ch).queue.length + (s.tile t).heldCopies ch < 16) :=
  ends_of_parkOver hon hlive hact (by simp [hp]) (by simp only [State.resume, hp]; rfl) (by simp [State.parkOver, hp, Tile.queueFull])

theorem ends_board {rd wr : List (Nat × Nat)} (hp : (s.slot t k).park = .board rd wr) (hrd : rd ≠ []) :
    Ends s t k ((s.tile t).board.length < 64) :=
  ends_of_parkOver hon hlive hact (by simp [hp]) (by simp only [State.resume, hp]; rfl) (by simp [State.parkOver, hp, Tile.boardFull, hrd])

theorem ends_page {g : BitVec 9} (hp : (s.slot t k).park = .page g) :
    Ends s t k (∀ b ∈ (partOf s t).batches, b.tile = t → b.slot = k → b.group ≠ g) := by
  refine ends_of_parkOver hon hlive hact (by simp [hp]) (by simp only [State.resume, hp]; rfl) ?_
  simp only [State.parkOver, hp, Part.asking, Bool.not_eq_true', List.any_eq_false]
  refine forall₂_congr fun b _ => ?_
  simp

/-! ## The marker and yield (R84, R86) -/

theorem exec_yield {b n : Nat} (hp : (s.slot t k).park = .none) (hsp : (s.slot t k).sPark = false) (hyp : (s.slot t k).yPark = some (b, n)) :
    (n = 0 → ∃ u, exec (.slotResume t k) s = .next u ∧ (u.slot t k).yPark = none ∧ (u.slot t k).pc = (s.slot t k).pc) ∧
    (n ≠ 0 → exec (.slotResume t k) s = .next s) := by
  have hres : s.resumable t k = (n == 0) := by simp [State.resumable, State.parkOver, hact, hp, hsp, hyp]
  rw [exec_slotResume hon hlive, hres]
  refine ⟨fun hn => ⟨_, congrArg _ (if_pos (by simpa using hn)), ?_⟩, fun hn => congrArg _ (if_neg (by simpa using hn))⟩
  rw [resume_of_none hp, State.slot_modSlot_same]
  exact ⟨rfl, rfl⟩

theorem exec_marker (hp : (s.slot t k).park = .none) (hsp : (s.slot t k).sPark = true) (hyp : (s.slot t k).yPark = none)
    (hl : (s.slot t k).longs = 0) : ∃ u, exec (.slotResume t k) s = .next u ∧ (u.slot t k).sPark = false ∧ (u.slot t k).pc = (s.slot t k).pc := by
  have hres : s.resumable t k = true := by simp [State.resumable, State.parkOver, hact, hp, hsp, hyp, hl]
  rw [exec_slotResume hon hlive, hres]
  refine ⟨_, rfl, ?_⟩
  rw [if_pos rfl, resume_of_none hp, State.slot_modSlot_same]
  exact ⟨rfl, rfl⟩

/-! ## Parks that end a slot's activity or deliver a trap (R126, R421) -/

/-- A slot whose park waits for its long results alone, and has none, resumes. -/
theorem exec_resume_drained (hp : (s.slot t k).park ≠ .none) (hsp : (s.slot t k).sPark = false) (hyp : (s.slot t k).yPark = none)
    (hover : s.parkOver t k = true) : exec (.slotResume t k) s = .next (s.resume t k) := by
  rw [exec_slotResume hon hlive, resumable_of_park hact hp hsp hyp, if_pos hover]

theorem exec_halting (hp : (s.slot t k).park = .halting) (hsp : (s.slot t k).sPark = false) (hyp : (s.slot t k).yPark = none)
    (hl : (s.slot t k).longs = 0) : ∃ u, exec (.slotResume t k) s = .next u ∧ (u.slot t k).active = false := by
  refine ⟨_, exec_resume_drained hon hlive hact (by simp [hp]) hsp hyp (by simp [State.parkOver, hp, hl]), ?_⟩
  simp only [State.resume, hp]
  obtain ⟨d, hd⟩ := finishSlot_slot (s.modSlot t k Slot.goesOn) t k
  exact (congrArg Slot.active hd).trans rfl

/-- A slot whose rdone ends: without a trap of a refused read it becomes inactive. -/
theorem exec_ending (hp : (s.slot t k).park = .ending) (hsp : (s.slot t k).sPark = false) (hyp : (s.slot t k).yPark = none)
    (hl : (s.slot t k).longs = 0) (hdef : ∀ tr ∈ (s.slot t k).deferred, tr.precise = false) :
    ∃ u, exec (.slotResume t k) s = .next u ∧ (u.slot t k).active = false := by
  refine ⟨_, exec_resume_drained hon hlive hact (by simp [hp]) hsp hyp (by simp [State.parkOver, hp, hl]), ?_⟩
  have hnone : ((s.modSlot t k Slot.goesOn).slot t k).deferred.find? (·.precise) = none := by
    rw [State.slot_modSlot_same]
    exact List.find?_eq_none.2 fun tr htr => by simp [hdef tr htr]
  have hres : s.resume t k = (s.modSlot t k Slot.goesOn).finishSlot t k := by
    simp only [State.resume, hp]
    show State.resumeEnd (s.modSlot t k Slot.goesOn) t k = _
    simp only [State.resumeEnd, hnone]
  obtain ⟨d, hd⟩ := finishSlot_slot (s.modSlot t k Slot.goesOn) t k
  rw [hres]
  exact (congrArg Slot.active hd).trans rfl

theorem exec_ending_trap {tr : TrapRec} (hp : (s.slot t k).park = .ending) (hsp : (s.slot t k).sPark = false) (hyp : (s.slot t k).yPark = none)
    (hl : (s.slot t k).longs = 0) (hdef : (s.slot t k).deferred = [tr]) (hprec : tr.precise = true) (htm : (s.slot t k).tm = false)
    (hh : (s.tile t).handler ≠ 0) :
    ∃ u, exec (.slotResume t k) s = .next u ∧ (u.slot t k).active = true ∧ (u.slot t k).tm = true ∧
      (u.slot t k).pc = (s.tile t).handler ∧ (u.slot t k).trappc = tr.pc ∧ (u.slot t k).tcode = BitVec.ofNat 8 tr.code := by
  refine ⟨_, exec_resume_drained hon hlive hact (by simp [hp]) hsp hyp (by simp [State.parkOver, hp, hl]), ?_⟩
  have hfind : ((s.modSlot t k Slot.goesOn).slot t k).deferred.find? (·.precise) = some tr := by
    rw [State.slot_modSlot_same]
    show (s.slot t k).deferred.find? (·.precise) = some tr
    rw [hdef, List.find?_cons_of_pos hprec]
  have hres : s.resume t k = s.modSlot t k fun x => Slot.inHandler { x.goesOn with deferred := x.goesOn.deferred.erase tr } tr (s.tile t).handler := by
    simp only [State.resume, hp]
    show State.resumeEnd (s.modSlot t k Slot.goesOn) t k = _
    simp only [State.resumeEnd, hfind, State.modSlot_modSlot]
    exact deliver_modSlot (f := fun x => { x.goesOn with deferred := x.goesOn.deferred.erase tr }) htm hh
  rw [hres, State.slot_modSlot_same]
  exact ⟨hact, rfl, rfl, rfl, rfl⟩

theorem exec_trapped {tr : TrapRec} (hp : (s.slot t k).park = .trap tr) (hsp : (s.slot t k).sPark = false) (hyp : (s.slot t k).yPark = none)
    (hl : (s.slot t k).longs = 0) (hra : (s.slot t k).ra = none) (htm : (s.slot t k).tm = false) (hh : (s.tile t).handler ≠ 0) :
    ∃ u, exec (.slotResume t k) s = .next u ∧ (u.slot t k).pc = (s.tile t).handler ∧ (u.slot t k).tm = true ∧ (u.slot t k).trappc = tr.pc ∧
      (u.slot t k).trapval = tr.val ∧ (u.slot t k).tcode = BitVec.ofNat 8 tr.code := by
  refine ⟨_, exec_resume_drained hon hlive hact (by simp [hp]) hsp hyp (by simp [State.parkOver, hp, hl, hra]), ?_⟩
  have hres : s.resume t k = s.modSlot t k fun x => x.goesOn.inHandler tr (s.tile t).handler := by
    simp only [State.resume, hp]
    exact deliver_modSlot (f := Slot.goesOn) htm hh
  rw [hres, State.slot_modSlot_same]
  exact ⟨rfl, rfl, rfl, rfl, rfl⟩

/-- A deferred trap is taken at the slot's next issue (R420). -/
theorem exec_deferredTrap {tr : TrapRec} {l : List TrapRec} (hdef : (s.slot t k).deferred = tr :: l) (hp : (s.slot t k).park = .none)
    (hsp : (s.slot t k).sPark = false) (hyp : (s.slot t k).yPark = none) (hl : (s.slot t k).longs = 0) (hra : (s.slot t k).ra = none)
    (htm : (s.slot t k).tm = false) (hh : (s.tile t).handler ≠ 0) :
    ∃ u, exec (.deferredTrap t k) s = .next u ∧ (u.slot t k).pc = (s.tile t).handler ∧ (u.slot t k).tm = true ∧ (u.slot t k).trapval = tr.val ∧
      (u.slot t k).tcode = BitVec.ofNat 8 tr.code ∧ (u.slot t k).trappc = (if tr.precise then tr.pc else (s.slot t k).pc) ∧ (u.slot t k).deferred = l := by
  have hnext : (s.slot t k).nextTrap = some (tr, l) := by simp [Slot.nextTrap, hdef, htm]
  have hstep : exec (.deferredTrap t k) s = .next ((s.modSlot t k fun x => { x with deferred := l }).takeTrap t k
      (if tr.precise then tr else { tr with pc := (s.slot t k).pc })) := by
    show execDeferredTrap t k s = _
    rw [execDeferredTrap, State.happenAt_live hon hlive]
    simp only [hnext]
    rw [if_neg (by simp [hact, hp, hsp, hyp]), if_neg (by simp [Slot.ahead_of_ra hra])]
    rfl
  have hslot := State.slot_modSlot_same s t k fun x => { x with deferred := l }
  have hhandler : ((s.modSlot t k fun x => { x with deferred := l }).tile t).handler = (s.tile t).handler := by rw [State.tile_modSlot_same]; rfl
  have hval : (if tr.precise then tr else { tr with pc := (s.slot t k).pc }).val = tr.val := by split <;> rfl
  have hcode : (if tr.precise then tr else { tr with pc := (s.slot t k).pc }).code = tr.code := by split <;> rfl
  have hpc : (if tr.precise then tr else { tr with pc := (s.slot t k).pc }).pc = if tr.precise then tr.pc else (s.slot t k).pc := by split <;> rfl
  rw [State.takeTrap_handled (by rw [hslot]; exact hl) (by rw [hslot]; exact hra) (by rw [hslot]; exact htm) (by rw [hhandler]; exact hh),
    hhandler, State.modSlot_modSlot] at hstep
  refine ⟨_, hstep, ?_⟩
  rw [State.slot_modSlot_same]
  exact ⟨rfl, rfl, hval, congrArg (BitVec.ofNat 8) hcode, hpc, rfl⟩

/-! ## mwait's reads (R333) -/

section
variable {d : P} {a w : Word} {t0 lim : Nat} {hint : CacheHint} {ext : Word} (hp : (s.slot t k).park = .mwait d a w t0 lim hint)
include hp

omit hact in
theorem exec_mwaitPoll : exec (.mwaitPoll t k ext) s = .next (if !(s.slot t k).mwaitReady a.toNat then s
    else s.mwaitGo t k d a w hint (decide (lim ≤ (s.tile t).cycle - t0)) ext) := by
  show execMwaitPoll t k ext s = _
  rw [execMwaitPoll, State.happenAt_live hon hlive]
  simp only [hp]

omit hact in
theorem exec_mwaitLimit (hstore : clsAt a.toNat = .store) : exec (.mwaitLimitExpiry t k) s =
    .next (if (s.tile t).cycle - t0 < lim || !(s.slot t k).mwaitReady a.toNat then s else s.mwaitGo t k d a w hint true w) := by
  show execMwaitLimitExpiry t k s = _
  rw [execMwaitLimitExpiry, State.happenAt_live hon hlive]
  simp only [hp, hstore]
  rfl

omit hact in
theorem exec_mwaitLimit_unready (hready : (s.slot t k).mwaitReady a.toNat = false) : exec (.mwaitLimitExpiry t k) s = .next s := by
  show execMwaitLimitExpiry t k s = _
  rw [execMwaitLimitExpiry, State.happenAt_live hon hlive]
  simp only [hp]
  rw [if_pos (by simp [hready])]

end

end

/-- What an mwait that has its answer leaves of its slot. -/
theorem mwaitEnd_slot (s : State) (t : TileId) (k : SlotId) (d : P) (r : Bool) :
    ((s.mwaitEnd t k d r false).slot t k).park = .none ∧ ((s.mwaitEnd t k d r false).slot t k).pr d = if d = 0 then true else r := by
  have hslot : ∃ ops hostOrd, (s.mwaitEnd t k d r false).slot t k = { (s.slot t k).pw d r with park := .none, ops, hostOrd } := by
    simp only [State.mwaitEnd, Bool.false_and, Bool.false_eq_true, if_false]
    split
    · rw [State.slot, State.tile_modTile_same]
      exact ⟨_, _, State.slot_modSlot_same _ _ _ _⟩
    · exact ⟨_, _, State.slot_modSlot_same _ _ _ _⟩
  obtain ⟨ops, hostOrd, hslot⟩ := hslot
  rw [hslot]
  exact ⟨rfl, Slot.pr_pw (s.slot t k) d r⟩

theorem clsAt_window {a n : Nat} (h : inWindow a n = true) : clsAt a = .store := by
  obtain ⟨o, ho, rfl | rfl⟩ := inWindow_iff.1 h
  · simp only [linBase]
    rw [clsAt, if_neg (by omega), if_neg (by omega), if_neg (by omega), if_neg (by omega)]
  · simp only [swzBase]
    rw [clsAt, if_neg (by omega), if_neg (by omega), if_neg (by omega), if_neg (by omega)]

/-- A sound stamp in the tile store, as the store holds it. -/
theorem mwaitGo_window {d : P} {a w : Word} {hint : CacheHint} {last : Bool} {ext : Word} (hwin : inWindow a.toNat 8 = true)
    (hbad : (s.tile t).badChunks = []) : s.mwaitGo t k d a w hint last ext =
      if (s.tile t).storeRead a.toNat 8 ≠ w.toNat then s.mwaitEnd t k d true false else if last then s.mwaitEnd t k d false false else s := by
  have hcls := clsAt_window hwin
  have hsound : (s.tile t).storeBad a.toNat 8 = false := by simp [Tile.storeBad, hbad]
  have hrefuse : s.refuses (s.tile t).tag.toNat a.toNat 8 = false := by simp only [State.refuses, hcls]
  have hread : s.mwaitRead t k a.toNat hint ext = some (s, (s.tile t).storeRead a.toNat 8, false) := by
    simp only [State.mwaitRead, hcls, hsound]
  rw [State.mwaitGo, if_neg (by simp [hrefuse]), hread]
  exact if_neg Bool.false_ne_true

section
variable {d : P} {a w : Word} {t0 lim : Nat} {hint : CacheHint} {ext : Word}

/-- R333: what the two reads of an mwait do with a stamp in the tile store. -/
theorem exec_mwait_window (hon : s.power ≠ .off) (hlive : s.frozen t = false) (hp : (s.slot t k).park = .mwait d a w t0 lim hint)
    (hwin : inWindow a.toNat 8 = true) (hready : (s.slot t k).mwaitReady a.toNat = true) (hbad : (s.tile t).badChunks = []) :
    ((s.tile t).storeRead a.toNat 8 ≠ w.toNat →
      (∃ u, exec (.mwaitPoll t k ext) s = .next u ∧ (u.slot t k).park = .none ∧ (u.slot t k).pr d = true) ∧
      (lim ≤ (s.tile t).cycle - t0 → ∃ u, exec (.mwaitLimitExpiry t k) s = .next u ∧ (u.slot t k).park = .none ∧ (u.slot t k).pr d = true)) ∧
    ((s.tile t).storeRead a.toNat 8 = w.toNat → lim ≤ (s.tile t).cycle - t0 → d ≠ 0 →
      (∃ u, exec (.mwaitPoll t k ext) s = .next u ∧ (u.slot t k).park = .none ∧ (u.slot t k).pr d = false) ∧
      (∃ u, exec (.mwaitLimitExpiry t k) s = .next u ∧ (u.slot t k).park = .none ∧ (u.slot t k).pr d = false)) ∧
    ((s.tile t).storeRead a.toNat 8 = w.toNat → (s.tile t).cycle - t0 < lim → exec (.mwaitPoll t k ext) s = .next s) := by
  have hpoll := exec_mwaitPoll (ext := ext) hon hlive hp
  have hlimit := exec_mwaitLimit hon hlive hp (clsAt_window hwin)
  rw [if_neg (by simp [hready]), mwaitGo_window hwin hbad] at hpoll
  rw [mwaitGo_window hwin hbad] at hlimit
  obtain ⟨hparkT, hprT⟩ := mwaitEnd_slot s t k d true
  obtain ⟨hparkF, hprF⟩ := mwaitEnd_slot s t k d false
  refine ⟨fun hv => ?_, fun hv hlim hd => ?_, fun hv hlim => ?_⟩
  · rw [if_pos hv] at hpoll hlimit
    rw [ite_self] at hprT
    refine ⟨⟨_, hpoll, hparkT, hprT⟩, fun hlim => ?_⟩
    rw [if_neg (by simp [hready, hlim])] at hlimit
    exact ⟨_, hlimit, hparkT, hprT⟩
  · rw [if_neg (not_not.2 hv), if_pos (by simpa using hlim)] at hpoll
    rw [if_neg (by simp [hready, hlim]), if_neg (not_not.2 hv), if_pos rfl] at hlimit
    rw [if_neg hd] at hprF
    exact ⟨⟨_, hpoll, hparkF, hprF⟩, ⟨_, hlimit, hparkF, hprF⟩⟩
  · rw [if_neg (not_not.2 hv), if_neg (by simpa using hlim)] at hpoll
    exact hpoll

end

end

/-- R83, R126, R333, R420, R421. -/
theorem parksEndWhenTheirConditionHolds : Claims.ParksEndWhenTheirConditionHolds := by
  intro s t k hon hlive hact
  refine ⟨fun c n hp hsp hyp => ?_, fun hp hsp hyp hl => ⟨exec_ending hon hlive hact hp hsp hyp hl, fun tr hdef hprec htm hh =>
      exec_ending_trap hon hlive hact hp hsp hyp hl hdef hprec htm hh⟩,
    exec_halting hon hlive hact, fun m => ends_sbar hon hlive hact, ends_confirm hon hlive hact, ends_acquire hon hlive hact,
    ends_release hon hlive hact, ends_stores hon hlive hact, fun ch => ends_queue hon hlive hact, fun rd wr => ends_board hon hlive hact,
    fun g => ends_page hon hlive hact, fun b n => exec_yield hon hlive hact, exec_marker hon hlive hact,
    fun tr => exec_trapped hon hlive hact, fun d a w t0 lim hint ext hp hready => ?_,
    fun d a w t0 lim hint ext hp hwin hready hbad => exec_mwait_window hon hlive hp hwin hready hbad,
    fun tr l => exec_deferredTrap hon hlive hact⟩
  · obtain ⟨hends, hstays⟩ := ends_count hon hlive hact hp hsp hyp
    refine ⟨fun hle => ?_, fun hlt => hstays (Nat.not_le.2 hlt)⟩
    obtain ⟨u, hnext, hpark, hpc, -⟩ := hends hle
    exact ⟨u, hnext, hpark, hpc⟩
  · refine ⟨?_, exec_mwaitLimit_unready hon hlive hp hready⟩
    rw [exec_mwaitPoll hon hlive hp, if_pos (by simp [hready])]

/-- Settles O38: what each wait leaves at its issue, and when each park is over. -/
theorem waitsParkAndEnd : Obligations.WaitsParkAndEnd := ⟨waitsPark, parksEndWhenTheirConditionHolds⟩

end Sys2Proof.Machine
end


section
/-! SUPPORT for O29. A read of any class leaves every tile's own state: it changes caches, views, directories and memory behind
views (R262, R265), and counts a hit in the die's remote-data cache (R410). -/
namespace Sys2Proof.Machine
open Sys2Proof Sys2Proof.Claims

section
variable {s : State} {tag die a n : Nat} {t : TileId} {h : CacheHint} {c : Cls}

theorem foldl_tiles {α : Type} {f : State → α → State} (hf : ∀ s x, (f s x).tiles = s.tiles) (l : List α) (s : State) :
    (l.foldl f s).tiles = s.tiles := by
  induction l generalizing s with
  | nil => rfl
  | cons x l ih => exact (ih _).trans (hf s x)

theorem dirCount_tiles {w : Bool} : (s.dirCount tag die a w).tiles = s.tiles := (LaunchesKept.dirCount s).tiles

theorem dirCounts_tiles {ls : List Nat} {w : Bool} : (s.dirCounts tag die ls w).tiles = s.tiles := foldl_tiles (fun _ _ => dirCount_tiles) _ _

theorem viewFill_tiles : (s.viewFill tag a n).1.tiles = s.tiles := by
  dsimp only [State.viewFill]
  split
  · rfl
  · exact dirCounts_tiles

theorem putRaw_tiles {r : Region} {p : Part} {i v : Nat} {bad : Bool} : (r.putRaw s p i v bad).tiles = s.tiles := by
  dsimp only [Region.putRaw]
  split <;> exact (LaunchesKept.writeHbmBytes s _ _).tiles

theorem encodeElems_tiles {r : Region} {l : ViewLine} {wo i pos : Nat} : (encodeElems s tag r l wo i pos n).tiles = s.tiles := by
  induction n generalizing s i pos with
  | zero => rfl
  | succ n ih =>
    refine ih.trans ?_
    dsimp only
    split
    · exact putRaw_tiles
    · rfl

theorem viewWriteBack_tiles : (s.viewWriteBack tag a).tiles = s.tiles := by
  dsimp only [State.viewWriteBack]
  split
  · rfl
  · split
    · rfl
    · split
      · exact dirCounts_tiles.trans dirCounts_tiles
      · exact encodeElems_tiles.trans (dirCounts_tiles.trans dirCounts_tiles)

theorem viewEvict_tiles : (s.viewEvict tag a).tiles = s.tiles := by
  dsimp only [State.viewEvict]
  split
  · rfl
  · split
    · exact viewWriteBack_tiles
    · rfl

theorem l2Evict_tiles {sl key : Nat} : (s.l2Evict sl key).tiles = s.tiles := by
  dsimp only [State.l2Evict]
  split
  · rfl
  · split
    · rfl
    · split
      · rfl
      · exact viewWriteBack_tiles

theorem l2Touch_tiles {w : Bool} : (s.l2Touch tag a n w h).tiles = s.tiles := by
  dsimp only [State.l2Touch]
  split
  · rfl
  · split
    · rfl
    · exact l2Evict_tiles

theorem rdcFill_tiles {bad : Nat} : (s.rdcFill tag die a n bad h).tiles = s.tiles := by
  dsimp only [State.rdcFill]
  split <;> rfl

theorem homeLook_tiles : (s.homeLook tag c a n h).1.tiles = s.tiles := by
  have hfill : ((s.viewEvict tag a).viewFill tag a n).1.tiles = s.tiles := viewFill_tiles.trans viewEvict_tiles
  dsimp only [State.homeLook]
  split
  · split
    case h_1 s1 heq => rwa [heq] at hfill
    case h_2 s1 l heq =>
      rw [heq] at hfill
      dsimp only
      split
      · exact viewWriteBack_tiles.trans (l2Touch_tiles.trans hfill)
      · exact l2Touch_tiles.trans hfill
  · exact l2Touch_tiles

theorem rdcLook_tiles : (s.rdcLook tag die a n).1.tiles = s.tiles := by
  cases hfind : (mapGet [] s.rdc (4 * tag + die)).find? fun l => l.key == (s.part tag).lineKey tag a with
  | none => simp only [State.rdcLook, hfind]
  | some l =>
    rw [rdcLook_found hfind]
    split <;> rfl

theorem dieRead_tiles : (s.dieRead tag die c a n h).1.tiles = s.tiles := by
  have hlook := rdcLook_tiles (s := s) (tag := tag) (die := die) (a := a) (n := n)
  dsimp only [State.dieRead]
  split
  case h_1 s1 l heq => rwa [heq] at hlook
  case h_2 s1 heq =>
    rw [heq] at hlook
    exact rdcFill_tiles.trans (homeLook_tiles.trans (dirCount_tiles.trans hlook))

/-- A count changes its own tile's performance counters alone. -/
theorem tileCount_tile {ev m : Nat} : ∃ pm st, (s.tileCount t ev m).tile t = { s.tile t with pmcnt := pm, pmstat := st } := by
  rw [State.tileCount, State.tile_modTile_same]
  dsimp only
  split
  · exact ⟨_, _, rfl⟩
  · split <;> exact ⟨_, _, rfl⟩

/-- What a read for a tile leaves of it: at most its performance counters differ. -/
theorem tileRead_tile : ∃ pm st, (s.tileRead t c a n h).1.tile t = { s.tile t with pmcnt := pm, pmstat := st } := by
  have hread : ∀ u, (s.dieRead (s.tile t).tag.toNat (dieOf t) c a n h).1.tile u = s.tile u := congrFun (State.tile_of_tiles dieRead_tiles)
  dsimp only [State.tileRead]
  split
  · obtain ⟨pm, st, hcount⟩ := tileCount_tile (s := (s.dieRead (s.tile t).tag.toNat (dieOf t) c a n h).1) (t := t) (ev := 0x003) (m := 1)
    exact ⟨pm, st, hcount.trans (by rw [hread])⟩
  · exact ⟨_, _, hread t⟩

end

end Sys2Proof.Machine
end


section
/-! SUPPORT for O29. What a member quarter makes of its accumulator tile (R235 to R239, R247): the element of a row and a column. -/
namespace Sys2Proof.Machine
open Sys2Proof Sys2Proof.Claims

section
variable {M : Type} [AddCommMonoid M]

theorem foldl_add_eq_sum {α : Type} (f : α → M) (l : List α) : l.foldl (fun x y => x + f y) 0 = (l.map f).sum := by
  rw [List.sum_eq_foldl, List.foldl_map]

theorem sum_map_filter_bool {α : Type} (p : α → Bool) (f : α → M) (l : List α) :
    ((l.filter p).map f).sum = (l.map fun x => if p x then f x else 0).sum := by
  induction l with
  | nil => rfl
  | cons x l ih => cases hp : p x <;> simp [hp, ih]

end

theorem zipIdx_map_range {α : Type} (f : Nat → α) (n : Nat) : ((List.range n).map f).zipIdx = (List.range n).map fun i => (f i, i) :=
  List.ext_getElem (by simp) fun i h₁ h₂ => by simp

theorem mapGet_listed {α : Type} [BEq α] [LawfulBEq α] (d : α) (f : Nat → α) (l : List Nat) (e : Nat) :
    mapGet d ((l.map fun i => (i, f i)).filter fun x => x.2 != d) e = if e ∈ l then f e else d := by
  induction l with
  | nil => rfl
  | cons i l ih =>
    by_cases hd : f i = d
    · by_cases he : e = i
      · subst he
        simp [hd, ih]
      · simp [hd, ih, he]
    · by_cases he : e = i
      · simp [hd, mapGet, he]
      · simp [hd, mapGet, ih, he]

theorem elem_listElems {a : Acc} {N e : Nat} {f : Nat → Nat} (hl : a.elems = listElems N f) (he : e < N) : a.elem e = f e := by
  rw [Acc.elem, hl, listElems, natsFrom_zero, mapGet_listed, if_pos (List.mem_range.2 he)]

/-- Operand bytes in the tile store are those the member read at its issue, and the others as they stand (R234). -/
theorem operand_store (t : Tile) (early : Map (Nat × Bool)) (held : List Pin) (a n : Nat) :
    (t.operand early held a n false).1 = operandNow t early a n := by
  cases early with
  | nil => rfl
  | cons e es =>
    simp only [Tile.operand, operandNow, Bool.false_eq_true, if_false, List.isEmpty_cons, reduceCtorEq, natsFrom_zero, zipIdx_map_range,
      foldl_add_eq_sum, List.map_map, ceilDiv]
    refine congrArg List.sum (List.map_congr_left fun i _ => ?_)
    simp only [Function.comp_apply]
    cases mapFind (e :: es) ((storeOff (a + 64 * i)).getD 0 / 64) <;> rfl

/-- The accumulator tile that an mmac adds to: one of another kind counts as zero (R239). -/
def Acc.baseFor (acc : Acc) (kind : MKind) : Acc := if acc.kind.isSome && acc.kind != some kind then acc.zeroed else acc

theorem baseFor_elem (acc : Acc) (kind : MKind) (e : Nat) :
    (acc.baseFor kind).elem e = if acc.kind.isSome ∧ acc.kind ≠ some kind then 0 else acc.elem e := by
  simp only [Acc.baseFor, Bool.and_eq_true, bne_iff_ne]
  split <;> rfl

theorem apply_kind (m : Mac) (acc : Acc) (a b : Nat) (bad : Bool) : (m.apply acc a b bad).1.kind = some m.kind := rfl

/-- R235, R236, R238: element (i, j) after an mmac. -/
theorem apply_elem (m : Mac) (acc : Acc) (a b : Nat) (bad : Bool) {i j : Nat} (hi : i < (shapeOf m.kind).rows) (hj : j < (shapeOf m.kind).n) :
    (m.apply acc a b bad).1.elem (i * (shapeOf m.kind).n + j) =
      mmacElem m ((acc.baseFor m.kind).elem (i * (shapeOf m.kind).n + j)) a b i j := by
  have he : i * (shapeOf m.kind).n + j < (shapeOf m.kind).rows * (shapeOf m.kind).n := by nlinarith
  have hdiv : (i * (shapeOf m.kind).n + j) / (shapeOf m.kind).n = i := by
    rw [Nat.mul_comm, Nat.mul_add_div (by omega), Nat.div_eq_of_lt hj, Nat.add_zero]
  have hmod : (i * (shapeOf m.kind).n + j) % (shapeOf m.kind).n = j := by
    rw [Nat.mul_comm, Nat.mul_add_mod, Nat.mod_eq_of_lt hj]
  rw [elem_listElems rfl he]
  simp only [hdiv, hmod, mmacElem, bitAt_eq_testBit, BitVec.testBit_toNat, natsFrom_zero, foldl_add_eq_sum, sum_map_filter_bool]
  generalize shapeOf m.kind = sh
  cases (!m.sub.ye || m.y.getLsbD (sh.rows * m.q.val + i))
  case false => rfl
  cases (!m.sub.ze || m.sub.zk || m.z.getLsbD j)
  case false => rfl
  simp only [Mac.apply.laneAtBits, bitsAt, elemAt, elemBits, aIndex, bIndex, Acc.baseFor, Bool.not_true, Bool.or_self, Bool.and_self, if_true,
    Bool.false_eq_true, if_false]
  cases m.kind <;> simp only [reduceCtorEq, if_true, if_false]

/-! ## The members of a gang, in turn -/

theorem setAcc_same (t : Tile) (c : YZ) (q : Fin 4) (a : Acc) : (t.setAcc c q a).accAt c q = a := mapGet_mapSet_same _ _ _ _

theorem setAcc_other (t : Tile) (c c' : YZ) (q q' : Fin 4) (a : Acc) (h : c' ≠ c ∨ q' ≠ q) : (t.setAcc c q a).accAt c' q' = t.accAt c' q' := by
  refine mapGet_mapSet_other _ _ _ _ _ fun he => ?_
  have hq : q' = q := Fin.ext (by omega)
  have hc : c' = c := BitVec.eq_of_toNat_eq (by omega)
  exact h.elim (· hc) (· hq)

/-- A member's part leaves everything of the tile but accumulators and MATSTAT. -/
def Tile.AccOnly (t t' : Tile) : Prop := t' = { t with acc := t'.acc, matstat := t'.matstat }

theorem doMac_accOnly (t : Tile) (m : Mac) : t.AccOnly (t.doMac m) := by
  simp only [Tile.doMac]
  split <;> rfl

theorem foldl_doMac_accOnly (ms : List Mac) (t : Tile) : t.AccOnly (ms.foldl Tile.doMac t) := by
  induction ms generalizing t with
  | nil => rfl
  | cons m ms ih =>
    have h := ih (t.doMac m)
    have h0 := doMac_accOnly t m
    rw [Tile.AccOnly] at h h0 ⊢
    rw [List.foldl_cons, h, h0]

theorem operandNow_congr {t t' : Tile} (h : t'.store = t.store) (early : Map (Nat × Bool)) (a n : Nat) :
    operandNow t' early a n = operandNow t early a n := by
  simp only [operandNow, storeRead_congr h]

theorem doMac_acc_other (t : Tile) (m : Mac) {c : YZ} {q : Fin 4} (h : c ≠ m.set ∨ q ≠ m.q) : (t.doMac m).accAt c q = t.accAt c q := by
  simp only [Tile.doMac]
  split <;> exact setAcc_other _ _ _ _ _ _ h

theorem doMac_acc (t : Tile) (m : Mac) (hsa : m.sub.sa = false) (hsb : m.sub.sb = false) : ∃ bad, (t.doMac m).accAt m.set m.q =
    (m.apply (t.accAt m.set m.q) (operandNow t m.early m.a (aBytes m.kind m.sub)) (operandNow t m.early m.b (bBytes m.kind m.sub)) bad).1 := by
  refine ⟨(t.operand m.early m.held m.a (aBytes m.kind m.sub) false).2 || (t.operand m.early m.held m.b (bBytes m.kind m.sub) false).2, ?_⟩
  simp only [Tile.doMac, hsa, hsb, ← operand_store t _ m.held]
  split <;> exact setAcc_same _ _ _ _

theorem foldl_doMac_acc_other (ms : List Mac) (t : Tile) {c : YZ} {q : Fin 4} (h : ∀ m ∈ ms, c ≠ m.set ∨ q ≠ m.q) :
    (ms.foldl Tile.doMac t).accAt c q = t.accAt c q := by
  induction ms generalizing t with
  | nil => rfl
  | cons m ms ih =>
    rw [List.foldl_cons, ih _ fun m' hm' => h m' (List.mem_cons_of_mem _ hm'), doMac_acc_other _ _ (h m List.mem_cons_self)]

/-- R247: each member of a gang whose quarters differ has its accumulator tile's part, from the operands as the gang found them. -/
theorem foldl_doMac_acc (ms : List Mac) (t : Tile) (hq : ms.Pairwise fun m m' => m.q ≠ m'.q)
    (hstore : ∀ m ∈ ms, m.sub.sa = false ∧ m.sub.sb = false) : ∀ m ∈ ms, ∃ bad, (ms.foldl Tile.doMac t).accAt m.set m.q =
      (m.apply (t.accAt m.set m.q) (operandNow t m.early m.a (aBytes m.kind m.sub)) (operandNow t m.early m.b (bBytes m.kind m.sub)) bad).1 := by
  induction ms generalizing t with
  | nil => simp
  | cons m0 ms ih =>
    obtain ⟨hq0, hqs⟩ := List.pairwise_cons.1 hq
    intro m hm
    rcases List.mem_cons.1 hm with rfl | hm
    · obtain ⟨hsa, hsb⟩ := hstore m List.mem_cons_self
      rw [List.foldl_cons, foldl_doMac_acc_other _ _ fun m' hm' => .inr (hq0 m' hm')]
      exact doMac_acc t m hsa hsb
    · obtain ⟨bad, h⟩ := ih (t.doMac m0) hqs (fun m' hm' => hstore m' (List.mem_cons_of_mem _ hm')) m hm
      have hkept : (t.doMac m0).store = t.store := by rw [doMac_accOnly t m0]
      rw [operandNow_congr hkept, operandNow_congr hkept, doMac_acc_other t m0 (.inr (hq0 m hm).symm)] at h
      exact ⟨bad, h⟩

end Sys2Proof.Machine
end


section
/-! O29: gangs form, start and complete, and lines are fetched (R227 to R230, R233, R247). -/
namespace Sys2Proof.Machine
open Sys2Proof Sys2Proof.Claims

section
variable {s : State} {t : TileId} {x : Tile} {ms : List Arrival} {macs : List Mac} {n : Nat}

/-! ## A gang forms (R227, R228) -/

theorem minOf_of_forall_eq {l : List Nat} (hne : l ≠ []) (h : ∀ y ∈ l, y = n) : minOf l = some n := by
  induction l with
  | nil => exact absurd rfl hne
  | cons y l ih =>
    obtain rfl := h y List.mem_cons_self
    rcases eq_or_ne l [] with rfl | hl
    · rfl
    · simp [minOf, ih hl fun z hz => h z (List.mem_cons_of_mem _ hz)]

/-- The condition of R227: every core has an arrival, or its gang slot is inactive or has arrived as often. -/
theorem released_of (hn : ∀ a ∈ x.arrivals, a.n = n)
    (h : ∀ c : Fin 4, (∃ a ∈ x.arrivals, coreOf a.slot = c) ∨ (x.slot (x.gangSlot c)).active = false ∨ n ≤ (x.slot (x.gangSlot c)).drawCnt) :
    x.released n = true := by
  refine List.all_eq_true.2 fun c _ => ?_
  cases harr : x.arrivalOf c with
  | some a =>
    have hpart : x.participant c = (a.n, true) := by rw [Tile.participant, harr]
    simp [hpart, hn a (List.mem_of_find?_eq_some harr)]
  | none =>
    have hpart : x.participant c = ((x.slot (x.gangSlot c)).drawCnt, (x.slot (x.gangSlot c)).active) := by rw [Tile.participant, harr]
    rw [hpart]
    rcases h c with ⟨a, ha, hc⟩ | hidle | hcount
    · exact absurd (List.find?_eq_none.1 harr a ha) (by simp [hc])
    · simp [hidle]
    · simp [hcount]

theorem gangReady_of (hne : x.arrivals ≠ []) (hn : ∀ a ∈ x.arrivals, a.n = n) (hrel : x.released n = true) (hroom : x.gangs.length < 4) :
    x.gangReady = some x.arrivals := by
  have hmin : minOf (x.arrivals.map (·.n)) = some n := minOf_of_forall_eq (by simpa using hne) (by simpa using hn)
  have hall : (x.arrivals.filter fun a => a.n == n) = x.arrivals := List.filter_eq_self.2 fun a ha => by simp [hn a ha]
  simp only [Tile.gangReady, hmin, hall]
  exact if_pos ⟨hrel, .inr hroom⟩

theorem takeArrivals_all {drop : Bool} (x : Tile) : (x.takeArrivals x.arrivals drop).arrivals = [] := by
  have hnone : (x.arrivals.filter fun a => !(x.arrivals.any fun m => m.slot == a.slot)) = [] :=
    List.filter_eq_nil_iff.2 fun a ha => by simpa using ⟨a, ha, rfl⟩
  rw [Tile.takeArrivals]
  split <;> exact hnone

/-- What the drawbar's members leave of a tile: its slots, gangs and trap vector, among the rest. -/
theorem takeArrivals_kept {drop : Bool} (x : Tile) (ms : List Arrival) : (x.takeArrivals ms drop).slots = x.slots ∧
    (x.takeArrivals ms drop).gangs = x.gangs ∧ (x.takeArrivals ms drop).trapvec = x.trapvec := by
  rw [Tile.takeArrivals]
  split <;> exact ⟨rfl, rfl, rfl⟩

/-- A tile on which a gang has formed within its tokens. -/
def Tile.gangFormed (y : Tile) (ms : List Arrival) (macs : List Mac) : Tile :=
  { y.takeArrivals ms false with
    tokUsed := Nat.min 65535 (y.tokUsed + 4), pwrPower := y.pwrPower || false, stretch := y.stretch || false,
    gangs := y.gangs ++ [macs], matstat := if macs.length < 4 then y.matstat ||| 2 else y.matstat }

/-- The slots of a gang leave the drawbar. -/
def State.unpark (s : State) (t : TileId) (ms : List Arrival) : State :=
  ms.foldl (fun s a => s.modSlot t a.slot fun y => { y with park := .none }) s

theorem unpark_tile (ms : List Arrival) (s : State) : ∃ slots, (s.unpark t ms).tile t = { s.tile t with slots } := by
  induction ms generalizing s with
  | nil => exact ⟨_, rfl⟩
  | cons a ms ih =>
    obtain ⟨slots, h⟩ := ih (s.modSlot t a.slot fun y => { y with park := .none })
    exact ⟨slots, h.trans (by rw [State.tile_modSlot_same]; rfl)⟩

theorem unpark_none (ms : List Arrival) (s : State) (k : SlotId) (h : (s.slot t k).park = .none ∨ ∃ a ∈ ms, a.slot = k) :
    ((s.unpark t ms).slot t k).park = .none := by
  induction ms generalizing s with
  | nil => exact h.resolve_right (by simp)
  | cons a ms ih =>
    refine ih _ ?_
    by_cases hk : k = a.slot
    · subst hk
      exact .inl (by rw [State.slot_modSlot_same])
    · rw [State.slot_modSlot_other _ _ _ _ _ hk]
      exact h.imp_right fun ⟨b, hb, hbk⟩ => ⟨b, (List.mem_cons.1 hb).resolve_left fun e => hk (e ▸ hbk.symm), hbk⟩

theorem exec_gangForm (hon : s.power ≠ .off) (hlive : s.frozen t = false) (hready : (s.tile t).gangReady = some ms)
    (hsame : sameGang ms = true) (hmacs : ms.filterMap (·.mac) = macs) (hne : macs ≠ []) (htok : (s.tile t).tokUsed + 4 ≤ (s.tile t).tokDecl)
    (hstretch : (s.tile t).stretch = false) :
    exec (.gangForm t) s = .next ((s.modTile t fun y => y.gangFormed ms macs).unpark t ms) := by
  show execGangForm t s = _
  rw [execGangForm, State.happenAt_live hon hlive]
  obtain ⟨m, macs, rfl⟩ := List.exists_cons_of_ne_nil hne
  have hexc : decide ((s.tile t).tokUsed + 4 > (s.tile t).tokDecl) = false := decide_eq_false (Nat.not_lt.2 htok)
  simp only [hready, hsame, hmacs, hexc, hstretch, Bool.not_true, Bool.false_and, Bool.false_eq_true, if_false]
  rfl

/-- Members that differ leave the drawbar and trap (R228). -/
theorem exec_gangForm_differs (hon : s.power ≠ .off) (hlive : s.frozen t = false) (hready : (s.tile t).gangReady = some ms)
    (hsame : sameGang ms = false) : exec (.gangForm t) s = .next (ms.foldl
      (fun s a => s.takeTrap t a.slot { code := cProt, info := 0, pc := a.pc, val := 2, precise := true })
      ((s.modTile t fun y => y.takeArrivals ms true).unpark t ms)) := by
  show execGangForm t s = _
  rw [execGangForm, State.happenAt_live hon hlive]
  simp only [hready, hsame, Bool.not_false, if_true]
  rfl

/-- Leaving the drawbar changes a slot's park alone. -/
theorem unpark_slot (ms : List Arrival) (s : State) (k : SlotId) : ∃ p, (s.unpark t ms).slot t k = { s.slot t k with park := p } := by
  induction ms generalizing s with
  | nil => exact ⟨_, rfl⟩
  | cons a ms ih =>
    obtain ⟨p, h⟩ := ih (s.modSlot t a.slot fun y => { y with park := .none })
    refine ⟨p, h.trans ?_⟩
    by_cases hk : k = a.slot
    · subst hk
      rw [State.slot_modSlot_same]
    · rw [State.slot_modSlot_other _ _ _ _ _ hk]

/-- R421, R228: a slot of a gang whose members differ is in its handler, with the trap of code 4. -/
theorem takeTrap_differs {u : State} {k : SlotId} {pc : Word} (hl : (u.slot t k).longs = 0) (hra : (u.slot t k).ra = none)
    (htm : (u.slot t k).tm = false) (hh : (u.tile t).handler ≠ 0) :
    ∃ f : Slot → Slot, u.takeTrap t k { code := cProt, info := 0, pc, val := 2, precise := true } = u.modSlot t k f ∧
      ∀ y, (f y).tcode = 4 ∧ (f y).trapval = 2 ∧ (f y).trappc = pc ∧ (f y).pc = (u.tile t).handler :=
  ⟨_, State.takeTrap_handled hl hra htm hh, fun _ => ⟨rfl, rfl, rfl, rfl⟩⟩

theorem gangForms {kind : MKind} (hon : s.power ≠ .off) (hlive : s.frozen t = false) (harr : (s.tile t).arrivals = ms) (hne : ms ≠ [])
    (hms : ∀ a ∈ ms, a.n = n ∧ ∃ m, a.mac = some m ∧ m.kind = kind) (hrel : (s.tile t).released n = true)
    (hroom : (s.tile t).gangs.length < 4) (htok : (s.tile t).tokUsed + 4 ≤ (s.tile t).tokDecl) (hmax : (s.tile t).tokUsed + 4 ≤ 65535)
    (hstretch : (s.tile t).stretch = false) :
    ∃ u, exec (.gangForm t) s = .next u ∧ (u.tile t).gangs = (s.tile t).gangs ++ [ms.filterMap (·.mac)] ∧ (u.tile t).arrivals = [] ∧
      (u.tile t).tokUsed = (s.tile t).tokUsed + 4 ∧ (∀ a ∈ ms, (u.slot t a.slot).park = .none) ∧
      (u.tile t).matstat = if ms.length < 4 then (s.tile t).matstat ||| 2 else (s.tile t).matstat := by
  obtain rfl := harr
  have hmacs : ((s.tile t).arrivals.filterMap (·.mac)).length = (s.tile t).arrivals.length := by
    rw [List.length_filterMap_eq_countP, List.countP_eq_length]
    exact fun a ha => by obtain ⟨-, m, hm, -⟩ := hms a ha; simp [hm]
  have hsome : (s.tile t).arrivals.filterMap (·.mac) ≠ [] := fun h => hne (List.length_eq_zero_iff.1 (by rw [← hmacs, h]; rfl))
  have hsame : sameGang (s.tile t).arrivals = true := by
    obtain ⟨a0, rest, hcons⟩ := List.exists_cons_of_ne_nil hne
    obtain ⟨-, m0, hm0, hk0⟩ := hms a0 (hcons ▸ List.mem_cons_self)
    refine Bool.or_eq_true_iff.2 (.inr (List.all_eq_true.2 fun a ha => ?_))
    obtain ⟨-, m, hm, hk⟩ := hms a ha
    simp [hcons, hm, hm0, hk, hk0]
  refine ⟨_, exec_gangForm hon hlive (gangReady_of hne (fun a ha => (hms a ha).1) hrel hroom) hsame rfl hsome htok hstretch, ?_⟩
  obtain ⟨slots, htile⟩ := unpark_tile (t := t) (s.tile t).arrivals
    (s.modTile t fun y => y.gangFormed (s.tile t).arrivals ((s.tile t).arrivals.filterMap (·.mac)))
  rw [State.tile_modTile_same] at htile
  rw [htile]
  refine ⟨rfl, takeArrivals_all _, Nat.min_eq_right hmax, fun a ha => unpark_none _ _ _ (.inr ⟨a, ha, rfl⟩), ?_⟩
  rw [← hmacs]
  rfl

theorem gangTraps {a b : Arrival} {m : Mac} (hon : s.power ≠ .off) (hlive : s.frozen t = false) (hroom : (s.tile t).gangs.length < 4)
    (harr : (s.tile t).arrivals = [a, b]) (hn : a.n = b.n) (hcores : a.slot.val / 8 ≠ b.slot.val / 8) (hma : a.mac = some m) (hmb : b.mac = none)
    (hactive : ∀ k, ((s.tile t).slot k).active = true → k = a.slot ∨ k = b.slot)
    (hable : ∀ k, k = a.slot ∨ k = b.slot → ((s.tile t).slot k).longs = 0 ∧ ((s.tile t).slot k).ra = none ∧ ((s.tile t).slot k).tm = false)
    (hh : (s.tile t).handler ≠ 0) :
    ∃ u, exec (.gangForm t) s = .next u ∧ (u.tile t).arrivals = [] ∧ (u.tile t).gangs = (s.tile t).gangs ∧
      ∀ y ∈ [a, b], (u.slot t y.slot).tcode = 4 ∧ (u.slot t y.slot).trapval = 2 ∧ (u.slot t y.slot).trappc = y.pc ∧
        (u.slot t y.slot).pc = (s.tile t).handler := by
  have hab : b.slot ≠ a.slot := fun h => hcores (by rw [h])
  have hrel : (s.tile t).released b.n = true := by
    refine released_of (by simp [harr, hn]) fun c => ?_
    rw [harr]
    cases hact : ((s.tile t).slot ((s.tile t).gangSlot c)).active with
    | false => exact .inr (.inl rfl)
    | true =>
      have hcore : coreOf ((s.tile t).gangSlot c) = c := by
        refine Fin.ext ?_
        simp only [coreOf, Tile.gangSlot, slotOf, cfgGslot]
        omega
      rcases hactive _ hact with h | h
      · exact .inl ⟨a, by simp, h ▸ hcore⟩
      · exact .inl ⟨b, by simp, h ▸ hcore⟩
  have hready : (s.tile t).gangReady = some [a, b] := harr ▸ gangReady_of (by simp [harr]) (by simp [harr, hn]) hrel hroom
  refine ⟨_, exec_gangForm_differs hon hlive hready (by simp [sameGang, hma, hmb]), ?_⟩
  obtain ⟨hslots, hgangs, htv⟩ := takeArrivals_kept (drop := true) (s.tile t) [a, b]
  have harrivals := takeArrivals_all (drop := true) (s.tile t)
  rw [harr] at harrivals
  obtain ⟨slots, htile⟩ := unpark_tile (t := t) [a, b] (s.modTile t fun y => y.takeArrivals [a, b] true)
  have hslot := fun k => unpark_slot (t := t) [a, b] (s.modTile t fun y => y.takeArrivals [a, b] true) k
  rw [State.tile_modTile_same] at htile
  have hof : ∀ k, (s.modTile t fun y => y.takeArrivals [a, b] true).slot t k = (s.tile t).slot k := fun k => by
    rw [State.slot, State.tile_modTile_same, Tile.slot, hslots]
    rfl
  simp only [hof] at hslot
  generalize (s.modTile t fun y => y.takeArrivals [a, b] true).unpark t [a, b] = v at *
  have hable' : ∀ k, k = a.slot ∨ k = b.slot → (v.slot t k).longs = 0 ∧ (v.slot t k).ra = none ∧ (v.slot t k).tm = false := fun k hk => by
    obtain ⟨p, hp⟩ := hslot k
    rw [hp]
    exact hable k hk
  have hhandler : (v.tile t).handler = (s.tile t).handler := by rw [Tile.handler, Tile.handler, htile, ← htv]
  obtain ⟨hla, hraa, htma⟩ := hable' a.slot (.inl rfl)
  obtain ⟨hlb, hrab, htmb⟩ := hable' b.slot (.inr rfl)
  obtain ⟨f, hf, hfy⟩ := takeTrap_differs (pc := a.pc) hla hraa htma (hhandler ▸ hh)
  have hb : (v.modSlot t a.slot f).slot t b.slot = v.slot t b.slot := State.slot_modSlot_other _ _ _ _ _ hab
  have hhandler' : ((v.modSlot t a.slot f).tile t).handler = (s.tile t).handler := by rw [State.tile_modSlot_same]; exact hhandler
  obtain ⟨g, hg, hgy⟩ := takeTrap_differs (u := v.modSlot t a.slot f) (k := b.slot) (pc := b.pc) (by rwa [hb]) (by rwa [hb]) (by rwa [hb])
    (hhandler' ▸ hh)
  simp only [List.foldl_cons, List.foldl_nil, hf, hg]
  have htile' : ∃ slots, ((v.modSlot t a.slot f).modSlot t b.slot g).tile t = { v.tile t with slots } := by
    rw [State.tile_modSlot_same, State.tile_modSlot_same]
    exact ⟨_, rfl⟩
  obtain ⟨slots', htile'⟩ := htile'
  rw [htile', htile]
  refine ⟨harrivals, hgangs, fun y hy => ?_⟩
  rcases List.mem_cons.1 hy with rfl | hy
  · rw [State.slot_modSlot_other _ _ _ _ _ hab.symm, State.slot_modSlot_same, ← hhandler]
    exact hfy _
  · rw [List.mem_singleton.1 hy, State.slot_modSlot_same, ← hhandler']
    exact hgy _

/-! ## A gang starts and completes (R229, R230, R247) -/

theorem length_eraseDups_map {α β : Type} [BEq α] [LawfulBEq α] [BEq β] [LawfulBEq β] {f : α → β} (hf : Function.Injective f) (l : List α) :
    (l.map f).eraseDups.length = l.eraseDups.length := by
  induction hn : l.length using Nat.strong_induction_on generalizing l with
  | _ n ih =>
    cases l with
    | nil => rfl
    | cons a l =>
      have hfilter : (l.map f).filter (fun y => !y == f a) = (l.filter fun x => !x == a).map f := by
        rw [List.filter_map]
        refine congrArg _ (List.filter_congr fun x _ => ?_)
        rw [Bool.eq_iff_iff]
        simp [hf.eq_iff]
      rw [List.map_cons, List.eraseDups_cons, List.eraseDups_cons, hfilter, List.length_cons, List.length_cons,
        ih _ (by rw [← hn]; exact Nat.lt_succ_of_le (List.length_filter_le _ _)) _ rfl]

theorem gangStartable_of {ms : List Mac} (hfree : x.running = none) (hboard : x.board = [])
    (hms : ∀ m ∈ ms, m.lines = [] ∧ (∀ o ∈ x.qops, o.id < m.qid → o.q ≠ m.q ∨ o.set ≠ m.set) ∧
      ∀ o ∈ x.qops, o.id = m.qid → o.q = m.q ∧ o.set = m.set) : x.gangStartable ms = true := by
  rw [Tile.gangStartable, hfree]
  refine List.all_eq_true.2 fun m hm => ?_
  obtain ⟨hlines, hfirst, hplace⟩ := hms m hm
  have hqops : (x.qops.all fun o => o.id != m.qid || x.firstOnTile o) = true := by
    refine List.all_eq_true.2 fun o ho => ?_
    by_cases hid : o.id = m.qid
    · obtain ⟨hq, hset⟩ := hplace o ho hid
      refine Bool.or_eq_true_iff.2 (.inr (List.all_eq_true.2 fun p hp => ?_))
      rcases Nat.lt_or_ge p.id o.id with hlt | hge
      · rcases hfirst p hp (hid ▸ hlt) with h | h
        · simp [hq, h]
        · simp [hset, h]
      · simp [hge]
    · simp [hid]
  simp [hlines, Tile.boardFree, hboard, hqops]

/-- What a start makes of a tile (R230, R247): the members' parts, the next gangs, and the cycle of its completion. -/
def Tile.gangStarted (x : Tile) (ms : List Mac) (rest : List (List Mac)) : Tile :=
  { ms.foldl Tile.doMac x with gangs := rest, running := some (ms, x.cycle + 16 * (ms.map fun m => (m.b, m.sub.sb, m.sub.bt)).eraseDups.length) }

theorem exec_gangStart {ms : List Mac} {rest : List (List Mac)} (hon : s.power ≠ .off) (hgangs : (s.tile t).gangs = ms :: rest)
    (hok : (s.tile t).gangStartable ms = true) : exec (.gangStart t) s = .next (s.setTile t ((s.tile t).gangStarted ms rest)) := by
  show execGangStart t s = _
  rw [execGangStart, State.happen_on hon]
  simp only [hgangs, hok, if_true]
  rfl

theorem gangStarts {ms : List Mac} {rest : List (List Mac)} (hon : s.power ≠ .off) (hgangs : (s.tile t).gangs = ms :: rest)
    (hfree : (s.tile t).running = none) (hboard : (s.tile t).board = []) (hq : ms.Pairwise fun m m' => m.q ≠ m'.q)
    (hms : ∀ m ∈ ms, m.sub.sa = false ∧ m.sub.sb = false ∧ m.lines = [] ∧ (∀ o ∈ (s.tile t).qops, o.id < m.qid → o.q ≠ m.q ∨ o.set ≠ m.set) ∧
      ∀ o ∈ (s.tile t).qops, o.id = m.qid → o.q = m.q ∧ o.set = m.set) :
    ∃ u, exec (.gangStart t) s = .next u ∧ (u.tile t).gangs = rest ∧
      (u.tile t).running = some (ms, (s.tile t).cycle + 16 * ((ms.map fun m => (m.b, m.sub.bt)).eraseDups).length) ∧
      (∀ m ∈ ms,
        let old := (s.tile t).accAt m.set m.q
        let new := (u.tile t).accAt m.set m.q
        let base (e : Nat) := if old.kind.isSome ∧ old.kind ≠ some m.kind then 0 else old.elem e
        new.kind = some m.kind ∧ (∀ i j, i < (shapeOf m.kind).rows → j < (shapeOf m.kind).n →
          new.elem (i * (shapeOf m.kind).n + j) = mmacElem m (base (i * (shapeOf m.kind).n + j))
            (operandNow (s.tile t) m.early m.a (aBytes m.kind m.sub)) (operandNow (s.tile t) m.early m.b (bBytes m.kind m.sub)) i j)) ∧
      ∀ c q, (∀ m ∈ ms, c ≠ m.set ∨ q ≠ m.q) → (u.tile t).accAt c q = (s.tile t).accAt c q := by
  have hok : (s.tile t).gangStartable ms = true := gangStartable_of hfree hboard fun m hm => (hms m hm).2.2
  have hinj : Function.Injective fun p : Nat × Bool => (p.1, false, p.2) := fun p p' h => by
    simp only [Prod.mk.injEq, true_and] at h
    exact Prod.ext h.1 h.2
  have hcycles : (ms.map fun m => (m.b, m.sub.sb, m.sub.bt)).eraseDups.length = (ms.map fun m => (m.b, m.sub.bt)).eraseDups.length := by
    rw [← length_eraseDups_map hinj, List.map_map]
    refine congrArg (fun l => (List.eraseDups l).length) (List.map_congr_left fun m hm => ?_)
    rw [(hms m hm).2.1]
    rfl
  refine ⟨_, exec_gangStart hon hgangs hok, ?_⟩
  rw [State.tile_setTile_same]
  refine ⟨rfl, by rw [← hcycles]; rfl, fun m hm => ?_, fun c q h => foldl_doMac_acc_other ms _ h⟩
  obtain ⟨bad, hacc⟩ := foldl_doMac_acc ms (s.tile t) hq (fun m hm => ⟨(hms m hm).1, (hms m hm).2.1⟩) m hm
  intro old new base
  have hnew : new = _ := hacc
  refine ⟨by rw [hnew]; rfl, fun i j hi hj => ?_⟩
  rw [hnew, apply_elem _ _ _ _ _ hi hj, baseFor_elem]

theorem gangCompletes {ms : List Mac} {c : Nat} (hon : s.power ≠ .off) (hrun : (s.tile t).running = some (ms, c)) (hc : c ≤ (s.tile t).cycle) :
    ∃ u, exec (.gangComplete t) s = .next u ∧ (u.tile t).running = none ∧ ∀ m ∈ ms, ∀ o ∈ (u.tile t).qops, o.id ≠ m.qid := by
  show ∃ u, execGangComplete t s = _ ∧ _
  rw [execGangComplete, State.happen_on hon]
  have hlate : (decide ((s.tile t).cycle < c) && !(s.tile t).halted) = false := by simp [Nat.not_lt.2 hc]
  simp only [hrun, hlate, Bool.false_eq_true, if_false]
  refine ⟨_, rfl, ?_⟩
  obtain ⟨pm, st, htile⟩ := tileCount_tile (s := s.setTile t _) (t := t) (ev := 7) (m := 1)
  rw [htile, State.tile_setTile_same]
  refine ⟨rfl, fun m hm o ho hid => ?_⟩
  obtain ⟨-, hkept⟩ := List.mem_filter.1 ho
  simp only [Bool.not_eq_true', List.any_eq_false, beq_iff_eq] at hkept
  exact hkept m hm hid.symm

/-! ## A line is fetched (R233) -/

/-- What an mmac that waits for the line of a copy has then. -/
def Mac.take (m : Mac) (p : Pin) : Mac := if m.lacks p.line then { m with held := m.held ++ [p] } else m

theorem lacks_take (m : Mac) (p : Pin) : (m.take p).lacks p.line = false := by
  rw [Mac.take]
  cases h : m.lacks p.line with
  | false => exact h
  | true => simp [Mac.lacks]

theorem gotLine_eq (x : Tile) (p : Pin) : x.gotLine p =
    { x with
      pins := x.pins ++ [p],
      gangs := x.gangs.map fun g => g.map fun m => m.take p,
      arrivals := x.arrivals.map fun a => { a with mac := a.mac.map fun m => m.take p } } := rfl

/-- The read of a line that the buffer asks for, under its hint. -/
def State.lineRead (s : State) (t : TileId) (f : Fetch) : State × Nat × Nat := s.tileRead t (clsAt (256 * f.line)) (256 * f.line) 256 f.hint

/-- The copy of a line that has been read. -/
def State.pinOf (s : State) (t : TileId) (f : Fetch) : Pin :=
  { line := f.line, data := (s.lineRead t f).2.1, byMac := f.byMac, bad := (s.lineRead t f).2.2 != 0, id := (s.lineRead t f).1.fresh.2 }

theorem exec_pinLineFetch {f : Fetch} {rest : List Fetch} (hon : s.power ≠ .off) (hfetch : (s.tile t).fetches = f :: rest) (hby : f.byMac = false)
    (hhome : ∀ i, i < 4 → s.refuses (s.tile t).tag.toNat (256 * f.line + 64 * i) 64 = false) :
    exec (.pinLineFetch t) s =
      .next ((s.lineRead t f).1.fresh.1.modTile t fun y => Tile.gotLine { y with fetches := rest } (s.pinOf t f)) := by
  show execPinLineFetch t s = _
  rw [execPinLineFetch, State.happen_on hon]
  have hnone : ((natsFrom 0 4).any fun i => s.refuses (s.tile t).tag.toNat (256 * f.line + 64 * i) 64) = false := by
    rw [natsFrom_zero]
    exact List.any_eq_false.2 fun i hi => by simp [hhome i (List.mem_range.1 hi)]
  simp only [hfetch, hby, hnone, Bool.false_and, Bool.false_eq_true, if_false]
  rw [State.pinOf, hby]
  rfl

theorem lineFetched {f : Fetch} {rest : List Fetch} (hon : s.power ≠ .off) (hfetch : (s.tile t).fetches = f :: rest) (hby : f.byMac = false)
    (hhome : ∀ i, i < 4 → s.refuses (s.tile t).tag.toNat (256 * f.line + 64 * i) 64 = false) :
    let l := f.line
    ∃ u p, exec (.pinLineFetch t) s = .next u ∧ (u.tile t).fetches = rest ∧ (u.tile t).pins = (s.tile t).pins ++ [p] ∧ p.line = l ∧
      p.byMac = false ∧ (u.tile t).slots = (s.tile t).slots ∧ (u.tile t).store = (s.tile t).store ∧
      (∀ g ∈ (u.tile t).gangs, ∀ m ∈ g, m.lacks l = false) ∧ (∀ b ∈ (u.tile t).arrivals, ∀ m, b.mac = some m → m.lacks l = false) ∧
        (256 * l + 256 ≤ 2 ^ 39 → Owned s (s.tile t).tag.toNat (256 * l) → L2Room s (s.tile t).tag.toNat (256 * l) →
          ∀ i, i < 8 → bitsAt p.data (256 * i) 256 = s.readHbm (s.part (s.tile t).tag.toNat) (256 * l + 32 * i) 32) := by
  intro l
  refine ⟨_, s.pinOf t f, exec_pinLineFetch hon hfetch hby hhome, ?_⟩
  obtain ⟨pm, st, hread⟩ := tileRead_tile (s := s) (t := t) (c := clsAt (256 * f.line)) (a := 256 * f.line) (n := 256) (h := f.hint)
  have hfresh : (s.lineRead t f).1.fresh.1.tile t = { s.tile t with pmcnt := pm, pmstat := st } := hread
  rw [State.tile_modTile_same, hfresh, gotLine_eq]
  dsimp only
  refine ⟨rfl, rfl, rfl, hby, rfl, rfl, fun g hg m hm => ?_, fun b hb m hm => ?_, fun hend _ hroom i hi => ?_⟩
  · obtain ⟨g, -, rfl⟩ := List.mem_map.1 hg
    obtain ⟨m, -, rfl⟩ := List.mem_map.1 hm
    exact lacks_take m (s.pinOf t f)
  · obtain ⟨b, -, rfl⟩ := List.mem_map.1 hb
    obtain ⟨m, -, rfl⟩ := Option.map_eq_some_iff.1 hm
    exact lacks_take m (s.pinOf t f)
  · have hcls : clsAt (256 * f.line) = .hbm := if_pos (by omega)
    have hdata : (s.pinOf t f).data = s.readHbm (s.part (s.tile t).tag.toNat) (256 * f.line) 256 := by
      rw [State.pinOf, State.lineRead, hcls]
      exact (dieRead_hbm_bytes hroom).2
    have hbytes := bitsAt_readHbm s (s.part (s.tile t).tag.toNat) (a := 256 * f.line) (m := 32 * i) (n := 32) (N := 256) (by omega)
    rwa [← hdata, ← Nat.mul_assoc] at hbytes

end

/-- Settles O29: each event of the matrix array by its equation (`exec_gangForm`, `exec_gangStart`, `exec_pinLineFetch`), the elements
of a member's accumulator tile by `apply_elem`, and the fetched line's bytes by what a read of HBM gives. -/
theorem matrixGangs : Obligations.MatrixGangs := by
  unfold Obligations.MatrixGangs
  intro s t hon x
  refine ⟨fun ms n kind hlive harr hne hms hcores hroom htok hmax hstretch => ?_,
    fun a b m hlive hroom harr hn hdiff hma hmb hactive hable hh =>
      gangTraps hon hlive hroom harr hn hdiff hma hmb hactive hable hh,
    fun ms rest hgangs hfree hboard hq hms => gangStarts hon hgangs hfree hboard hq hms,
    fun ms c hrun hc => gangCompletes hon hrun hc,
    fun f rest hfetch hby hhome => lineFetched hon hfetch hby hhome⟩
  refine gangForms hon hlive harr hne hms (released_of (harr ▸ fun a ha => (hms a ha).1) fun c => ?_) hroom htok hmax hstretch
  exact (hcores c).imp_left fun ⟨a, ha, hc⟩ => ⟨a, harr ▸ ha, Fin.ext hc⟩

end Sys2Proof.Machine
end


section
/-! SUPPORT for O46. Rounds: how one begins in every declared slot (R95), and what its abandoning leaves (R97). -/
namespace Sys2Proof.Machine
open Sys2Proof Sys2Proof.Claims

section
variable {x y z : Tile} {n : Word} {k : SlotId}

/-! ## Traps that wait for a slot's next issue (R420) -/

/-- Watches, waiting traps, counters and the deferred traps of slots may differ. -/
structure Tile.Alerted (x y : Tile) : Prop where
  rest : y = { x with watch := y.watch, slots := y.slots, pendingTraps := y.pendingTraps, pmcnt := y.pmcnt, pmstat := y.pmstat }
  slot : ∀ k, ∃ deferred, y.slot k = { x.slot k with deferred }

theorem Tile.Alerted.refl (x : Tile) : x.Alerted x := ⟨rfl, fun _ => ⟨_, rfl⟩⟩

theorem Tile.Alerted.trans (h : x.Alerted y) (h' : y.Alerted z) : x.Alerted z where
  rest := by rw [h'.rest, h.rest]
  slot k := by
    obtain ⟨d, hd⟩ := h.slot k
    obtain ⟨d', hd'⟩ := h'.slot k
    exact ⟨d', by rw [hd', hd]⟩

theorem Tile.Alerted.of_slots (hrest : y = { x with watch := y.watch, pendingTraps := y.pendingTraps, pmcnt := y.pmcnt, pmstat := y.pmstat }) :
    x.Alerted y where
  rest := by rw [hrest]
  slot k := ⟨(x.slot k).deferred, by rw [hrest]; rfl⟩

theorem Tile.Alerted.setSlot (x : Tile) (k : SlotId) (deferred : List TrapRec) : x.Alerted (x.setSlot k { x.slot k with deferred }) where
  rest := rfl
  slot j := by
    by_cases hj : j = k
    · exact ⟨deferred, by rw [hj, Tile.slot_setSlot_same]⟩
    · exact ⟨_, by rw [Tile.slot_setSlot_other _ _ _ _ hj]⟩

theorem Tile.Alerted.foldl {α : Type} {f : Tile → α → Tile} (hf : ∀ (x : Tile) (a : α), x.Alerted (f x a)) (l : List α) (x : Tile) : x.Alerted (l.foldl f x) := by
  induction l generalizing x with
  | nil => exact .refl x
  | cons a l ih => exact (hf x a).trans (ih _)

theorem wakeTraps_alerted (x : Tile) : x.Alerted x.wakeTraps := by
  refine Tile.Alerted.trans (y := { x with pendingTraps := [] }) (.of_slots rfl) (.foldl (fun x p => ?_) _ _)
  exact .setSlot x _ _

theorem tileCount_alerted (s : State) (t : TileId) (ev m : Nat) : (s.tile t).Alerted ((s.tileCount t ev m).tile t) := by
  obtain ⟨pm, st, h⟩ := tileCount_tile (s := s) (t := t) (ev := ev) (m := m)
  rw [h]
  exact .of_slots rfl

/-- One watch at the start of a round. -/
def State.watchOne (s : State) (t : TileId) (i : Nat) : State :=
  let x := s.tile t
  let w := x.watch[i % 16]'(Nat.mod_lt _ (by decide))
  let s1 := s.modTile t fun y => { y with watch := y.watch.set (i % 16) (watchStep w).1 (Nat.mod_lt _ (by decide)) }
  if (watchStep w).2 then
    let tr : TrapRec := { code := cStale, info := 0, pc := 0, val := w64 (i * 2 ^ 32 + bitsAt w.toNat 32 32), precise := false }
    s1.modSlot t (x.watchSlot w) fun y => { y with deferred := y.deferred ++ [tr] }
  else s1

theorem watchRound_eq (s : State) (t : TileId) : s.watchRound t = (natsFrom 0 16).foldl (fun s i => s.watchOne t i) s := rfl

theorem alerted_modSlot {s s1 : State} {t : TileId} {tr : TrapRec} (h : (s.tile t).Alerted (s1.tile t)) :
    (s.tile t).Alerted ((s1.modSlot t k fun y => { y with deferred := y.deferred ++ [tr] }).tile t) := by
  rw [State.tile_modSlot_same]
  exact h.trans (.setSlot _ _ _)

theorem watchOne_alerted (s : State) (t : TileId) (i : Nat) : (s.tile t).Alerted ((s.watchOne t i).tile t) := by
  have hset (w : Tile → Vector Word 16) : (s.tile t).Alerted ((s.modTile t fun y => { y with watch := w y }).tile t) := by
    rw [State.tile_modTile_same]
    exact .of_slots rfl
  simp only [State.watchOne]
  split
  · exact alerted_modSlot (hset _)
  · exact hset _

theorem watchOne_hbm (s : State) (t : TileId) (i : Nat) : (s.watchOne t i).hbm = s.hbm := by
  simp only [State.watchOne]
  split <;> rfl

theorem watchRound_alerted (s : State) (t : TileId) : (s.tile t).Alerted ((s.watchRound t).tile t) ∧ (s.watchRound t).hbm = s.hbm := by
  rw [watchRound_eq]
  induction natsFrom 0 16 generalizing s with
  | nil => exact ⟨.refl _, rfl⟩
  | cons i l ih =>
    obtain ⟨hal, hhbm⟩ := ih (s.watchOne t i)
    exact ⟨(watchOne_alerted s t i).trans hal, hhbm.trans (watchOne_hbm s t i)⟩

/-! ## A round begins (R95) -/

/-- What a round's start gives a slot does not depend on its deferred traps, nor on more of the tile than its arguments. -/
theorem begun_congr {x x' : Tile} {y y' : Slot} {pc : Word} (h : Begun x k y pc)
    (hx : x'.lparam = x.lparam ∧ x'.tileIdx = x.tileIdx ∧ x'.round = x.round ∧ x'.nTiles = x.nTiles ∧ x'.chkInit = x.chkInit)
    (hy : y' = { y with deferred := y'.deferred, starting := y'.starting, sbarCnt := y'.sbarCnt }) : Begun x' k y' pc := by
  obtain ⟨hl, ht, hr, hn, hc⟩ := hx
  rw [hy]
  exact ⟨by rw [hl, ht, hr, hn]; exact h.args, h.g, h.f, h.v, h.p, h.k, h.pc, h.active, h.zero, by rw [hc]; exact h.checked, h.streams⟩

theorem begun_roundBegin (y : Slot) (x : Tile) (k : SlotId) (n pc : Word) : Begun { x with round := n } k (y.roundBegin x k n pc) pc :=
  begun_congr (begun_started y { x with round := n } k pc) ⟨rfl, rfl, rfl, rfl, rfl⟩ rfl

/-- A tile whose round n begins, before its slots do. -/
def Tile.roundOpened (x : Tile) (n : Word) : Tile :=
  { x with inRound := true, roundNo := n, roundAt := x.cycle, tokUsed := 0, stretch := false, inRerun := false,
           slots := x.slots.map fun (y : Slot) => { y with drawCnt := 0, failed := [], faults := [] },
           channels := x.channels.map fun (c : Channel) => { c with halted := false } }

/-- The declared slots of a tile begin. -/
def Tile.beginSlots (x x1 : Tile) (n : Word) (es : List (SlotId × Word)) : Tile :=
  es.foldl (fun x e => x.setSlot e.1 ((x.slot e.1).roundBegin x1 e.1 n e.2)) x

theorem startRound_eq (x : Tile) (n : Word) : x.startRound n = ((x.roundOpened n).beginSlots (x.roundOpened n) n x.entries).wakeTraps := rfl

theorem beginSlots_spec (x1 : Tile) (n : Word) (es : List (SlotId × Word)) (hnd : (es.map (·.1)).Nodup) (x : Tile) :
    x.beginSlots x1 n es = { x with slots := (x.beginSlots x1 n es).slots } ∧
    (∀ e ∈ es, (x.beginSlots x1 n es).slot e.1 = (x.slot e.1).roundBegin x1 e.1 n e.2) ∧
    (∀ k, k ∉ es.map (·.1) → (x.beginSlots x1 n es).slot k = x.slot k) := by
  induction es generalizing x with
  | nil => exact ⟨rfl, fun e he => absurd he List.not_mem_nil, fun _ _ => rfl⟩
  | cons a es ih =>
    obtain ⟨ha, hes⟩ := List.nodup_cons.1 hnd
    obtain ⟨hrest, hin, hout⟩ := ih hes (x.setSlot a.1 ((x.slot a.1).roundBegin x1 a.1 n a.2))
    refine ⟨hrest, fun e he => ?_, fun k hk => ?_⟩
    · rcases List.mem_cons.1 he with rfl | he
      · exact (hout _ ha).trans (Tile.slot_setSlot_same _ _ _)
      · have hne : e.1 ≠ a.1 := fun h => ha (List.mem_map.2 ⟨e, he, h⟩)
        exact (hin e he).trans (by rw [Tile.slot_setSlot_other _ _ _ _ hne])
    · rw [List.map_cons, List.mem_cons, not_or] at hk
      exact (hout k hk.2).trans (Tile.slot_setSlot_other _ _ _ _ hk.1)

theorem roundBegun_congr (h : RoundBegun x n) (hentries : y.entries = x.entries)
    (hargs : y.lparam = x.lparam ∧ y.tileIdx = x.tileIdx ∧ y.nTiles = x.nTiles ∧ y.chkInit = x.chkInit) (hchannels : y.channels = x.channels)
    (hslots : ∀ k, ∃ deferred, y.slot k = { x.slot k with deferred }) : RoundBegun y n := by
  obtain ⟨hdeclared, hdraw, hchan⟩ := h
  obtain ⟨hl, ht, hn, hc⟩ := hargs
  refine ⟨fun e he => ?_, fun k => ?_, fun c => ?_⟩
  · obtain ⟨hbegun, hsbar⟩ := hdeclared e (hentries ▸ he)
    obtain ⟨d, hd⟩ := hslots e.1
    rw [hd]
    exact ⟨begun_congr hbegun ⟨hl, ht, rfl, hn, hc⟩ rfl, hsbar⟩
  · obtain ⟨d, hd⟩ := hslots k
    rw [hd]
    exact hdraw k
  · rw [Tile.channel, hchannels]
    exact hchan c

theorem roundBegun_alerted (h : RoundBegun x n) (hal : x.Alerted y) : RoundBegun y n :=
  roundBegun_congr h (by rw [hal.rest]) (by rw [hal.rest]; exact ⟨rfl, rfl, rfl, rfl⟩) (by rw [hal.rest]) hal.slot

theorem roundBegun_startRound (hnd : (x.entries.map (·.1)).Nodup) : RoundBegun (x.startRound n) n := by
  rw [startRound_eq]
  refine roundBegun_alerted ?_ (wakeTraps_alerted _)
  obtain ⟨hrest, hin, hout⟩ := beginSlots_spec (x.roundOpened n) n x.entries hnd (x.roundOpened n)
  have hdraw : ∀ k, ((x.roundOpened n).slot k).drawCnt = 0 := fun k => by simp [Tile.roundOpened, Tile.slot]
  refine ⟨fun e he => ?_, fun k => ?_, fun c => ?_⟩
  · have he' : e ∈ x.entries := by rw [hrest] at he; exact he
    rw [hin e he']
    refine ⟨begun_congr (begun_roundBegin _ (x.roundOpened n) e.1 n e.2) ?_ rfl, rfl⟩
    rw [hrest]
    exact ⟨rfl, rfl, rfl, rfl, rfl⟩
  · by_cases hk : k ∈ x.entries.map (·.1)
    · obtain ⟨e, he, rfl⟩ := List.mem_map.1 hk
      rw [hin e he]
      exact hdraw e.1
    · rw [hout k hk]
      exact hdraw k
  · rw [Tile.channel, hrest]
    simp [Tile.roundOpened]

/-- The fields of a tile that a round's start sets, and those it leaves. -/
theorem startRound_rest (hnd : (x.entries.map (·.1)).Nodup) : x.startRound n =
    { x.roundOpened n with slots := (x.startRound n).slots, pendingTraps := (x.startRound n).pendingTraps, watch := (x.startRound n).watch,
                           pmcnt := (x.startRound n).pmcnt, pmstat := (x.startRound n).pmstat } := by
  rw [startRound_eq, (wakeTraps_alerted _).rest, (beginSlots_spec (x.roundOpened n) n x.entries hnd (x.roundOpened n)).1]

end

end Sys2Proof.Machine
end


section
/-! SUPPORT for O46. An expiry of a round timer (R94 to R98, R425): the round it begins, re-runs, or counts as overrun. -/
namespace Sys2Proof.Machine
open Sys2Proof Sys2Proof.Claims

section
variable {s : State} {t : TileId} {x : Tile}

theorem busy_of_inRound (h : x.inRound = true) : x.busy = true := by simp [Tile.busy, h]

/-- A tile between rounds has no turns of a round to wait for. -/
theorem due_of_idle (h : Idle x) (hround : x.inRound = true) : x.due = [] := absurd (h.1.symm.trans hround) Bool.false_ne_true

theorem not_busy_of_idle (h : Idle x) : x.busy = false := by
  obtain ⟨hround, hslots⟩ := h
  rw [Tile.busy, hround, Bool.false_or, Bool.eq_false_iff]
  intro hany
  obtain ⟨k, hk, hbusy⟩ := Vector.any_iff_exists.1 hany
  obtain ⟨hactive, hlongs, hsure⟩ := hslots ⟨k, hk⟩
  simp only [Tile.slot] at hactive hlongs hsure
  simp [hactive, hlongs, hsure] at hbusy

theorem budgetBegun_iff : s.budgetBegun t = true ↔ BudgetSpent s t := by
  rw [State.budgetBegun]
  constructor
  · intro h
    split at h
    case h_1 => cases h
    case h_2 e he =>
      split at h
      case h_2 => cases h
      case h_1 l hl =>
        split at h
        case h_2 => cases h
        case h_1 b hb => exact ⟨e, l, b, he, hl, hb, of_decide_eq_true h⟩
  · rintro ⟨e, l, b, he, hl, hb, hle⟩
    simp [he, hl, hb, hle]

/-- A tile whose round timer has run out: the next round's number, and the timer again. -/
def Tile.ticked (x : Tile) (n : Word) : Tile := { x with round := n, going := true, toExpiry := x.period.toNat }

/-- The module after an expiry, before its round begins or not. -/
def State.ticked (s : State) (t : TileId) : State := s.modTile t fun y => y.ticked (expiryNo (s.tile t))

/-- What an expiry of a running tile's timer does. -/
def State.expired (s : State) (t : TileId) : State :=
  if (s.tile t).busy then
    if (s.tile t).inRound && (s.tile t).overFault then ((s.ticked t).overrunAt t (s.tile t).inRound).abandonRound t
    else (s.ticked t).overrunAt t (s.tile t).inRound
  else if (s.tile t).roundsOver then ((s.ticked t).overrunAt t false).modTile t fun y => { y with rerun := none }
  else if (s.tile t).rerun.isNone && s.budgetBegun t then ((s.ticked t).overrunAt t false).modTile t fun y => { y with roundsOver := true }
  else match (s.tile t).rerun with
    | some r => (s.ticked t).modTile t fun y => { y.startRound r with rerun := none, inRerun := true }
    | none => (((s.ticked t).modTile t fun y => { y.startRound (expiryNo (s.tile t)) with begun := y.begun + 1 }).tileCount t 4 1).watchRound t

theorem exec_roundTimerExpiry (he : Expires s t) (hdue : (s.tile t).inRound = true → (s.tile t).due = []) :
    exec (.roundTimerExpiry t) s = .next (s.expired t) := by
  show execRoundTimerExpiry t s = _
  rw [execRoundTimerExpiry, State.happen_on he.on]
  have hgo : ((s.tile t).launch.isNone || decide ((s.tile t).toExpiry ≠ 0) || (s.tile t).halted ||
      (!(s.tile t).going && decide (s.time.tai < (s.tile t).s0)) || ((s.tile t).inRound && !(s.tile t).due.isEmpty)) = false := by
    have hbegun : (!(s.tile t).going && decide (s.time.tai < (s.tile t).s0)) = false := by
      rcases he.begun with h | h
      · simp [h]
      · simp [Nat.not_lt.2 h]
    have hpast : ((s.tile t).inRound && !(s.tile t).due.isEmpty) = false := by
      cases hround : (s.tile t).inRound with
      | false => rfl
      | true => simp [hdue hround]
    rw [hbegun, hpast, Option.isNone_eq_false_iff.2 he.launched, he.running]
    simp [he.zero]
  simp only [hgo, Bool.false_eq_true, if_false]
  rfl

theorem ticked_tile : (s.ticked t).tile t = (s.tile t).ticked (expiryNo (s.tile t)) := State.tile_modTile_same _ _ _

/-- An expiry that counts an overrun, on its tile. -/
theorem ticked_overrun (s : State) (t : TileId) (b : Bool) : ∃ pm st, ((s.ticked t).overrunAt t b).tile t =
    { (s.tile t).ticked (expiryNo (s.tile t)) with overruns := (s.tile t).overruns + 1, pmcnt := pm, pmstat := st } := by
  have htile : ((s.ticked t).modTile t fun x => { x with overruns := x.overruns + 1 }).tile t =
      { (s.tile t).ticked (expiryNo (s.tile t)) with overruns := (s.tile t).overruns + 1 } := by
    rw [State.tile_modTile_same, ticked_tile]
    rfl
  rw [State.overrunAt]
  split
  · obtain ⟨pm, st, h⟩ := tileCount_tile (s := (s.ticked t).modTile t fun x => { x with overruns := x.overruns + 1 }) (t := t) (ev := 5) (m := 1)
    exact ⟨pm, st, h.trans (by rw [htile])⟩
  · exact ⟨_, _, htile⟩

theorem expired_spent (hidle : Idle (s.tile t)) (hover : (s.tile t).roundsOver = false) (hrerun : (s.tile t).rerun = none) (hspent : BudgetSpent s t) :
    s.expired t = ((s.ticked t).overrunAt t false).modTile t fun y => { y with roundsOver := true } := by
  simp [State.expired, not_busy_of_idle hidle, hover, hrerun, budgetBegun_iff.2 hspent]

theorem expired_begins (hidle : Idle (s.tile t)) (hover : (s.tile t).roundsOver = false) (hrerun : (s.tile t).rerun = none) (hspent : ¬ BudgetSpent s t) :
    s.expired t =
      (((s.ticked t).modTile t fun y => { y.startRound (expiryNo (s.tile t)) with begun := y.begun + 1 }).tileCount t 4 1).watchRound t := by
  simp [State.expired, not_busy_of_idle hidle, hover, hrerun, Bool.eq_false_iff.2 fun h => hspent (budgetBegun_iff.1 h)]

theorem expired_reruns {r : Word} (hidle : Idle (s.tile t)) (hover : (s.tile t).roundsOver = false) (hrerun : (s.tile t).rerun = some r) :
    s.expired t = (s.ticked t).modTile t fun y => { y.startRound r with rerun := none, inRerun := true } := by
  simp [State.expired, not_busy_of_idle hidle, hover, hrerun]

theorem expired_over (hidle : Idle (s.tile t)) (hover : (s.tile t).roundsOver = true) :
    s.expired t = ((s.ticked t).overrunAt t false).modTile t fun y => { y with rerun := none } := by
  simp [State.expired, not_busy_of_idle hidle, hover]

theorem expired_overrun (hround : (s.tile t).inRound = true) (hfault : (s.tile t).overFault = false) :
    s.expired t = (s.ticked t).overrunAt t true := by
  simp [State.expired, busy_of_inRound hround, hround, hfault]

theorem expired_abandons (hround : (s.tile t).inRound = true) (hfault : (s.tile t).overFault = true) :
    s.expired t = ((s.ticked t).overrunAt t true).abandonRound t := by
  simp [State.expired, busy_of_inRound hround, hround, hfault]

/-- R95: a round begins with the number of its expiry. -/
theorem expiry_begins (he : Expires s t) (hnd : ((s.tile t).entries.map (·.1)).Nodup) (hidle : Idle (s.tile t)) (hover : (s.tile t).roundsOver = false)
    (hrerun : (s.tile t).rerun = none) (hspent : ¬ BudgetSpent s t) : ∃ u, exec (.roundTimerExpiry t) s = .next u ∧
      (u.tile t).round = expiryNo (s.tile t) ∧
      (u.tile t).toExpiry = (s.tile t).period.toNat ∧ (u.tile t).going = true ∧ (u.tile t).inRound = true ∧ (u.tile t).roundNo = expiryNo (s.tile t) ∧
      (u.tile t).begun = (s.tile t).begun + 1 ∧ (u.tile t).tokUsed = 0 ∧ (u.tile t).stretch = false ∧ (u.tile t).overruns = (s.tile t).overruns ∧
      RoundBegun (u.tile t) (expiryNo (s.tile t)) ∧ (u.tile t).store = (s.tile t).store ∧ u.hbm = s.hbm := by
  refine ⟨_, exec_roundTimerExpiry he (due_of_idle hidle), ?_⟩
  rw [expired_begins hidle hover hrerun hspent]
  have htile : ((s.ticked t).modTile t fun y => { y.startRound (expiryNo (s.tile t)) with begun := y.begun + 1 }).tile t =
      { ((s.tile t).ticked (expiryNo (s.tile t))).startRound (expiryNo (s.tile t)) with begun := (s.tile t).begun + 1 } := by
    rw [State.tile_modTile_same, ticked_tile]
    rfl
  generalize hs1 : (s.ticked t).modTile t (fun y => { y.startRound (expiryNo (s.tile t)) with begun := y.begun + 1 }) = s1 at *
  obtain ⟨hwatch, hhbm⟩ := watchRound_alerted (s1.tileCount t 4 1) t
  have hal := (tileCount_alerted s1 t 4 1).trans hwatch
  have hnd' : (((s.tile t).ticked (expiryNo (s.tile t))).entries.map (·.1)).Nodup := hnd
  have hround : RoundBegun (s1.tile t) (expiryNo (s.tile t)) := by
    rw [htile]
    exact roundBegun_congr (roundBegun_startRound hnd') rfl ⟨rfl, rfl, rfl, rfl⟩ rfl fun _ => ⟨_, rfl⟩
  have hbegun := roundBegun_alerted hround hal
  generalize ((s1.tileCount t 4 1).watchRound t) = u at *
  rw [hal.rest, htile, startRound_rest hnd'] at hbegun ⊢
  exact ⟨rfl, rfl, rfl, rfl, rfl, rfl, rfl, rfl, rfl, hbegun, rfl, hhbm.trans (by rw [← hs1]; rfl)⟩

/-- R425: an abandoned round is re-run with its own number. -/
theorem expiry_reruns {r : Word} (he : Expires s t) (hnd : ((s.tile t).entries.map (·.1)).Nodup) (hidle : Idle (s.tile t))
    (hover : (s.tile t).roundsOver = false) (hrerun : (s.tile t).rerun = some r) : ∃ u, exec (.roundTimerExpiry t) s = .next u ∧
      (u.tile t).round = expiryNo (s.tile t) ∧ (u.tile t).inRound = true ∧ (u.tile t).inRerun = true ∧ (u.tile t).rerun = none ∧
      (u.tile t).roundNo = r ∧ (u.tile t).begun = (s.tile t).begun ∧ RoundBegun (u.tile t) r := by
  refine ⟨_, exec_roundTimerExpiry he (due_of_idle hidle), ?_⟩
  rw [expired_reruns hidle hover hrerun, State.tile_modTile_same, ticked_tile]
  have hnd' : (((s.tile t).ticked (expiryNo (s.tile t))).entries.map (·.1)).Nodup := hnd
  have hbegun : RoundBegun { ((s.tile t).ticked (expiryNo (s.tile t))).startRound r with rerun := none, inRerun := true } r :=
    roundBegun_congr (roundBegun_startRound hnd') rfl ⟨rfl, rfl, rfl, rfl⟩ rfl fun _ => ⟨_, rfl⟩
  refine ⟨?_, ?_, rfl, rfl, ?_, ?_, hbegun⟩ <;> rw [startRound_rest hnd'] <;> rfl

/-! ## The fault policy (R97) -/

/-- The slots of tile x are stopped, its declared slots, trap vector and overruns those of y. -/
structure Tile.HeadKept (x y : Tile) : Prop where
  entries : y.entries = x.entries
  trapvec : y.trapvec = x.trapvec
  overruns : y.overruns = x.overruns
  longs : ∀ k, (x.slot k).longs = 0 → (y.slot k).longs = 0

theorem Tile.HeadKept.refl (x : Tile) : x.HeadKept x := ⟨rfl, rfl, rfl, fun _ h => h⟩

theorem Tile.HeadKept.trans {x y z : Tile} (h : x.HeadKept y) (h' : y.HeadKept z) : x.HeadKept z :=
  ⟨h'.entries.trans h.entries, h'.trapvec.trans h.trapvec, h'.overruns.trans h.overruns, fun k hk => h'.longs k (h.longs k hk)⟩

theorem longs_filter (y : Slot) (p : Op → Bool) (h : y.longs = 0) : ({ y with ops := y.ops.filter p } : Slot).longs = 0 := by
  rw [Slot.longs, List.sum_eq_zero_iff] at h ⊢
  intro n hn
  obtain ⟨o, ho, rfl⟩ := List.mem_map.1 hn
  exact h _ (List.mem_map_of_mem (List.mem_filter.1 ho).1)

theorem abandon_longs (y : Slot) (h : y.longs = 0) : y.abandon.longs = 0 := by
  have hfinish : y.finish.longs = 0 := longs_filter y _ h
  unfold Slot.abandon
  split
  · split
    · exact longs_filter y.finish _ hfinish
    · exact hfinish
  · exact hfinish

theorem haltSlot_headKept (x : Tile) (k : SlotId) : x.HeadKept (x.haltSlot Slot.abandon k) := by
  rw [Tile.haltSlot]
  split
  case isFalse => exact .refl x
  case isTrue =>
    refine ⟨rfl, rfl, rfl, fun j hj => ?_⟩
    by_cases hjk : j = k
    · subst hjk
      exact (congrArg Slot.longs (Tile.slot_setSlot_same _ _ _)).trans (abandon_longs _ hj)
    · exact (congrArg Slot.longs (Tile.slot_setSlot_other _ _ _ _ hjk)).trans hj

theorem foldl_haltSlot_headKept (ks : List SlotId) (x : Tile) : x.HeadKept (ks.foldl (Tile.haltSlot Slot.abandon) x) := by
  induction ks generalizing x with
  | nil => exact .refl x
  | cons k ks ih => exact (haltSlot_headKept x k).trans (ih _)

theorem keepTraps_headKept (x : Tile) : x.HeadKept (x.keepTraps fun _ => true) :=
  ⟨rfl, rfl, rfl, fun k hk => by obtain ⟨d, hd⟩ := keepTraps_slot x (fun _ => true) k; rw [hd]; exact hk⟩

theorem keepTraps_onlyStops (x : Tile) : x.OnlyStops (x.keepTraps fun _ => true) where
  active k hk := by obtain ⟨d, hd⟩ := keepTraps_slot x (fun _ => true) k; rw [hd]; exact hk
  sure k hk := by obtain ⟨d, hd⟩ := keepTraps_slot x (fun _ => true) k; rw [hd]; exact hk
  launch := rfl

theorem abandon_sure (y : Slot) (h : y.ra = none) : y.abandon.ra = none := by
  unfold Slot.abandon
  rw [h]
  exact h

/-- R97: an abandoned round leaves no slot of its tile active. -/
theorem abandonRound_stops (x : Tile) : x.HeadKept x.abandonRound ∧ x.abandonRound.inRound = false ∧
    ∀ k, (x.abandonRound.slot k).active = false ∧ ((x.slot k).ra = none → (x.abandonRound.slot k).ra = none) := by
  have hleft : (x.keepTraps fun _ => true).HeadKept ((x.keepTraps fun _ => true).haltSlots Slot.abandon) :=
    Tile.HeadKept.trans (y := (x.keepTraps fun _ => true).leaveMatrix fun _ => true) ⟨rfl, rfl, rfl, fun _ h => h⟩ (foldl_haltSlot_headKept _ _)
  obtain ⟨hentries, htv, hover, hlongs⟩ := (keepTraps_headKept x).trans hleft
  have hinactive := haltSlots_inactive (f := Slot.abandon) abandon_active abandon_sure (x.keepTraps fun _ => true)
  have hstops := (keepTraps_onlyStops x).trans (haltSlots_onlyStops (f := Slot.abandon) abandon_active abandon_sure _)
  rw [Tile.abandonRound]
  generalize (x.keepTraps fun _ => true).haltSlots Slot.abandon = y at hentries htv hover hlongs hinactive hstops
  exact ⟨⟨hentries, htv, hover, hlongs⟩, rfl, fun k => ⟨hinactive k, hstops.sure k⟩⟩

/-- R420: a tile trap in an inactive slot activates it for its handler alone. -/
theorem tileTrap_inactive {code info : Nat} {val : Word} (hidle : ((s.tile t).slot (s.tile t).firstDeclared).active = false)
    (hl : ((s.tile t).slot (s.tile t).firstDeclared).longs = 0) (hra : ((s.tile t).slot (s.tile t).firstDeclared).ra = none)
    (hh : (s.tile t).handler ≠ 0) : ∃ f : Slot → Slot, s.tileTrap t code info val = s.modSlot t (s.tile t).firstDeclared f ∧
      ∀ y, (f y).active = true ∧ (f y).tm = true ∧ (f y).tcode = BitVec.ofNat 8 code ∧ (f y).trapval = val ∧ (f y).pc = (s.tile t).handler := by
  simp only [State.tileTrap, hidle, Bool.false_eq_true, if_false]
  have hslot (entry : Word) := State.slot_modSlot_same s t (s.tile t).firstDeclared
    fun z : Slot => { z with active := true, trapOnly := true, tm := false, pc := entry }
  rw [State.takeTrap_handled (by rw [hslot]; exact hl) (by rw [hslot]; exact hra) (by rw [hslot]) (by rw [State.tile_modSlot_same]; exact hh),
    State.modSlot_modSlot]
  refine ⟨_, rfl, fun y => ⟨rfl, rfl, rfl, rfl, ?_⟩⟩
  rw [State.tile_modSlot_same]
  rfl

/-- R97: under the fault policy an overrun ends the round and takes the overrun trap. -/
theorem expiry_abandons (he : Expires s t) (hround : (s.tile t).inRound = true) (hdue : (s.tile t).due = []) (hfault : (s.tile t).overFault = true)
    (hh : (s.tile t).handler ≠ 0) (hquiet : ∀ k, ((s.tile t).slot k).longs = 0 ∧ ((s.tile t).slot k).ra = none) :
    ∃ u, exec (.roundTimerExpiry t) s = .next u ∧ (u.tile t).overruns = (s.tile t).overruns + 1 ∧ (u.tile t).inRound = false ∧
      (let k := (s.tile t).firstDeclared
       (u.slot t k).active = true ∧ (u.slot t k).tm = true ∧ (u.slot t k).tcode = 8 ∧ (u.slot t k).trapval = (s.tile t).roundNo ∧
       (u.slot t k).pc = (s.tile t).handler) ∧
      ∀ k, k ≠ (s.tile t).firstDeclared → (u.slot t k).active = false := by
  refine ⟨_, exec_roundTimerExpiry he fun _ => hdue, ?_⟩
  rw [expired_abandons hround hfault]
  obtain ⟨pm, st, htick⟩ := ticked_overrun s t true
  have hsample : ∃ mon st, (((s.ticked t).overrunAt t true).tileSample t 0x203 0).tile t =
      { ((s.ticked t).overrunAt t true).tile t with monitors := mon, pmstat := st } := ⟨_, _, State.tile_modTile_same _ _ _⟩
  obtain ⟨mon, st', hsample⟩ := hsample
  rw [htick] at hsample
  have hno : (((s.ticked t).overrunAt t true).tile t).roundNo = (s.tile t).roundNo := by rw [htick]; rfl
  simp only [State.abandonRound, hno]
  generalize ((s.ticked t).overrunAt t true).tileSample t 0x203 0 = v at hsample
  obtain ⟨⟨hentries, htv, hover, hlongs⟩, hend, hstop⟩ := abandonRound_stops (v.tile t)
  have htile : (v.modTile t Tile.abandonRound).tile t = (v.tile t).abandonRound := State.tile_modTile_same _ _ _
  generalize (v.tile t).abandonRound = w at hentries htv hover hlongs hend hstop htile
  have hslot : ∀ k, (v.tile t).slot k = (s.tile t).slot k := fun k => by rw [hsample]; rfl
  have hfirst : ((v.modTile t Tile.abandonRound).tile t).firstDeclared = (s.tile t).firstDeclared := by
    rw [htile, Tile.firstDeclared, hentries, hsample]
    rfl
  have hhandler : ((v.modTile t Tile.abandonRound).tile t).handler = (s.tile t).handler := by
    rw [htile, Tile.handler, htv, hsample]
    rfl
  obtain ⟨f, hf, hfy⟩ := tileTrap_inactive (s := v.modTile t Tile.abandonRound) (t := t) (code := cOverrun) (info := 0)
    (val := (s.tile t).roundNo) (by rw [htile]; exact (hstop _).1) (by rw [htile]; exact hlongs _ (by rw [hslot]; exact (hquiet _).1))
    (by rw [htile]; exact (hstop _).2 (by rw [hslot]; exact (hquiet _).2)) (by rw [hhandler]; exact hh)
  rw [hf, hfirst]
  refine ⟨?_, ?_, ?_, fun k hk => ?_⟩
  · rw [State.tile_modSlot_same, htile]
    exact hover.trans (by rw [hsample])
  · rw [State.tile_modSlot_same, htile]
    exact hend
  · rw [State.slot_modSlot_same, ← hhandler]
    exact hfy _
  · rw [State.slot_modSlot_other _ _ _ _ _ hk, State.slot, htile]
    exact (hstop k).1

end

/-- The half of O46 that holds, from the equations of `State.expired` (R94 to R98, R425). -/
theorem roundsBeginAtExpiries : RoundsBeginAtExpiries := by
  intro s t he x n hnd
  refine ⟨fun hidle hover hrerun hspent => ?_, fun hidle hover hrerun hspent => expiry_begins he hnd hidle hover hrerun hspent,
    fun r hidle hover hrerun => expiry_reruns he hnd hidle hover hrerun, fun hidle hover => ?_, fun hround hdue hfault => ?_,
    fun hround hdue hfault hh hquiet => expiry_abandons he hround hdue hfault hh hquiet⟩
  · refine ⟨_, exec_roundTimerExpiry he (due_of_idle hidle), ?_⟩
    obtain ⟨pm, st, htick⟩ := ticked_overrun s t false
    rw [expired_spent hidle hover hrerun hspent, State.tile_modTile_same, htick]
    exact ⟨rfl, rfl, rfl, rfl, hidle.1, rfl⟩
  · refine ⟨_, exec_roundTimerExpiry he (due_of_idle hidle), ?_⟩
    obtain ⟨pm, st, htick⟩ := ticked_overrun s t false
    rw [expired_over hidle hover, State.tile_modTile_same, htick]
    exact ⟨rfl, rfl, rfl, hidle.1, rfl⟩
  · refine ⟨_, exec_roundTimerExpiry he fun _ => hdue, ?_⟩
    obtain ⟨pm, st, htick⟩ := ticked_overrun s t true
    rw [expired_overrun hround hfault, htick]
    exact ⟨rfl, rfl, rfl, hround, rfl⟩

end Sys2Proof.Machine
end


section
/-! O46 fails in one state. A drained launch's stamp goes to a block that the clear map lists twice: the stamp's first byte takes one interval
off, its second byte finds the block still clear and zeroes it again, and the first byte is lost (R400, R110). The statement supposes
nothing of the clear map. -/
namespace Sys2Proof.Machine
open Sys2Proof Sys2Proof.Claims

/-- A launch of partition 1 that has drained: no tiles, one round counted, its stamp to address 8. -/
def drainedLaunch : Launch :=
  { gen := 1, fn := 0, param := 0, period := 256, periods := [], tile0 := 0, n := 0, budget := some 1, tokens := 0, queue := 0, policy := 0,
    overFault := false, idem := false, chk := (false, false), graph := 0, up := [], start := 0, doneAddr := 8, handler := 0, entries := [],
    binds := [], buffers := [], order := 0, live := true, started := true, counter := 1, fin := none, ending := none }

/-- Partition 1, which owns slice group 0. -/
def stampingPart : Part := { Part.reset with en := true, pgroups := 1, groups := [(0, 0)], launches := [(0, drainedLaunch)] }

/-- The first block of memory stands in the clear map twice. -/
def twiceClear : State := { State.reset with parts := [(1, stampingPart)], clearMap := [(0, [(0, 1), (0, 1)])] }

/-- The module once the launch has completed, before the package may go idle. -/
def twiceClearDone : State := twiceClear.completeLaunch 1 0 drainedLaunch 1

theorem exec_twiceClear : exec (.launchComplete 1 0) twiceClear = .next twiceClearDone.mayIdle := rfl

/-- Going idle leaves memory. -/
theorem readHbm_mayIdle (s : State) (p : Part) (a n : Nat) : s.mayIdle.readHbm p a n = s.readHbm p a n := by
  refine readHbm_congr ?_ ?_ p a n <;>
  · rw [State.mayIdle]
    split
    · dsimp only
      split <;> rfl
    · rfl

/-- The status is there, the count of 1 is not. -/
theorem twiceClear_stamp : twiceClearDone.readHbm stampingPart 8 8 = 2 ^ 56 := by decide

theorem twiceClear_homes : Homes twiceClear 1 8 8 := by
  unfold Homes
  decide

/-- Refutes O46: in `twiceClear` a launch with counter 1 completes with status 1, and its stamp at address 8 reads 2^56 where the
statement has 2^56 + 1. Its first half, of the rounds, holds (`roundsBeginAtExpiries`). -/
theorem not_roundsAndLaunchesRun : ¬ Obligations.RoundsAndLaunchesRun := by
  unfold Obligations.RoundsAndLaunchesRun
  rintro ⟨-, hlaunches⟩
  obtain ⟨-, hcomplete, -⟩ := hlaunches twiceClear 1 0 drainedLaunch rfl
  have hdue : NoneDue stampingPart := ⟨fun o ho => absurd ho List.not_mem_nil, fun o ho => absurd ho List.not_mem_nil, fun o ho => absurd ho List.not_mem_nil⟩
  obtain ⟨u, hu, -, -, -, hstamp⟩ :=
    hcomplete 1 rfl rfl rfl rfl (fun t ht => absurd ht List.not_mem_nil) rfl rfl hdue rfl
  have hread : u.readHbm stampingPart 8 8 = 2 ^ 56 + 1 := hstamp (by decide) (by decide) (by decide) twiceClear_homes rfl
  rw [exec_twiceClear] at hu
  injection hu with hu
  rw [← hu, readHbm_mayIdle, twiceClear_stamp] at hread
  exact absurd hread (by decide)

end Sys2Proof.Machine
end


section
/-! SUPPORT for O12. The shared form of csrw, csrs and csrc (R447): on a slot's register at once, on a tile's with the next tile cycle. -/
namespace Sys2Proof.Machine
open Sys2Proof Sys2Proof.Claims

/-! ## The bits that change (R447) -/

/-- The bits that csrw, csrs and csrc clear, and those they set, under g[A]. -/
def csrBits (op : Fin 3) (rw w1c g : Word) : Word × Word :=
  match op with
  | 0 => (rw ||| (g &&& w1c), g &&& rw)
  | 1 => (0, g &&& rw)
  | 2 => (g &&& rw, 0)

/-- What they make of a value. -/
def csrNew (op : Fin 3) (rw w1c old g : Word) : Word := (old &&& ~~~(csrBits op rw w1c g).1) ||| (csrBits op rw w1c g).2

theorem and_not_zero (x : Word) : x &&& ~~~0 = x := BitVec.and_allOnes

theorem and_zero_word (x : Word) : x &&& 0 = 0 := BitVec.and_zero

theorem csrNew_eq (op : Fin 3) (rw w1c old g : Word) : csrNew op rw w1c old g = csrAfter op rw w1c old g := by
  match op with
  | 0 => simp only [csrNew, csrBits, csrAfter, BitVec.not_or, BitVec.and_assoc]
  | 1 => exact congrArg (· ||| (g &&& rw)) (and_not_zero old)
  | 2 => exact BitVec.or_zero

/-- A register without fields to write keeps its value. -/
theorem csrAfter_zero (op : Fin 3) (old g : Word) : csrAfter op 0 0 old g = old := by
  match op with
  | 0 =>
    show (old &&& ~~~0 &&& ~~~(g &&& 0)) ||| (g &&& 0) = old
    rw [and_zero_word, and_not_zero, and_not_zero]
    exact BitVec.or_zero
  | 1 =>
    show old ||| (g &&& 0) = old
    rw [and_zero_word]
    exact BitVec.or_zero
  | 2 =>
    show old &&& ~~~(g &&& 0) = old
    rw [and_zero_word, and_not_zero]

/-- Bits above those of a mask stay zero. -/
theorem csrAfter_and (op : Fin 3) {m rw w1c old : Word} (g : Word) (hrw : rw &&& m = rw) (hold : old &&& m = old) :
    csrAfter op rw w1c old g &&& m = csrAfter op rw w1c old g := by
  have hbit (i : Nat) (h : m.getLsbD i = false) : rw.getLsbD i = false ∧ old.getLsbD i = false := by
    constructor
    · rw [← hrw, BitVec.getLsbD_and, h, Bool.and_false]
    · rw [← hold, BitVec.getLsbD_and, h, Bool.and_false]
  refine BitVec.eq_of_getLsbD_eq fun i _ => ?_
  rw [BitVec.getLsbD_and]
  cases h : m.getLsbD i with
  | true => rw [Bool.and_true]
  | false =>
    obtain ⟨hr, ho⟩ := hbit i h
    match op with
    | 0 => simp [csrAfter, hr, ho]
    | 1 => simp [csrAfter, hr, ho]
    | 2 => simp [csrAfter, hr, ho]

section
variable {s : State} {h : Hdr} {d a : G} {op : Fin 3} {n : BitVec 12} {rw w1c old : Word}

/-- What csrw, csrs and csrc ask for. -/
def Req.csr (d a : G) : Req := { reads := [rG a], writes := [rG d], outside := true }

/-- The module once the register has its new value, or its tile the write to make. -/
def State.csrWritten (s : State) (op : Fin 3) (n : Nat) (rw w1c old g : Word) : State :=
  if tileCsr n then s.updTile fun t => { t with csrNext := t.csrNext ++ [(n, (csrBits op rw w1c g).1, (csrBits op rw w1c g).2)] }
  else s.csrPut n (csrNew op rw w1c old g)

/-- The effect of csrw, csrs and csrc. -/
def State.csrEffect (s : State) (op : Fin 3) (d : G) (n : BitVec 12) (a : G) : Eff :=
  match s.csrGet n.toNat with
  | none => .trap cProt 0 (n.setWidth 64)
  | some v =>
    let m := csrMasks n.toNat
    .go ((s.csrWritten op n.toNat m.1 m.2 v (s.me.gr a)).upd fun x => x.gw d (if op == 0 then v else csrNew op m.1 m.2 v (s.me.gr a)))

theorem exec_csr_eq (op : Fin 3) (h : Hdr) (d : G) (n : BitVec 12) (a : G) (s : State) :
    exec (csrInstr op h d n a) s = s.issue h (Req.csr d a) (·.csrEffect op d n a) := by
  match op with
  | 0 => rfl
  | 1 => rfl
  | 2 => rfl

theorem csrEffect_of (hget : s.csrGet n.toNat = some old) (hmask : csrMasks n.toNat = (rw, w1c)) : s.csrEffect op d n a =
    .go ((s.csrWritten op n.toNat rw w1c old (s.me.gr a)).upd fun x => x.gw d (if op == 0 then old else csrAfter op rw w1c old (s.me.gr a))) := by
  simp only [State.csrEffect, hget, hmask, csrNew_eq]

/-! ## A register of the slot -/

/-- R447 on a register of the slot: `put` gives it a value. -/
theorem exec_slotCsr {put : Word → Slot → Slot} (hr : Ready s h [rG a] [rG d]) (hget : s.csrGet n.toNat = some old)
    (hmask : csrMasks n.toNat = (rw, 0)) (htile : tileCsr n.toNat = false) (hput : ∀ v, s.csrPut n.toNat v = s.upd (put v))
    (hplace : ∀ v x, (put v x).pc = x.pc ∧ (put v x).srep = x.srep ∧ (put v x).ra = x.ra) :
    ∃ t, exec (csrInstr op h d n a) s = .next t ∧ CsrGives op t d old (csrAfter op rw 0 old (s.me.gr a)) ∧ Advanced s t ∧ OutsideKept s t ∧
      SlotKept (put (csrAfter op rw 0 old (s.me.gr a)) s.me) t.me [rG d] ∧ FpKept (put (csrAfter op rw 0 old (s.me.gr a)) s.me) t.me := by
  have hbody : s.csrEffect op d n a = .go (s.upd fun x =>
      (put (csrAfter op rw 0 old (s.me.gr a)) x).gw d (if op == 0 then old else csrAfter op rw 0 old (s.me.gr a))) := by
    rw [csrEffect_of hget hmask, State.csrWritten, htile, if_neg Bool.false_ne_true, hput, State.upd_upd, csrNew_eq]
  generalize csrAfter op rw 0 old (s.me.gr a) = v at *
  obtain ⟨hpc, hsrep, hra⟩ := hplace v s.me
  refine ⟨_, (exec_csr_eq op h d n a s).trans (State.issue_done (q := Req.csr d a) _ hr rfl hbody (Slot.gw_ra _ _ _ (hra.trans hr.sure))), ?_,
    Advanced.of_upd (by simp [hpc]) (by simp [hsrep]), OutsideKept.of_upd _ _, ?_, ?_⟩
  · rw [CsrGives, State.me_upd]
    refine (Slot.gr_of_g_eq_gw (x := put v s.me) (v := if op == 0 then old else v) (by simp)).trans ?_
    simp only [beq_iff_eq]
  · rw [State.me_upd]
    exact (SlotKept.gw _ _ _).advance
  · rw [State.me_upd]
    exact (FpKept.gw _ _ _).advance

/-! ## A register of the tile -/

theorem putCsr_kept (x : Tile) (n : Nat) (v : Word) : (x.putCsr n v).slots = x.slots ∧ (x.putCsr n v).store = x.store := by
  unfold Tile.putCsr
  split
  iterate 4 exact ⟨rfl, rfl⟩
  split <;> exact ⟨rfl, rfl⟩

/-- A tile cycle with one write to make (R447): it makes it, and notes what it has enabled (R411). -/
theorem csrCommit_one {u : State} {t : TileId} {n : Nat} {clr set : Word} (hnext : (u.tile t).csrNext = [(n, clr, set)]) :
    let y := { (u.tile t).putCsr n (((u.tile t).csr n &&& ~~~clr) ||| set) with csrNext := [] }
    (u.csrCommit t).tile t = (if u.tileDenied y then { y with pmstat := y.pmstat ||| 1 } else y) ∧
    (∀ v, v ≠ t → (u.csrCommit t).tile v = u.tile v) ∧ u.csrCommit t = { u with tiles := (u.csrCommit t).tiles } := by
  intro y
  have hcommit : u.csrCommit t = (u.setTile t y).noteDenied t := by
    rw [State.csrCommit, hnext, if_neg (by simp), State.modTile, hnext]
    rfl
  rw [hcommit]
  refine ⟨?_, fun v hv => ?_, rfl⟩
  · rw [State.noteDenied, State.tile_modTile_same, State.tile_setTile_same]
    rfl
  · rw [State.noteDenied, State.tile_modTile_other _ _ _ _ hv, State.tile_setTile_other _ _ _ _ hv]

/-- The module with a tile asked for a write of one of its registers. -/
def State.csrAsked (s : State) (n : Nat) (bits : Word × Word) : State :=
  s.updTile fun t => { t with csrNext := t.csrNext ++ [(n, bits.1, bits.2)] }

theorem csrAsked_me {bits : Word × Word} {m : Nat} : (s.csrAsked m bits).me = s.me := State.me_updTile _ _

/-- R447 on a register of the tile: the instruction asks its tile for the write. -/
theorem exec_tileCsr (hr : Ready s h [rG a] [rG d]) (hget : s.csrGet n.toNat = some old) (hmask : csrMasks n.toNat = (rw, w1c))
    (htile : tileCsr n.toNat = true) : ∃ f : Slot → Slot,
      exec (csrInstr op h d n a) s = .next ((s.csrAsked n.toNat (csrBits op rw w1c (s.me.gr a))).upd f) ∧
      (f s.me).gr d = (if d = 0 then 0 else if op = 0 then old else csrAfter op rw w1c old (s.me.gr a)) ∧
      Advanced s ((s.csrAsked n.toNat (csrBits op rw w1c (s.me.gr a))).upd f) ∧ SlotKept s.me (f s.me) [rG d] ∧ FpKept s.me (f s.me) := by
  have hbody : s.csrEffect op d n a = .go ((s.csrAsked n.toNat (csrBits op rw w1c (s.me.gr a))).upd fun x =>
      x.gw d (if op == 0 then old else csrAfter op rw w1c old (s.me.gr a))) := by
    rw [csrEffect_of hget hmask, State.csrWritten, htile, if_pos rfl]
    rfl
  generalize csrAfter op rw w1c old (s.me.gr a) = v at *
  generalize hb : csrBits op rw w1c (s.me.gr a) = bits at *
  have hme : ((s.csrAsked n.toNat bits).upd fun x => x.gw d (if op == 0 then old else v)).me = s.me.gw d (if op == 0 then old else v) := by
    rw [State.me_upd, csrAsked_me]
  have hexec := exec_go (exec_csr_eq op h d n a s) hr rfl hbody (by rw [hme]; exact Slot.gw_ra _ _ _ hr.sure)
  rw [State.completed, State.upd_upd] at hexec
  refine ⟨_, hexec, ?_, ⟨?_, ?_, rfl⟩, (SlotKept.gw _ _ _).advance, (FpKept.gw _ _ _).advance⟩
  · refine (Slot.gr_of_g_eq_gw (x := s.me) (v := if op == 0 then old else v) (by simp)).trans ?_
    simp only [beq_iff_eq]
  · rw [State.me_upd, csrAsked_me]
    simp [Slot.pcAfter]
  · rw [State.me_upd, csrAsked_me]
    simp [Slot.repsAfter]

end

end Sys2Proof.Machine
end


section
/-! O12: csrr, csrw, csrs and csrc. -/
namespace Sys2Proof.Machine
open Sys2Proof Sys2Proof.Claims

/-! ## Reads (R443) -/

section
variable {s : State} {h : Hdr} {d a : G} {op : Fin 3} {n : BitVec 12} {rw w1c old v : Word}

theorem exec_csrr (hr : Ready s h [] [rG d]) (hget : s.csrGet n.toNat = some v) : SetsG s (.csrr h d n) d v := by
  have hbody : (match s.csrGet n.toNat with
      | none => Eff.trap cProt 0 (n.setWidth 64)
      | some v => .go (s.upd fun x => x.gw d v)) = .go (s.upd fun x => x.gw d v) := by rw [hget]
  exact issue_go_gw (q := { writes := [rG d] }) hr rfl hbody

/-- An unassigned number. -/
theorem exec_csrr_unassigned (hr : Ready s h [] [rG d]) (hget : s.csrGet n.toNat = none) (htr : Trappable s) :
    Traps s (.csrr h d n) 4 0 s.me.pc (n.setWidth 64) := by
  have hbody : (match s.csrGet n.toNat with
      | none => Eff.trap cProt 0 (n.setWidth 64)
      | some v => .go (s.upd fun x => x.gw d v)) = .trap cProt 0 (n.setWidth 64) := by rw [hget]
  exact exec_traps (q := { writes := [rG d] }) rfl hr rfl hbody htr

/-- TRAPCAUSE by its fields (R419). -/
theorem trapcause_eq (x : Slot) : x.trapcause =
    ((BitVec.ofBool x.tm).setWidth 64 <<< 63 ||| x.tinfo.setWidth 64 <<< 8 ||| x.tcode.setWidth 64) := by
  have hi := x.tinfo.isLt
  have hc := x.tcode.isLt
  have hlow : x.tinfo.toNat <<< 8 + x.tcode.toNat = x.tinfo.toNat <<< 8 ||| x.tcode.toNat := (Nat.shiftLeft_add_eq_or_of_lt hc _).symm ▸ rfl
  have hsum : bool01 x.tm * 2 ^ 63 + x.tinfo.toNat * 2 ^ 8 + x.tcode.toNat =
      bool01 x.tm <<< 63 ||| (x.tinfo.toNat <<< 8 ||| x.tcode.toNat) := by
    rw [← hlow, ← Nat.shiftLeft_add_eq_or_of_lt (by rw [Nat.shiftLeft_eq]; omega), Nat.shiftLeft_eq, Nat.shiftLeft_eq, Nat.add_assoc]
  rw [Slot.trapcause, hsum, BitVec.or_assoc]
  refine BitVec.eq_of_toNat_eq ?_
  have hti : x.tinfo.toNat % 18446744073709551616 = x.tinfo.toNat := Nat.mod_eq_of_lt (by omega)
  cases x.tm <;> simp [w64, bool01, hti]

end

theorem controlRegisterReads : ControlRegisterReads := by
  intro s h d hr
  refine ⟨exec_csrr hr rfl, exec_csrr hr rfl, exec_csrr hr rfl, exec_csrr hr rfl, exec_csrr hr rfl, exec_csrr hr rfl, exec_csrr hr rfl,
    exec_csrr hr rfl, exec_csrr hr rfl, exec_csrr hr rfl, exec_csrr hr rfl, exec_csrr hr rfl, exec_csrr hr rfl, exec_csrr hr rfl,
    exec_csrr hr rfl, exec_csrr hr rfl, exec_csrr hr rfl, exec_csrr hr (congrArg some (trapcause_eq s.me)), exec_csrr hr rfl, exec_csrr hr rfl,
    exec_csrr hr rfl, fun i => ?_, exec_csrr_unassigned hr rfl⟩
  match i with
  | 0 => exact exec_csrr hr rfl
  | 1 => exact exec_csrr hr rfl
  | 2 => exact exec_csrr hr rfl
  | 3 => exact exec_csrr hr rfl

/-! ## Writes of a slot's registers (R447) -/

section
variable {s : State} {h : Hdr} {d a : G} {op : Fin 3} {n : BitVec 12} {rw w1c : Word}

theorem slotCsr_of {put : Word → Slot → Slot} {field : Slot → Word} {kept : Slot → Slot → Prop} (hr : Ready s h [rG a] [rG d])
    (hget : s.csrGet n.toNat = some (field s.me)) (hmask : csrMasks n.toNat = (rw, 0)) (htile : tileCsr n.toNat = false)
    (hput : ∀ v, s.csrPut n.toNat v = s.upd (put v)) (hplace : ∀ v x, (put v x).pc = x.pc ∧ (put v x).srep = x.srep ∧ (put v x).ra = x.ra)
    (hkept : ∀ y, SlotKept (put (csrAfter op rw 0 (field s.me) (s.me.gr a)) s.me) y [rG d] →
      FpKept (put (csrAfter op rw 0 (field s.me) (s.me.gr a)) s.me) y →
      field y = csrAfter op rw 0 (field s.me) (s.me.gr a) ∧ kept s.me y) : SlotCsr s op h d a n rw field kept := by
  obtain ⟨t, hx, hg, ha, ho, hk, hfp⟩ := exec_slotCsr (op := op) hr hget hmask htile hput hplace
  obtain ⟨hfield, hkept⟩ := hkept t.me hk hfp
  exact ⟨t, hx, hfield, by rw [hfield]; exact hg, ha, ho, hkept⟩

/-- CHECKED by its bits (R89). -/
theorem checkedOf_eq (x : Slot) : w64 (bool01 x.chkPower * 2 + bool01 x.chkHazard) = checkedOf x := by
  rw [checkedOf]
  cases x.chkPower <;> cases x.chkHazard <;> rfl

theorem checkedOf_and (x : Slot) : checkedOf x &&& 3 = checkedOf x := by
  rw [checkedOf]
  cases x.chkPower <;> cases x.chkHazard <;> rfl

theorem checked_bits {v : Word} (hv : v &&& 3 = v) :
    ((BitVec.ofBool (v.getLsbD 1)).setWidth 64 <<< 1 ||| (BitVec.ofBool (v.getLsbD 0)).setWidth 64 : Word) = v := by
  have hlt : v.toNat < 4 := by
    rw [← hv, BitVec.toNat_and]
    exact Nat.lt_of_le_of_lt Nat.and_le_right (by decide)
  obtain ⟨m, hm, rfl⟩ : ∃ m < 4, v = BitVec.ofNat 64 m := ⟨v.toNat, hlt, by simp⟩
  interval_cases m <;> rfl

/-- TRAPSAVE as a numbered register. -/
theorem save_csr (s : State) (i : Fin 4) : s.csrGet (BitVec.ofNat 12 (0x104 + i.val)).toNat = some s.me.save[i] ∧
    csrMasks (BitVec.ofNat 12 (0x104 + i.val)).toNat = (BitVec.allOnes 64, 0) ∧ tileCsr (BitVec.ofNat 12 (0x104 + i.val)).toNat = false ∧
    ∀ v, s.csrPut (BitVec.ofNat 12 (0x104 + i.val)).toNat v = s.upd fun x => { x with save := x.save.set i v } := by
  match i with
  | 0 => exact ⟨rfl, rfl, rfl, fun _ => rfl⟩
  | 1 => exact ⟨rfl, rfl, rfl, fun _ => rfl⟩
  | 2 => exact ⟨rfl, rfl, rfl, fun _ => rfl⟩
  | 3 => exact ⟨rfl, rfl, rfl, fun _ => rfl⟩

theorem slotRegisterWrites : SlotRegisterWrites := by
  intro s h d a op hr
  refine ⟨?_, ?_, ?_, ?_, fun i => ?_⟩
  · exact slotCsr_of (put := fun v x => { x with fcsr := v }) hr rfl rfl rfl (fun _ => rfl) (fun _ _ => ⟨rfl, rfl, rfl⟩)
      fun y hk hfp => ⟨hfp.fcsr, ⟨hk.g, hk.f, hk.v, hk.p, hk.k, hk.counters, hk.checked, hk.trap, hk.streams, hk.active⟩, hfp.turns⟩
  · exact slotCsr_of (put := fun v x => { x with normturns := v }) hr rfl rfl rfl (fun _ => rfl) (fun _ _ => ⟨rfl, rfl, rfl⟩)
      fun y hk hfp => ⟨hfp.turns.1, ⟨hk.g, hk.f, hk.v, hk.p, hk.k, hk.counters, hk.checked, hk.trap, hk.streams, hk.active⟩, hfp.fcsr, hfp.turns.2⟩
  · refine slotCsr_of (put := fun v x => { x with chkPower := v.getLsbD 1, chkHazard := v.getLsbD 0 }) hr (congrArg some (checkedOf_eq s.me)) rfl rfl
      (fun _ => rfl) (fun _ _ => ⟨rfl, rfl, rfl⟩) fun y hk hfp => ?_
    obtain ⟨hpower, hhazard⟩ := hk.checked
    refine ⟨?_, by rw [hpower, hhazard]; exact hk, ⟨hfp.fcsr, hfp.turns⟩⟩
    rw [checkedOf, hpower, hhazard]
    exact checked_bits (csrAfter_and op _ rfl (checkedOf_and s.me))
  · refine slotCsr_of (put := fun v x => { x with trappc := v }) hr rfl rfl rfl (fun _ => rfl) (fun _ _ => ⟨rfl, rfl, rfl⟩) fun y hk hfp => ?_
    obtain ⟨-, -, -, hpc, -, -⟩ := hk.trap
    exact ⟨hpc, by rw [hpc]; exact hk, ⟨hfp.fcsr, hfp.turns⟩⟩
  · obtain ⟨hget, hmask, htile, hput⟩ := save_csr s i
    refine slotCsr_of (put := fun v x => { x with save := x.save.set i v }) hr hget hmask htile hput (fun _ _ => ⟨rfl, rfl, rfl⟩) fun y hk hfp => ?_
    obtain ⟨-, -, -, -, -, hsave⟩ := hk.trap
    have hi : y.save[i] = csrAfter op (BitVec.allOnes 64) 0 s.me.save[i] (s.me.gr a) := by rw [hsave]; simp
    exact ⟨hi, by rw [hi]; exact hk, ⟨hfp.fcsr, hfp.turns⟩⟩

/-! ## Writes of a tile's registers (R447) -/

/-- What asking for a tile's write changes. -/
theorem csrAsked_upd (s : State) (m : Nat) (bits : Word × Word) (f : Slot → Slot) :
    let t := (s.csrAsked m bits).upd f
    t.myTile = { s.myTile with slots := t.myTile.slots, csrNext := s.myTile.csrNext ++ [(m, bits.1, bits.2)] } ∧
    (∀ k, k ≠ s.cur.2 → t.slot s.cur.1 k = s.slot s.cur.1 k) ∧ (∀ u, u ≠ s.cur.1 → t.tile u = s.tile u) ∧ t = { s with tiles := t.tiles } := by
  have hasked : (s.csrAsked m bits).tile s.cur.1 = { s.myTile with csrNext := s.myTile.csrNext ++ [(m, bits.1, bits.2)] } :=
    State.tile_modTile_same _ _ _
  refine ⟨?_, fun k hk => ?_, fun u hu => ?_, rfl⟩
  · rw [State.myTile_upd, State.csrAsked, State.myTile_updTile]
    rfl
  · refine (State.slot_modSlot_other _ _ _ _ _ hk).trans ?_
    show ((s.csrAsked m bits).tile s.cur.1).slot k = _
    rw [hasked]
    rfl
  · exact (State.tile_modSlot_other _ _ _ _ _ hu).trans (State.tile_modTile_other _ _ _ _ hu)

theorem tileCsr_of {field : Tile → Word} {more : Tile → Prop} {old : Word} (hr : Ready s h [rG a] [rG d]) (hget : s.csrGet n.toNat = some old)
    (hmask : csrMasks n.toNat = (rw, w1c)) (htile : tileCsr n.toNat = true) (hcsr : ∀ x, x.csr n.toNat = field x)
    (hkeep : ∀ x slots next, field { x with slots, csrNext := next } = field x)
    (hput : ∀ x pm, x = { s.myTile with slots := x.slots, csrNext := x.csrNext } →
      let y := x.putCsr n.toNat (csrAfter op rw w1c (field x) (s.me.gr a))
      (s.tileDenied y = false → pm = y.pmstat) →
      field { y with csrNext := [], pmstat := pm } = csrAfter op rw w1c (field x) (s.me.gr a) ∧ more { y with csrNext := [], pmstat := pm }) :
    TileCsr s op h d a n rw w1c field more := by
  obtain ⟨f, hx, hg, ha, hk, hfp⟩ := exec_tileCsr (op := op) hr hget hmask htile
  have hme : ((s.csrAsked n.toNat (csrBits op rw w1c (s.me.gr a))).upd f).me = f s.me := by rw [State.me_upd, csrAsked_me]
  obtain ⟨hmine, hslots, hothers, hrest⟩ := csrAsked_upd s n.toNat (csrBits op rw w1c (s.me.gr a)) f
  have hdenied (y : Tile) : ((s.csrAsked n.toNat (csrBits op rw w1c (s.me.gr a))).upd f).tileDenied y = s.tileDenied y := rfl
  generalize (s.csrAsked n.toNat (csrBits op rw w1c (s.me.gr a))).upd f = t at *
  have htileOf : t.tile s.cur.1 = t.myTile := by rw [State.myTile, hrest]
  refine ⟨old, t, hget, hx, by rw [CsrGives, hme]; exact hg, ha, hme ▸ hk, hme ▸ hfp, hslots, by rw [hmine], hothers, hrest, fun hnext => ?_⟩
  rw [hnext, List.nil_append] at hmine
  have hfield : field t.myTile = field s.myTile := by rw [hmine]; exact hkeep _ _ _
  have hasked : (t.tile s.cur.1).csrNext = [(n.toNat, (csrBits op rw w1c (s.me.gr a)).1, (csrBits op rw w1c (s.me.gr a)).2)] := by
    rw [htileOf, hmine]
  obtain ⟨htile', hothers', hrest'⟩ := csrCommit_one hasked
  have hvalue : (t.myTile.csr n.toNat &&& ~~~(csrBits op rw w1c (s.me.gr a)).1) ||| (csrBits op rw w1c (s.me.gr a)).2 =
      csrAfter op rw w1c (field t.myTile) (s.me.gr a) := by rw [hcsr]; exact csrNew_eq op rw w1c _ _
  rw [htileOf, hvalue, hdenied] at htile'
  obtain ⟨hpslots, hpstore⟩ := putCsr_kept t.myTile n.toNat (csrAfter op rw w1c (field t.myTile) (s.me.gr a))
  have hform : t.myTile = { s.myTile with slots := t.myTile.slots, csrNext := t.myTile.csrNext } := by rw [hmine]
  have hlast : ∃ pm, (t.csrCommit s.cur.1).tile s.cur.1 =
        { t.myTile.putCsr n.toNat (csrAfter op rw w1c (field t.myTile) (s.me.gr a)) with csrNext := [], pmstat := pm } ∧
      (s.tileDenied (t.myTile.putCsr n.toNat (csrAfter op rw w1c (field t.myTile) (s.me.gr a))) = false →
        pm = (t.myTile.putCsr n.toNat (csrAfter op rw w1c (field t.myTile) (s.me.gr a))).pmstat) := by
    rw [htile']
    generalize t.myTile.putCsr n.toNat (csrAfter op rw w1c (field t.myTile) (s.me.gr a)) = y
    have hnoted : s.tileDenied { y with csrNext := [] } = s.tileDenied y := rfl
    rw [hnoted]
    cases s.tileDenied y with
    | false => exact ⟨_, rfl, fun _ => rfl⟩
    | true => exact ⟨_, rfl, nofun⟩
  obtain ⟨pm, hpm, hquiet⟩ := hlast
  obtain ⟨hval, hmore⟩ := hput t.myTile pm hform hquiet
  intro u
  have hu : u.tile s.cur.1 = _ := hpm
  rw [hu]
  refine ⟨hval.trans (by rw [hfield]), hmore, hpslots, hpstore.trans (by rw [hmine]), rfl, fun v hv => (hothers' v hv).trans (hothers v hv), hrest'.trans ?_⟩
  generalize (t.csrCommit s.cur.1).tiles = tiles
  rw [hrest]

/-- PWRST's bit by its value (R93). -/
theorem pwr_bit {v : Word} (hv : v &&& 1 = v) : (BitVec.ofBool (v.getLsbD 0)).setWidth 64 = v := by
  have hlt : v.toNat < 2 := by
    rw [← hv, BitVec.toNat_and]
    exact Nat.lt_of_le_of_lt Nat.and_le_right (by decide)
  obtain ⟨m, hm, rfl⟩ : ∃ m < 2, v = BitVec.ofNat 64 m := ⟨v.toNat, hlt, by simp⟩
  interval_cases m <;> rfl

/-- PMSELn as a numbered register. -/
theorem pmsel_csr (i : Fin 8) : (∀ s : State, s.csrGet (BitVec.ofNat 12 (0x070 + 2 * i.val)).toNat = some s.myTile.pmsel[i]) ∧
    csrMasks (BitVec.ofNat 12 (0x070 + 2 * i.val)).toNat = (0x1FFFF, 0) ∧ tileCsr (BitVec.ofNat 12 (0x070 + 2 * i.val)).toNat = true ∧
    (∀ x : Tile, x.csr (BitVec.ofNat 12 (0x070 + 2 * i.val)).toNat = x.pmsel[i]) ∧
    ∀ (x : Tile) (v : Word), x.putCsr (BitVec.ofNat 12 (0x070 + 2 * i.val)).toNat v = { x with pmsel := x.pmsel.set i v } := by
  fin_cases i <;> exact ⟨fun _ => rfl, rfl, rfl, fun _ => rfl, fun _ _ => rfl⟩

/-- The CFG of a monitor as a numbered register. -/
theorem monitor_csr (m : Fin 4) : (∀ s : State, ∃ old, s.csrGet (BitVec.ofNat 12 (0x080 + 32 * m.val)).toNat = some old) ∧
    csrMasks (BitVec.ofNat 12 (0x080 + 32 * m.val)).toNat = (0xFFFFFFFF1F0103FF, 0x20000) ∧
    tileCsr (BitVec.ofNat 12 (0x080 + 32 * m.val)).toNat = true ∧
    (∀ x : Tile, x.csr (BitVec.ofNat 12 (0x080 + 32 * m.val)).toNat = x.monitors[m].cfg) ∧
    ∀ (x : Tile) (v : Word), x.putCsr (BitVec.ofNat 12 (0x080 + 32 * m.val)).toNat v =
      { x with monitors := x.monitors.set m { Monitor.reset with cfg := v } } := by
  fin_cases m <;> exact ⟨fun _ => ⟨_, rfl⟩, rfl, rfl, fun _ => rfl, fun _ _ => rfl⟩

theorem tileRegisterWrites : TileRegisterWrites := by
  intro s h d a op hr
  refine ⟨?_, ?_, fun hquiet => ?_, ?_, fun i => ?_, fun m => ?_⟩
  · exact tileCsr_of hr rfl rfl rfl (fun _ => rfl) (fun _ _ _ => rfl) fun x pm _ _ => ⟨rfl, trivial⟩
  · exact tileCsr_of hr rfl rfl rfl (fun _ => rfl) (fun _ _ _ => rfl) fun x pm _ _ => ⟨rfl, trivial⟩
  · refine tileCsr_of hr rfl rfl rfl (fun _ => rfl) (fun _ _ _ => rfl) fun x pm hx hpm => ⟨hpm ?_, trivial⟩
    rw [hx]
    exact hquiet
  · refine tileCsr_of hr rfl rfl rfl (fun x => ?_) (fun _ _ _ => rfl) fun x pm _ _ => ⟨?_, trivial⟩
    · show w64 (bool01 x.pwrPower) = _
      cases x.pwrPower <;> rfl
    · exact pwr_bit (csrAfter_and op _ rfl (by cases x.pwrPower <;> rfl))
  · obtain ⟨hget, hmask, htile, hcsr, hput⟩ := pmsel_csr i
    refine tileCsr_of hr (hget s) hmask htile hcsr (fun _ _ _ => rfl) fun x pm _ _ => ⟨?_, trivial⟩
    simp only [hput]
    simp
  · obtain ⟨hget, hmask, htile, hcsr, hput⟩ := monitor_csr m
    obtain ⟨old, hold⟩ := hget s
    refine tileCsr_of hr hold hmask htile hcsr (fun _ _ _ => rfl) fun x pm _ _ => ?_
    simp only [hput]
    simp [Monitor.reset]

/-! ## Registers that only the machine writes (R443, R447) -/

/-- The numbers of registers that only the machine writes have no fields to write. -/
theorem readOnly_masks {n : BitVec 12} (hn : ReadOnlyCsr n) : csrMasks n.toNat = (0, 0) ∧ tileCsr n.toNat = false := by
  have hlisted : ∀ m ∈ [0x008, 0x009, 0x00A, 0x010, 0x011, 0x012, 0x013, 0x014, 0x015, 0x016, 0x018, 0x019, 0x01B, 0x022, 0x023, 0x030, 0x100, 0x102],
      csrMasks m = (0, 0) ∧ tileCsr m = false := by decide
  have hwatches : ∀ i < 32, csrMasks (0x040 + i) = (0, 0) ∧ tileCsr (0x040 + i) = false := by decide
  have hcounters : ∀ i < 8, csrMasks (0x071 + 2 * i) = (0, 0) ∧ tileCsr (0x071 + 2 * i) = false := by decide
  have hmonitors : ∀ i < 4, ∀ r < 18, csrMasks (0x081 + 32 * i + r) = (0, 0) ∧ tileCsr (0x081 + 32 * i + r) = false := by decide
  rcases hn with hlist | hrange | hodd | hmon
  · exact hlisted _ hlist
  · obtain ⟨i, hi⟩ := Nat.exists_eq_add_of_le hrange.1
    rw [hi]
    exact hwatches i (by omega)
  · obtain ⟨i, hi⟩ : ∃ i, n.toNat = 0x071 + 2 * i := ⟨(n.toNat - 0x071) / 2, by omega⟩
    rw [hi]
    exact hcounters i (by omega)
  · obtain ⟨i, r, hr, hi⟩ : ∃ i r, r < 18 ∧ n.toNat = 0x081 + 32 * i + r := ⟨(n.toNat - 0x080) / 32, n.toNat % 32 - 1, by omega, by omega⟩
    rw [hi]
    exact hmonitors i (by omega) r hr

/-- A number without fields to write names no register that a write changes. -/
theorem csrPut_fixed {m : Nat} (hmask : csrMasks m = (0, 0)) (htile : tileCsr m = false) (s : State) (v : Word) : s.csrPut m v = s := by
  unfold State.csrPut
  split
  iterate 4 exact absurd hmask (by decide)
  case h_5 h1 h2 h3 h4 =>
    rw [htile, if_neg Bool.false_ne_true]
    split
    case isFalse => rfl
    case isTrue hsave =>
      obtain ⟨k, rfl⟩ : ∃ k, m = 0x104 + k := Nat.exists_eq_add_of_le hsave.1
      have hk : k < 4 := by omega
      interval_cases k <;> exact absurd hmask (by decide)

theorem readOnlyRegistersStay : ReadOnlyRegistersStay := by
  intro s h d a op n x hr hn hget
  obtain ⟨hmask, htile⟩ := readOnly_masks hn
  have hbody : s.csrEffect op d n a = .go (s.upd fun y => y.gw d x) := by
    rw [csrEffect_of hget hmask, State.csrWritten, htile, if_neg Bool.false_ne_true, csrPut_fixed hmask htile, csrAfter_zero, ite_self]
  obtain ⟨t, hx, hg, ha, hk⟩ := issue_go_gw (q := Req.csr d a) (body := (·.csrEffect op d n a)) hr rfl hbody
  exact ⟨t, (exec_csr_eq op h d n a s).trans hx, hg, ha, hk⟩

end

/-- Settles O12: a read by `issue_go_gw`; a write by what its bits make of a slot's record at once, or of the tile's with its next cycle. -/
theorem controlRegistersReadAndWrite : Obligations.ControlRegistersReadAndWrite :=
  ⟨controlRegisterReads, slotRegisterWrites, tileRegisterWrites, readOnlyRegistersStay⟩

end Sys2Proof.Machine
end


section
/-! O56 fails where the package is in Development and no session stands: a debugger's write to a tile that is not halted leaves its registers,
but the access has begun an invasive session all the same, which the statement denies. -/
namespace Sys2Proof.Machine
open Sys2Proof Sys2Proof.Claims

@[simp] theorem State.tile_openSession (s : State) (tag : Nat) (t : TileId) : (s.openSession tag).tile t = s.tile t := by
  unfold State.openSession
  split <;> rfl

theorem State.invasive_openSession (s : State) (tag : Nat) : (s.openSession tag).invasive tag = true := by
  unfold State.openSession
  split
  case isTrue h => exact h
  case isFalse => simp [State.invasive]

/-- A write of a g register to a tile that is not halted does nothing but begin the session. -/
theorem exec_invasiveDebugAccess_writeG_unhalted {s : State} {tag : Tag} {t : TileId} (k : SlotId) (n : G) (v : Word)
    (hon : s.power ≠ .off) (hmay : s.mayDebug 2 tag.toNat t = true) (hrun : (s.tile t).dbgHalt = false) :
    exec (.invasiveDebugAccess tag (.writeG t k n v)) s = .next (s.openSession tag.toNat) := by
  show execInvasiveDebugAccess tag (.writeG t k n v) s = _
  rw [execInvasiveDebugAccess, State.happen_on hon]
  simp [hmay, hrun]

/-- So where no session stands it changes the state. -/
theorem exec_invasiveDebugAccess_writeG_unhalted_ne {s : State} {tag : Tag} {t : TileId} (k : SlotId) (n : G) (v : Word)
    (hon : s.power ≠ .off) (hmay : s.mayDebug 2 tag.toNat t = true) (hrun : (s.tile t).dbgHalt = false)
    (hnone : s.invasive tag.toNat = false) : exec (.invasiveDebugAccess tag (.writeG t k n v)) s ≠ .next s := by
  rw [exec_invasiveDebugAccess_writeG_unhalted k n v hon hmay hrun]
  intro h
  injection h with h
  have hsession := s.invasive_openSession tag.toNat
  rw [h, hnone] at hsession
  exact absurd hsession (by decide)

/-- A module in Development without a session; its tile 0 is partition 1's and runs. -/
def sessionless : State := { State.reset with security := 2 }.modTile 0 fun x => { x with tag := 1 }

/-- Refutes O56: in `sessionless` a debugger of partition 1 writes g1 of a slot of tile 0, which is not halted; the statement has the state
unchanged, and the model begins a session of level 2. -/
theorem not_powerBootAndDebugAct : ¬ Obligations.PowerBootAndDebugAct := by
  unfold Obligations.PowerBootAndDebugAct
  intro h
  have hon : sessionless.power ≠ .off := by decide
  obtain ⟨-, -, -, -, -, hdebug⟩ := h sessionless 1 hon
  obtain ⟨-, -, -, hinvasive, -⟩ := hdebug 0 0 1 0 (.writeG 0 0 1 0)
  obtain ⟨-, -, -, -, hunhalted⟩ := hinvasive (by decide) rfl rfl
  exact exec_invasiveDebugAccess_writeG_unhalted_ne 0 1 0 hon rfl rfl rfl (hunhalted rfl)

end Sys2Proof.Machine
end
